-- ==== Sys2Proof/Word.lean ====
section
/-! DEFINITION. The word types of the Plisal (R1, R2, R9, R37): bytes, 32-bit register words, 64-bit pairs and
addresses, and the 1024 data bits of a block line. -/
namespace Sys2Proof

/-- One byte of memory, of a block line or of the scratchpad (R2). -/
abbrev Byte := BitVec 8
/-- A 32-bit element of a vector register row, or a uniform register (R42, R110). -/
abbrev Word := BitVec 32
/-- A 64-bit pair, address or device register (R64, R467). -/
abbrev DWord := BitVec 64
/-- The 128 data bytes of a block line, byte 0 in bits 7..0 (R2, R37). -/
abbrev LineBits := BitVec 1024

end Sys2Proof
end

