-- ==== Sys2Proof/Machine/Table.lean ====
section
/-! DEFINITION. Sparse storage as plain data: a table is a list of key and value pairs, keys strictly rising. `put` lists
its entry whatever the value; `set` keeps the canonical form of a memory, in which no listed entry equals what an unlisted
key reads as. Every array of the machine (memory, register rows, records by number) is one of these. -/
namespace Sys2Proof

/-- Values by key, keys strictly rising. -/
abbrev Table (α : Type) := List (Nat × α)

namespace Table
variable {α : Type}

/-- The value at key k, if one is listed. -/
def find (t : Table α) (k : Nat) : Option α := match t with
  | [] => none
  | (a, v) :: r => if a = k then some v else find r k

/-- The value at key k; the type's default where none is listed. -/
def get [Inhabited α] (t : Table α) (k : Nat) : α := match t with
  | [] => default
  | (a, v) :: r => if a = k then v else get r k

/-- The table without key k. -/
def erase (t : Table α) (k : Nat) : Table α := match t with
  | [] => []
  | (a, v) :: r => if a = k then erase r k else (a, v) :: erase r k

/-- An entry at its place among rising keys. -/
def insert (t : Table α) (k : Nat) (x : α) : Table α := match t with
  | [] => [(k, x)]
  | (a, v) :: r => if k < a then (k, x) :: (a, v) :: r else (a, v) :: insert r k x

/-- List x at key k in place of what was there. -/
def put (t : Table α) (k : Nat) (x : α) : Table α := insert (erase t k) k x

/-- Change the value at key k. -/
def modify [Inhabited α] (t : Table α) (k : Nat) (f : α → α) : Table α := put t k (f (get t k))

/-- Store x at key k, listing nothing where x is what an unlisted key reads as. -/
def set [Inhabited α] [DecidableEq α] (t : Table α) (k : Nat) (x : α) : Table α :=
  if x = default then erase t k else insert (erase t k) k x

/-- Every value changed by its key and itself. -/
def map (t : Table α) (f : Nat → α → α) : Table α := List.map (fun e => (e.1, f e.1 e.2)) t

/-- The keys listed, in order. -/
def keys (t : Table α) : List Nat := List.map Prod.fst t

/-- Keys strictly rise from `lo` on. -/
def sortedFrom (lo : Nat) (t : Table α) : Bool := match t with
  | [] => true
  | (a, _) :: r => decide (lo ≤ a) && sortedFrom (a + 1) r

end Table

/-- Bytes by address. -/
abbrev Memory := Table Byte

/-- The canonical form of a memory: addresses strictly rising, and no entry equal to the 0 an unlisted address reads as. -/
def Memory.wf (m : Memory) : Bool := Table.sortedFrom 0 m && List.all m (fun c => decide (c.2 ≠ 0))

/-- The byte at an address. [DEDUCED, log 7] -/
def Memory.byte (m : Memory) (a : Nat) : Byte := Table.get m a

/-- `n` bytes from an address, as a little-endian number (R2). -/
def Memory.read (m : Memory) (a n : Nat) : Nat := match n with
  | 0 => 0
  | k + 1 => (m.byte a).toNat + 256 * Memory.read m (a + 1) k

/-- The low `n` bytes of `v` stored from an address on, little-endian (R2). -/
def Memory.write (m : Memory) (a n v : Nat) : Memory := match n with
  | 0 => m
  | k + 1 => Memory.write (Table.set m a (BitVec.ofNat 8 v)) (a + 1) k (v / 256)

/-- The bytes from an address on, as a list. -/
def Memory.bytes (m : Memory) (a n : Nat) : List Byte := match n with
  | 0 => []
  | k + 1 => m.byte a :: Memory.bytes m (a + 1) k

/-- A list of bytes stored from an address on. -/
def Memory.writeBytes (m : Memory) (a : Nat) (bs : List Byte) : Memory := match bs with
  | [] => m
  | b :: r => Memory.writeBytes (Table.set m a b) (a + 1) r

end Sys2Proof
end

