-- ==== Sys2Proof/Syntax.lean ====
section
/-! DEFINITION. The instructions of the Plisal and the steps of its other agents: one constructor of `Instr` for each
row of spec/opcode_table.json. The first part is what an instruction word can say (03_encoding.md); the second is the
steps that no word encodes (95_what_each_step_holds.md): what the host, the fabric, the power input and the device's own
engines, distributors and processors do, each with what that step is about as its operands. -/
namespace Sys2Proof

/-- A vector register field n, 0 to 127 (R64). -/
abbrev VReg := BitVec 7
/-- A uniform register number, 0 to 63 (R64, R110). -/
abbrev SReg := BitVec 6
/-- A tile register number, 0 to 15 (R64, R264). -/
abbrev MReg := BitVec 4

/-- BELL and STALL of a group: those of its last word (R59, R60). -/
structure Ctl where
  bell  : Bool
  stall : BitVec 3
  deriving DecidableEq, Repr

/-- NA and NB of the operand-modifier word: whose register is read (R66). -/
inductive Neigh where
  | own | left | right
  deriving DecidableEq, Repr

/-- EA and EB: the value taken at an edge of the bundle (R66, R114). -/
inductive Edge where
  | zero | clamp | wrap
  deriving DecidableEq, Repr

/-- A rounding mode: RND of R66, MODE of R75, R287 and R303. -/
inductive Rnd where
  | rne | rtz | rdn | rup | sr
  deriving DecidableEq, Repr

/-- The operand-modifier word, major 0x7E (R66). -/
structure Pfx where
  na   : Neigh
  ea   : Edge
  nb   : Neigh
  eb   : Edge
  nega : Bool
  negb : Bool
  negd : Bool
  absa : Bool
  absb : Bool
  absd : Bool
  rnd  : Rnd
  sat  : Bool
  deriving DecidableEq, Repr

/-- WIDTH of a memory access (R76). -/
inductive Width where
  | z8 | s8 | z16 | s16 | z32 | z64
  deriving DecidableEq, Repr

/-- ORDSC: plain, or ordered at a scope (R76, R212). -/
inductive OrdSc where
  | plain | core | cluster | die | pkg | fabric
  deriving DecidableEq, Repr

/-- A scope, codes 1 to 5 (R76, R212). -/
inductive Scope where
  | core | cluster | die | pkg | fabric
  deriving DecidableEq, Repr

/-- COND of BRC and BRU (R73). -/
inductive Cond where
  | z | nz | lt | gt | le | ge | un | neg
  deriving DecidableEq, Repr

/-- The reduction of REDV, FN 0x10 to 0x1A in order (R72, R142). -/
inductive RedOp where
  | add | minS32 | minZ32 | maxS32 | maxZ32 | and | or | xor | fadd | fmin | fmax
  deriving DecidableEq, Repr

/-- A Kettle operation, codes 0x0 to 0xF in order (R77, R250). -/
inductive KOp where
  | add | sub | minS32 | minZ32 | maxS32 | maxZ32 | and | or | xor | swap | cas | incw | decw | fadd | fmax | addZ64
  deriving DecidableEq, Repr

/-- The narrow format of FCVT (R74). -/
inductive CvtFmt where
  | e4m3 | e5m2 | e3m2 | e2m3 | e2m1 | mxi8 | bf16 | f16 | s32 | z32
  deriving DecidableEq, Repr

/-- The formats of MX blocks, tag codes 0x1 to 0x6 (R38, R75). -/
inductive MxFmt where
  | e4m3 | e5m2 | e3m2 | e2m3 | e2m1 | mxi8
  deriving DecidableEq, Repr

/-- SEL: the choice of a block scale (R54, R75). -/
inductive Sel where
  | floor | fit
  deriving DecidableEq, Repr

/-- The level PREF names (R76, R210). -/
inductive CacheLevel where
  | l1 | l2 | msc
  deriving DecidableEq, Repr

/-- A block line as engines and the fabric carry it: data, TAG and the eight scale slots (R37). -/
structure Line where
  data   : LineBits
  tag    : BitVec 4
  scales : BitVec 64
  deriving DecidableEq, Repr, Inhabited

/-- A fabric request packet (R410, R411): the header beats and what follows them. `side` is the sideband beat of WRL,
`mask` and `check` the mask and check beats of WRM, `opnd` and `cmp` the operand beat of ATM and RED. -/
structure Request where
  va      : DWord
  fasn    : BitVec 16
  dpeer   : BitVec 10
  speer   : BitVec 10
  shd     : BitVec 3
  stream  : BitVec 4
  ofl     : Bool
  path    : BitVec 2
  opc     : BitVec 5
  pass    : DWord
  sseq    : BitVec 16
  kop     : BitVec 4
  w64     : Bool
  restart : Bool
  data    : LineBits
  side    : BitVec 128
  mask    : BitVec 128
  check   : BitVec 16
  opnd    : DWord
  cmp     : DWord
  deriving DecidableEq, Repr, Inhabited

/-- A fabric response packet (R412): the beat R0, and the data and sideband beats of DATA or the value beat of ATMR. -/
structure Response where
  va     : DWord
  rpeer  : BitVec 10
  dpeer  : BitVec 10
  shd    : BitVec 3
  stream : BitVec 4
  sseq   : BitVec 16
  opc    : BitVec 5
  code   : BitVec 8
  pcnt   : BitVec 16
  data   : LineBits
  side   : BitVec 128
  val    : DWord
  deriving DecidableEq, Repr, Inhabited

/-- What the engine of a rank on another package sends in the exchange of R315: what is matched, the capacity and box of
a REPART, the rank's input lines (COLL) or records (REPART), the lowest cause it stopped with (0 for none), and the code with which
its package refuses the group's writes into its window (0 for none; R413). -/
structure RankIn where
  rank   : Nat
  op     : BitVec 3
  fmt    : BitVec 6
  nl     : BitVec 32
  nrank  : BitVec 11
  table  : List (BitVec 16)
  rcap   : BitVec 32
  cmd    : LineBits
  cause  : BitVec 8
  refuse : BitVec 8
  lines  : List Line
  recs   : List (List (BitVec 8))
  deriving DecidableEq, Repr, Inhabited

/-- One instruction of the Plisal, or one step of another of its agents: one constructor per row of the opcode table. -/
inductive Instr where
  -- three-register integer instructions (R120 to R123)
  | add (c : Ctl) (p : Option Pfx) (d a b : VReg)
  | sub (c : Ctl) (p : Option Pfx) (d a b : VReg)
  | mul (c : Ctl) (p : Option Pfx) (d a b : VReg)
  | mulhS32 (c : Ctl) (p : Option Pfx) (d a b : VReg)
  | mulhZ32 (c : Ctl) (p : Option Pfx) (d a b : VReg)
  | mad (c : Ctl) (p : Option Pfx) (d a b : VReg)
  | andn (c : Ctl) (p : Option Pfx) (d a b : VReg)
  | and (c : Ctl) (p : Option Pfx) (d a b : VReg)
  | or (c : Ctl) (p : Option Pfx) (d a b : VReg)
  | xor (c : Ctl) (p : Option Pfx) (d a b : VReg)
  | shl (c : Ctl) (p : Option Pfx) (d a b : VReg)
  | shr (c : Ctl) (p : Option Pfx) (d a b : VReg)
  | sar (c : Ctl) (p : Option Pfx) (d a b : VReg)
  | rotl (c : Ctl) (p : Option Pfx) (d a b : VReg)
  | sel (c : Ctl) (p : Option Pfx) (d a b : VReg)
  | minS32 (c : Ctl) (p : Option Pfx) (d a b : VReg)
  | minZ32 (c : Ctl) (p : Option Pfx) (d a b : VReg)
  | maxS32 (c : Ctl) (p : Option Pfx) (d a b : VReg)
  | maxZ32 (c : Ctl) (p : Option Pfx) (d a b : VReg)
  | cmpS32 (c : Ctl) (p : Option Pfx) (d a b : VReg)
  | cmpZ32 (c : Ctl) (p : Option Pfx) (d a b : VReg)
  | bfxS32 (c : Ctl) (p : Option Pfx) (d a b : VReg)
  | bfxZ32 (c : Ctl) (p : Option Pfx) (d a b : VReg)
  | bfi (c : Ctl) (p : Option Pfx) (d a b : VReg)
  | lea (c : Ctl) (d a b : VReg)
  -- unary forms (R126)
  | mov (c : Ctl) (d a : VReg)
  | not (c : Ctl) (d a : VReg)
  | neg (c : Ctl) (d a : VReg)
  | abs (c : Ctl) (d a : VReg)
  | clz (c : Ctl) (d a : VReg)
  | ctz (c : Ctl) (d a : VReg)
  | popc (c : Ctl) (d a : VReg)
  | brev (c : Ctl) (d a : VReg)
  | movZ64 (c : Ctl) (d a : VReg)
  | notZ64 (c : Ctl) (d a : VReg)
  | negS64 (c : Ctl) (d a : VReg)
  | absS64 (c : Ctl) (d a : VReg)
  -- 64-bit forms (R127)
  | addS64 (c : Ctl) (d a b : VReg)
  | subS64 (c : Ctl) (d a b : VReg)
  | mulS64 (c : Ctl) (d a b : VReg)
  | shlZ64 (c : Ctl) (d a b : VReg)
  | shrZ64 (c : Ctl) (d a b : VReg)
  | sarS64 (c : Ctl) (d a b : VReg)
  | minS64 (c : Ctl) (d a b : VReg)
  | minZ64 (c : Ctl) (d a b : VReg)
  | maxS64 (c : Ctl) (d a b : VReg)
  | maxZ64 (c : Ctl) (d a b : VReg)
  | cmpS64 (c : Ctl) (d a b : VReg)
  | cmpZ64 (c : Ctl) (d a b : VReg)
  | andZ64 (c : Ctl) (d a b : VReg)
  | orZ64 (c : Ctl) (d a b : VReg)
  | xorZ64 (c : Ctl) (d a b : VReg)
  -- immediate and constant forms (R124, R125)
  | addi (c : Ctl) (d a : VReg) (imm : BitVec 7)
  | addiLong (c : Ctl) (d a : VReg) (imm : BitVec 28)
  | andi (c : Ctl) (d a : VReg) (imm : BitVec 7)
  | andiLong (c : Ctl) (d a : VReg) (imm : BitVec 28)
  | ori (c : Ctl) (d a : VReg) (imm : BitVec 7)
  | oriLong (c : Ctl) (d a : VReg) (imm : BitVec 28)
  | xori (c : Ctl) (d a : VReg) (imm : BitVec 7)
  | xoriLong (c : Ctl) (d a : VReg) (imm : BitVec 28)
  | shli (c : Ctl) (d a : VReg) (n : BitVec 5)
  | shri (c : Ctl) (d a : VReg) (n : BitVec 5)
  | sari (c : Ctl) (d a : VReg) (n : BitVec 5)
  | movi (c : Ctl) (d : VReg) (imm : BitVec 14)
  | moviLong (c : Ctl) (d : VReg) (imm : BitVec 32)
  | movh (c : Ctl) (d : VReg) (imm : BitVec 14)
  -- cross-lane instructions (R139 to R142)
  | shfl (c : Ctl) (p : Option Pfx) (d a b : VReg)
  | voteAll (c : Ctl) (d a : VReg)
  | voteAny (c : Ctl) (d a : VReg)
  | voteBallot (c : Ctl) (d a : VReg)
  | voteEq (c : Ctl) (d a : VReg)
  | popxIncl (c : Ctl) (d a : VReg)
  | popxExcl (c : Ctl) (d a : VReg)
  | redv (c : Ctl) (op : RedOp) (a : VReg)
  -- uniform instructions (R128 to R132)
  | sadd (c : Ctl) (d a b : SReg)
  | ssub (c : Ctl) (d a b : SReg)
  | sand (c : Ctl) (d a b : SReg)
  | sor (c : Ctl) (d a b : SReg)
  | sxor (c : Ctl) (d a b : SReg)
  | sshl (c : Ctl) (d a b : SReg)
  | sshr (c : Ctl) (d a b : SReg)
  | scmp (c : Ctl) (d a b : SReg)
  | smov (c : Ctl) (d a : SReg)
  | bcast (c : Ctl) (d : VReg) (a : SReg)
  | vtos (c : Ctl) (d : SReg) (a : VReg)
  | swaitq (c : Ctl) (a : SReg)
  | smovi (c : Ctl) (d : SReg) (imm : BitVec 14)
  | smoviLong (c : Ctl) (d : SReg) (imm : BitVec 32)
  | sld (c : Ctl) (w64 : Bool) (o : OrdSc) (d a : SReg)
  -- control transfer (R133 to R138)
  | bra (c : Ctl) (off : BitVec 21)
  | brc (c : Ctl) (a : VReg) (cond : Cond) (off : BitVec 11)
  | bru (c : Ctl) (a : SReg) (cond : Cond) (off : BitVec 11)
  | call (c : Ctl) (d : VReg) (imm : BitVec 14)
  | callLong (c : Ctl) (d : VReg) (imm : BitVec 32)
  | jmpi (c : Ctl) (a : VReg)
  | ret (c : Ctl) (a : VReg)
  | exit (c : Ctl)
  | nop (c : Ctl)
  -- FP32 arithmetic (R148 to R151)
  | fadd (c : Ctl) (p : Option Pfx) (d a b : VReg)
  | fsub (c : Ctl) (p : Option Pfx) (d a b : VReg)
  | fmul (c : Ctl) (p : Option Pfx) (d a b : VReg)
  | ffma (c : Ctl) (p : Option Pfx) (d a b : VReg)
  | fmin (c : Ctl) (p : Option Pfx) (d a b : VReg)
  | fmax (c : Ctl) (p : Option Pfx) (d a b : VReg)
  | fcmp (c : Ctl) (p : Option Pfx) (d a b : VReg)
  | fscl (c : Ctl) (p : Option Pfx) (d a b : VReg)
  -- one-source functions and conversion (R152 to R157)
  | fabs (c : Ctl) (p : Option Pfx) (d a : VReg)
  | fneg (c : Ctl) (p : Option Pfx) (d a : VReg)
  | frnd (c : Ctl) (p : Option Pfx) (d a : VReg)
  | frcp (c : Ctl) (p : Option Pfx) (d a : VReg)
  | frsq (c : Ctl) (p : Option Pfx) (d a : VReg)
  | fsqrt (c : Ctl) (p : Option Pfx) (d a : VReg)
  | fexp2 (c : Ctl) (p : Option Pfx) (d a : VReg)
  | flog2 (c : Ctl) (p : Option Pfx) (d a : VReg)
  | fclass (c : Ctl) (p : Option Pfx) (d a : VReg)
  | fcvtToFormat (c : Ctl) (p : Option Pfx) (f : CvtFmt) (k : BitVec 2) (d a : VReg)
  | fcvtToF32 (c : Ctl) (p : Option Pfx) (f : CvtFmt) (k : BitVec 2) (d a : VReg)
  -- packed halves and four-element dots (R158, R159)
  | hadd2F16 (c : Ctl) (p : Option Pfx) (d a b : VReg)
  | hadd2Bf16 (c : Ctl) (p : Option Pfx) (d a b : VReg)
  | hmul2F16 (c : Ctl) (p : Option Pfx) (d a b : VReg)
  | hmul2Bf16 (c : Ctl) (p : Option Pfx) (d a b : VReg)
  | hfma2F16 (c : Ctl) (p : Option Pfx) (d a b : VReg)
  | hfma2Bf16 (c : Ctl) (p : Option Pfx) (d a b : VReg)
  | dot4E4m3 (c : Ctl) (p : Option Pfx) (d a b : VReg)
  | dot4E5m2 (c : Ctl) (p : Option Pfx) (d a b : VReg)
  | dot4S8 (c : Ctl) (p : Option Pfx) (d a b : VReg)
  -- block instructions (R161 to R167)
  | bamax (c : Ctl) (d a : VReg)
  | scget (c : Ctl) (d a : VReg)
  | scset (c : Ctl) (d a : VReg)
  | srdraw (c : Ctl) (d : VReg)
  | scsel (c : Ctl) (f : MxFmt) (e : Sel) (d a : VReg)
  | qpack (c : Ctl) (f : MxFmt) (e : Sel) (m : Rnd) (d a : VReg)
  | qunpk (c : Ctl) (part : BitVec 3) (d a : VReg)
  | topk (c : Ctl) (k : BitVec 4) (d a : VReg)
  -- memory access (R199 to R210)
  | ldg (c : Ctl) (w : Width) (o : OrdSc) (strm : Bool) (d a : VReg)
  | stg (c : Ctl) (w : Width) (o : OrdSc) (strm : Bool) (d a : VReg)
  | lds (c : Ctl) (w : Width) (acq : Bool) (d a : VReg)
  | sts (c : Ctl) (w : Width) (rel : Bool) (d a : VReg)
  | ldt (c : Ctl) (slot : BitVec 3) (o : OrdSc) (strm : Bool) (d a : VReg)
  | stt (c : Ctl) (slot : BitVec 3) (o : OrdSc) (strm : Bool) (d a : VReg)
  | ldl (c : Ctl) (o : OrdSc) (strm : Bool) (d a : VReg)
  | stl (c : Ctl) (o : OrdSc) (strm : Bool) (d a : VReg)
  | ldsr (c : Ctl) (slot : BitVec 3) (a : SReg)
  | salloc (c : Ctl) (span : BitVec 3) (d a : VReg)
  | pref (c : Ctl) (l : CacheLevel) (a : VReg)
  | cinv (c : Ctl) (sc : Scope) (a : VReg)
  | cwb (c : Ctl) (sc : Scope) (a : VReg)
  -- the Kettle (R248 to R260) and ordering (R224 to R226)
  | atm (c : Ctl) (op : KOp) (o : OrdSc) (d a : VReg)
  | atm64 (c : Ctl) (op : KOp) (o : OrdSc) (d a : VReg)
  | red (c : Ctl) (op : KOp) (o : OrdSc) (d a : VReg)
  | waitge (c : Ctl) (o : OrdSc) (d a : VReg)
  | waiteq (c : Ctl) (o : OrdSc) (d a : VReg)
  | qpush (c : Ctl) (o : OrdSc) (d a : VReg)
  | qpop (c : Ctl) (o : OrdSc) (d a : VReg)
  | fence (c : Ctl) (sc : Scope)
  | oprdy (c : Ctl)
  | yield (c : Ctl) (d : VReg)
  | cpwp (c : Ctl) (d : VReg) (n : BitVec 4)
  -- rosters (R181 to R183)
  | rjoin (c : Ctl) (slot : BitVec 4)
  | rleave (c : Ctl) (slot : BitVec 4)
  | roll (c : Ctl) (slot : BitVec 4)
  | rolla (c : Ctl) (d : VReg) (slot : BitVec 4)
  | rollw (c : Ctl) (a : VReg) (slot : BitVec 4)
  -- window, extended blocks and the flag (R99 to R103, R160)
  | winb (c : Ctl) (w : BitVec 5)
  | xacq (c : Ctl) (d : VReg) (k : BitVec 3)
  | xtry (c : Ctl) (d : VReg) (k : BitVec 3)
  | xrel (c : Ctl) (k : BitVec 3)
  | fstat (c : Ctl) (clr : Bool) (d : VReg)
  -- tiles and the matrix unit (R266 to R288)
  | mld (c : Ctl) (spad : Bool) (o : OrdSc) (strm : Bool) (t : MReg) (a : VReg)
  | mst (c : Ctl) (spad : Bool) (o : OrdSc) (strm : Bool) (t : MReg) (a : VReg)
  | mma (c : Ctl) (z : Bool) (slot : BitVec 4) (t : MReg)
  | mmv (c : Ctl) (slot : BitVec 4) (q : SReg) (v : BitVec 3) (t : MReg)
  | mdual (c : Ctl) (zx zw : Bool) (slot : BitVec 4) (x y : MReg)
  | mdrnT (c : Ctl) (w : Bool) (t : MReg) (slot : BitVec 4) (o : BitVec 3)
  | mdrnV (c : Ctl) (w : Bool) (d : VReg) (slot : BitVec 4) (o : BitVec 3)
  | mdrnM (c : Ctl) (w : Bool) (slot : BitVec 4) (o : BitVec 3)
  | mshp (c : Ctl) (d : SReg) (n : MReg)
  | mzero (c : Ctl) (n : MReg)
  | mconv (c : Ctl) (slot : BitVec 4)
  | mdiss (c : Ctl) (slot : BitVec 4)
  | mldw (c : Ctl) (t : MReg) (slot : BitVec 4)
  | mwait (c : Ctl) (slot : BitVec 4)
  | mstat (c : Ctl) (d : VReg) (slot : BitVec 4)
  -- engines and KV pages (R296, R344)
  | cpy (c : Ctl) (ch : BitVec 4) (d a : SReg)
  | gath (c : Ctl) (a : SReg)
  | scat (c : Ctl) (a : SReg)
  | coll (c : Ctl) (a : SReg)
  | repart (c : Ctl) (a : SReg)
  | kvld (c : Ctl) (strm : Bool) (t : MReg) (a : SReg)
  | kvapp (c : Ctl) (d : VReg) (a : SReg)
  | kvevict (c : Ctl) (d : VReg) (a : SReg)
  | kvseal (c : Ctl) (a : SReg)
  | kvhdr (c : Ctl) (d : VReg) (a : SReg)
  -- control registers and the system (R388 to R391)
  | crd (c : Ctl) (d : VReg) (r : BitVec 14)
  | cwr (c : Ctl) (a : VReg) (r : BitVec 14)
  | trap (c : Ctl) (code : BitVec 9)
  | eret (c : Ctl)
  | brk (c : Ctl) (code : BitVec 9)
  -- steps of a quadrant and of its warps
  | illegalInstruction
  | arbitrationRound (q : Nat)
  | resultLands (id : Nat)
  | yieldBackoffExpiry (slot : Nat)
  | extendedBlockGrant (q : Nat)
  | registerBlockReturn (slot k : Nat)
  -- workgroups and kernels
  | workgroupSave (wg : Nat)
  | workgroupRestore (wg : Nat)
  | workgroupPlacement (cluster : Nat)
  | rangeHandout (part die : Nat) (cluster : Option Nat)
  | rangeSteal (part die : Nat) (cluster : Option Nat)
  | kernelArm (k : Nat)
  | timedRelease (k : Nat)
  | kernelDistribute (k : Nat)
  | kernelDrain (k : Nat)
  -- queues
  | qdoorbellWrite (part q : Nat) (w : BitVec 32)
  | enable (part q : Nat)
  | disable (part q : Nat)
  | queueResume (part q : Nat)
  | skip (part q : Nat)
  -- `host` is what the two lines of the head's slot hold, for a ring in host memory
  | packetFetch (part q : Nat) (host : Option (LineBits × LineBits))
  | packetReread (part q : Nat) (host : Option (LineBits × LineBits))
  | watchdogExpiry (part q : Nat)
  | kcmdAbort (part q : Nat) (pidx : BitVec 32)
  | kcmdSetPriority (part q : Nat) (pidx : BitVec 32) (prio : BitVec 3)
  | clockCorrection (time : DWord) (locked : Bool)
  -- the setup window: `arg` is the argument line DMA read, none when it is unreadable
  | create (ctx : BitVec 16) (arg : Option LineBits)
  | bind (ctx : BitVec 16) (arg : Option LineBits)
  | suspend (ctx : BitVec 16)
  | suspendComplete (ctx : BitVec 16)
  | resume (ctx : BitVec 16)
  | teardown (ctx : BitVec 16)
  | teardownComplete (ctx : BitVec 16)
  | setkey (ctx : BitVec 16) (arg : Option LineBits)
  | setcb (ctx : BitVec 16) (arg : Option LineBits)
  | preset (ctx : BitVec 16) (arg : Option LineBits)
  | partitionResetComplete (part : Nat)
  | outOfBandReset (part : Nat)
  | chreset (ctx : BitVec 16) (arg : Option LineBits)
  | layout (ctx : BitVec 16) (arg : Option LineBits)
  | layoutComplete
  -- the management mailbox: `buf` is the 4 KiB buffer DMA read, none when it is unreadable
  | ident (buf : Option (List (BitVec 8)))
  | attest (buf : Option (List (BitVec 8)))
  | cert (buf : Option (List (BitVec 8)))
  | imgstat (buf : Option (List (BitVec 8)))
  | imgwr (buf : Option (List (BitVec 8)))
  -- device registers, monitors and the host's aperture
  | registerWrite (pa : Nat) (len : Nat) (v : Nat)
  | monitorSample (die k : Nat) (v : BitVec 32)
  | monitorClear (die k : Nat) (v : DWord)
  | apertureConfigWrite (off : Nat) (v : DWord)
  | apertureApplied
  -- `reg`: of the device register window, and not of the aperture
  | hostRead (reg : Bool) (off len : Nat)
  | hostDataWrite (off : Nat) (bytes : List (BitVec 8))
  | hostLineWrite (off : Nat) (bytes : List (BitVec 8))
  -- power, bring-up and links
  | bringUp
  | inputUndervoltage
  | inputOvervoltage
  | inputRestored
  | powerLimitThrottle (on : Bool)
  | ceilingShutdown (source : BitVec 32) (value : BitVec 32)
  | thermalShutdown (die : Nat) (value : BitVec 32)
  | portTrained (port : Nat)
  | portReplay (port : Nat)
  | replayComplete (port : Nat)
  | portDown (port : Nat)
  | portRetrain (port : Nat)
  | d2dLinkFailure (die1 die2 : Nat)
  -- fabric requests arriving at half-die hd, and responses arriving at the source
  | rd (hd : Nat) (p : Request)
  | wrl (hd : Nat) (p : Request)
  | wrm (hd : Nat) (p : Request)
  | remoteAtm (hd : Nat) (p : Request)
  | remoteRed (hd : Nat) (p : Request)
  | remoteCwb (hd : Nat) (p : Request)
  | ack (r : Response)
  | data (r : Response)
  | atmr (r : Response)
  | nack (r : Response)
  | resolved (r : Response)
  | packetResend (id : Nat)
  | unreachable (id : Nat)
  | mintRequest (hd : Nat)
  -- pages and frames
  | lightFault (pte : Nat) (dirty : Bool)
  | heavyFaultResolved (pte : Nat)
  | sweep (hd : Nat)
  | free (hd : Nat)
  | quarantineRelease (part : Nat)
  | returnItemPush (hd : Nat)
  | migrationRequest (cluster : Nat) (ctx : BitVec 16) (va : DWord)
  | migration (hd : Nat)
  | steeperStage (hd frame : Nat)
  | steeperCommit (hd frame : Nat)
  -- engines, the Kettle and the matrix unit
  | kettleOperation (id : Nat)
  | cpyExecute (cluster ch : Nat)
  | gatherExecute (hd : Nat)
  | scatterExecute (hd : Nat)
  | collectiveExecute (part : Nat) (gid epoch : BitVec 16) (remote : List RankIn)
  | repartitionExecute (part : Nat) (gid epoch : BitVec 16) (remote : List RankIn)
  | rankStop (part : Nat) (gid epoch : BitVec 16) (rank : BitVec 10)
  | matrixOperationStart (wg slot : Nat)
  | matrixOperationFinish (core ctx : Nat)
  | mconvGrant (core : Nat)
  | fabricPacketDroppedAtIngress (port : Nat)
  | configurationRequest
  deriving DecidableEq, Repr

end Sys2Proof
end

