-- ==== Sys2Proof/Machine/State.lean ====
section
/-! DEFINITION. The state of one Plisal module, as plain data: its memory with sidebands; threads, warps, workgroups,
rosters, quadrants, cores and clusters; kernels, queues, contexts, partitions and half-dies; pending results and requests;
the fabric, the host's registers, flash, power; and the model's own fields (agenda, focus, counters). Records are created
by events and listed in tables; a number with no record reads as the record of zeros. -/
namespace Sys2Proof.Machine

-- Threads and warps -------------------------------------------------------------------------------------------

/-- The states of a thread (R94); `absent` is the model's own: no thread has been created in the lane. -/
inductive TState where
  | absent | ready | issuing | interlocked | waiting | halted | exited | saved
  deriving DecidableEq, Repr, Inhabited

/-- A program fault as R383 reports it. -/
structure PFault where
  /-- TCAUSE (R383). -/
  cause : Byte
  /-- TINFO (R383). -/
  info  : Word
  /-- TADDR (R383). -/
  addr  : DWord
  deriving DecidableEq, Repr, Inhabited

/-- What an INTERLOCKED or WAITING thread waits for (R94, R175). -/
inductive Why where
  | nothing
  /-- Pending variable-latency results it names (R83). -/
  | results (ids : List Nat)
  /-- Its armed watch (R255). -/
  | watch
  /-- RSLT's sequence number (R132). -/
  | seq (q : BitVec 16)
  /-- A roll call of the roster in a slot (R183). -/
  | roll (slot : Nat) (target : BitVec 16)
  /-- The gathering of a warp-whole instruction (R118). -/
  | gather
  /-- STARTED of the roster in a slot, before a further joint issue (R275). -/
  | joint (slot : Nat)
  /-- A free matrix context (R273). -/
  | mconv (slot : Nat)
  /-- Extended slot k, for an XACQ that names register d (R101). -/
  | extBlock (k d : Nat)
  /-- Heavy-fault resolution of an entry, for an access of an address (R195, R335). -/
  | heavy (pte : Nat) (va : DWord)
  /-- Completion of earlier accesses at a scope (R225). -/
  | fence (s : Scope)
  /-- Landing of earlier tile and scratchpad writes (R226). -/
  | oprdy
  /-- Completion of earlier accesses at .pkg (R347). -/
  | kvapp
  /-- A fifth REDV (R143). -/
  | redv
  /-- A pending write into a tile, or, with `ops`, also an operation that names it (R266, R269). -/
  | tile (n : Nat) (ops : Bool)
  /-- Results pending into rows of slot k (R103). -/
  | xrel (k : Nat)
  /-- Room in a fabric triple (R422). -/
  | triple (hd stream peer : Nat)
  /-- Blocks of its quadrant back from the overflow area, by warp slot × 8 + k (R108). -/
  | moved (blocks : List Nat)
  /-- Room in a copy channel (cluster × 16 + channel) (R296). -/
  | channel (n : Nat)
  /-- Room in a half-die's engine queue: 1 gather/scatter, 3 collective, 4 repartition (R296). -/
  | engine (hd kind : Nat)
  /-- Operations the warp issued on the roster in a slot (R279). -/
  | mwait (slot : Nat)
  /-- Answers to earlier remote accesses before a release, but for those sent to one package, or before an access of the own package,
  for those looped back (R216, R225, R232). -/
  | release (except : Option Nat)
  /-- Answers to earlier remote acquires, or, with `reads`, to earlier remote reads (R217, R223). -/
  | answers (reads : Bool)
  deriving DecidableEq, Repr, Inhabited

/-- A thread (R93 to R95). -/
structure Thread where
  /-- PC (R59, R93). -/
  pc    : DWord
  /-- TMODE (R94, R112). -/
  tmode : Bool
  /-- WB: the register window's base, a multiple of 16 from 0 to 304 (R97). -/
  wb    : Nat
  /-- The draw counter (R50). -/
  draw  : Word
  /-- The thread's state (R94). -/
  st    : TState
  /-- TEPC (R380, R384). -/
  tepc  : DWord
  /-- TADDR (R380, R384). -/
  taddr : DWord
  /-- TINFO (R380, R384). -/
  tinfo : Word
  /-- TCAUSE (R380, R384). -/
  tcause : Byte
  /-- AGE of arbitration, 10 bits (R173). -/
  age   : Nat
  /-- YLAST (R257). -/
  ylast : Word
  /-- What it waits for (R94, R175). -/
  why   : Why
  /-- Failures reported and not yet taken, oldest first: DEFER with DCAUSE, DINFO and DADDR (R395, R466). -/
  defer : List PFault
  deriving DecidableEq, Repr, Inhabited

/-- Where a store or reduction goes once translated: a physical address, or a remote access with its leaf. -/
inductive Target where
  /-- Package physical memory, with MTYPE (R196). -/
  | mem (pa : Nat) (mtype : Nat)
  /-- A device register window (R196, R454). -/
  | io (pa : Nat)
  /-- Another package, through a leaf of mode 1 to 3 (R328). -/
  | remote (va : DWord) (leaf : DWord)
  deriving DecidableEq, Repr

/-- What a repeatable-mode store buffer holds of an instruction (R186, R261). [DEDUCED, log 41] -/
inductive BufAct where
  /-- `w` bytes of `v` (STG, STT), with ORDSC. -/
  | store (lane w : Nat) (v : DWord) (o : OrdSc)
  /-- A whole line (STL), with the lanes it was stored for. -/
  | line (lanes : List Nat) (l : Line) (o : OrdSc)
  /-- A reduction. -/
  | red (lane : Nat) (op : KOp) (w64 : Bool) (x : DWord)
  deriving DecidableEq, Repr

/-- One operation held in a repeatable-mode store buffer (R186, R261). -/
structure BufOp where
  act    : BufAct
  target : Target
  va     : DWord
  /-- Its recess stamp: RECESS when its translation was taken (R240). -/
  stamp  : Nat
  deriving DecidableEq, Repr

/-- A warp (R92, R110, R111). -/
structure Warp where
  /-- The workgroup it belongs to, by the model's number. -/
  wg      : Nat
  /-- WARPID: warp number within the workgroup (R92). -/
  wid     : Nat
  /-- Its threads by lane (R92). -/
  threads : Table Thread
  /-- Vector rows, 32 bits at 32 × row + lane: rows 0 to 63 the base block, 64 + 32k onward extended slot k, 512 to 527
  the trap rows (R96). -/
  vreg    : Table Word
  /-- Row tags (R42). -/
  tags    : Table (BitVec 4)
  /-- Row scale shadows (R42). -/
  shadows : Table DWord
  /-- Uniform registers s0 to s63 (R110). -/
  sreg    : Table Word
  /-- RSLT's value (R111). -/
  rsltv   : Word
  /-- RSLT's SEQ (R111). -/
  rsltseq : BitVec 16
  /-- FSTATUS.NF (R56). -/
  nf      : Bool
  /-- TCTL.SBCHK (R113). -/
  sbchk   : Bool
  /-- XHELD: extended slots held (R112). -/
  xheld   : BitVec 8
  /-- Extended slots moved to the register overflow area (R108). -/
  xmoved  : BitVec 8
  /-- Those of them whose rows have been written there (R108, R381). -/
  xout    : BitVec 8
  /-- When each extended slot was last accessed, for the choice of R108. -/
  xlast   : Table Nat
  /-- Valid shape slots SHP0 to SHP7 (R207). -/
  shapes  : Table LineBits
  /-- YEXP (R257). -/
  yexp    : Nat
  /-- Held out of arbitration by a YIELD back-off (R172, R257). -/
  yheld   : Bool
  /-- The repeatable-mode store buffer, oldest first (R186, R261). -/
  buf     : List BufOp
  /-- The command line its engine command has read from another package, with its address, until the command issues (R296). -/
  cmd     : Option (DWord × Line)
  deriving DecidableEq, Repr, Inhabited

-- Workgroups, rosters, tiles ----------------------------------------------------------------------------------

/-- A line slot of a tile register (R264). -/
structure TileLine where
  data  : LineBits
  slots : DWord
  deriving DecidableEq, Repr, Inhabited

/-- A tile register: its 256 line slots by number (R264). -/
abbrev Tile := Table TileLine

/-- STATE of a roster (R178). -/
inductive RState where
  | unused | standing | calling
  deriving DecidableEq, Repr, Inhabited

/-- A failure record of the matrix unit (R278, R394). -/
structure FailRec where
  /-- The order of its making among the workgroup's records (R394). -/
  age   : Nat
  /-- Failure code 1 to 5 (R278). -/
  code  : Nat
  /-- For code 5, the cause of R383 (R279). -/
  cause : Byte
  /-- For code 5, its TINFO (R279). -/
  info  : Word
  deriving DecidableEq, Repr, Inhabited

/-- The word of a joint instruction, bits [27:0] without STALL (R277): its tile, register and descriptor fields. -/
inductive MIns where
  | mldw (t : Nat)
  | mma (z : Bool) (t : Nat)
  | mmv (q v t : Nat)
  | mdual (zx zw : Bool) (x y : Nat)
  | drnT (w : Bool) (t o : Nat)
  | drnV (w : Bool) (d o : Nat)
  | drnM (w : Bool) (o : Nat)
  deriving DecidableEq, Repr, Inhabited

/-- One warp's issue of a gathering joint operation (R277). -/
structure Capture where
  wid  : Nat
  ins  : MIns
  /-- The values of the uniform registers it reads, 0 for one its settings do not use. -/
  vals : List Word
  /-- The pending result of its vector destination, if it has one (R288). -/
  pend : Option Nat
  /-- The vector row d names in its warp. -/
  row  : Nat
  /-- A register it reads was read before its result was readable, so that its value is undefined; the first of them (R6, R82). -/
  early : Bool
  head  : Bool
  deriving DecidableEq, Repr, Inhabited

/-- A roster with its matrix record (R178, R271). -/
structure Roster where
  /-- STATE (R178). -/
  st      : RState
  /-- MEMBERS (R178). -/
  members : BitVec 32
  /-- PENDING, one bit per thread index (R178). -/
  pending : BitVec 1024
  /-- PHASE (R178). -/
  phase   : BitVec 16
  /-- BOUND: the matrix context, 0 or 1, if any (R178). -/
  bound   : Option Nat
  /-- STARTED (R271). -/
  started : Nat
  /-- ISSUED per warp (R271). -/
  issued  : Table Nat
  /-- DSEQ (R271). -/
  dseq    : BitVec 16
  /-- Undelivered failure records per warp, oldest first (R271). -/
  fails   : Table (List FailRec)
  /-- NF still to be set in each warp at its MWAIT (R292). -/
  nfs     : Table Bool
  /-- The issues counted toward the operation that gathers (R277). -/
  gath    : List Capture
  /-- A conflict has met the gathering operation (R291). -/
  tainted : Bool
  /-- The model's number for the roster's creation, by which operations of an earlier roster in the slot are told apart. -/
  born : Nat
  deriving DecidableEq, Repr, Inhabited

/-- A scratchpad allocation (R203). -/
structure Alloc where
  base : Nat
  size : Nat
  span : Nat
  deriving DecidableEq, Repr, Inhabited

/-- Why a workgroup is to be saved: REASON and RVA of R394. -/
structure SaveReq where
  reason : Nat
  rva    : DWord
  /-- The entry awaited, for reason 1 (R335). -/
  pte    : Nat
  deriving DecidableEq, Repr, Inhabited

/-- A tile register written since an OPRDY that made it ready for every warp (R226): as it stood before the write, until the
write is ready for a warp. -/
structure Unready where
  tile : Nat
  old  : Tile
  /-- The pending result that writes it, while it has not landed. -/
  pend : Option Nat
  /-- The warp that writes it, and those for which the write happens before what they do next (R221). -/
  seen : List Nat
  /-- The warps for which an OPRDY has made it ready. -/
  ready : List Nat
  /-- The rosters whose gathering operation a warp issued after it was made ready for it. -/
  sure  : List Nat
  /-- The bytes of the scratchpad (with `true`) and of memory that hold what a release after the write stored (R220). -/
  flags : List (Bool × Nat)
  /-- A FENCE after the write is in the fence order (R222). -/
  fenced : Bool
  deriving DecidableEq, Repr, Inhabited

/-- A workgroup that is placed or saved (R169, R201, R264). -/
structure Workgroup where
  /-- Its kernel, by the model's number. -/
  kernel : Nat
  /-- WGIDX (R112). -/
  idx    : Nat
  /-- The core that hosts it (R169). -/
  core   : Nat
  /-- q0 of R169. -/
  q0     : Nat
  /-- Its carried priority, 0 to 8 (R369). -/
  prio   : Nat
  /-- Warps (R363). -/
  nw     : Nat
  /-- SCR: bytes of its scratchpad region (R201). -/
  scr    : Nat
  /-- The scratchpad region by region offset (R201, R202). -/
  spad   : Memory
  /-- Its allocations, oldest first (R203). -/
  allocs : List Alloc
  /-- TOP (R203). -/
  top    : Nat
  /-- TILES: held tile registers (R264, R365). -/
  held   : BitVec 16
  /-- Tile registers by name (R264). -/
  tiles  : Table Tile
  /-- MSHP0 to MSHP15 (R265). -/
  mshp   : Table Word
  /-- Tile writes not ready for every warp, oldest first (R226). -/
  unready : List Unready
  /-- NROST: the declared roster count (R177). -/
  nrost  : Nat
  /-- Rosters by slot (R177). -/
  rosters : Table Roster
  /-- Extended blocks its kernel declares (R101). -/
  xb     : Nat
  /-- MCTX of its kernel (R368). -/
  mctx   : Nat
  /-- A save it is to make at a period boundary (R171). -/
  save   : Option SaveReq
  /-- Order of placement, for R371. -/
  order  : Nat
  /-- Store buffers of warps that have retired since, by warp (R187, R261). -/
  done   : Table (List BufOp)
  /-- Operations of a commit under way and not yet performed, with their warps, in the order of R187. -/
  commits : List (Nat × BufOp)
  /-- A commit of its store buffers is under way (R187). -/
  committing : Bool
  /-- Threads, by 32 × warp + lane, a store of which the commit under way found refused, with whether a release of the thread was
  not performed for it (R233). -/
  failed : Table Bool
  /-- The number of failure records made for it (R394). -/
  failSeq : Nat
  /-- Lines of its context's pool that are its store area (R186, R381, R398). -/
  area   : List Nat
  /-- Retired warps (R170). -/
  retired : BitVec 32
  /-- It is to be discarded at its next period boundary (R374). -/
  doomed : Bool
  deriving DecidableEq, Repr, Inhabited

/-- A block of 32 elements (R38, R267): its scale code, and its element codes from bit 0 on. -/
structure Blk where
  scale : Nat
  bits  : Nat
  deriving DecidableEq, Repr, Inhabited

/-- The latched weights (R271, R281). -/
structure Latch where
  /-- Format tag. -/
  fmt : Nat
  /-- Blocks per column. -/
  kb  : Nat
  /-- The blocks of each of the N columns. -/
  cols : List (List Blk)
  deriving DecidableEq, Repr, Inhabited

/-- A variable-latency result that has not landed (R81, R83). -/
structure Pending where
  id     : Nat
  /-- Warp slot. -/
  slot   : Nat
  /-- Values by 32 × row + lane. -/
  regs   : List (Nat × Word)
  /-- Row, tag and shadow to be set whole (R43). -/
  rowMeta : List (Nat × BitVec 4 × DWord)
  /-- Uniform values. -/
  sregs  : List (Nat × Word)
  /-- A shape slot's record (R207). -/
  shape  : Option (Nat × LineBits)
  /-- A tile's new contents (R269). -/
  tile   : Option (Nat × Tile)
  /-- A REDV value for RSLT (R142). -/
  rslt   : Option Word
  /-- A result of a block instruction, which lands in issue order (R162). -/
  blk    : Bool
  /-- It waits for an answer from another package, or for an operation to finish. -/
  remote : Bool
  deriving DecidableEq, Repr, Inhabited

/-- A saved workgroup (R392 to R399). [DEDUCED, log 56] -/
structure Frame where
  /-- Context and frame slot (R392). -/
  ctx    : Nat
  slot   : Nat
  /-- The workgroup's model number and record. -/
  id     : Nat
  wg     : Workgroup
  /-- Its warps by number (R395). -/
  warps  : Table Warp
  /-- BANK, DW and LATCH of each bound roster that has one, by roster slot (R293). -/
  banks  : Table (Table Word)
  dws    : Table (Table Word)
  latches : Table Latch
  /-- Vector destinations of its gathering operations, pending (R288, R293). -/
  pends  : List Pending
  /-- REASON (R394). -/
  reason : Nat
  /-- RVA (R394). -/
  rva    : DWord
  /-- The entry awaited (R335). -/
  pte    : Nat
  /-- SAVESEQ (R394). -/
  seq    : Nat
  /-- Ready for restore (R398). -/
  ready  : Bool
  /-- Software has written into the slot, or into its context's pool: what it restores is undefined (R381). -/
  torn   : Bool
  deriving DecidableEq, Repr, Inhabited

-- Quadrants, cores, clusters ----------------------------------------------------------------------------------

/-- A bundle that holds its quadrant's issue slot (R174, R175). -/
structure Bundle where
  /-- Warp slot by lane (R172). -/
  members : Table Nat
  /-- CLOSING (R175). -/
  closing : Bool
  /-- Words issued in the period (R62). -/
  words   : Nat
  deriving DecidableEq, Repr, Inhabited

/-- A fixed-latency result not yet readable (R81, R82). -/
structure SbEntry where
  /-- Warp slot. -/
  slot  : Nat
  /-- A uniform register's number, or 32 × row + lane. -/
  key   : Nat
  /-- It is a uniform register. -/
  unif  : Bool
  /-- The cycle from which it is readable. -/
  ready : Nat
  deriving DecidableEq, Repr, Inhabited

/-- A translation held by a TLB or a last-page register (R193, R329). -/
structure Trans where
  ctx  : Nat
  /-- First VA and bytes of the page. -/
  base : Nat
  size : Nat
  /-- The leaf as read, and where. -/
  leaf : DWord
  pte  : Nat
  /-- Line accesses counted toward migration (R336). -/
  count : Nat
  /-- Its migration request has been sent (R336). -/
  asked : Bool := false
  deriving DecidableEq, Repr, Inhabited

/-- What an access is: it writes (and so needs W and D), it fetches (X), and the memory types that allow it (R196). -/
structure AccKind where
  wr    : Bool := false
  ex    : Bool := false
  /-- It is performed at the Kettle by an atomic or reduction; the channel area refuses it (R308). -/
  atom  : Bool := false
  normal : Bool := true
  sync   : Bool := false
  kv     : Bool := false
  io     : Bool := false
  deriving DecidableEq, Repr

/-- A light fault that an access waits for: the entry, the bits needed (A, or with `dirty` A and D), and the access (R330). -/
structure LightFault where
  pte   : Nat
  /-- Bytes of the page that an entry at its level maps (R325). -/
  size  : Nat
  dirty : Bool
  ctx   : Nat
  va    : DWord
  kind  : AccKind
  deriving DecidableEq, Repr

/-- A quadrant (R16, R105 to R107, R172 to R174). -/
structure Quad where
  /-- The bundle that holds the issue slot (R174). -/
  bundle : Option Bundle
  /-- The quadrant's arithmetic-clock cycle (R61). -/
  cycle  : Nat
  /-- Fixed-latency results in flight (R81). -/
  sb     : List SbEntry
  /-- Requests for extended blocks, in issue order: warp slot and k (R105). -/
  xq     : List (Nat × Nat)
  /-- Last-page registers by lane (R193). -/
  lpr    : Table Trans
  /-- Held out of arbitration by throttling (R18). -/
  held   : Bool
  /-- Rows lost to repair: CAPROWS is 2048 less this (R106). -/
  lost   : Nat
  /-- The latest cycle in which a fixed-latency result issued in the period becomes readable: L of R174. -/
  due    : Nat
  /-- The entries whose accessed or dirty bits the bundle's group waits for, keeping its slot (R195, R330). -/
  stall  : List LightFault
  deriving DecidableEq, Repr, Inhabited

/-- A tile operand of a started operation: its shape, and its contents where they are read at the start (R276); an operand
that an earlier operation of the context is still to write is read once that has finished. -/
structure Operand where
  shape : Word
  tile  : Option Tile
  deriving DecidableEq, Repr, Inhabited

/-- A started matrix operation (R276). -/
structure MatOp where
  id     : Nat
  wg     : Nat
  slot   : Nat
  kernel : Nat
  widx   : Nat
  /-- The issues counted toward it (R277). -/
  caps   : List Capture
  /-- MEMBERS at its start, ascending (R288). -/
  members : List Nat
  /-- Its tile operands by number. -/
  tiles  : Table Operand
  /-- A conflict has left its destinations undefined (R291). -/
  tainted : Bool
  /-- The creation of its roster. -/
  born   : Nat
  deriving DecidableEq, Repr, Inhabited

/-- A matrix context (R271). -/
structure MCtx where
  /-- ROSTER: workgroup and roster slot (R271). -/
  roster : Option (Nat × Nat)
  /-- It is released once its started operations finish (R274). -/
  leaving : Bool
  /-- BANK (R271). -/
  bank   : Table Word
  /-- DW (R271). -/
  dw     : Table Word
  /-- LATCH (R271). -/
  latch  : Option Latch
  /-- Started operations not finished, in start order (R276). -/
  ops    : List MatOp
  /-- DSEQ of its roster as the roster left it unbound, or a drain since has left it: for operations that outlive it (R289). -/
  dseq   : BitVec 16
  deriving DecidableEq, Repr, Inhabited

/-- A line held in an L1, by physical line number (R190). -/
abbrev L1 := Table Line

/-- A line held in an instruction cache, with the context and the virtual line it was fetched for (R190, R239). -/
structure Code where
  ctx  : Nat
  va   : Nat
  /-- Its physical line. -/
  n    : Nat
  data : LineBits
  deriving DecidableEq, Repr, Inhabited

/-- A copy of a line of another package, of a page in remote-cached-read-only mode (R190, R234). -/
structure Copy where
  ctx  : Nat
  peer : Nat
  fasn : Nat
  va   : Nat
  line : Line
  deriving DecidableEq, Repr, Inhabited

/-- A core (R16). -/
structure Core where
  /-- Its two matrix contexts (R271). -/
  mctx   : Table MCtx
  /-- Warps waiting in MCONV, in issue order: warp slot and roster slot (R273). -/
  mconvQ : List (Nat × Nat)
  /-- The L1 data cache (R190); core 8c holds that of the fused cluster c (R191). -/
  l1     : L1
  /-- The instruction cache (R16, R190). -/
  icache : List Code
  /-- Lines of other packages the L1 holds (R190, R234). -/
  copies : List Copy
  deriving DecidableEq, Repr, Inhabited

/-- A command an engine has accepted (R296). -/
structure EngCmd where
  id     : Nat
  /-- The command line as captured at issue. -/
  line   : LineBits
  ctx    : Nat
  part   : Nat
  kernel : Nat
  /-- The issuing workgroup, warp, LAUNCH and WGIDX (R296). -/
  wg     : Nat
  wid    : Nat
  launch : BitVec 16
  wgidx  : Nat
  /-- CPY's ticket (R296). -/
  ticket : Word
  /-- Destination lines already written (R307). -/
  doneLines : Nat
  /-- CPY: the TAG of its source lines, once one has been read (R304). -/
  tag    : Option Nat
  /-- CPY: destination lines for each source line of a dequantise (R304). -/
  bpl    : Nat
  /-- A line of it so far set NF (R301). -/
  nf     : Bool
  /-- Its kernel was aborted (R302). -/
  aborted : Bool
  deriving DecidableEq, Repr, Inhabited

/-- A copy channel (R307, R308). -/
structure Chan where
  /-- WPn (R307). -/
  wp    : Word
  /-- TICKn (R296). -/
  tick  : Word
  /-- STATE: 0 IDLE, 1 RUNNING, 2 STOPPED (R308). -/
  st    : Nat
  /-- CAUSE (R308). -/
  cause : Byte
  /-- FADDR (R308). -/
  faddr : DWord
  /-- Queued commands, the running one first (R307). -/
  queue : List EngCmd
  deriving DecidableEq, Repr, Inhabited

/-- A cluster (R15). -/
structure Cluster where
  /-- Its L1s are fused (R191). -/
  fused : Bool
  /-- The shared TLB (R15, R329). -/
  tlb   : List Trans
  /-- Its 16 copy channels (R15). -/
  chans : Table Chan
  deriving DecidableEq, Repr, Inhabited

-- Half-dies, partitions, memory services -----------------------------------------------------------------------

/-- A page in the Steeper list (R342). -/
structure SteepEntry where
  /-- The page's frame, PA[47:16] (R338). -/
  frame  : Nat
  ctx    : Nat
  /-- PA of its header line (R338). -/
  hdr    : Nat
  /-- It is being staged: CONVERTING was set by this entry (R342). -/
  staging : Bool
  /-- The image lines once staged (R342). -/
  image  : List Line
  deriving DecidableEq, Repr, Inhabited

/-- A migration being served (R336). -/
structure Migration where
  id   : Nat
  ctx  : Nat
  va   : DWord
  pte  : Nat
  old  : DWord
  frame : Nat
  deriving DecidableEq, Repr, Inhabited

/-- A half-die (R24, R27). -/
structure HalfDie where
  /-- MEMBER (R28). -/
  member : Bool
  /-- PART (R28). -/
  part   : Nat
  /-- Commands of its gather/scatter engine (R296). -/
  gs     : List EngCmd
  /-- Commands of its collective engine (R296). -/
  coll   : List EngCmd
  /-- Commands of its repartition engine (R296). -/
  rep    : List EngCmd
  /-- The Steeper list (R342). -/
  steeper : List SteepEntry
  /-- Frames marked converted, PA[47:16] (R342). -/
  converted : List Nat
  /-- Items released and not yet pushed to the return queue (R337). -/
  returns : List DWord
  /-- Migration requests waiting at its memory processor (R336). -/
  migrations : List Migration
  /-- Lines its 96 L2 slices hold, by physical line, each dirty or clean (R24, R190). -/
  l2     : Table Bool
  /-- Lines its half of the memory-side cache holds, each dirty or clean (R24, R190). -/
  msc    : Table Bool
  /-- Lines the cells of its 32 Kettle banks hold, most recently used first (R24, R245). -/
  cells  : List Nat
  /-- Lines whose watches its Kettle keeps in the overflow area (R246). -/
  spilled : List Nat
  /-- Lines of other packages its L2 slices hold (R190, R234). -/
  copies : List Copy
  deriving DecidableEq, Repr, Inhabited

/-- A frame in quarantine (R240). -/
structure Quarantined where
  /-- The half-die whose memory processor returns it (R333). -/
  hd    : Nat
  item  : DWord
  stamp : Nat
  deriving DecidableEq, Repr, Inhabited

/-- A partition (R25). -/
structure Partition where
  /-- RECESS (R240). -/
  recess : Nat
  /-- Frames in quarantine, oldest first (R240). -/
  quar   : List Quarantined
  /-- SAVESEQ: the partition's count of saves (R394). -/
  saveSeq : Nat
  /-- A partition reset is running (R401). -/
  resetting : Bool
  deriving DecidableEq, Repr, Inhabited

/-- A queue's registers (R352). -/
structure Queue where
  /-- QDOORBELL.WIDX (R352). -/
  widx  : Word
  /-- QRIDX.RIDX (R352). -/
  ridx  : Word
  /-- QBASE (R352). -/
  base  : DWord
  /-- QCFG (R352). -/
  cfg   : DWord
  /-- QSTAT.ERRIDX (R352). -/
  erridx : Word
  /-- QSTAT.RETRIES (R352). -/
  retries : Nat
  /-- QSTAT.CAUSE (R352). -/
  cause : Nat
  /-- QSTAT.STATE: 0 DISABLED, 1 RUNNING, 2 RETRYING, 3 ERROR (R352). -/
  st    : Nat
  /-- Header lines of accepted NOP packets that still hold the queue, by the model's number (R356). -/
  nops  : Table LineBits
  /-- Device time of the last reading of its head (R355). -/
  readAt : Nat
  deriving DecidableEq, Repr, Inhabited

/-- The states of a kernel (R366). -/
inductive KState where
  | none | pending | armed | distributing | running | draining | complete | faulted | aborted
  deriving DecidableEq, Repr, Inhabited

/-- A workgroup's contribution to a location, held until its kernel drains (R261). -/
structure Partial where
  wgidx : Nat
  target : Target
  op    : KOp
  w64   : Bool
  val   : DWord
  /-- The oldest recess stamp of its reductions (R240). -/
  stamp : Nat
  deriving DecidableEq, Repr

/-- A kernel (R363 to R374). -/
structure Kernel where
  ctx    : Nat
  part   : Nat
  /-- Its queue and packet index (R356). -/
  queue  : Nat
  pidx   : Word
  /-- The packet's two lines (R353, R363). -/
  line0  : LineBits
  line1  : LineBits
  /-- The resource record, read on leaving PENDING (R365, R367). -/
  record : LineBits
  st     : KState
  /-- The kernel's cause (R366). -/
  cause  : Nat
  /-- The late flag (R360). -/
  late   : Bool
  /-- It has been evaluated once while ARMED with TIME ahead (R360). -/
  timed  : Bool
  /-- Its time has come, or it has been found late (R360). -/
  released : Bool
  /-- KPRIO (R367, R372). -/
  prio   : Nat
  /-- The effective seed (R367). -/
  seed   : DWord
  /-- Workgroups completed (R170). -/
  completed : Nat
  /-- Nanoseconds it has been incomplete since it entered DISTRIBUTING (R361). -/
  spent  : Nat
  /-- Partials held for it (R261). -/
  partials : List Partial
  /-- Lines of its context's pool that are its reduction area (R262, R381). -/
  area   : List Nat
  /-- A contribution found no room in its reduction area: no partial is applied (R262). -/
  exhausted : Bool
  /-- Its completion word has been sent to another package, whose answer is awaited (R373). -/
  sent   : Bool
  /-- Its partials have been applied or sent, and some that were sent to other packages are not answered (R373). -/
  applying : Bool
  /-- The cause of an abort that waits for that to end (R374). -/
  aborting : Option Nat
  /-- Its completion word has been written or reported (R373). -/
  written : Bool
  deriving DecidableEq, Repr, Inhabited

/-- Who holds a range of workgroup indices (R369). -/
inductive Holder where
  | chip
  | die (d : Nat)
  | cluster (c : Nat)
  deriving DecidableEq, Repr, Inhabited

/-- A range of indices not yet placed (R369). -/
structure Range where
  holder : Holder
  part   : Nat
  kernel : Nat
  lo     : Nat
  hi     : Nat
  prio   : Nat
  deriving DecidableEq, Repr, Inhabited

/-- The states of a context (R376). -/
inductive CState where
  | unused | created | bound | active | suspended | faulted | tornDown
  deriving DecidableEq, Repr, Inhabited

/-- A context (R376 to R379). -/
structure Context where
  st   : CState
  /-- The control block (R379). -/
  cb   : LineBits
  /-- The partition it is bound to (R376). -/
  part : Nat
  /-- SUSPEND is stopping it (R400). -/
  suspending : Bool
  /-- Device time at its SUSPEND (R400). -/
  suspAt : Nat
  /-- TEARDOWN is ending it (R403). -/
  tearing : Bool
  /-- Key slots, those set (R378). -/
  keys : Table (BitVec 128)
  deriving DecidableEq, Repr, Inhabited

-- Requests in flight -------------------------------------------------------------------------------------------

/-- What an agent of the device asks another package for: the work it belongs to (a command, a matrix operation, a migration or a
kernel, by the model's number) with its place there, or one reading of a queue's slot (R300, R336, R355, R367). -/
inductive AgentKey where
  | work (id n : Nat)
  | slot (part q : Nat) (n : Word) (tries : Nat)
  deriving DecidableEq, Repr, Inhabited

/-- An answer of another package that an agent has not used yet: a line, an acknowledgement, or a fault (R300, R413). -/
structure AgentAns where
  /-- The half-die the request was sent from. -/
  hd    : Nat
  key   : AgentKey
  va    : DWord
  fault : Option PFault
  line  : Option Line
  deriving DecidableEq, Repr, Inhabited

/-- A reduction accepted and not yet performed at its home Kettle (R253). -/
structure KReq where
  id   : Nat
  slot : Nat
  lane : Nat
  pa   : Nat
  op   : KOp
  w64  : Bool
  x    : DWord
  va   : DWord
  /-- Its recess stamp (R240). -/
  stamp : Nat
  part : Nat
  /-- It is a release (R219). -/
  rel  : Bool
  deriving DecidableEq, Repr

/-- A watch on a location (R255). -/
structure Watch where
  slot : Nat
  lane : Nat
  pa   : Nat
  eq   : Bool
  val  : Word
  o    : OrdSc
  /-- The recess stamp of the access that waits (R240). -/
  stamp : Nat
  deriving DecidableEq, Repr

/-- Whose heavy fault it is, and of what address (R335). -/
structure Noted where
  ctx    : Nat
  va     : DWord
  kernel : Nat
  widx   : Nat
  wid    : Nat
  deriving DecidableEq, Repr, Inhabited

/-- A group of ranks that has stopped: the ranks that have not issued yet stop with the cause when they do (R315). -/
structure GroupStop where
  gid   : Nat
  epoch : Nat
  /-- The partition it stopped in, and the FASNs of its ranks in this package. -/
  part  : Nat
  fasns : List Nat
  cause : Nat
  frank : Nat
  /-- The ranks that have stopped. -/
  ranks : List Nat
  deriving DecidableEq, Repr, Inhabited

/-- A memory processor's watch on a page-table entry (R335). -/
structure HeavyWatch where
  pte  : Nat
  part : Nat
  /-- Packages to be told RESOLVED, with the page VA and FASN each was refused for (R420). -/
  tell : List (BitVec 10 × DWord × BitVec 16)
  /-- The heavy faults a notice has been written for. -/
  noted : List Noted
  deriving DecidableEq, Repr, Inhabited

/-- What a remote answer is used for (R466). -/
inductive Want where
  | nothing
  /-- Nothing, for a store of bytes from an offset in the line on. -/
  | store (off : Nat)
  /-- A load's bytes: offset in the line, width, and the 32 × row + lane of D. -/
  | load (off : Nat) (w : Width) (key : Nat)
  /-- A whole line into a row. -/
  | line (row : Nat)
  /-- A uniform load. -/
  | unif (off : Nat) (w64 : Bool) (d : Nat)
  /-- An ATM's old value. -/
  | atm (w64 : Bool) (key : Nat)
  /-- A shape record into a slot. -/
  | shape (slot : Nat)
  /-- One line slot of a tile. -/
  | tile (n j : Nat)
  /-- An engine's command line (R296). -/
  | cmd
  /-- Nothing, for a store of a commit at an offset in the line, by threads of a warp (R187, R233). -/
  | commit (off wid : Nat) (lanes : List Nat)
  /-- Nothing, for the completion word of a kernel (R373). -/
  | word (k : Nat)
  /-- An agent's line, or the acknowledgement of its write (R300, R336, R355, R367). -/
  | agent (key : AgentKey)
  deriving DecidableEq, Repr

/-- An access sent to another package and not answered (R421, R422, R466). -/
structure Remote where
  id    : Nat
  /-- Source half-die, stream and peer: the triple (R422). -/
  hd    : Nat
  stream : Nat
  peer  : Nat
  req   : Request
  slot  : Nat
  lane  : Nat
  /-- The pending result it fills, if any. -/
  pend  : Option Nat
  want  : Want
  /-- The operations of the warp's store buffer on the line when it was sent (R186). -/
  patch  : List BufOp
  /-- The leaf's PASSIX (R417). -/
  ctx   : Nat
  passix : Nat
  /-- Device time of the first sending and of the last (R427). -/
  first : Nat
  last  : Nat
  /-- Refused with code 8 and held for RESOLVED (R466). -/
  held  : Bool
  /-- Its recess stamp (R240). -/
  stamp : Nat
  /-- The workgroup it belongs to, by the model's number (R236). -/
  wg    : Nat
  /-- It was sent by a commit of the workgroup's store buffers (R187). -/
  commit : Bool
  /-- It is an acquire by its thread (R219). -/
  acq   : Bool
  /-- It reads a page in remote-cached-read-only mode, and what it reads may be held (R234). -/
  ro    : Bool
  deriving DecidableEq, Repr

/-- A request that has passed the checks of R416 and R420 and waits for its turn (R231, R424). -/
structure HeldReq where
  /-- The half-die it arrived at. -/
  hd    : Nat
  req   : Request
  /-- The context it is for, and where its translation took it (R420). -/
  ctx   : Nat
  pa    : Nat
  mtype : Nat
  /-- Its recess stamp (R240). -/
  stamp : Nat
  deriving DecidableEq, Repr

/-- The destination's record of a source triple (R422). -/
structure Triple where
  part   : Nat
  speer  : Nat
  shd    : Nat
  stream : Nat
  /-- LOW (R422). -/
  low    : BitVec 16
  /-- Sequence numbers performed at or above LOW (R422). -/
  ahead  : List (BitVec 16)
  /-- Responses of packets performed at or above LOW − 256 (R422). -/
  cache  : List (BitVec 16 × Response)
  /-- Packets held for their turn: with OF until LOW reaches them, or behind such a packet to their line (R231, R424). -/
  held   : List HeldReq
  /-- Packets performed per path since the last response (R412). -/
  cnt    : List Nat
  /-- The packet whose restart mark began the triple (R428). -/
  first  : Option Request
  /-- Packets refused with code 8 whose copy has not come yet, with their lines (R231, R424). -/
  asked  : List (BitVec 16 × DWord)
  deriving DecidableEq, Repr, Inhabited

/-- A packet sent by the module (R409 to R412). -/
inductive Packet where
  | req (p : Request)
  | rsp (r : Response)
  deriving DecidableEq, Repr

/-- What the module does toward the host (R235, R453, R455, R460, R463, R464). [DESIGN CHOICE, log 85] -/
inductive HostMsg where
  /-- A DMA write of a line. -/
  | dmaLine (addr : DWord) (l : LineBits)
  /-- A DMA write of bytes. -/
  | dmaBytes (addr : DWord) (bs : List Byte)
  /-- An MSI-X signal. -/
  | msix (vector : Nat)
  /-- A read completed with data. -/
  | data (bs : List Byte)
  /-- A read completed with Completer Abort (R453). -/
  | completerAbort
  /-- A read completed with Unsupported Request (R463). -/
  | unsupported
  /-- Configuration Request Retry Status (R464). -/
  | retryStatus
  /-- A configuration request answered by the endpoint. -/
  | configured
  deriving DecidableEq, Repr

-- Host-side registers ------------------------------------------------------------------------------------------

/-- The setup window (R377). -/
structure Setup where
  /-- SETARG. -/
  arg    : DWord
  /-- SETSTAT.BUSY. -/
  busy   : Bool
  /-- SETSTAT.STATUS. -/
  status : Byte
  /-- SETSTAT.DONE. -/
  done   : Word
  /-- The command that runs: OP and CTX of SETCMD. -/
  op     : Nat
  ctx    : Nat
  /-- The argument line, once read (R377). -/
  line   : LineBits
  /-- It has been read and checked; the command's effect is under way. -/
  begun  : Bool
  deriving DecidableEq, Repr, Inhabited

/-- The error window (R455). -/
structure ErrWin where
  base  : DWord
  cfg   : DWord
  widx  : Word
  ridx  : Word
  drops : Word
  cecnt : Word
  deriving DecidableEq, Repr, Inhabited

/-- The management mailbox (R460). -/
structure Mailbox where
  buf    : DWord
  busy   : Bool
  status : Byte
  done   : Word
  op     : Nat
  deriving DecidableEq, Repr, Inhabited

/-- The aperture control page (R463): the registers, and the values that govern host accesses now. -/
structure Aperture where
  base    : DWord
  line    : Bool
  applied : Bool
  /-- A write of APBASE or APMODE does not govern yet. -/
  wrote   : Bool
  nowBase : DWord
  nowLine : Bool
  deriving DecidableEq, Repr, Inhabited

/-- A monitor (R456). [DESIGN CHOICE, log 84] -/
structure Monitor where
  /-- MONCFG. -/
  cfg  : DWord
  min  : Word := 0xFFFFFFFF
  max  : Word
  cnt  : DWord
  bins : Table Word
  deriving DecidableEq, Repr, Inhabited

/-- A scale-up port's state (R426). -/
inductive PState where
  | disabled | training | up | replay | down
  deriving DecidableEq, Repr, Inhabited

/-- A scale-up port (R408, R426). -/
structure Port where
  st      : PState
  /-- Device time at which it went DOWN (R426). -/
  since   : Nat
  deriving DecidableEq, Repr, Inhabited

/-- An image slot of the flash (R459, R460). -/
structure Image where
  bytes : Memory
  /-- Byte 0 of IMGSTAT: 0 empty, 1 accepted, 2 rejected, 3 written since. -/
  st    : Nat
  deriving DecidableEq, Repr, Inhabited

/-- The 48 V input (R29). -/
inductive Input where
  | off | valid | low | high
  deriving DecidableEq, Repr, Inhabited

-- The machine --------------------------------------------------------------------------------------------------

/-- The state of the module. -/
structure State where
  /-- Data bytes of memory by package physical address (R20, R37). -/
  mem     : Memory
  /-- Sideband bytes at 16 × line + j for the line at 128 × line: CHK at 4 and 5, TAG at 6, SCALE0 to SCALE7 at 7 to 14
  (R37). -/
  side    : Memory
  /-- Lines with an uncorrectable storage error (R41). -/
  badLines : List Nat
  /-- 8-byte words of memory, by address / 8, that hold an undefined value wherever a walk takes one for an entry: written by
  anything but a compare-and-swap since the last (R331). -/
  loose   : List Nat
  /-- KV pages that are sealed: header line and frame (R340). -/
  sealedKv : List (Nat × Nat)
  /-- The model's own: storage errors that come, a line after each step, in order: uncorrectable, or corrected (R41, R455). -/
  upsets  : List (Nat × Bool)
  /-- Resident warps by warp slot: (4 × core + quadrant) × 16 + QSLOT (R169). -/
  warps   : Table Warp
  /-- Resident workgroups by the model's number. -/
  wgs     : Table Workgroup
  /-- Quadrants by 4 × core + quadrant (R9). -/
  quads   : Table Quad
  /-- Cores by global core number (R9). -/
  cores   : Table Core
  /-- Clusters by 12 × die + cluster (R9). -/
  clusters : Table Cluster
  /-- Half-dies by index (R24). -/
  halves  : Table HalfDie
  /-- Partitions by number (R25). -/
  parts   : Table Partition
  /-- Queues by 256 × partition + queue (R352). -/
  queues  : Table Queue
  /-- Kernels by the model's number, in order of acceptance (R356). -/
  kernels : Table Kernel
  /-- Ranges of indices held in the distributor tree (R369). -/
  ranges  : List Range
  /-- The queue last served, by holder and level (R357, R369). -/
  rr      : Table Nat
  /-- The distributors still to be served in a holder's round for a kernel, by both (R369). -/
  rounds  : Table (List Holder)
  /-- Saved workgroups (R392). -/
  frames  : List Frame
  /-- Contexts by number (R376). -/
  ctxs    : Table Context
  /-- Variable-latency results pending (R81). -/
  pend    : List Pending
  /-- Reductions not yet performed (R253). -/
  kreqs   : List KReq
  /-- Watches armed by threads (R255). -/
  watches : List Watch
  /-- Watches armed by memory processors (R335, R420). -/
  heavies : List HeavyWatch
  /-- Accesses sent to other packages (R466). -/
  remotes : List Remote
  /-- Answers that agents of the device have not used yet (R300). -/
  answers : List AgentAns
  /-- Groups that have stopped, for the ranks here that have not issued (R315). -/
  stops   : List GroupStop
  /-- Next SSEQ per source triple: (half-die × 16 + stream) × 1024 + peer (R422). -/
  sseqs   : Table Nat
  /-- Source triples whose next request carries a restart mark, listed as started (R428). -/
  begun   : List Nat
  /-- Source triples kept as a destination (R422). -/
  triples : List Triple
  /-- Packets sent, oldest first, each with its egress port (R407). -/
  fabricOut : List (Nat × Packet)
  /-- Packets looped back inside the package, oldest first, each with the half-die it arrives at (R407). -/
  loop    : List (Nat × Packet)
  /-- What was done toward the host, oldest first. -/
  hostOut : List HostMsg
  /-- DEVTIME, nanoseconds (R358). -/
  devtime : Nat
  /-- CLKSTAT.LOCKED (R358). -/
  locked  : Bool
  /-- Nanoseconds of a small correction by which the clock is still to be slewed (R358). -/
  slew    : Int
  /-- LOCKED has been 1 since bring-up (R359, R416). -/
  everLocked : Bool
  /-- The setup window (R377). -/
  setup   : Setup
  /-- The error window (R455). -/
  err     : ErrWin
  /-- The mailbox (R460). -/
  mbox    : Mailbox
  /-- The aperture (R463). -/
  ap      : Aperture
  /-- Monitors by 64 × die + k (R456). -/
  mons    : Table Monitor
  /-- Scale-up ports by 4 × die + port (R408). -/
  ports   : Table Port
  /-- Die-to-die links that have failed, by 4 × lower die + higher die (R406). -/
  d2dDown : List Nat
  /-- Flash image slots (R459). -/
  images  : Table Image
  /-- The image accepted at the last reset (R459). -/
  accepted : Option Nat
  /-- The rollback floor (R459). -/
  floor   : Word
  /-- The package number, set by the accepted image (R407, R459). -/
  pkg     : Nat
  /-- The 48 V input (R29). -/
  input   : Input
  /-- Power is on and bring-up has finished (R464). -/
  up      : Bool
  /-- Issue throttling is asked for by the power limits (R461). -/
  throttle : Bool
  /-- The model's own: the next free value (R5). -/
  fresh   : Nat
  /-- The model's own: the next number for a record or request. -/
  nextId  : Nat
  /-- The model's own: outside events and agents' moves that come next, in order. -/
  agenda  : List Instr
  /-- The model's own: the quadrant whose bundle issues. -/
  focus   : Nat
  deriving DecidableEq, Repr, Inhabited

/-- Why the model stops with a fault. -/
inductive Fault where
  /-- An event names a die, half-die, cluster, core, quadrant, partition, queue or port that the module does not have
  (R9, R13, R25, R352): no such event can arrive. Raised by the meanings of events; safe. -/
  | noSuchUnit
  deriving DecidableEq, Repr

/-- Why the model refuses an instruction. -/
inductive Refusal where
  /-- The instruction has no meaning in the model yet. Raised only by the arms of `exec`; safe. -/
  | notModelled (mnemonic : String)
  deriving DecidableEq, Repr

/-- The machine right after device reset (R37, R459, R464): memory is zero, nothing is placed, no partition exists, and
the module waits for its input. The package number stays 0 until an image is accepted (R460). [DESIGN CHOICE, log 6] [DEDUCED, log 7] -/
def State.reset : State := default

end Sys2Proof.Machine
end

