-- ==== Sys2Proof/Machine/Bits.lean ====
section
/-! DEFINITION. Bit-field, byte-order and counting helpers; check16 of a block line (R40); mix64 and draw (R48, R49); and
AES-128-CMAC of a hall pass (R415). -/
namespace Sys2Proof.Machine

/-- Bits [lo + n - 1 : lo] of a number (R10). -/
def fld (x lo n : Nat) : Nat := x / 2 ^ lo % 2 ^ n
/-- Bit i of a number. -/
def tst (x i : Nat) : Bool := x / 2 ^ i % 2 == 1
/-- Bits [lo + n - 1 : lo] of a bit vector, as a number (R10). -/
def bf {w : Nat} (x : BitVec w) (lo n : Nat) : Nat := fld x.toNat lo n
/-- The low w bits read as signed (sx of the manual). -/
def sx (w x : Nat) : Int := if 2 * (x % 2 ^ w) < 2 ^ w then (x % 2 ^ w : Nat) else (x % 2 ^ w : Nat) - (2 ^ w : Nat)
/-- An integer reduced modulo 2^w. -/
def wrap (w : Nat) (x : Int) : Nat := (x % (2 ^ w : Nat)).toNat
/-- A number rounded up to a multiple of m. -/
def roundUp (x m : Nat) : Nat := (x + m - 1) / m * m
/-- The quotient rounded up. -/
def ceilDiv (x m : Nat) : Nat := (x + m - 1) / m

/-- The number of 1 bits among the low n bits. -/
def popAux (x : Nat) : Nat → Nat
  | 0 => 0
  | n + 1 => popAux x n + (if tst x n then 1 else 0)
/-- The number of 1 bits. -/
def popcount {w : Nat} (x : BitVec w) : Nat := popAux x.toNat w
/-- Leading zero bits of the low n bits. -/
def clzAux (x : Nat) : Nat → Nat
  | 0 => 0
  | n + 1 => if tst x n then 0 else clzAux x n + 1
/-- Trailing zero bits among bits i to i + n - 1. -/
def ctzAux (x i : Nat) : Nat → Nat
  | 0 => 0
  | n + 1 => if tst x i then 0 else ctzAux x (i + 1) n + 1
/-- Bit i of the result is bit w - 1 - i of the source. -/
def bitReverse (x w : Nat) : Nat := (List.range w).foldl (fun r i => r + (if tst x i then 2 ^ (w - 1 - i) else 0)) 0

/-- Byte i of a line's data (R37). -/
def dataByte (d : LineBits) (i : Nat) : Byte := d.extractLsb' (8 * i) 8
/-- Bytes i to i + n - 1 of a line's data, as a little-endian number. -/
def dataField (d : LineBits) (i n : Nat) : Nat := d.toNat / 2 ^ (8 * i) % 2 ^ (8 * n)
/-- A line's data from its 32 words, word 0 first (R42). -/
def lineOfWords (ws : List Nat) : LineBits := BitVec.ofNat 1024 (ws.foldr (fun w r => w % 2 ^ 32 + 2 ^ 32 * r) 0)
/-- A line's data from its bytes, byte 0 first. -/
def lineOfBytes (bs : List Nat) : LineBits := BitVec.ofNat 1024 (bs.foldr (fun w r => w % 256 + 256 * r) 0)
/-- Word i of a line's data (R42). -/
def lineWord (d : LineBits) (i : Nat) : Word := d.extractLsb' (32 * i) 32
/-- Field [hi:lo] written into a number that is 0 there. -/
def put (x lo v : Nat) : Nat := x + v * 2 ^ lo

-- check16 -----------------------------------------------------------------------------------------------------

/-- One bit of the CRC with polynomial 0x8BB7 (R40). -/
def crcBit (c : Nat) (b : Bool) : Nat :=
  let d := c * 2 % 65536
  if tst c 15 = b then d else d.xor 0x8BB7
/-- The low n bits of a byte, most significant first. -/
def crcBits (c b : Nat) : Nat → Nat
  | 0 => c
  | n + 1 => crcBits (crcBit c (tst b n)) b n
/-- One byte (R40). -/
def crcByte (c b : Nat) : Nat := if c + b = 0 then 0 else crcBits c b 8
/-- The n bytes of x from its lowest on. -/
def crcBytes (c x : Nat) : Nat → Nat
  | 0 => c
  | n + 1 => if c + x = 0 then 0 else crcBytes (crcByte c (x % 256)) (x / 256) n
/-- check16 of a line: data bytes, the tag byte, the scale slots (R40). -/
def check16 (l : Line) : BitVec 16 :=
  BitVec.ofNat 16 (crcBytes (crcByte (crcBytes 0 l.data.toNat 128) l.tag.toNat) l.scales.toNat 8)

-- Draws -------------------------------------------------------------------------------------------------------

/-- mix64 (R48). -/
def mix64 (x : DWord) : DWord :=
  let x := x ^^^ (x >>> 32)
  let x := x * 0x8F1B6D4E93A72C55#64
  let x := x ^^^ (x >>> 29)
  let x := x * 0xB5D20E714A9C63E9#64
  x ^^^ (x >>> 32)

/-- draw (R49). -/
def draw (seed : DWord) (stream counter : Nat) : BitVec 16 :=
  let h := mix64 (seed ^^^ BitVec.ofNat 64 stream)
  let h := mix64 (h ^^^ BitVec.ofNat 64 counter)
  h.extractLsb' 48 16

/-- A thread's stream identity (R49). -/
def streamId (launch wgidx warp lane : Nat) : Nat := launch * 2 ^ 34 + wgidx * 2 ^ 10 + warp * 2 ^ 5 + lane

-- AES-128 and CMAC --------------------------------------------------------------------------------------------

/-- Multiplication by x in the field of AES. -/
def xtime (b : Nat) : Nat := if b < 128 then 2 * b else (2 * b % 256).xor 0x1B
/-- Product of two bytes in the field of AES, over the low n bits of the second. -/
def gmul (a b : Nat) : Nat → Nat
  | 0 => 0
  | n + 1 => (if tst b 0 then a else 0).xor (gmul (xtime a) (b / 2) n)
/-- The S-box of AES, entry 0 in the low byte. -/
def sboxTable : Nat := 
  0x16BB54B00F2D99416842E6BF0D89A18CDF2855CEE9871E9B948ED9691198F8E19E1DC186B95735610EF6034866B53E708A8BBD4B1F74DDE8C6B4A61C2E2578BA08AE7A65EAF4566CA94ED58D6D37C8E779E4959162ACD3C25C2406490A3A32E0DB0B5EDE14B8EE4688902A22DC4F816073195D643D7EA7C41744975FEC130CCDD2F3FF1021DAB6BCF5389D928F40A351A89F3C507F02F94585334D43FBAAEFD0CF584C4A39BECB6A5BB1FC20ED00D153842FE329B3D63B52A05A6E1B1A2C830975B227EBE28012079A059618C323C7041531D871F1E5A534CCF73F362693FDB7C072A49CAFA2D4ADF04759FA7DC982CA76ABD7FE2B670130C56F6BF27B777C63
/-- The substitute of a byte. -/
def sbox (b : Nat) : Nat := sboxTable / 2 ^ (8 * b) % 256
/-- A 16-byte string, byte 0 first, as a list of bytes. -/
def blockBytes (x : Nat) : List Nat := (List.range 16).map (fun i => x / 2 ^ (8 * i) % 256)
/-- The next word of the key schedule from the first and last of the last four, with a round constant or none. -/
def keyRound (rc : Nat) (k : List Nat) : List Nat :=
  let b := fun i => k.getD i 0
  let t := [(sbox (b 13)).xor rc, sbox (b 14), sbox (b 15), sbox (b 12)]
  let w0 := (List.range 4).map (fun i => (b i).xor (t.getD i 0))
  let w1 := (List.range 4).map (fun i => (b (4 + i)).xor (w0.getD i 0))
  let w2 := (List.range 4).map (fun i => (b (8 + i)).xor (w1.getD i 0))
  let w3 := (List.range 4).map (fun i => (b (12 + i)).xor (w2.getD i 0))
  w0 ++ w1 ++ w2 ++ w3
/-- SubBytes and ShiftRows. -/
def subShift (s : List Nat) : List Nat :=
  (List.range 16).map (fun i => sbox (s.getD ((i + 4 * (i % 4)) % 16) 0))
/-- MixColumns. -/
def mixColumns (s : List Nat) : List Nat :=
  (List.range 16).map (fun i =>
    let c := i / 4 * 4
    let e := fun j => s.getD (c + (i + j) % 4) 0
    ((gmul (e 0) 2 8).xor (gmul (e 1) 3 8)).xor ((e 2).xor (e 3)))
/-- AddRoundKey. -/
def xorBytes (a b : List Nat) : List Nat := List.zipWith Nat.xor a b
/-- The middle rounds of AES, one per round constant, then the last. -/
def aesRounds (s k : List Nat) : List Nat → List Nat
  | [] => s
  | [rc] => xorBytes (subShift s) (keyRound rc k)
  | rc :: r => aesRounds (xorBytes (mixColumns (subShift s)) (keyRound rc k)) (keyRound rc k) r
/-- AES-128 of a block under a key, byte 0 first (R415). -/
def aes128 (key block : List Nat) : List Nat :=
  aesRounds (xorBytes block key) key [0x01, 0x02, 0x04, 0x08, 0x10, 0x20, 0x40, 0x80, 0x1B, 0x36]
/-- A 16-byte string as a big-endian number, doubled in the field of CMAC. -/
def cmacDouble (b : List Nat) : List Nat :=
  let x := b.foldl (fun r v => r * 256 + v) 0
  let y := if x < 2 ^ 127 then 2 * x else (2 * x % 2 ^ 128).xor 0x87
  (List.range 16).map (fun i => y / 2 ^ (8 * (15 - i)) % 256)
/-- AES-128-CMAC of a message shorter than a block (R415). [DEDUCED, log 80] -/
def cmac (key msg : List Nat) : List Nat :=
  let k2 := cmacDouble (cmacDouble (aes128 key (List.replicate 16 0)))
  aes128 key (xorBytes (msg ++ [0x80] ++ List.replicate (15 - msg.length) 0) k2)

/-- The MAC of a pass's low 40 bits for a source package and an exporter (R415): T byte 0 in bits [23:16]. [DEDUCED, log 80] -/
def passMac (key : BitVec 128) (low40 speer fasn : Nat) : Nat :=
  let m := (List.range 5).map (fun i => low40 / 2 ^ (8 * i) % 256) ++ [speer % 256, speer / 256 % 256, fasn % 256, fasn / 256 % 256]
  let t := cmac (blockBytes key.toNat) m
  t.getD 0 0 * 65536 + t.getD 1 0 * 256 + t.getD 2 0

end Sys2Proof.Machine
end

