-- ==== Sys2Proof/Machine/Num.lean ====
section
/-! DEFINITION. Numbers of the formats (R32 to R36): exact values, decoding, `round` (R45), exact sums and products with the
special values of R147, blocks and their scales (R38, R52 to R55), and the correctly rounded functions of R155. -/
namespace Sys2Proof.Machine

/-- An exact value: NaN, an infinity, or (−1)^neg × m × 2^e. -/
inductive Num where
  | nan
  | inf (neg : Bool)
  | fin (neg : Bool) (m : Nat) (e : Int)
  deriving DecidableEq, Repr, Inhabited

/-- A format (R32). -/
structure FFmt where
  /-- Stored significand bits. -/
  man   : Nat
  bias  : Nat
  width : Nat
  /-- Code of the largest finite value. -/
  maxc  : Nat
  /-- Code of +∞, if the format has infinities. -/
  infc  : Option Nat
  /-- nan_result (R46). -/
  nanc  : Nat
  emax  : Int
  /-- A format of R45 that always saturates. -/
  sats  : Bool
  /-- The MXINT8 element (R33). -/
  int8  : Bool
  deriving DecidableEq, Repr

def FFmt.f32 : FFmt := ⟨23, 127, 32, 0x7F7FFFFF, some 0x7F800000, 0x7FC00000, 127, false, false⟩
def FFmt.f16 : FFmt := ⟨10, 15, 16, 0x7BFF, some 0x7C00, 0x7E00, 15, false, false⟩
def FFmt.bf16 : FFmt := ⟨7, 127, 16, 0x7F7F, some 0x7F80, 0x7FC0, 127, false, false⟩
def FFmt.e4m3 : FFmt := ⟨3, 7, 8, 0x7E, none, 0x7F, 8, false, false⟩
def FFmt.e5m2 : FFmt := ⟨2, 15, 8, 0x7B, some 0x7C, 0x7E, 15, false, false⟩
def FFmt.e3m2 : FFmt := ⟨2, 3, 6, 0x1F, none, 0, 4, true, false⟩
def FFmt.e2m3 : FFmt := ⟨3, 1, 6, 0x1F, none, 0, 2, true, false⟩
def FFmt.e2m1 : FFmt := ⟨1, 1, 4, 0x7, none, 0, 2, true, false⟩
def FFmt.mxi8 : FFmt := ⟨6, 0, 8, 127, none, 0, 0, true, true⟩

/-- The value of a code (R32, R33). -/
def FFmt.decode (f : FFmt) (code : Nat) : Num :=
  let half := 2 ^ (f.width - 1)
  let neg := tst code (f.width - 1)
  let a := code % half
  if f.int8 then (if neg then .fin true (half - a) (-6) else .fin false a (-6))
  else if f.infc = some a then .inf neg
  else if f.maxc < a then .nan
  else
    let x := a / 2 ^ f.man
    if x = 0 then .fin neg a (1 - f.bias - f.man) else .fin neg (2 ^ f.man + a % 2 ^ f.man) ((x : Int) - f.bias - f.man)
/-- The value of an FP32 word. -/
def f32 (x : Word) : Num := FFmt.f32.decode x.toNat

/-- The value is NaN or infinite. -/
def Num.nonfin : Num → Bool
  | .fin _ _ _ => false
  | _ => true
/-- A finite zero. -/
def Num.isZero : Num → Bool
  | .fin _ 0 _ => true
  | _ => false
/-- The sign. -/
def Num.neg : Num → Bool
  | .nan => false
  | .inf n => n
  | .fin n _ _ => n
/-- The magnitude. -/
def Num.mag : Num → Num
  | .nan => .nan
  | .inf _ => .inf false
  | .fin _ m e => .fin false m e
/-- The exact value times 2^k. -/
def Num.scale (x : Num) (k : Int) : Num := match x with
  | .fin n m e => .fin n m (e + k)
  | y => y
/-- An integer as a value. -/
def Num.ofInt (x : Int) : Num := .fin (decide (x < 0)) x.natAbs 0

/-- m × 2^e as an integer once 2^q is the unit; exponents below q must not drop bits. -/
def alignTo (m : Nat) (e q : Int) : Nat := m * 2 ^ (e - q).toNat

/-- The exact sum, with the special values and signs of R147; `rdn` is that the rounding is toward −∞. -/
def Num.add (rdn : Bool) (x y : Num) : Num := match x, y with
  | .nan, _ => .nan
  | _, .nan => .nan
  | .inf a, .inf b => if a = b then .inf a else .nan
  | .inf a, _ => .inf a
  | _, .inf b => .inf b
  | .fin a m e, .fin b n f =>
    if m = 0 ∧ n = 0 then .fin (if a = b then a else rdn) 0 0
    else
      let q := min e f
      let s : Int := (if a then -1 else 1) * (alignTo m e q : Int) + (if b then -1 else 1) * (alignTo n f q : Int)
      if s = 0 then .fin rdn 0 0 else .fin (decide (s < 0)) s.natAbs q
/-- The exact product, with the special values of R147. -/
def Num.mul (x y : Num) : Num := match x, y with
  | .nan, _ => .nan
  | _, .nan => .nan
  | .inf a, .inf b => .inf (a != b)
  | .inf a, .fin b n _ => if n = 0 then .nan else .inf (a != b)
  | .fin a m _, .inf b => if m = 0 then .nan else .inf (a != b)
  | .fin a m e, .fin b n f => .fin (a != b) (m * n) (e + f)

/-- a ≤ b for finite magnitudes. -/
def magLe (m : Nat) (e : Int) (n : Nat) (f : Int) : Bool :=
  let q := min e f
  decide (alignTo m e q ≤ alignTo n f q)
/-- x < y for values that are not NaN; the zeros are equal. -/
def Num.lt (x y : Num) : Bool := match x, y with
  | .nan, _ => false
  | _, .nan => false
  | .inf a, .inf b => a && !b
  | .inf a, _ => a
  | _, .inf b => !b
  | .fin a m e, .fin b n f =>
    let q := min e f
    let u : Int := (if a then -1 else 1) * (alignTo m e q : Int)
    let v : Int := (if b then -1 else 1) * (alignTo n f q : Int)
    decide (u < v)

/-- A rounding mode with its draw (R45). -/
inductive Mode where
  | rne | rtz | rdn | rup
  | sr (g : Nat)
  deriving DecidableEq, Repr
/-- A mode of an instruction with the draw it takes. -/
def Rnd.mode (r : Rnd) (g : Nat) : Mode := match r with
  | .rne => .rne
  | .rtz => .rtz
  | .rdn => .rdn
  | .rup => .rup
  | .sr => .sr g

/-- The choice between k and k + 1 units for m × 2^e, the unit being 2^q, the sign `neg` (R45). -/
def roundUnits (md : Mode) (neg : Bool) (m : Nat) (e q : Int) : Nat :=
  if q ≤ e then m * 2 ^ (e - q).toNat
  else
    let d := 2 ^ (q - e).toNat
    let k := m / d
    let r := m % d
    if r = 0 then k
    else
      let up := match md with
        | .rne => decide (d < 2 * r) || (decide (2 * r = d) && k % 2 == 1)
        | .rtz => false
        | .rdn => neg
        | .rup => !neg
        | .sr g => decide (65536 ≤ r * 65536 / d + g)
      if up then k + 1 else k

/-- A finite magnitude brought to where no format distinguishes it further: beyond every overflow, or below every draw. -/
def settleMag (m : Nat) (e : Int) : Nat × Int :=
  let E := e + Nat.log2 m
  if E > 300 then (1, 300) else if E < -400 then (1, -400) else (m, e)

/-- The unit of a format at a magnitude m × 2^e > 0: the spacing of grid(fmt) there (R45, R33). -/
def FFmt.unit (f : FFmt) (m : Nat) (e : Int) : Int :=
  if f.int8 then -6 else max (e + Nat.log2 m) (1 - f.bias) - f.man
/-- The code of k units of 2^q without its sign. -/
def FFmt.code (f : FFmt) (k : Nat) (q : Int) : Nat := if f.int8 then k else (q - (1 - f.bias - f.man)).toNat * 2 ^ f.man + k
/-- A code with a sign; zero of MXINT8 has none (R45). -/
def FFmt.signed (f : FFmt) (neg : Bool) (c : Nat) : Nat :=
  if f.int8 then (if neg then (256 - c) % 256 else c) else c + (if neg then 2 ^ (f.width - 1) else 0)

/-- round (R45): exactly one rounding of an exact value. -/
def FFmt.round (f : FFmt) (md : Mode) (sat : Bool) (x : Num) : Nat := match x with
  | .nan => f.nanc
  | .inf s => if sat || f.sats then f.signed s f.maxc else match f.infc with
    | some c => f.signed s c
    | none => f.nanc
  | .fin s 0 _ => f.signed s 0
  | .fin s m e =>
    let (m, e) := settleMag m e
    let q := f.unit m e
    let c := f.code (roundUnits md s m e q) q
    if c ≤ f.maxc then f.signed s c
    else if sat || f.sats then f.signed s f.maxc
    else
      let inward := match md with
        | .rtz => true
        | .rdn => !s
        | .rup => s
        | _ => false
      if inward then f.signed s f.maxc else match f.infc with
        | some c => f.signed s c
        | none => f.nanc
/-- round to FP32. -/
def toF32 (md : Mode) (sat : Bool) (x : Num) : Word := BitVec.ofNat 32 (FFmt.f32.round md sat x)
/-- round(x, f32, rne, 0). -/
def rneF32 (x : Num) : Word := toF32 .rne false x

/-- The finite value nearest under a mode among the integers, or the value itself where it is not finite (R154, R157). -/
def Num.toIntegral (md : Mode) (x : Num) : Num := match x with
  | .fin s m e =>
    if m = 0 then .fin s 0 0
    else
      let (m, e) := settleMag m e
      .fin s (roundUnits md s m e 0) 0
  | y => y
/-- FRND (R154): a magnitude of 2^23 or more is integral already. -/
def frnd (md : Mode) (sat : Bool) (x : Num) : Word := toF32 .rne sat (x.toIntegral md)
/-- An integer from an FP value, clamped to [lo, hi] (R157). -/
def clampInt (md : Mode) (x : Num) (lo hi : Int) : Int := match x.toIntegral md with
  | .nan => 0
  | .inf s => if s then lo else hi
  | .fin s m _ =>
    let v : Int := if s then -(m : Int) else m
    if v < lo then lo else if hi < v then hi else v

-- Integer roots and the functions of R155 ------------------------------------------------------------------------

/-- The root of n built from bit b − 1 down, starting from r. -/
def isqrtAux (n r : Nat) : Nat → Nat
  | 0 => r
  | b + 1 => if (r + 2 ^ b) * (r + 2 ^ b) ≤ n then isqrtAux n (r + 2 ^ b) b else isqrtAux n r b
/-- ⌊√n⌋. -/
def isqrt (n : Nat) : Nat := isqrtAux n 0 (Nat.log2 n / 2 + 1)
/-- A truncated magnitude with one more bit that says whether anything was cut off. -/
def sticky (neg exact : Bool) (m : Nat) (e : Int) : Num := .fin neg (2 * m + (if exact then 0 else 1)) (e - 1)

/-- 1/a (R155). -/
def Num.recip (x : Num) : Num := match x with
  | .nan => .nan
  | .inf s => .fin s 0 0
  | .fin s m e =>
    if m = 0 then .inf s
    else
      let k := Nat.log2 m + 80
      sticky s (2 ^ k % m == 0) (2 ^ k / m) (-(k : Int) - e)
/-- √a (R155). -/
def Num.sqrt (x : Num) : Num := match x with
  | .nan => .nan
  | .inf s => if s then .nan else .inf false
  | .fin s m e =>
    if m = 0 then .fin s 0 0 else if s then .nan
    else
      let m1 := if e % 2 = 0 then m else 2 * m
      let e1 := if e % 2 = 0 then e else e - 1
      let n := m1 * 2 ^ 160
      let r := isqrt n
      sticky false (r * r == n) r (e1 / 2 - 80)
/-- 1/√a (R155). -/
def Num.rsqrt (x : Num) : Num := match x with
  | .nan => .nan
  | .inf s => if s then .nan else .fin false 0 0
  | .fin s m e =>
    if m = 0 then .inf s else if s then .nan
    else
      let m1 := if e % 2 = 0 then m else 2 * m
      let e1 := if e % 2 = 0 then e else e - 1
      let k := Nat.log2 m1 + 80
      let r := isqrt (2 ^ (2 * k) / m1)
      sticky false (r * r * m1 == 2 ^ (2 * k)) r (-(k : Int) - e1 / 2)

/-- Bounds of 2^f in units of 2^−p, where the bits of f after the point are bits n − 1 to 0 of `f`: the factor of the
bit in hand is the root of the one before. -/
def exp2Bits (p f : Nat) (cl ch lo hi : Nat) : Nat → Nat × Nat
  | 0 => (lo, hi)
  | n + 1 =>
    let cl := isqrt (cl * 2 ^ p)
    let ch := isqrt (ch * 2 ^ p) + 1
    if tst f n then exp2Bits p f cl ch (lo * cl / 2 ^ p) (hi * ch / 2 ^ p + 1) n else exp2Bits p f cl ch lo hi n
/-- Bounds of the fraction of log2 y, y from 1 to 2 in units of 2^−w, by squaring: the bits found and their number. -/
def log2Bits (w lo hi acc cnt : Nat) : Nat → Nat × Nat
  | 0 => (acc, cnt)
  | n + 1 =>
    let l := lo * lo / 2 ^ w
    let h := hi * hi / 2 ^ w + 1
    if 2 * 2 ^ w ≤ l then log2Bits w (l / 2) (h / 2 + 1) (2 * acc + 1) (cnt + 1) n
    else if h < 2 * 2 ^ w then log2Bits w l h (2 * acc) (cnt + 1) n
    else (acc, cnt)
/-- Bounds of log2 (m × 2^e) − not a power of two − at a precision. -/
def log2Bounds (m : Nat) (e : Int) (p : Nat) : Num × Num :=
  let l := Nat.log2 m
  let w := 2 * p + 32
  let y := m * 2 ^ (w - l)
  let (acc, cnt) := log2Bits w y y 0 0 p
  let i : Int := e + l
  (Num.add false (Num.ofInt i) (.fin false acc (-(cnt : Int))), Num.add false (Num.ofInt i) (.fin false (acc + 1) (-(cnt : Int))))
/-- Bounds of 2^(±m × 2^e), e < 0, at a precision. -/
def exp2Bounds (s : Bool) (m : Nat) (e : Int) (p : Nat) : Num × Num :=
  let n := (-e).toNat
  let v : Int := if s then -(m : Int) else m
  let i := v / (2 ^ n : Nat)
  let f := (v % (2 ^ n : Nat)).toNat
  let (lo, hi) := exp2Bits p f (2 * 2 ^ p) (2 * 2 ^ p) (2 ^ p) (2 ^ p) n
  (.fin false lo (i - p), .fin false hi (i - p))
/-- The rounding of a value from bounds, at the first precision at which both round alike (R155). -/
def roundBounds (b : Nat → Num × Num) : List Nat → Word
  | [] => rneF32 (b 1024).1
  | p :: r =>
    let (lo, hi) := b p
    if rneF32 lo = rneF32 hi then rneF32 lo else roundBounds b r

/-- FEXP2 (R155). -/
def fexp2 (x : Num) : Word := match x with
  | .nan => rneF32 .nan
  | .inf s => if s then rneF32 (.fin false 0 0) else rneF32 (.inf false)
  | .fin s m e =>
    if m = 0 then rneF32 (.fin false 1 0)
    else if 10 ≤ e + Nat.log2 m then (if s then rneF32 (.fin false 0 0) else rneF32 (.inf false))
    else if e + Nat.log2 m < -40 then rneF32 (.fin false 1 0)
    else if 0 ≤ e ∨ m % 2 ^ (-e).toNat = 0 then
      let v := if 0 ≤ e then m * 2 ^ e.toNat else m / 2 ^ (-e).toNat
      rneF32 (.fin false 1 (if s then -(v : Int) else v))
    else roundBounds (exp2Bounds s m e) [96, 192, 384]
/-- FLOG2 (R155). -/
def flog2 (x : Num) : Word := match x with
  | .nan => rneF32 .nan
  | .inf s => if s then rneF32 .nan else rneF32 (.inf false)
  | .fin s m e =>
    if m = 0 then rneF32 (.inf true) else if s then rneF32 .nan
    else if m = 2 ^ Nat.log2 m then rneF32 (Num.ofInt (e + Nat.log2 m))
    else roundBounds (log2Bounds m e) [96, 192, 384]

-- Sums of products (R52, R159) -------------------------------------------------------------------------------------

/-- The exact sum of products of decoded elements, with blockdot's NaN and infinity rules (R52). -/
def dotSum (a b : List Num) : Num :=
  let ps := List.zipWith Num.mul a b
  if ps.any (· == .nan) then .nan
  else if ps.any (· == .inf false) && ps.any (· == .inf true) then .nan
  else if ps.any (· == .inf false) then .inf false
  else if ps.any (· == .inf true) then .inf true
  else ps.foldl (Num.add false) (.fin false 0 0)
/-- blockdot: elements decoded without their scales, and the scale codes (R52). -/
def blockdot (a : List Num) (sa : Nat) (b : List Num) (sb : Nat) : Num :=
  if sa = 0xFF || sb = 0xFF || a.contains .nan || b.contains .nan then .nan
  else (dotSum a b).scale ((sa : Int) - 127 + ((sb : Int) - 127))
/-- accumulate (R52). -/
def accumulate (acc : Word) (s : Num) : Word :=
  if s = .nan || f32 acc = .nan then rneF32 .nan
  else if s.isZero then acc
  else rneF32 ((f32 acc).add false s)

/-- The exact product of a drain, clipped unless it is NaN (R53). [DEDUCED, log 91] -/
def drainVal (clip : Bool) (x m lo hi : Num) : Num :=
  let v := x.mul m
  if clip && v != .nan then (let u := if v.lt lo then lo else v; if hi.lt u then hi else u) else v

-- Blocks (R35, R38, R54, R55) -----------------------------------------------------------------------------------------

/-- The element format of a tag from 0x1 to 0x9. -/
def tagFmt : Nat → FFmt
  | 1 => .e4m3 | 2 => .e5m2 | 3 => .e3m2 | 4 => .e2m3 | 5 => .e2m1 | 6 => .mxi8 | 7 => .bf16 | 8 => .f16 | _ => .f32
/-- The format of an instruction's MX suffix, and its tag. -/
def MxFmt.tag : MxFmt → Nat
  | .e4m3 => 1 | .e5m2 => 2 | .e3m2 => 3 | .e2m3 => 4 | .e2m1 => 5 | .mxi8 => 6
/-- Blocks of 32 elements in a line of a tag: R38's blocks, or the groups of BF16, FP16 and FP32 (R52, R165). -/
def tagBlocks : Nat → Nat
  | 1 => 4 | 2 => 4 | 3 => 5 | 4 => 5 | 5 => 8 | 6 => 4 | 7 => 2 | 8 => 2 | _ => 1
/-- A tag of a microscaled format. -/
def tagMx (t : Nat) : Bool := 1 ≤ t && t ≤ 6
/-- Code of element i of block j of a line with a tag (R38). -/
def elemCode (t : Nat) (d : LineBits) (j i : Nat) : Nat :=
  let w := (tagFmt t).width
  bf d (32 * w * j + w * i) w
/-- Elements of a block without its scale. -/
def blockElems (t : Nat) (d : LineBits) (j : Nat) : List Num :=
  (List.range 32).map (fun i => (tagFmt t).decode (elemCode t d j i))
/-- Scale slot j of the eight (R37). -/
def slotOf (s : DWord) (j : Nat) : Nat := bf s (8 * j) 8
/-- The scale code of block j: 127 for the formats without scales. -/
def blockScale (t : Nat) (s : DWord) (j : Nat) : Nat := if tagMx t then slotOf s j else 127
/-- Elements of a block decoded under its scale (R35). -/
def decodeBlock (t : Nat) (l : Line) (j : Nat) : List Num :=
  let c := blockScale t l.scales j
  (blockElems t l.data j).map (fun x => if c = 0xFF then .nan else x.scale ((c : Int) - 127))
/-- Blocks of 32 codes each laid out in a line (R38); padding is 0 (R39). -/
def layBlocks (t : Nat) (blocks : List (List Nat)) : LineBits :=
  let w := (tagFmt t).width
  BitVec.ofNat 1024 (blocks.flatten.foldr (fun c r => c % 2 ^ w + 2 ^ w * r) 0)
/-- Scale codes as slots, slot 0 first. -/
def laySlots (cs : List Nat) : DWord := BitVec.ofNat 64 (cs.foldr (fun c r => c % 256 + 256 * r) 0)

/-- The largest magnitude of a block, NaN if an element is NaN or infinite (R55). -/
def amax (v : List Num) : Num :=
  if v.any Num.nonfin then .nan else v.foldl (fun a x => if a.lt x.mag then x.mag else a) (.fin false 0 0)
/-- mx_scale (R54). -/
def mxScale (a : Num) (f : FFmt) (sel : Sel) : Nat := match a with
  | .fin _ 0 _ => 0x7F
  | .fin _ m e =>
    let e0 : Int := e + Nat.log2 m - f.emax + 127
    let top := match f.decode f.maxc with
      | .fin _ n k => magLe m (e + (127 - e0)) n k
      | _ => true
    let e1 := match sel with
      | .floor => e0
      | .fit => if top then e0 else e0 + 1
    (min (max e1 0) 254).toNat
  | _ => 0xFF
/-- quantise_block (R55): the codes and the scale; `mode k` is element k's. -/
def quantiseBlock (v : List Num) (f : FFmt) (sel : Sel) (mode : Nat → Mode) : List Nat × Nat :=
  let sc := mxScale (amax v) f sel
  if sc = 0xFF then (v.map (fun _ => 0), sc)
  else (v.zipIdx.map (fun x => f.round (mode x.2) true (x.1.scale (127 - (sc : Int)))), sc)

end Sys2Proof.Machine
end

