-- ==== Sys2Proof/Config.lean ====
section
/-! DEFINITION. What the manual leaves to a part or to the outside: the free values of its undefined results, and the
outcomes of computations it names and does not lay out (image format, signatures, identity, certificate). None has a body,
so nothing can be proved about any of their values. -/
namespace Sys2Proof.Config

/-- The k-th undefined value (R5, R6, R8): any number at all; a field takes its low bits. -/
opaque freeValue : Nat → Nat

/-- The fixed hash of a line's address that chooses its Kettle bank (R244). -/
opaque kettleBank : Nat → Nat

/-- The undefined value of a page-table entry written by something other than a compare-and-swap, by its address and the
bytes written (R331). -/
opaque looseEntry : Nat → Nat → Nat

/-- A latched operand as a saved frame's matrix section holds it, by its format, blocks per column, columns, and the scale and
elements of each block; nothing for an empty latch (R293, R393). -/
opaque latchImage : List Nat → Nat

/-- DETAIL of an error record whose parts the manual names without laying them out (R455), by class and parts. -/
opaque errDetail : Nat → List Nat → Nat

/-- Whether an image slot's bytes carry a matching SHA-256 digest and a signature that verifies under the root key (R459);
the image's layout is not in the manual. -/
opaque imageVerified : Memory → Bool
/-- The version of an image (R459). -/
opaque imageVersion : Memory → BitVec 32
/-- The SHA-256 digest of an image, its byte 0 in the low bits (R459, R460). -/
opaque imageDigest : Memory → BitVec 256
/-- What the ROM raises the rollback floor toward, from the floor and the version accepted (R459). -/
opaque raisedFloor : BitVec 32 → BitVec 32 → BitVec 32
/-- The package number an image configures (R407, R459). -/
opaque imagePackage : Memory → BitVec 10
/-- The identity public key's X and Y (R459, R460). -/
opaque identityX : BitVec 256
opaque identityY : BitVec 256
/-- r and s of the identity key's signature over a message's SHA-256, byte 0 of the message first (R459, R460); the
signature's randomness is the counter. -/
opaque signR : List Byte → Nat → BitVec 256
opaque signS : List Byte → Nat → BitVec 256
/-- The identity certificate written at manufacture, 1 to 4092 bytes (R460). -/
opaque certificate : List Byte
/-- The k-th attempt to write flash fails (STATUS 4, R460). -/
opaque flashFails : Nat → Bool

end Sys2Proof.Config
end

