-- ==== Sys2Proof/Machine/Mem.lean ====
section
/-! DEFINITION. Accessors of the machine's records; lines of memory with their check values (R37 to R41, R450 to R452);
watches and how a write wakes them (R255); error records (R455); address regions (R20, R247, R308, R454). Every write to
memory goes through `State.poke` or `State.putLine`. -/
namespace Sys2Proof.Machine

-- Free values -------------------------------------------------------------------------------------------------

/-- A free value, and the state that has used it (R5, R6). [DESIGN CHOICE, log 4] -/
def State.free (s : State) : Nat × State := (Config.freeValue s.fresh, { s with fresh := s.fresh + 1 })
/-- A fresh number for a record. -/
def State.newId (s : State) : Nat × State := (s.nextId, { s with nextId := s.nextId + 1 })

-- Records -----------------------------------------------------------------------------------------------------

def State.warp (s : State) (k : Nat) : Warp := s.warps.get k
def State.setWarp (s : State) (k : Nat) (w : Warp) : State := { s with warps := s.warps.put k w }
def State.modWarp (s : State) (k : Nat) (f : Warp → Warp) : State := s.setWarp k (f (s.warp k))
def Warp.thread (w : Warp) (lane : Nat) : Thread := w.threads.get lane
def Warp.modThread (w : Warp) (lane : Nat) (f : Thread → Thread) : Warp := { w with threads := w.threads.put lane (f (w.thread lane)) }
def State.thread (s : State) (k lane : Nat) : Thread := (s.warp k).thread lane
def State.modThread (s : State) (k lane : Nat) (f : Thread → Thread) : State := s.modWarp k (·.modThread lane f)
def State.wgOf (s : State) (k : Nat) : Workgroup := s.wgs.get (s.warp k).wg
def State.modWg (s : State) (g : Nat) (f : Workgroup → Workgroup) : State := { s with wgs := s.wgs.put g (f (s.wgs.get g)) }
def State.quad (s : State) (q : Nat) : Quad := s.quads.get q
def State.modQuad (s : State) (q : Nat) (f : Quad → Quad) : State := { s with quads := s.quads.put q (f (s.quad q)) }
def State.core (s : State) (c : Nat) : Core := s.cores.get c
def State.modCore (s : State) (c : Nat) (f : Core → Core) : State := { s with cores := s.cores.put c (f (s.core c)) }
def State.cluster (s : State) (c : Nat) : Cluster := s.clusters.get c
def State.modCluster (s : State) (c : Nat) (f : Cluster → Cluster) : State := { s with clusters := s.clusters.put c (f (s.cluster c)) }
def State.half (s : State) (h : Nat) : HalfDie := s.halves.get h
def State.modHalf (s : State) (h : Nat) (f : HalfDie → HalfDie) : State := { s with halves := s.halves.put h (f (s.half h)) }
def State.part (s : State) (p : Nat) : Partition := s.parts.get p
def State.modPart (s : State) (p : Nat) (f : Partition → Partition) : State := { s with parts := s.parts.put p (f (s.part p)) }
def State.kernel (s : State) (k : Nat) : Kernel := s.kernels.get k
def State.modKernel (s : State) (k : Nat) (f : Kernel → Kernel) : State := { s with kernels := s.kernels.put k (f (s.kernel k)) }
def State.ctx (s : State) (c : Nat) : Context := s.ctxs.get c
def State.modCtx (s : State) (c : Nat) (f : Context → Context) : State := { s with ctxs := s.ctxs.put c (f (s.ctx c)) }
def State.kernelOf (s : State) (k : Nat) : Kernel := s.kernel (s.wgOf k).kernel
/-- The context of a warp slot's workgroup. -/
def State.ctxOf (s : State) (slot : Nat) : Nat := (s.kernelOf slot).ctx

-- Places (R9, R24): warp slot → quadrant → core → cluster → half-die → die
def quadOf (slot : Nat) : Nat := slot / 16
def coreOf (slot : Nat) : Nat := slot / 64
def clusterOf (slot : Nat) : Nat := slot / 512
def halfOf (slot : Nat) : Nat := slot / 3072
def coreHalf (core : Nat) : Nat := core / 48
/-- The half-dies of a partition, ascending (R25). -/
def State.partHalves (s : State) (p : Nat) : List Nat :=
  (List.range 8).filter (fun h => (s.half h).member && (s.half h).part == p)

-- Control block fields (R379)
def Context.ptroot (c : Context) : Nat := bf c.cb 0 64
def Context.tvec (c : Context) : DWord := c.cb.extractLsb' 64 64
def Context.seed (c : Context) : DWord := c.cb.extractLsb' 128 64
def Context.fabase (c : Context) : Nat := bf c.cb 192 64
def Context.fasn (c : Context) : Nat := bf c.cb 256 16
def Context.fasize (c : Context) : Nat := bf c.cb 288 32
def Context.kvage (c : Context) : Nat := bf c.cb 320 32
def Context.migth (c : Context) : Nat := bf c.cb 352 16
def Context.nframe (c : Context) : Nat := bf c.cb 368 16
def Context.rplines (c : Context) : Nat := bf c.cb 384 32
def Context.kvhb (c : Context) : DWord := c.cb.extractLsb' 448 64
def Context.migq (c : Context) : DWord := c.cb.extractLsb' 512 64
def Context.ptab (c : Context) : Nat := bf c.cb 576 64

-- Launch packet fields (R353, R363)
def Kernel.csig (k : Kernel) : DWord := k.line0.extractLsb' 960 64
def Kernel.dbase (k : Kernel) : DWord := k.line0.extractLsb' 128 64
def Kernel.rrec (k : Kernel) : DWord := k.line0.extractLsb' 832 64
def Kernel.cbase (k : Kernel) : Nat := bf k.line0 768 64
def Kernel.csize (k : Kernel) : Nat := bf k.line0 736 32
def Kernel.entry (k : Kernel) : DWord := k.line0.extractLsb' 672 64
def Kernel.launch (k : Kernel) : Nat := bf k.line0 656 16
def Kernel.rsl (k : Kernel) : Nat := bf k.line0 640 16
def Kernel.rrl (k : Kernel) : Nat := bf k.line0 616 24
def Kernel.seedov (k : Kernel) : Bool := k.line0.getLsbD 610
def Kernel.repeatable (k : Kernel) : Bool := k.line0.getLsbD 609
def Kernel.fuse (k : Kernel) : Bool := k.line0.getLsbD 608
def Kernel.nwarps (k : Kernel) : Nat := bf k.line0 576 5 + 1
def Kernel.wgCount (k : Kernel) : Nat := bf k.line0 551 25
def Kernel.wgFirst (k : Kernel) : Nat := bf k.line0 512 24
def Kernel.time (k : Kernel) : Nat := bf k.line0 64 64
def Kernel.serial (k : Kernel) : Bool := k.line0.getLsbD 38
def Kernel.latep (k : Kernel) : Bool := k.line0.getLsbD 37
def Kernel.isTimed (k : Kernel) : Bool := k.line0.getLsbD 36
-- Resource record fields (R365)
def Kernel.xb (k : Kernel) : Nat := bf k.record 0 4
def Kernel.nrost (k : Kernel) : Nat := bf k.record 4 4
def Kernel.scratch (k : Kernel) : Nat := bf k.record 8 20
def Kernel.tiles (k : Kernel) : BitVec 16 := k.record.extractLsb' 32 16
def Kernel.mctx (k : Kernel) : Nat := bf k.record 48 2
def Kernel.shape (k : Kernel) (n : Nat) : Nat := bf k.record (128 + 16 * n) 16

/-- A kernel in PENDING to DRAINING (R366). -/
def KState.live : KState → Bool
  | .pending | .armed | .distributing | .running | .draining => true
  | _ => false

-- Regions of physical memory ------------------------------------------------------------------------------------

/-- The half-die of a populated address (R20, R21). -/
def homeHalf (pa : Nat) : Nat := pa / 2 ^ 36
/-- Populated HBM: the first 54 × 10^9 bytes of a half-die's window (R20). -/
def populated (pa : Nat) : Bool := pa < 2 ^ 39 && pa % 2 ^ 36 < 54000000000
/-- n bytes from pa lie in populated HBM of a partition (R22, R326). -/
def State.inPart (s : State) (p pa n : Nat) : Bool :=
  populated pa && populated (pa + n - 1) && homeHalf pa == homeHalf (pa + n - 1)
    && (s.half (homeHalf pa)).member && (s.half (homeHalf pa)).part == p
/-- The Kettle's overflow area (R247). -/
def inOverflow (pa : Nat) : Bool := 0xC80000000 ≤ pa % 2 ^ 36 && pa % 2 ^ 36 < 0xC80000000 + 28 * 2 ^ 20
/-- The channel area (R308). -/
def inChannelArea (pa : Nat) : Bool := 0xC90400000 ≤ pa % 2 ^ 36 && pa % 2 ^ 36 < 0xC90401000
/-- A canonical address: bits [63:51] all 0 or all 1 (R192). -/
def canonical (va : DWord) : Bool := bf va 51 13 == 0 || bf va 51 13 == 8191
/-- The areas the management processor reserves in a half-die (R28, R247, R308, R333, R418). -/
def reservedArea (pa : Nat) : Bool :=
  let o := pa % 2 ^ 36
  inOverflow pa || inChannelArea pa || (0xC90401000 ≤ o && o < 0xC90401000 + 128 + 8 * 2048)
    || (0xC90406000 ≤ o && o < 0xC90406000 + 128 + 8 * 2048) || (0xC9040B000 ≤ o && o < 0xC9040B000 + 128 + 8 * 2048)

-- Lines -------------------------------------------------------------------------------------------------------

/-- The line n as memory holds it (R37). -/
def State.line (s : State) (n : Nat) : Line :=
  { data := BitVec.ofNat 1024 (s.mem.read (128 * n) 128), tag := BitVec.ofNat 4 (s.side.read (16 * n + 6) 1),
    scales := BitVec.ofNat 64 (s.side.read (16 * n + 7) 8) }
/-- Its stored check value (R37). -/
def State.chk (s : State) (n : Nat) : BitVec 16 := BitVec.ofNat 16 (s.side.read (16 * n + 4) 2)
/-- What an exit of the line finds: TINFO 2 for an uncorrectable error, 1 for a check value that does not match (R41,
R450). -/
def State.lineBad (s : State) (n : Nat) : Option Nat :=
  if s.badLines.contains n then some 2 else if check16 (s.line n) = s.chk n then none else some 1
/-- The same for a line read into registers, tiles or an engine, where a reserved tag fails too, TINFO 3 (R39, R198). -/
def State.lineFault (s : State) (n : Nat) : Option Nat :=
  match s.lineBad n with
  | some i => some i
  | none => if (s.line n).tag.toNat ≥ 10 then some 3 else none

/-- The sideband bytes CHK, TAG and scales of a line (R37). -/
def sideBytes (l : Line) : Nat :=
  (check16 l).toNat + 2 ^ 16 * (l.tag.toNat + 2 ^ 8 * l.scales.toNat)

-- Error records (R455) ------------------------------------------------------------------------------------------

/-- Write an error record and signal it, or count it as dropped. -/
def State.report (s : State) (cls detail addr ctx die : Nat) (part : Option Nat) : State :=
  let e := s.err
  if e.cfg.getLsbD 8 && decide ((e.widx - e.ridx).toNat < 2 ^ bf e.cfg 0 5) then
    let n := e.widx.toNat
    let rec0 := put (put (put (put (put (put (put (put 0 0 (n % 2 ^ 26)) 26 die) 28 (if part.isSome then 1 else 0)) 29 (part.getD 0))
      40 cls) 48 ctx) 64 (detail % 2 ^ 64)) 128 (addr % 2 ^ 64)
    let l := BitVec.ofNat 1024 (put rec0 192 (s.devtime % 2 ^ 64))
    let at0 := e.base + BitVec.ofNat 64 (128 * (n % 2 ^ bf e.cfg 0 5))
    { s with err := { e with widx := e.widx + 1 }, hostOut := s.hostOut ++ [.dmaLine at0 l, .msix 0] }
  else { s with err := { e with drops := e.drops + 1 } }

-- Watches -----------------------------------------------------------------------------------------------------

/-- ok(v) of R255. -/
def waitOk (eq : Bool) (v t : Word) : Bool := if eq then v == t else decide ((v - t).toNat < 2 ^ 31)

/-- The scopes that reach past a core's L1 (R212, R218). -/
def ordWide : OrdSc → Bool
  | .plain | .core => false
  | _ => true

/-- The core whose L1 array serves a core: its own, or that of its fused cluster (R190, R191). -/
def State.l1Home (s : State) (core : Nat) : Nat := if (s.cluster (core / 8)).fused then core / 8 * 8 else core
def State.l1 (s : State) (core : Nat) : L1 := (s.core (s.l1Home core)).l1
def State.modL1 (s : State) (core : Nat) (f : L1 → L1) : State := s.modCore (s.l1Home core) (fun c => { c with l1 := f c.l1 })
/-- An acquire by a thread of a core discards the L1's lines when its scope is wider than the core (R218). [DESIGN CHOICE, log 30] [DESIGN CHOICE, log 107] -/
def State.acquire (s : State) (core : Nat) (o : OrdSc) : State := if ordWide o then s.modL1 core (fun _ => []) else s
/-- Discard one line from a core's L1. -/
def State.dropL1 (s : State) (core n : Nat) : State := s.modL1 core (·.erase n)

-- Where a line is held (R24, R190, R245, R246) -----------------------------------------------------------------------

/-- Lines an L1 array has room for: 256 KiB, or 2 MiB when fused (R15, R16). -/
def State.l1Lines (s : State) (core : Nat) : Nat := if (s.cluster (core / 8)).fused then 16384 else 2048
/-- Lines the L2 slices of a half-die have room for: 96 slices of 512 KiB (R13, R24). -/
def l2Lines : Nat := 393216
/-- Lines a half of the memory-side cache has room for: 1 GiB (R24). -/
def mscLines : Nat := 8388608
/-- The bank of a line among the 32 of its half-die's Kettle (R13, R24, R244). -/
def bankOf (n : Nat) : Nat := Config.kettleBank n % 32
/-- Cells of a Kettle bank (R245). -/
def bankCells : Nat := 2048

/-- A cache with room for `cap` lines holds lines of its package and copies of others'. -/
def cacheFull {α : Type} (cap : Nat) (t : Table α) (cs : List Copy) : Bool := decide (cap ≤ t.length + cs.length)
/-- The line a full cache gives up for another, the choice being free: an own line, or a copy; with what is left (R190). -/
def giveUp {α : Type} (cap pick : Nat) (t : Table α) (cs : List Copy) : Option (Nat × α) × Table α × List Copy :=
  if !cacheFull cap t cs then (none, t, cs)
  else
    let k := pick % (t.length + cs.length)
    match t[k]? with
    | some e => (some e, t.erase e.1, cs)
    | none => (none, t, cs.eraseIdx (k - t.length))
/-- A counter of free choices goes on where a choice was made. -/
def State.chose (s : State) (made : Bool) : State := if made then { s with fresh := s.fresh + 1 } else s

/-- A line taken into a core's L1 (R190). [DESIGN CHOICE, log 30] -/
def State.fillL1 (s : State) (core n : Nat) (l : Line) : State :=
  let c := s.core (s.l1Home core)
  if (c.l1.find n).isSome then s.modL1 core (·.put n l)
  else
    let (_, t, cs) := giveUp (s.l1Lines core) s.free.1 c.l1 c.copies
    (s.chose (cacheFull (s.l1Lines core) c.l1 c.copies)).modCore (s.l1Home core) (fun x => { x with l1 := t.put n l, copies := cs })
/-- A line passes through its half of the memory-side cache (R190). -/
def State.useMsc (s : State) (n : Nat) (dirty : Bool) : State :=
  let h := homeHalf (128 * n)
  let t := (s.half h).msc
  if (t.find n).isSome then s.modHalf h (fun x => { x with msc := x.msc.put n (dirty || t.get n) })
  else
    let (_, u, _) := giveUp mscLines s.free.1 t []
    (s.chose (cacheFull mscLines t [])).modHalf h (fun x => { x with msc := u.put n dirty })
/-- An access to a line at its home: its L2 slice holds it from then on, a dirty line given up going to the memory-side cache;
a line in a Kettle cell is served there (R190, R245). -/
def State.useL2 (s : State) (n : Nat) (dirty : Bool) : State :=
  let h := homeHalf (128 * n)
  if (s.half h).cells.contains n then s
  else
    let x := s.half h
    if (x.l2.find n).isSome then s.modHalf h (fun y => { y with l2 := y.l2.put n (dirty || x.l2.get n) })
    else
      let (v, t, cs) := giveUp l2Lines s.free.1 x.l2 x.copies
      let s1 := ((s.chose (cacheFull l2Lines x.l2 x.copies)).useMsc n false).modHalf h (fun y => { y with l2 := t.put n dirty, copies := cs })
      match v with
      | some (m, true) => s1.useMsc m true
      | _ => s1
/-- A line held by its home L2 slice and memory-side cache is written back and left clean (R210). -/
def State.cleanLine (s : State) (n : Nat) : State :=
  let clean := fun (t : Table Bool) => if (t.find n).isSome then t.put n false else t
  s.modHalf (homeHalf (128 * n)) (fun h => { h with l2 := clean h.l2, msc := clean h.msc })
/-- A line leaves its Kettle cell for its home (R246). -/
def State.homeLine (s : State) (n : Nat) : State :=
  (s.modHalf (homeHalf (128 * n)) (fun x => { x with cells := x.cells.filter (· ≠ n) })).useL2 n true

/-- The states of a synchronisation line (R246). -/
inductive CellState where
  | cold | held | watched | spilled
  deriving DecidableEq, Repr
/-- A watch is armed on a line. -/
def State.watchedLine (s : State) (n : Nat) : Bool := s.watches.any (fun w => w.pa / 128 == n)
/-- The state of a line (R246). -/
def State.cellState (s : State) (n : Nat) : CellState :=
  let h := s.half (homeHalf (128 * n))
  if h.cells.contains n then (if s.watchedLine n then .watched else .held)
  else if h.spilled.contains n && s.watchedLine n then .spilled else .cold
/-- The cell a full bank gives up: the least recently used HELD one, else the least recently used (R246). -/
def State.cellVictim (s : State) (n : Nat) : Option Nat :=
  let bank := (s.half (homeHalf (128 * n))).cells.filter (fun m => bankOf m == bankOf n)
  if bank.length < bankCells then none
  else match bank.reverse.find? (fun m => !s.watchedLine m) with
    | some m => some m
    | none => bank.getLast?
/-- A bank takes a line into a cell for an operation on it, giving up another line where it is full; a WATCHED line given up
is SPILLED (R245, R246). -/
def State.takeCell (s : State) (n : Nat) : State :=
  let h := homeHalf (128 * n)
  let held := (s.half h).cells.contains n
  let v := if held || decide ((s.half h).cells.length < bankCells) then none else s.cellVictim n
  let s1 := match v with
    | some m =>
      let t := s.homeLine m
      if s.watchedLine m then t.modHalf h (fun x => { x with spilled := m :: x.spilled }) else t
    | none => s
  s1.modHalf h (fun x => { x with cells := n :: x.cells.filter (· ≠ n), spilled := x.spilled.filter (· ≠ n) })

-- Tile writes that releases and acquires carry (R220 to R222, R226) -----------------------------------------------------

/-- A store of the bytes [a, a + w) of the scratchpad or of memory by a warp, `mine` if it is of the workgroup: a release leaves the
tile writes it knows of with the bytes, any other store leaves none; an atomic keeps those left before it (R220). -/
def Unready.publish (u : Unready) (mine keep rel : Bool) (wid : Nat) (sp : Bool) (a w : Nat) : Unready :=
  let old := if keep then u.flags else u.flags.filter (fun f => !(f.1 == sp && decide (a ≤ f.2) && decide (f.2 < a + w)))
  { u with flags := if mine && rel && u.seen.contains wid then (List.range w).map (fun i => (sp, a + i)) ++ old else old }
/-- An acquire by a warp of the workgroup that reads bytes a release left tile writes with knows of them (R220, R221). -/
def Unready.observe (u : Unready) (wid : Nat) (sp : Bool) (a w : Nat) : Unready :=
  if u.flags.any (fun f => f.1 == sp && decide (a ≤ f.2) && decide (f.2 < a + w)) && !u.seen.contains wid then { u with seen := u.seen ++ [wid] } else u
/-- A warp passes a FENCE: it knows of the tile writes that come before an earlier FENCE, and those it knows of come before later
ones (R222). -/
def Unready.fence (u : Unready) (wid : Nat) : Unready :=
  let u := if u.fenced && !u.seen.contains wid then { u with seen := u.seen ++ [wid] } else u
  { u with fenced := u.fenced || u.seen.contains wid }
/-- No tile write waits for an OPRDY. -/
def State.allReady (s : State) : Bool := List.all s.wgs (fun e => e.2.unready.isEmpty)
/-- A store by a warp, as what releases carry sees it. -/
def State.publishAs (s : State) (slot : Nat) (sp keep : Bool) (a w : Nat) (o : OrdSc) : State :=
  if s.allReady then s
  else { s with wgs := s.wgs.map (fun n g => if sp && n != (s.warp slot).wg then g else
    { g with unready := g.unready.map (fun u => u.publish (n == (s.warp slot).wg) keep (o != .plain) (s.warp slot).wid sp a w) }) }
/-- A plain store or a release of a warp. -/
def State.publish (s : State) (slot : Nat) (sp : Bool) (a w : Nat) (o : OrdSc) : State := s.publishAs slot sp false a w o
/-- A read by a warp, as what acquires learn sees it. -/
def State.observe (s : State) (slot : Nat) (sp : Bool) (a w : Nat) (o : OrdSc) : State :=
  if s.allReady || o == .plain then s
  else s.modWg (s.warp slot).wg (fun g => { g with unready := g.unready.map (fun u => u.observe (s.warp slot).wid sp a w) })
/-- A FENCE that a warp passes. -/
def State.fencePass (s : State) (slot : Nat) : State :=
  if s.allReady then s
  else s.modWg (s.warp slot).wg (fun g => { g with unready := g.unready.map (fun u => u.fence (s.warp slot).wid) })

/-- A waiting thread whose watch is satisfied becomes READY after its wait, its read an acquire (R255). -/
def State.wake (s : State) (w : Watch) : State :=
  let s := ((s.dropL1 (coreOf w.slot) (w.pa / 128)).acquire (coreOf w.slot) w.o).observe w.slot false w.pa 4 w.o
  s.modThread w.slot w.lane (fun t => { t with st := .ready, pc := t.pc + 4, why := .nothing })

/-- After a write to [lo, hi): each armed watch on a byte written is evaluated on the new value (R255). -/
def State.notify (s : State) (lo hi : Nat) : State :=
  let hit := fun (w : Watch) => decide (w.pa < hi) && decide (lo < w.pa + 4) && waitOk w.eq (BitVec.ofNat 32 (s.mem.read w.pa 4)) w.val
  let won := s.watches.filter hit
  let s1 := { s with watches := s.watches.filter (fun w => !hit w) }
  won.foldl State.wake s1

-- Writes ------------------------------------------------------------------------------------------------------

/-- Write a whole line: data, TAG and slots, with the reserved byte 0 and a new check value (R197, R205, R450). -/
def State.putLine (s : State) (n : Nat) (l : Line) : State :=
  let s := { s with mem := s.mem.write (128 * n) 128 l.data.toNat,
                    side := s.side.write (16 * n + 4) 12 (sideBytes l),
                    badLines := s.badLines.filter (· ≠ n) }
  (s.useL2 n true).notify (128 * n) (128 * n + 128)

/-- Merge `w` bytes of v at pa into their line, which must not leave the line: TAG and slots stay, the check value is made
anew (R197, R451). `none` when the old line fails its check: nothing is merged. -/
def State.poke (s : State) (pa w v : Nat) : Option State :=
  let n := pa / 128
  match s.lineBad n with
  | some _ => none
  | none =>
    let s := { s with mem := s.mem.write pa w v }
    let s := { s with side := s.side.write (16 * n + 4) 2 (check16 (s.line n)).toNat }
    some ((s.useL2 n true).notify pa (pa + w))

/-- A write by the device into an area it keeps; its line is always intact. -/
def State.pokeDev (s : State) (pa w v : Nat) : State := (s.poke pa w v).getD s

/-- Update a line held by a core's L1: a store changes a line that is present and allocates none (R190). -/
def State.storeL1 (s : State) (core pa w v : Nat) : State :=
  match (s.l1 core).find (pa / 128) with
  | none => s
  | some l =>
    let o := 8 * (pa % 128)
    let m := (2 ^ (8 * w) - 1) * 2 ^ o
    let d := l.data.toNat
    let d := d - (d &&& m) + (v % 2 ^ (8 * w)) * 2 ^ o
    s.modL1 core (·.put (pa / 128) { l with data := BitVec.ofNat 1024 d })

-- Device time
/-- Device milliseconds (R339, R414). -/
def State.millis (s : State) : Nat := s.devtime / 1000000

end Sys2Proof.Machine
end

