-- ==== Sys2Proof/Machine/Xlate.lean ====
section
/-! DEFINITION. Page tables: entries, walks, the rights, types and light faults of an access (R325 to R330, R22, R192,
R196), and the translations that TLBs and last-page registers hold (R193, R329, R334). -/
namespace Sys2Proof.Machine

/-- How a check of one access ends: it may go on, or a program fault, a light fault on an entry (R330), a heavy fault on
an entry (R335), or another condition to wait for. -/
inductive Ck (α : Type) where
  | ok (a : α)
  | fault (f : PFault)
  | light (l : LightFault)
  | heavy (pte : Nat)
  | lock (w : Why)
  deriving DecidableEq, Repr

/-- Go on with the next check where the one before passed. -/
def Ck.bind {α β : Type} (x : Ck α) (f : α → Ck β) : Ck β := match x with
  | .ok a => f a
  | .fault e => .fault e
  | .light l => .light l
  | .heavy p => .heavy p
  | .lock w => .lock w

/-- A fault of a cause with no detail (R383). -/
def pf (cause : Nat) (addr : DWord) (info : Nat := 0) : PFault := ⟨BitVec.ofNat 8 cause, BitVec.ofNat 32 info, addr⟩
/-- The check passes, or it is this fault. -/
def Ck.ensure (c : Bool) (f : PFault) : Ck Unit := if c then .ok () else .fault f

-- Walks (R325 to R329) ----------------------------------------------------------------------------------------

/-- Where a walk ends (R329). -/
inductive Walk where
  | leaf (t : Trans)
  | invalid
  | hold (pte : Nat)
  | integrity (info line : Nat)
  deriving DecidableEq, Repr

/-- The first index bit and the number of index bits of each level (R325). -/
def levels : List (Nat × Nat) := [(38, 14), (29, 9), (21, 8), (16, 5)]

/-- A leaf of SIZE at a level is malformed (R327 to R329); `sh` is the level's first index bit. -/
def leafMalformed (e sh : Nat) : Bool :=
  let mode := fld e 4 2
  let mt := fld e 9 2
  fld e 58 6 != 0 || fld e 13 3 != 0 || tst e 3
    || !((fld e 1 2 == 1 && sh == 16) || (fld e 1 2 == 2 && sh == 21) || (fld e 1 2 == 3 && sh == 29))
    || (mode == 0 && (fld e 16 32 * 2 ^ 16) % 2 ^ sh != 0)
    || (mode != 0 && fld e 40 8 != 0)
    || (tst e 8 && mt != 2)
    || (mode == 1 && mt != 0 && mt != 1) || (mode == 2 && mt != 0) || (mode == 3 && (mt != 0 || sh != 16))

/-- A table-pointer entry is malformed (R326); `n` is the number of index bits of the next level. -/
def State.pointerMalformed (s : State) (p e n : Nat) : Bool :=
  let next := fld e 8 40 * 256
  fld e 3 5 != 0 || fld e 48 16 != 0 || next % (8 * 2 ^ n) != 0 || !s.inPart p next (8 * 2 ^ n)

/-- The 8 bytes of a page-table entry: undefined where something other than a compare-and-swap wrote them (R331). -/
def State.entry (s : State) (a : Nat) : Nat :=
  if s.loose.contains (a / 8) then Config.looseEntry a (s.mem.read a 8) % 2 ^ 64 else s.mem.read a 8

/-- Read the levels in order, coherently, from a table on (R329); every entry's line is verified (R450). -/
def State.walkFrom (s : State) (ctx p va table : Nat) : List (Nat × Nat) → Walk
  | [] => .invalid
  | (sh, n) :: rest =>
    let a := table + 8 * fld va sh n
    if !s.inPart p a 8 then .invalid
    else match s.lineBad (a / 128) with
      | some i => .integrity i (a / 128)
      | none =>
        let e := s.entry a
        if !tst e 0 then (if tst e 3 then .hold a else .invalid)
        else if fld e 1 2 = 0 then
          match rest with
          | [] => .invalid
          | (_, m) :: _ => if s.pointerMalformed p e m then .invalid else s.walkFrom ctx p va (fld e 8 40 * 256) rest
        else if leafMalformed e sh then .invalid
        else .leaf { ctx, base := va - va % 2 ^ sh, size := 2 ^ sh, leaf := BitVec.ofNat 64 e, pte := a, count := 0 }

/-- A walk of a context's tree (R325, R379). -/
def State.walk (s : State) (ctx : Nat) (va : DWord) : Walk :=
  let c := s.ctx ctx
  s.walkFrom ctx c.part va.toNat c.ptroot levels

-- Held translations (R193, R329) --------------------------------------------------------------------------------

/-- A held translation covers the address in the context. -/
def Trans.hits (t : Trans) (ctx : Nat) (va : DWord) : Bool :=
  t.ctx == ctx && decide (t.base ≤ va.toNat) && decide (va.toNat < t.base + t.size)

/-- The translation a warp slot's lane holds: its last-page register, else the cluster's TLB (R193). -/
def State.heldTrans (s : State) (slot lane ctx : Nat) (va : DWord) : Option Trans :=
  let l := (s.quad (quadOf slot)).lpr.get lane
  if l.hits ctx va then some l else (s.cluster (clusterOf slot)).tlb.find? (·.hits ctx va)

/-- Who translates: a lane of a resident warp through its LPR and TLB, instruction fetch through the cluster's TLB, or an agent
that walks. -/
inductive Via where
  | lane (slot lane : Nat)
  | fetch (cluster : Nat)
  | agent
  deriving DecidableEq, Repr

/-- The translation of an address (R192, R329, R450). [DESIGN CHOICE, log 31] -/
def State.translate (s : State) (via : Via) (ctx : Nat) (va : DWord) : Ck Trans :=
  if !canonical va then .fault (pf 5 va)
  else
    let held := match via with
      | .lane slot lane => s.heldTrans slot lane ctx va
      | .fetch cluster => (s.cluster cluster).tlb.find? (·.hits ctx va)
      | .agent => none
    match held with
    | some t => .ok t
    | none => match s.walk ctx va with
      | .leaf t => .ok t
      | .invalid => .fault (pf 5 va)
      | .hold pte => .heavy pte
      | .integrity i _ => .fault (pf 7 va i)

/-- The kind allows a memory type (R196). -/
def AccKind.allows (k : AccKind) (mt : Nat) : Bool := match mt with
  | 0 => k.normal
  | 1 => k.sync
  | 2 => k.kv
  | _ => k.io

/-- Past the device register window lie the windows through which I/O pages reach the host's memory (R20, R235, R353); the
manual does not place them. [PRESUMED, log 102] -/
def ioHost (pa : Nat) : Bool := decide (0x8001140000 ≤ pa)
/-- Of the device register window an I/O access reaches only the queue window of its context's partition (R454, R467). -/
def ioAllowed (p pa : Nat) : Bool := ioHost pa || (0x8000000000 + 0x200000 * p ≤ pa && pa < 0x8000000000 + 0x200000 * (p + 1))

/-- Rights, memory type, place and light faults of an access through a translation (R22, R192, R196, R247, R308, R327,
R328, R330, R343). [DEDUCED, log 112] -/
def State.grant (s : State) (t : Trans) (va : DWord) (k : AccKind) : Ck Target :=
  let e := t.leaf.toNat
  let mode := fld e 4 2
  let mt := fld e 9 2
  let p := (s.ctx t.ctx).part
  let pa := fld e 16 32 * 2 ^ 16 + (va.toNat - t.base)
  let need := k.wr || k.atom
  let lit := if !tst e 11 || (need && !tst e 12) then some { pte := t.pte, size := t.size, dirty := need, ctx := t.ctx, va, kind := k : LightFault } else none
  if need && (!tst e 6 || mode == 2) then .fault (pf 6 va)
  else if k.ex && !tst e 7 then .fault (pf 6 va)
  else if !k.allows mt then .fault (pf 6 va)
  else if mode != 0 then
    match lit with
    | some l => .light l
    | none => .ok (.remote va t.leaf)
  else if pa ≥ 2 ^ 39 then
    if mt != 3 || !ioAllowed p pa then .fault (pf 6 va)
    else match lit with
      | some l => .light l
      | none => .ok (.io pa)
  else if !s.inPart p pa 1 then .fault (pf 5 va)
  else if inOverflow pa || (need && inChannelArea pa) then .fault (pf 6 va)
  else if mt == 2 && pa / 2 ^ 15 % 2 == 1 && (s.half (homeHalf pa)).converted.contains (pa / 2 ^ 16) then .fault (pf 5 va)
  else match lit with
    | some l => .light l
    | none => .ok (.mem pa mt)

/-- An access that passed its checks: the address, where it goes, and the translation taken. -/
structure Acc where
  va : DWord
  t  : Target
  tr : Trans
  deriving DecidableEq, Repr

/-- Alignment, canonical form, translation and permission of one access (R192, R196). -/
def State.access (s : State) (via : Via) (ctx w : Nat) (va : DWord) (k : AccKind) : Ck Acc :=
  if va.toNat % w ≠ 0 then .fault (pf 4 va)
  else (s.translate via ctx va).bind fun tr => (s.grant tr va k).bind fun t => .ok ⟨va, t, tr⟩

/-- The lane's LPR takes the translation just used, and so does the cluster's TLB (R193). [DESIGN CHOICE, log 31] -/
def State.fill (s : State) (slot lane : Nat) (tr : Trans) : State :=
  let s := s.modQuad (quadOf slot) (fun q => { q with lpr := q.lpr.put lane tr })
  s.modCluster (clusterOf slot) (fun c =>
    if c.tlb.any (fun x => x.ctx == tr.ctx && x.base == tr.base) then c else { c with tlb := tr :: c.tlb })

/-- Discard the translations held of an entry: a light fault's retry walks again (R330). -/
def State.dropEntry (s : State) (pte : Nat) : State :=
  { s with quads := s.quads.map (fun _ q => { q with lpr := q.lpr.filter (fun e => e.2.pte != pte) }),
           clusters := s.clusters.map (fun _ c => { c with tlb := c.tlb.filter (fun t => t.pte != pte) }) }

/-- What a read sent to another package brings, as a copy of a line (R234). -/
def Remote.copy (r : Remote) (line : Line) : Copy :=
  { ctx := r.ctx, peer := r.peer, fasn := r.req.fasn.toNat, va := r.req.va.toNat / 128 * 128, line }
/-- What reads already sent bring is not held, where the copy would have been discarded (R234). -/
def State.ageReads (s : State) (hs : List Nat) (bad : Copy → Bool) : State :=
  { s with remotes := s.remotes.map (fun r => if hs.contains r.hd && bad (r.copy default) then { r with ro := false } else r) }
/-- Discard the held translations of a context whose page meets [lo, hi), in the clusters of some half-dies, and the copies
these hold of lines of other packages that the context reaches there (R334). -/
def State.dropRange (s : State) (hs : List Nat) (ctx lo hi : Nat) : State :=
  let keep := fun (t : Trans) => !(t.ctx == ctx && decide (t.base < hi) && decide (lo < t.base + t.size))
  let bad := fun (x : Copy) => x.ctx == ctx && decide (x.va < hi) && decide (lo < x.va + 128)
  let stay := fun (x : Copy) => !bad x
  { s.ageReads hs bad with
    quads := s.quads.map (fun q v => if hs.contains (q / 192) then { v with lpr := v.lpr.filter (fun e => keep e.2) } else v)
    clusters := s.clusters.map (fun c v => if hs.contains (c / 6) then { v with tlb := v.tlb.filter keep } else v)
    cores := s.cores.map (fun c v => if hs.contains (coreHalf c) then { v with copies := v.copies.filter stay } else v)
    halves := s.halves.map (fun h v => if hs.contains h then { v with copies := v.copies.filter stay } else v) }
/-- The instruction caches of a partition discard lines, by the context and the address they were fetched for (R239, R378). -/
def State.dropCode (s : State) (p : Nat) (bad : Code → Bool) : State :=
  let hs := s.partHalves p
  { s with cores := s.cores.map (fun c v => if hs.contains (coreHalf c) then { v with icache := v.icache.filter (fun x => !bad x) } else v) }

/-- The 8-byte words, by address / 8, that [lo, hi) meets. -/
def wordsOf (lo hi : Nat) : List Nat := (List.range ((hi + 7) / 8 - lo / 8)).map (lo / 8 + ·)
/-- 8-byte words hold no definite entries (R331). -/
def State.blur (s : State) (ws : List Nat) : State := { s with loose := ws.filter (fun w => !s.loose.contains w) ++ s.loose }
/-- 8-byte words hold definite entries again (R331). -/
def State.settleWords (s : State) (ws : List Nat) : State := { s with loose := s.loose.filter (fun w => !ws.contains w) }
/-- A leaf of an entry still grants an access: V, well formed at its level, local for a fetch, and every check of the access but
A and D passes (R136, R330). -/
def State.stillGrants (s : State) (e : Nat) (l : LightFault) : Bool :=
  let sh := Nat.log2 l.size
  tst e 0 && fld e 1 2 != 0 && !leafMalformed e sh && (!l.kind.ex || fld e 4 2 == 0)
    && (match s.grant { ctx := l.ctx, base := l.va.toNat - l.va.toNat % 2 ^ sh, size := 2 ^ sh, leaf := BitVec.ofNat 64 e, pte := l.pte, count := 0 } l.va l.kind with
      | .fault _ => false
      | _ => true)
/-- The light-fault sequence of the memory processor on an entry (R330): read it, and set A, or A and D, by one
compare-and-swap where the entry still grants the access; nothing else of it changes. -/
def State.setBits (s : State) (l : LightFault) : State :=
  let old := s.entry l.pte
  if !s.stillGrants old l || (tst old 11 && (!l.dirty || tst old 12)) then s
  else
    let new := old + (if tst old 11 then 0 else 2 ^ 11) + (if l.dirty && !tst old 12 then 2 ^ 12 else 0)
    (s.pokeDev l.pte 8 new).settleWords [l.pte / 8]
/-- A valid header of undefined contents (R339, R340). -/
def freeHeader (v : Nat) : LineBits :=
  let acnt := fld v 512 16 % 513
  let surv := fld v 0 512 % 2 ^ acnt
  let fixed := put (put (put (put (put surv 512 (fld v 528 16)) 528 (popAux surv 512)) 544 acnt) 560 (1 + fld v 544 1)) 564 (fld v 545 1)
  BitVec.ofNat 1024 (put (put (put fixed 576 (fld v 546 64)) 640 (fld v 610 64)) 704 (fld v 674 64))
/-- A sealed page whose header something other than a KV step has rewritten holds undefined values, as its header does
(R340). [DEDUCED, log 101] -/
def State.spoilKv (s : State) (e : Nat × Nat) : State :=
  let (v, s) := s.free
  let s := { s with sealedKv := s.sealedKv.filter (· ≠ e) }
  let s := s.putLine e.1 { data := freeHeader v, tag := 0, scales := 0 }
  (List.range 512).foldl (fun s i => if populated (128 * (512 * e.2 + i)) then s.putLine (512 * e.2 + i)
    { data := BitVec.ofNat 1024 (fld v (1024 * (i + 1)) 1024), tag := BitVec.ofNat 4 (1 + fld v 544 1)
      scales := BitVec.ofNat 64 (fld v (1024 * 600 + 64 * i) 64) } else s) s
/-- First byte of frame slot j of a context (R381). -/
def State.frameBase (s : State) (ctx j : Nat) : Nat :=
  let c := s.ctx ctx
  c.fabase + ((1 + 48 * (s.partHalves c.part).length) + 4 * j) * 2 ^ 20
/-- The register overflow area of a core in a context's fault area: its slab by the core's place in the partition (R381). -/
def State.overflowSlab (s : State) (ctx core : Nat) : Nat :=
  let hs := s.partHalves (s.ctx ctx).part
  (s.ctx ctx).fabase + 2 ^ 20 * (1 + 48 * (hs.takeWhile (· != coreHalf core)).length + core % 48)
/-- The blocks a warp has in the overflow area hold undefined values. -/
def Warp.spoilMoved (w : Warp) (v : Nat) : Warp :=
  let rows := ((List.range 8).filter (fun k => w.xmoved.getLsbD k)).flatMap (fun k => (List.range 32).map (64 + 32 * k + ·))
  { w with
    vreg := rows.foldl (fun t r => (List.range 32).foldl (fun (t : Table Word) i => t.set (32 * r + i) (BitVec.ofNat 32 (fld v (1100 * r + 32 * i) 32))) t) w.vreg
    tags := rows.foldl (fun t r => t.set r (BitVec.ofNat 4 (fld v (1100 * r + 1024) 8 % 10))) w.tags
    shadows := rows.foldl (fun t r => t.set r (BitVec.ofNat 64 (fld v (1100 * r + 1032) 64))) w.shadows }
/-- A buffered operation whose value the pool no longer holds. -/
def BufOp.spoil (v : Nat) (o : BufOp) : BufOp := { o with act := match o.act with
  | .store lane w _ o => .store lane w (BitVec.ofNat 64 v) o
  | .line lanes _ o => .line lanes { data := BitVec.ofNat 1024 v, tag := BitVec.ofNat 4 (fld v 1024 8 % 10), scales := BitVec.ofNat 64 (fld v 1040 64) } o
  | .red lane op w64 _ => .red lane op w64 (BitVec.ofNat 64 v) }
/-- Software writes [lo, hi): what a context keeps in its fault area there beside the record ring is undefined, that is, saved
workgroups, blocks moved to the overflow area, store buffers and partials in the pool (R381). [DEDUCED, log 56] -/
def State.tearFrames (s : State) (lo hi : Nat) : State :=
  let hit := fun (a n : Nat) => decide (a < hi) && decide (lo < a + n)
  let moved := s.warps.any (fun e => e.2.xmoved != 0 && hit (s.overflowSlab (s.ctxOf e.1) (coreOf e.1)) (2 ^ 20))
  let s := if moved then { s.free.2 with warps := s.warps.map (fun k w =>
      if w.xmoved != 0 && hit (s.overflowSlab (s.ctxOf k) (coreOf k)) (2 ^ 20) then w.spoilMoved s.free.1 else w) } else s
  let pool := fun (c : Nat) => hit (s.frameBase c (s.ctx c).nframe) (128 * (s.ctx c).rplines)
  let ours := fun (k : Nat) => (s.kernel k).repeatable && pool (s.kernel k).ctx
  let s := if s.kernels.any (fun e => ours e.1) then { s.free.2 with
      warps := s.warps.map (fun _ w => if ours (s.wgs.get w.wg).kernel then { w with buf := w.buf.map (BufOp.spoil s.free.1) } else w)
      wgs := s.wgs.map (fun _ g => if ours g.kernel then { g with
        done := g.done.map (fun _ b => b.map (BufOp.spoil s.free.1)), commits := g.commits.map (fun c => (c.1, c.2.spoil s.free.1)) } else g)
      kernels := s.kernels.map (fun k r => if ours k then { r with partials := r.partials.map (fun p => { p with val := BitVec.ofNat 64 s.free.1 }) } else r) }
    else s
  { s with frames := s.frames.map (fun f =>
      if hit (s.frameBase f.ctx f.slot) (2 ^ 22) || pool f.ctx then { f with torn := true } else f) }
/-- Something other than the device writes [lo, hi): sealed pages whose header lies there are spoilt (R340), and so is what a
fault area keeps (R381). -/
def State.spoilKept (s : State) (lo hi : Nat) : State :=
  let s := s.tearFrames lo hi
  (s.sealedKv.filter (fun e => decide (128 * e.1 < hi) && decide (lo < 128 * e.1 + 128))).foldl State.spoilKv s
/-- The words of memory whose bit 0 may be set, as entries. -/
def State.entryWords (s : State) : List Nat :=
  List.filterMap (fun c => if c.1 % 8 = 0 && c.2.getLsbD 0 then some c.1 else none) s.mem ++ s.loose.map (8 * ·)
/-- The tables of a context's tree from one on, each with its bytes (R325, R326), `ws` being the words to look at. -/
def State.tablesFrom (s : State) (ws : List Nat) (p table : Nat) : List (Nat × Nat) → List (Nat × Nat)
  | [] => []
  | (_, n) :: rest => (table, 8 * 2 ^ n) :: match rest with
    | [] => []
    | (_, m) :: _ => (ws.filter (fun a => decide (table ≤ a) && decide (a < table + 8 * 2 ^ n))).flatMap (fun a =>
        let e := s.entry a
        if tst e 0 && fld e 1 2 == 0 && !s.pointerMalformed p e m then s.tablesFrom ws p (fld e 8 40 * 256) rest else [])
/-- A context is bound to its partition (R376). -/
def Context.isBound (c : Context) : Bool := match c.st with
  | .bound | .active | .suspended | .faulted => true
  | _ => false
/-- The tables of every bound context that meets a condition. -/
def State.tablesOf (s : State) (cond : Nat → Context → Bool) : List (Nat × Nat) :=
  let ws := s.entryWords
  List.flatMap (fun (e : Nat × Context) => if e.2.isBound && cond e.1 e.2 then s.tablesFrom ws e.2.part e.2.ptroot levels else []) s.ctxs
/-- The word lies in one of some tables. -/
def inTables (ts : List (Nat × Nat)) (w : Nat) : Bool := ts.any (fun t => decide (t.1 ≤ 8 * w) && decide (8 * w < t.1 + t.2))
/-- Some 8-byte words have been written by something other than a compare-and-swap: an entry of one of the tables holds an
undefined value, and a word elsewhere is no definite entry (R331). [DEDUCED, log 100] -/
def State.unsettle (s : State) (ts : List (Nat × Nat)) (ws : List Nat) : State :=
  let (ins, out) := ws.partition (inTables ts)
  ins.foldl (fun s w => (s.free.2.pokeDev (8 * w) 8 s.free.1).settleWords [w]) (s.blur out)
/-- [lo, hi) has been written, from the state `old`, by a KV step, which is no compare-and-swap (R331). -/
def State.kvWrote (s old : State) (lo hi : Nat) : State := s.unsettle (old.tablesOf (fun _ _ => true)) (wordsOf lo hi)
/-- The bytes of [lo, hi) have been written, from the state `old`, by something other than a compare-and-swap, a KV step or the host:
entries there are undefined, and words elsewhere are no definite entries (R331). [DEDUCED, log 100] -/
def State.loosen (s old : State) (lo hi : Nat) : State := (s.kvWrote old lo hi).spoilKept lo hi

/-- The error record of a line a context's agent read whose check failed (R450, R455). -/
def State.reportLine (s : State) (ctx info n : Nat) : State :=
  let die := homeHalf (128 * n) / 2
  if info = 1 then s.report 3 1 (128 * n) ctx die (some (s.ctx ctx).part)
  else if info = 2 then s.report 2 (Config.errDetail 2 [128 * n]) (128 * n) ctx die (some (s.ctx ctx).part)
  else s
/-- The error record of a walk that met a line whose check failed, if it did (R450). -/
def State.reportWalk (s : State) (ctx : Nat) (va : DWord) : State := match s.walk ctx va with
  | .integrity i n => s.reportLine ctx i n
  | _ => s

/-- An agent's access: a light fault is served in place, which costs only latency (R330, R420); a walk that fails its check is
recorded (R450). -/
def State.agentAccess (s : State) (ctx w : Nat) (va : DWord) (k : AccKind) : Ck Acc × State :=
  match s.access .agent ctx w va k with
  | .fault f => (.fault f, if f.cause = 7 then s.reportWalk ctx va else s)
  | .light l =>
    let s := (s.setBits l).dropEntry l.pte
    (s.access .agent ctx w va k, s)
  | r => (r, s)

end Sys2Proof.Machine
end

