-- ==== Sys2Proof/Machine/Ops.lean ====
section
/-! DEFINITION. The named operations over registers and threads (R96 to R98, R110, R116): reading and writing rows, pairs
and uniform registers, results pending and landing; taking an exception (R384 to R387) and returning from one
(R389); aborting a kernel (R374). -/
namespace Sys2Proof.Machine

-- Rows (R96 to R98) ---------------------------------------------------------------------------------------------

/-- The first trap row in the numbering of `Warp.vreg`. -/
def trapBase : Nat := 512
/-- row(n) of R97. -/
def rowOf (t : Thread) (n : Nat) : Nat :=
  if t.tmode && decide (112 ≤ n) then trapBase + (n - 112) else if n < 16 then n else t.wb + (n - 16)
/-- The warp holds a row (R96, R98). -/
def Warp.holds (w : Warp) (row : Nat) : Bool :=
  row < 64 || (row < 320 && w.xheld.getLsbD ((row - 64) / 32)) || (trapBase ≤ row && row < trapBase + 16)
/-- The place of a lane's element of a row in `Warp.vreg`. -/
def elemKey (row lane : Nat) : Nat := 32 * row + lane
/-- An element of a row. -/
def Warp.elem (w : Warp) (row lane : Nat) : Word := w.vreg.get (elemKey row lane)
/-- Register vn of a thread. -/
def Warp.reg (w : Warp) (lane n : Nat) : Word := w.elem (rowOf (w.thread lane) n) lane
/-- The pair vn, v(n+1) of a thread: rows row(n) and row(n) + 1, low word first (R64, R97). -/
def Warp.pair (w : Warp) (lane n : Nat) : DWord :=
  let r := rowOf (w.thread lane) n
  w.elem (r + 1) lane ++ w.elem r lane
/-- All 32 lanes of a row. -/
def Warp.row (w : Warp) (row : Nat) : List Word := (List.range 32).map (w.elem row)
/-- A row as a block line's data (R42). -/
def Warp.rowData (w : Warp) (row : Nat) : LineBits := lineOfWords ((w.row row).map BitVec.toNat)
/-- Write one element. -/
def Warp.setElem (w : Warp) (row lane : Nat) (v : Word) : Warp := { w with vreg := w.vreg.put (elemKey row lane) v }
/-- A per-thread write sets the row's tag to 0 and leaves its shadow (R43). -/
def Warp.writeElem (w : Warp) (row lane : Nat) (v : Word) : Warp :=
  { w.setElem row lane v with tags := w.tags.put row 0 }
/-- Write a whole row with its tag and shadow (R43). -/
def Warp.setRow (w : Warp) (row : Nat) (d : LineBits) (tag : BitVec 4) (shadow : DWord) : Warp :=
  let w := (List.range 32).foldl (fun w i => w.setElem row i (lineWord d i)) w
  { w with tags := w.tags.put row tag, shadows := w.shadows.put row shadow }
/-- A row as a line (R42). -/
def Warp.rowLine (w : Warp) (row : Nat) : Line := { data := w.rowData row, tag := w.tags.get row, scales := w.shadows.get row }
/-- A uniform register (R110). -/
def Warp.s (w : Warp) (n : Nat) : Word := w.sreg.get n
/-- A uniform pair, low word first (R64). -/
def Warp.sPair (w : Warp) (n : Nat) : DWord := w.s (n + 1) ++ w.s n
/-- Write a uniform register (R110). -/
def Warp.setS (w : Warp) (n : Nat) (v : Word) : Warp := { w with sreg := w.sreg.put n v }

/-- A thread that is neither EXITED nor HALTED (R170). -/
def TState.alive : TState → Bool
  | .ready | .issuing | .interlocked | .waiting => true
  | _ => false
/-- A live thread of R118: alive and not in trap mode. -/
def Thread.live (t : Thread) : Bool := t.st.alive && !t.tmode
/-- The live lanes of a warp, ascending (R118). [DEDUCED, log 21] -/
def Warp.liveLanes (w : Warp) : List Nat := (List.range 32).filter (fun l => (w.thread l).live)

-- Memory's end of a fault record (R381, R382) ------------------------------------------------------------------------

/-- Write a fault record of a context: KIND, CAUSE, INFO, ADDR, PC, and who: kernel, WGIDX, warp, lane, core (R382). -/
def State.faultRecord (s : State) (ctx kind cause info tcause1 : Nat) (addr pc : DWord) (kernel wgidx wid lane core : Nat) : State :=
  let base := (s.ctx ctx).fabase
  let widx := s.mem.read base 4
  let ridx := s.mem.read (base + 4) 4
  if (widx + 2 ^ 32 - ridx) % 2 ^ 32 < 4096 then
    let k := s.kernel kernel
    let r := put (put (put (put (put (put (put (put (put (put 0 0 widx) 32 kind) 40 cause) 48 ctx) 64 pc.toNat) 128 addr.toNat)
      192 info) 224 wgidx) 248 wid) 253 lane
    let r := put (put (put (put (put r 258 core) 272 k.launch) 288 k.pidx.toNat) 320 k.queue) 328 tcause1
    let s := s.putLine ((base + 0x10000 + 128 * (widx % 4096)) / 128) { data := BitVec.ofNat 1024 r, tag := 0, scales := 0 }
    s.pokeDev base 4 ((widx + 1) % 2 ^ 32)
  else s.pokeDev (base + 8) 4 ((s.mem.read (base + 8) 4 + 1) % 2 ^ 32)

-- Aborting a kernel (R374) -----------------------------------------------------------------------------------------

/-- An engine command of an aborted kernel is marked to stop (R302). -/
def markCmds (k : Nat) (q : List EngCmd) : List EngCmd := q.map (fun c => if c.kernel == k then { c with aborted := true } else c)

/-- Abort a kernel with a cause: indices dropped, frames discarded, store buffers and partials discarded, resident workgroups to
stop at their next period boundary, commands marked (R374). A kernel that has ended is left alone, and so is one whose
completion word is on its way; while partials are being applied, the abort waits for that to end. [DEDUCED, log 106] -/
def State.abort (s : State) (k cause : Nat) : State :=
  if !(s.kernel k).st.live || (s.kernel k).sent then s
  else if (s.kernel k).applying then s.modKernel k (fun r => { r with aborting := some (r.aborting.getD cause) })
  else
    let s := s.modKernel k (fun r => { r with st := .aborted, cause := if r.cause = 0 then cause else r.cause, partials := [] })
    { s with
      ranges := s.ranges.filter (·.kernel != k)
      frames := s.frames.filter (·.wg.kernel != k)
      wgs := s.wgs.map (fun _ g => if g.kernel == k then { g with doomed := true, done := [], commits := [] } else g)
      warps := s.warps.map (fun _ w => if (s.wgs.get w.wg).kernel == k then { w with buf := [] } else w)
      clusters := s.clusters.map (fun _ c => { c with chans := c.chans.map (fun _ h => { h with queue := markCmds k h.queue }) })
      halves := s.halves.map (fun _ h => { h with gs := markCmds k h.gs, coll := markCmds k h.coll, rep := markCmds k h.rep }) }

/-- Every kernel of a context in PENDING to DRAINING is aborted (R386, R403). -/
def State.abortCtx (s : State) (ctx cause : Nat) : State :=
  (s.kernels.keys.filter (fun k => (s.kernel k).ctx == ctx)).foldl (fun s k => s.abort k cause) s

-- Integrity records (R450, R455)
/-- The error record of a check that failed: class 0x03 for a check value (`detail` 1 at exit, 2 at merge), 0x02 for an
uncorrectable error. -/
def State.reportFor (s : State) (k : Kernel) (die info detail : Nat) (addr : DWord) : State :=
  if info = 1 then s.report 3 detail addr.toNat k.ctx die (some k.part)
  else if info = 2 then s.report 2 (Config.errDetail 2 [addr.toNat]) addr.toNat k.ctx die (some k.part)
  else s
/-- The same for an access of a warp. [DEDUCED, log 36] -/
def State.reportCheck (s : State) (slot info detail : Nat) (addr : DWord) : State := s.reportFor (s.kernelOf slot) (halfOf slot / 2) info detail addr

-- Taking an exception (R384 to R387) -------------------------------------------------------------------------------

/-- A thread takes a program fault, its delivery: with TMODE 1 a double fault (R386); with a handler a trap (R384); else
the thread halts with a record and its kernel takes cause 1 (R387). `tepc` is the resume address a trap saves. -/
def State.trap (s : State) (slot lane : Nat) (f : PFault) (tepc : DWord) : State :=
  let w := s.warp slot
  let t := w.thread lane
  let g := s.wgOf slot
  let k := s.kernelOf slot
  if t.tmode then
    let s := s.modThread slot lane (fun t => { t with st := .halted, why := .nothing })
    let s := s.faultRecord k.ctx 2 f.cause.toNat f.info.toNat t.tcause.toNat f.addr t.pc g.kernel g.idx w.wid lane (coreOf slot)
    let s := s.modCtx k.ctx (fun c => { c with st := .faulted })
    s.abortCtx k.ctx 7
  else if (s.ctx k.ctx).tvec ≠ 0 then
    s.modThread slot lane (fun t =>
      { t with tepc := tepc, tcause := f.cause, tinfo := f.info, taddr := f.addr, tmode := true, pc := (s.ctx k.ctx).tvec,
               st := .ready, why := .nothing })
  else
    let s := s.modThread slot lane (fun t => { t with st := .halted, why := .nothing })
    let s := s.faultRecord k.ctx 1 f.cause.toNat f.info.toNat 0 f.addr t.pc g.kernel g.idx w.wid lane (coreOf slot)
    s.modKernel g.kernel (fun r => { r with cause := if r.cause = 0 then 1 else r.cause })

/-- The return from an exception (R389): TMODE falls and the thread resumes at TEPC. -/
def State.eret (s : State) (slot lane : Nat) : State :=
  s.modThread slot lane (fun t => { t with tmode := false, pc := t.tepc, st := .ready, why := .nothing })

-- Pending results (R81, R83) -----------------------------------------------------------------------------------------

/-- The result is pending into an element of the row. -/
def Pending.onRow (p : Pending) (row : Nat) : Bool :=
  p.regs.any (fun e => e.1 / 32 == row) || p.rowMeta.any (fun e => e.1 == row)
/-- The result is pending into one element. -/
def Pending.onElem (p : Pending) (row lane : Nat) : Bool :=
  p.regs.any (fun e => e.1 == elemKey row lane) || p.rowMeta.any (fun e => e.1 == row)
/-- The pending results on an element of a warp (R83). -/
def State.pendElem (s : State) (slot row lane : Nat) : List Nat :=
  (s.pend.filter (fun p => p.slot == slot && p.onElem row lane)).map (·.id)
/-- The pending results on any lane of a row (R83, for warp-whole instructions). -/
def State.pendRow (s : State) (slot row : Nat) : List Nat :=
  (s.pend.filter (fun p => p.slot == slot && p.onRow row)).map (·.id)
/-- The pending results on a uniform register (R83). -/
def State.pendS (s : State) (slot n : Nat) : List Nat :=
  (s.pend.filter (fun p => p.slot == slot && p.sregs.any (fun e => e.1 == n))).map (·.id)
/-- The pending results into a shape slot (R207). -/
def State.pendShape (s : State) (slot k : Nat) : List Nat :=
  (s.pend.filter (fun p => p.slot == slot && p.shape.any (fun e => e.1 == k))).map (·.id)
/-- The pending results into a tile of a workgroup (R269). -/
def State.pendTile (s : State) (wg n : Nat) : List Nat :=
  (s.pend.filter (fun p => (s.warp p.slot).wg == wg && p.tile.any (fun e => e.1 == n))).map (·.id)

/-- A pending result with nothing in it. -/
def Pending.empty (slot : Nat) : Pending :=
  { id := 0, slot, regs := [], rowMeta := [], sregs := [], shape := none, tile := none, rslt := none, blk := false, remote := false }
/-- Add a pending result under a fresh number. -/
def State.addPend (s : State) (p : Pending) : State :=
  { s with pend := s.pend ++ [{ p with id := s.nextId }], nextId := s.nextId + 1 }

/-- A result lands: its values reach the registers, a row written whole takes its tag and shadow, and any other row
written takes tag 0 (R43, R83). -/
def Warp.land (w : Warp) (p : Pending) : Warp :=
  let w := p.regs.foldl (fun w e => w.writeElem (e.1 / 32) (e.1 % 32) e.2) w
  let w := p.rowMeta.foldl (fun w e => { w with tags := w.tags.put e.1 e.2.1, shadows := w.shadows.put e.1 e.2.2 }) w
  let w := p.sregs.foldl (fun w e => w.setS e.1 e.2) w
  let w := match p.shape with
    | some (k, r) => { w with shapes := w.shapes.put k r }
    | none => w
  match p.rslt with
  | some v => { w with rsltv := v, rsltseq := w.rsltseq + 1 }
  | none => w

/-- A pending element is discarded: those of an exited thread (R137), or of a failed access (R466). -/
def State.dropElems (s : State) (slot : Nat) (drop : Nat → Bool) : State :=
  { s with pend := s.pend.map (fun p => if p.slot == slot then { p with regs := p.regs.filter (fun e => !drop e.1) } else p) }

-- Compression and capacity (R106 to R108) ------------------------------------------------------------------------------

/-- The class of a row: 0 uniform, 1 delta 8, 2 delta 16, 3 raw (R106, R396). -/
def rowClass (xs : List Word) : Nat :=
  let x0 := xs.headD 0
  let within := fun n => xs.all (fun x => decide ((x - x0 + BitVec.ofNat 32 n).toNat < 2 * n))
  if xs.all (· == x0) then 0 else if within 128 then 1 else if within 32768 then 2 else 3
/-- Granules of a class (R106). -/
def classGranules : Nat → Nat
  | 0 => 1 | 1 => 3 | 2 => 5 | _ => 8
/-- Granules of an extended block (R106). -/
def Warp.blockGranules (w : Warp) (k : Nat) : Nat :=
  ((List.range 32).map (fun i => classGranules (rowClass (w.row (64 + 32 * k + i))))).foldl (· + ·) 0
/-- The warp slots resident on a quadrant (R169). -/
def State.quadWarps (s : State) (q : Nat) : List Nat := s.warps.keys.filter (fun k => quadOf k == q)
/-- CAPROWS (R106). [DESIGN CHOICE, log 70] -/
def State.capRows (s : State) (q : Nat) : Nat := 2048 - (s.quad q).lost
/-- Extended slots of a warp, held and in the file. -/
def Warp.inFile (w : Warp) : List Nat := (List.range 8).filter (fun k => w.xheld.getLsbD k && !w.xmoved.getLsbD k)
/-- G of R107: extended blocks granted on the quadrant. -/
def State.granted (s : State) (q : Nat) : Nat := ((s.quadWarps q).map (fun k => popcount (s.warp k).xheld)).foldl (· + ·) 0
/-- F of R107, which may have to be made non-negative by moving blocks (R108). -/
def State.freeGranules (s : State) (q : Nat) : Int :=
  let ws := s.quadWarps q
  let used := (ws.map (fun k => ((s.warp k).inFile.map (s.warp k).blockGranules).foldl (· + ·) 0)).foldl (· + ·) 0
  (8 * s.capRows q : Nat) - (640 * ws.length : Nat) - (used : Nat)
/-- EXFREE (R107). -/
def State.exfree (s : State) (q : Nat) : Nat := min (64 - s.granted q) ((s.freeGranules q).toNat / 256)

/-- The least recently accessed block in the file of a quadrant, ties to the lowest warp slot and then slot (R108). [DEDUCED, log 92] -/
def State.lruBlock (s : State) (q : Nat) : Option (Nat × Nat) :=
  let cand := (s.quadWarps q).flatMap (fun k => (s.warp k).inFile.map (fun b => (k, b, (s.warp k).xlast.get b)))
  cand.foldl (fun best c => match best with
    | none => some c
    | some b => if c.2.2 < b.2.2 then some c else some b) none |>.map (fun c => (c.1, c.2.1))
/-- Extended block k of a warp slot leaves the file for the overflow area of its core (R108). -/
def State.moveBlock (s : State) (slot k : Nat) : State := s.modWarp slot (fun w => { w with xmoved := w.xmoved ||| BitVec.ofNat 8 (2 ^ k) })
/-- The 32 rows of a moved block are written to the overflow area as lines, at a place the manual leaves open (R108, R381). [DESIGN CHOICE, log 96] -/
def State.storeBlock (s : State) (slot k : Nat) : State :=
  let base := s.overflowSlab (s.kernelOf slot).ctx (coreOf slot) / 128 + 32 * (s.free.1 % 256)
  let s1 := (List.range 32).foldl (fun t i => t.putLine (base + i) ((s.warp slot).rowLine (64 + 32 * k + i))) s.free.2
  s1.modWarp slot (fun w => { w with xout := w.xout ||| BitVec.ofNat 8 (2 ^ k) })
/-- The blocks that have left the file and are still to be written to the overflow area. -/
def Warp.leaving (w : Warp) : List Nat := (List.range 8).filter (fun k => w.xmoved.getLsbD k && !w.xout.getLsbD k)
/-- They are written (R108). [DESIGN CHOICE, log 96] -/
def State.storeMoved (s : State) : State :=
  (List.flatMap (fun (e : Nat × Warp) => e.2.leaving.map (fun k => (e.1, k))) s.warps).foldl (fun s b => s.storeBlock b.1 b.2) s
/-- Move whole extended blocks to the overflow area until the rows fit (R108); at most 64 blocks are granted. -/
def State.spill (s : State) (q : Nat) : Nat → State
  | 0 => s
  | n + 1 =>
    if s.freeGranules q < 0 then
      match s.lruBlock q with
      | some (k, b) => State.spill (s.moveBlock k b) q n
      | none => s
    else s
/-- The blocks that rows of a warp lie in, among those moved to the overflow area (R108). -/
def Warp.movedOf (w : Warp) (rows : List Nat) : List Nat :=
  (List.range 8).filter (fun k => w.xmoved.getLsbD k && rows.any (fun r => 64 + 32 * k ≤ r && r < 96 + 32 * k))
/-- Note the access to extended rows, for the choice of R108. -/
def Warp.touch (w : Warp) (now : Nat) (rows : List Nat) : Warp :=
  { w with xlast := ((List.range 8).filter (fun k => rows.any (fun r => 64 + 32 * k ≤ r && r < 96 + 32 * k))).foldl (fun x k => x.put k now) w.xlast }

-- Frame slots (R381, R392) ------------------------------------------------------------------------------------------------

/-- The frame slots of a context not in use (R392). -/
def State.freeFrames (s : State) (ctx : Nat) : List Nat :=
  (List.range (s.ctx ctx).nframe).filter (fun j => !s.frames.any (fun f => f.ctx == ctx && f.slot == j))

end Sys2Proof.Machine
end

