-- ==== Sys2Proof/Machine/Kettle.lean ====
section
/-! DEFINITION. The Kettle (R244 to R261): its operations on a value (R250), one atomic step at a physical address (R245,
R251), work queues (R258, R260), and the reductions accepted and not yet performed (R253). -/
namespace Sys2Proof.Machine

/-- FMIN and FMAX order bit patterns with −0 below +0 (R149): a key that rises with the value of a word that is no NaN. -/
def fKey (x : Word) : Int := if x.getLsbD 31 then -(bf x 0 31 : Int) - 1 else bf x 0 31
/-- FMAX (R149). -/
def fmaxW (a b : Word) : Word :=
  if f32 a = .nan && f32 b = .nan then rneF32 .nan else if f32 a = .nan then b else if f32 b = .nan then a
  else if fKey a < fKey b then b else a
/-- FMIN (R149). -/
def fminW (a b : Word) : Word :=
  if f32 a = .nan && f32 b = .nan then rneF32 .nan else if f32 a = .nan then b else if f32 b = .nan then a
  else if fKey b < fKey a then b else a
/-- The sum of .fadd (R250), rounded once with the zero signs of R147. -/
def faddW (a b : Word) : Word := rneF32 ((f32 a).add false (f32 b))
/-- A word is NaN or infinite. -/
def wordNF (x : Word) : Bool := (f32 x).nonfin

/-- The new value of a 32-bit operation (R250); none for a cas that fails. -/
def kop32 (op : KOp) (old x cmp : Word) : Option Word := match op with
  | .add | .addZ64 => some (old + x)
  | .sub => some (old - x)
  | .minS32 => some (if x.toInt < old.toInt then x else old)
  | .minZ32 => some (if x.toNat < old.toNat then x else old)
  | .maxS32 => some (if old.toInt < x.toInt then x else old)
  | .maxZ32 => some (if old.toNat < x.toNat then x else old)
  | .and => some (old &&& x)
  | .or => some (old ||| x)
  | .xor => some (old ^^^ x)
  | .swap => some x
  | .cas => if old = cmp then some x else none
  | .incw => some (if x.toNat ≤ old.toNat then 0 else old + 1)
  | .decw => some (if old = 0 ∨ x.toNat < old.toNat then x else old - 1)
  | .fadd => some (faddW old x)
  | .fmax => some (fmaxW old x)
/-- The new value of a 64-bit operation (R250): those of ATM.64, and RED's .z64.add. -/
def kop64 (op : KOp) (old x cmp : DWord) : Option DWord := match op with
  | .minZ32 => some (if x.toNat < old.toNat then x else old)
  | .maxZ32 => some (if old.toNat < x.toNat then x else old)
  | .swap => some x
  | .cas => if old = cmp then some x else none
  | _ => some (old + x)
/-- The new value of an operation of either width. -/
def kop (op : KOp) (w64 : Bool) (old x cmp : DWord) : Option DWord :=
  if w64 then kop64 op old x cmp
  else (kop32 op (old.setWidth 32) (x.setWidth 32) (cmp.setWidth 32)).map (·.setWidth 64)
/-- The operation is on 64 bits: ATM.64, or RED's .z64.add (R77). -/
def redWide (op : KOp) : Bool := op == .addZ64
/-- A floating-point operation of the Kettle sets NF on these operands (R251). -/
def kopNF (op : KOp) (vs : List DWord) : Bool := (op == .fadd || op == .fmax) && vs.any (fun v => wordNF (v.setWidth 32))

/-- What a write of the Kettle, from the state `old`, leaves of the 8-byte words it meets, as entries: a 64-bit compare-and-swap makes the entry it
writes definite; another write does not (R331). -/
def State.markEntry (s old : State) (pa w : Nat) (op : KOp) : State :=
  if op = .cas ∧ w = 8 then s.settleWords [pa / 8] else s.loosen old pa (pa + w)
/-- One step of a location's order at its home (R244, R251): the old value and the state after; or what the line's check
finds (R245). The line is held in a cell from then on. -/
def State.atomic (s : State) (pa : Nat) (op : KOp) (w64 : Bool) (x cmp : DWord) : Except Nat (DWord × State) :=
  match s.lineFault (pa / 128) with
  | some i => .error i
  | none =>
    let w := if w64 then 8 else 4
    let old := BitVec.ofNat 64 (s.mem.read pa w)
    let s := s.takeCell (pa / 128)
    match kop op w64 old x cmp with
    | none => .ok (old, s)
    | some v => .ok (old, (s.pokeDev pa w v.toNat).markEntry s pa w op)

-- Work queues (R258 to R260) ---------------------------------------------------------------------------------------------

/-- A popped marker: the queue is closed. -/
def qClosed : DWord := 0xFFFFFFFFFFFFFFFF
/-- A popped marker: the queue is empty. -/
def qEmpty : DWord := 0xFFFFFFFFFFFFFFFE
def qHead (s : State) (d : Nat) : Nat := s.mem.read d 4
def qTail (s : State) (d : Nat) : Nat := s.mem.read (d + 4) 4
def qCap (s : State) (d : Nat) : Nat := 2 ^ (s.mem.read (d + 12) 1 / 16)
def qIsClosed (s : State) (d : Nat) : Bool := s.mem.read (d + 12) 1 % 2 == 1
/-- The number of items held. -/
def qCount (s : State) (d : Nat) : Nat := (qTail s d + 2 ^ 32 - qHead s d) % 2 ^ 32
/-- Physical address of item j of the ring. -/
def qItem (s : State) (d j : Nat) : Nat := d + 128 + 8 * (j % qCap s d)
/-- The descriptor at d is valid, its page ending at `pend` (R258). -/
def qValid (s : State) (d pend : Nat) : Bool :=
  let c := s.mem.read (d + 12) 1 / 16
  1 ≤ c && c ≤ 12 && decide (d + 128 + 8 * 2 ^ c ≤ pend) && decide (qCount s d ≤ 2 ^ c)
/-- A bank takes the descriptor's line, and the line of an item, into cells (R245). -/
def State.qCells (s : State) (d : Nat) (item : Option Nat) : State := match item with
  | some j => (s.takeCell (d / 128)).takeCell (qItem s d j / 128)
  | none => s.takeCell (d / 128)
/-- A write of a queue operation, which is no compare-and-swap (R331). -/
def State.pokeQ (s : State) (pa w v : Nat) : State := (s.pokeDev pa w v).loosen s pa (pa + w)
/-- QPUSH at a valid descriptor (R260). -/
def State.qpush (s : State) (d : Nat) (x : DWord) : State :=
  if qIsClosed s d || x == qEmpty || (x != qClosed && qCount s d == qCap s d) then
    s.pokeQ (d + 8) 4 ((s.mem.read (d + 8) 4 + 1) % 2 ^ 32)
  else if x = qClosed then s.pokeQ (d + 12) 1 (s.mem.read (d + 12) 1 + 1)
  else (s.pokeQ (qItem s d (qTail s d)) 8 x.toNat).pokeQ (d + 4) 4 ((qTail s d + 1) % 2 ^ 32)
/-- QPOP at a valid descriptor (R260). -/
def State.qpop (s : State) (d : Nat) : DWord × State :=
  if qCount s d ≠ 0 then
    (BitVec.ofNat 64 (s.mem.read (qItem s d (qHead s d)) 8), s.pokeQ d 4 ((qHead s d + 1) % 2 ^ 32))
  else (if qIsClosed s d then qClosed else qEmpty, s)

-- Reductions not yet performed (R253) ------------------------------------------------------------------------------------

/-- Perform one accepted reduction; a failure is reported to its thread (R253, R466). [DEDUCED, log 38] -/
def State.performRed (s : State) (r : KReq) : State :=
  match s.atomic r.pa r.op r.w64 r.x 0 with
  | .ok (_, s) => (s.dropL1 (coreOf r.slot) (r.pa / 128)).publishAs r.slot false true r.pa (if r.w64 then 8 else 4) (if r.rel then .core else .plain)
  | .error i => (s.reportCheck r.slot i 2 r.va).modThread r.slot r.lane (fun t => { t with defer := t.defer ++ [pf 7 r.va i] })
/-- Perform the accepted reductions on one line, in the order of their acceptance: those of one group on a location are one
uninterrupted sequence (R248). -/
def State.kettleStep (s : State) (id : Nat) : State := match s.kreqs.find? (·.id == id) with
  | none => s
  | some r =>
    let same := fun (q : KReq) => q.pa / 128 == r.pa / 128
    (s.kreqs.filter same).foldl State.performRed { s with kreqs := s.kreqs.filter (fun q => !same q) }
/-- Perform a thread's outstanding reductions, oldest first: before an access, a release or EXIT of the thread (R216, R219,
R253). -/
def State.drainReds (s : State) (slot lane : Nat) : State :=
  (s.kreqs.filter (fun r => r.slot == slot && r.lane == lane)).foldl (fun s r => s.kettleStep r.id) s

end Sys2Proof.Machine
end

