-- ==== Sys2Proof/Machine/Queue.lean ====
section
/-! DEFINITION. A queue's registers and their moves (R352, R354, R361, R362), kernel commands (R374), and the queue window as
reads and writes of its 64-bit registers (R352, R358, R374, R454, R467). -/
namespace Sys2Proof.Machine

/-- Queue q of partition p. -/
def State.queue (s : State) (p q : Nat) : Queue := s.queues.get (256 * p + q)
def State.modQueue (s : State) (p q : Nat) (f : Queue → Queue) : State := { s with queues := s.queues.put (256 * p + q) (f (s.queue p q)) }

-- QCFG fields (R352)
def Queue.ctx (q : Queue) : Nat := bf q.cfg 48 16
def Queue.wdact (q : Queue) : Nat := bf q.cfg 32 2
def Queue.wdt (q : Queue) : Nat := bf q.cfg 16 16
def Queue.prio (q : Queue) : Nat := bf q.cfg 8 3
def Queue.logsz (q : Queue) : Nat := bf q.cfg 0 5
/-- The bits QCFG keeps: the others are RSV (R352, R7). -/
def qcfgMask : DWord := 0xFFFF0003FFFF071F

/-- A context is bound to a partition: BIND was accepted and it is not torn down (R376). -/
def Context.boundTo (c : Context) (p : Nat) : Bool := c.isBound && c.part == p

/-- CAUSE is set, with a class 0x04 record (R361). -/
def State.queueCause (s : State) (p q cause : Nat) : State :=
  let s := s.modQueue p q (fun x => { x with cause })
  s.report 4 (Config.errDetail 4 [q, cause, (s.queue p q).erridx.toNat]) 0 (s.queue p q).ctx 0 (some p)
/-- The queue enters ERROR over packet n (R354, R355). -/
def State.queueError (s : State) (p q cause : Nat) (n : Word) : State :=
  (s.modQueue p q (fun x => { x with st := 3, erridx := n })).queueCause p q cause

/-- A write of QDOORBELL (R354). -/
def State.doorbell (s : State) (p q : Nat) (w : Word) : State :=
  let x := s.queue p q
  let valid := decide ((w - x.ridx).toNat ≤ 2 ^ x.logsz)
  if x.st = 0 then s
  else if valid then s.modQueue p q (fun x => { x with widx := w })
  else if x.st = 3 then s.queueCause p q 2
  else s.queueError p q 2 x.ridx

/-- Answers to readings of a queue's slots go, and those that still come are for nobody: a fetch has ended (R355, R362). -/
def State.dropSlot (s : State) (p q : Nat) : State :=
  let mine := fun (k : AgentKey) => match k with
    | .slot a b _ _ => a == p && b == q
    | _ => false
  { s with
    answers := s.answers.filter (fun a => !mine a.key)
    remotes := s.remotes.map (fun r => match r.want with
      | .agent k => if mine k then { r with want := .nothing } else r
      | _ => r) }
/-- The path of a partition to die 0 crosses a failed link: it stays out of service (R406). -/
def State.partOut (s : State) (p : Nat) : Bool := (s.partHalves p).any (fun h => s.d2dDown.contains (h / 2))
/-- ENABLE (R362, R406). -/
def State.queueEnable (s : State) (p q : Nat) : State :=
  let x := s.queue p q
  if x.st ≠ 0 then s
  else if 4 ≤ x.logsz && x.logsz ≤ 16 && x.wdact != 3 && (s.ctx x.ctx).boundTo p && !s.partOut p then
    (s.dropSlot p q).modQueue p q (fun x => { x with st := 1, ridx := 0, widx := 0, retries := 0 })
  else s.queueCause p q 7
/-- DISABLE (R362): a fetch in progress is abandoned and RIDX is kept. -/
def State.queueDisable (s : State) (p q : Nat) : State :=
  if (s.queue p q).st = 0 then s else (s.dropSlot p q).modQueue p q (fun x => { x with st := 0 })
/-- RESUME (R352, R362). -/
def State.queueResume (s : State) (p q : Nat) : State :=
  if (s.queue p q).st = 3 then s.modQueue p q (fun x => { x with st := 1 }) else s
/-- SKIP (R352, R362). -/
def State.queueSkip (s : State) (p q : Nat) : State :=
  if (s.queue p q).st = 3 then s.modQueue p q (fun x => { x with st := 1, ridx := x.ridx + 1, retries := 0 }) else s
/-- A write of QCTL (R352): exactly one command, in a state that accepts it. -/
def State.qctl (s : State) (p q v : Nat) : State := match v % 16 with
  | 1 => s.queueEnable p q
  | 2 => s.queueDisable p q
  | 4 => s.queueResume p q
  | 8 => s.queueSkip p q
  | _ => s
/-- QSTAT (R352). -/
def Queue.stat (x : Queue) : DWord :=
  BitVec.ofNat 64 (put (put (put x.st 8 x.cause) 16 x.retries) 32 x.erridx.toNat)

/-- The kernel of a packet in PENDING to DRAINING, if any (R374). -/
def State.kernelAt (s : State) (p q : Nat) (pidx : Word) : Option Nat :=
  s.kernels.keys.find? (fun k => let r := s.kernel k; r.part == p && r.queue == q && r.pidx == pidx && r.st.live)
/-- KCMD's abort (R374). -/
def State.kcmdAbort (s : State) (p q : Nat) (pidx : Word) : State := match s.kernelAt p q pidx with
  | some k => s.abort k 10
  | none => s
/-- KCMD's priority command (R372, R374). -/
def State.kcmdPrio (s : State) (p q : Nat) (pidx : Word) (prio : Nat) : State := match s.kernelAt p q pidx with
  | some k => s.modKernel k (fun r => { r with prio })
  | none => s
/-- A write of KCMD (R374). -/
def State.kcmd (s : State) (p : Nat) (v : DWord) : State :=
  if bf v 56 8 = 1 then s.kcmdAbort p (bf v 32 8) (v.extractLsb' 0 32)
  else if bf v 56 8 = 2 then s.kcmdPrio p (bf v 32 8) (v.extractLsb' 0 32) (bf v 48 3)
  else s

/-- The register of a queue window at an 8-aligned offset, as a read returns it (R352, R358, R374, R467). -/
def State.queueWindow (s : State) (p off : Nat) : DWord :=
  if off < 0x100000 then
    let x := s.queue p (off / 0x1000)
    match off % 0x1000 with
    | 0x000 => x.widx.setWidth 64
    | 0x008 => x.ridx.setWidth 64
    | 0x010 => x.base
    | 0x018 => x.cfg
    | 0x028 => x.stat
    | _ => 0
  else match off with
    | 0x100000 => BitVec.ofNat 64 s.devtime
    | 0x100008 => if s.locked then 1 else 0
    | _ => 0
/-- A write of that register (R352, R374). -/
def State.queueWindowWrite (s : State) (p off : Nat) (v : DWord) : State :=
  if off < 0x100000 then
    let q := off / 0x1000
    let idle := decide ((s.queue p q).st = 0)
    match off % 0x1000 with
    | 0x000 => s.doorbell p q (v.setWidth 32)
    | 0x010 => if idle then s.modQueue p q (fun x => { x with base := v }) else s
    | 0x018 => if idle then s.modQueue p q (fun x => { x with cfg := v &&& qcfgMask }) else s
    | 0x020 => s.qctl p q v.toNat
    | _ => s
  else if off = 0x100010 then s.kcmd p v else s

/-- The register window of a partition in physical memory (R454). -/
def queueWindowBase (p : Nat) : Nat := 0x8000000000 + 0x200000 * p
/-- Partition and offset of an address in a queue window. -/
def queueWindowOf (pa : Nat) : Nat × Nat := ((pa - 0x8000000000) / 0x200000, pa % 0x200000)

/-- w bytes of the value a register holds, from byte i on (R467). -/
def regBytes (v : DWord) (i w : Nat) : Nat := bf v (8 * i) (8 * w)
/-- A register's value with w bytes from byte i on replaced (R467). -/
def regMerge (v : DWord) (i w x : Nat) : DWord :=
  BitVec.ofNat 64 (v.toNat - regBytes v i w * 2 ^ (8 * i) + x % 2 ^ (8 * w) * 2 ^ (8 * i))
/-- A thread's read of I/O memory: the queue window of its partition (R454, R467). -/
def State.ioRead (s : State) (pa w : Nat) : Nat :=
  let (p, off) := queueWindowOf pa
  regBytes (s.queueWindow p (off / 8 * 8)) (off % 8) w
/-- A thread's write of I/O memory: one write of the whole register (R467), or of the host's memory, which it reaches as a write of
the bytes (R235). -/
def State.ioWrite (s : State) (pa w v : Nat) : State :=
  if ioHost pa then
    { s with hostOut := s.hostOut ++ [.dmaBytes (BitVec.ofNat 64 pa) ((List.range w).map (fun i => BitVec.ofNat 8 (fld v (8 * i) 8)))] }
  else
  let (p, off) := queueWindowOf pa
  s.queueWindowWrite p (off / 8 * 8) (regMerge (s.queueWindow p (off / 8 * 8)) (off % 8) w v)

end Sys2Proof.Machine
end

