-- ==== Sys2Proof/Machine/Remote.lean ====
section
/-! DEFINITION. Accesses of threads to other packages, from the source's side (R231, R232, R407 to R412, R417, R421 to
R423, R466): forming request packets, combining the accesses of a group by line, choosing a path, numbering and sending. -/
namespace Sys2Proof.Machine

-- Leaf fields of modes 1 to 3 (R327)
def leafPeer (l : DWord) : BitVec 10 := l.extractLsb' 48 10
def leafPassix (l : DWord) : Nat := bf l 32 8
def leafFasn (l : DWord) : BitVec 16 := l.extractLsb' 16 16
def leafMode (l : DWord) : Nat := bf l 4 2

/-- The ordering stream of a warp (R421). -/
def State.streamOf (s : State) (slot : Nat) : Nat := ((s.wgOf slot).idx + (s.warp slot).wid) % 16
/-- The number of a triple in `State.sseqs` (R422). -/
def tripleKey (hd stream peer : Nat) : Nat := (hd * 16 + stream) * 1024 + peer

/-- What waits for the answer to a request: a thread, by warp slot and lane; lane 32 stands for a warp that has retired. -/
structure Await where
  slot : Nat
  lane : Nat
  /-- The access is an acquire by the thread (R219). -/
  acq  : Bool
  pend : Option Nat
  want : Want
  patch : List BufOp
  deriving DecidableEq, Repr

/-- A request to be sent, with what waits for its answer. -/
structure RSend where
  /-- The workgroup it belongs to, and whether a commit of its store buffers sends it (R187, R236). -/
  wg     : Nat
  commit : Bool
  /-- Its recess stamp (R240). -/
  stamp  : Nat
  ctx    : Nat
  passix : Nat
  /-- It goes through a leaf in remote-cached-read-only mode (R234). -/
  ro     : Bool
  req    : Request
  wants  : List Await
  deriving DecidableEq, Repr

/-- The header of a request of a warp through a leaf (R410, R421). -/
def State.requestFor (s : State) (slot : Nat) (va leaf : DWord) (opc : Nat) (ofl : Bool) : Request :=
  { va, fasn := leafFasn leaf, dpeer := leafPeer leaf, speer := BitVec.ofNat 10 s.pkg, shd := BitVec.ofNat 3 (halfOf slot),
    stream := BitVec.ofNat 4 (s.streamOf slot), ofl, path := 0, opc := BitVec.ofNat 5 opc, pass := 0, sseq := 0, kop := 0,
    w64 := false, restart := false, data := 0, side := 0, mask := 0, check := 0, opnd := 0, cmp := 0 }
/-- The line address of a virtual address. -/
def lineVa (va : DWord) : DWord := va &&& ~~~127#64
/-- The sideband beat of WRL and DATA: sideband bytes 4 to 15 in bytes 4 to 15 (R411). -/
def sideBeat (l : Line) : BitVec 128 := BitVec.ofNat 128 (sideBytes l * 2 ^ 32)
/-- The line a data and sideband beat carry, and whether its check value is right (R411). -/
def beatLine (d : LineBits) (side : BitVec 128) : Line × Bool :=
  let l : Line := { data := d, tag := side.extractLsb' 48 4, scales := side.extractLsb' 56 64 }
  (l, check16 l == side.extractLsb' 32 16)
/-- The data bytes a mask selects (R411). -/
def maskBits (mask : BitVec 128) : Nat :=
  ((List.range 128).map (fun i => if mask.getLsbD i then 255 * 2 ^ (8 * i) else 0)).foldl (· + ·) 0
/-- A line's data with the bytes a mask selects taken from another (R411). -/
def mergeMasked (old new : LineBits) (mask : BitVec 128) : LineBits :=
  let m := BitVec.ofNat 1024 (maskBits mask)
  (old &&& ~~~m) ||| (new &&& m)
/-- The check beat of a masked write (R411). -/
def maskCheck (d : LineBits) : BitVec 16 := check16 { data := d, tag := 0, scales := 0 }

/-- A masked write of w bytes of v (R411). -/
def State.storeRequest (s : State) (slot : Nat) (va leaf : DWord) (w : Nat) (v : DWord) (ofl : Bool) : Request :=
  let o := va.toNat % 128
  let d := BitVec.ofNat 1024 (v.toNat % 2 ^ (8 * w) * 2 ^ (8 * o))
  { s.requestFor slot (lineVa va) leaf 3 ofl with
    data := d, mask := BitVec.ofNat 128 ((2 ^ w - 1) * 2 ^ o), check := maskCheck d }
/-- A whole-line write (R411). -/
def State.lineRequest (s : State) (slot : Nat) (va leaf : DWord) (l : Line) (ofl : Bool) : Request :=
  { s.requestFor slot va leaf 2 ofl with data := l.data, side := sideBeat l }
/-- An ATM or RED (R411). -/
def State.atomRequest (s : State) (slot : Nat) (va leaf : DWord) (red : Bool) (code : Nat) (w64 : Bool) (x cmp : DWord) (ofl : Bool) :
    Request :=
  { s.requestFor slot va leaf (if red then 5 else 4) ofl with kop := BitVec.ofNat 4 code, w64, opnd := x, cmp }

/-- The code of a Kettle operation (R77). -/
def kopCode : KOp → Nat
  | .add => 0 | .sub => 1 | .minS32 => 2 | .minZ32 => 3 | .maxS32 => 4 | .maxZ32 => 5 | .and => 6 | .or => 7 | .xor => 8
  | .swap => 9 | .cas => 10 | .incw => 11 | .decw => 12 | .fadd => 13 | .fmax => 14 | .addZ64 => 15

/-- Two requests are for one line of one package. -/
def RSend.sameLine (a b : RSend) : Bool := a.req.va == b.req.va && a.req.dpeer == b.req.dpeer && a.req.fasn == b.req.fasn
/-- Two requests of one group are one: line reads, masked writes or write-backs of one line, on one stream (R194, R411,
R421). -/
def RSend.joins (a b : RSend) : Bool :=
  a.sameLine b && a.ctx == b.ctx && a.passix == b.passix && a.req.stream == b.req.stream && a.req.opc == b.req.opc
    && (a.req.opc == 1 || a.req.opc == 3 || a.req.opc == 6)
/-- One request for both; in a masked write the later lane's bytes stand (R194). -/
def RSend.join (a b : RSend) : RSend :=
  let d := mergeMasked a.req.data b.req.data b.req.mask
  { a with wants := a.wants ++ b.wants, req := if a.req.opc == 3 then { a.req with
    data := d, mask := a.req.mask ||| b.req.mask, check := maskCheck d } else a.req }
/-- A masked write without the bytes that a later lane writes through a request on another stream: the later lane's value
stands, whichever is performed first (R194, R231). [DEDUCED, log 98] -/
def RSend.yieldTo (a b : RSend) : RSend :=
  if a.req.opc == 3 && b.req.opc == 3 && a.sameLine b && a.req.stream != b.req.stream then
    let d := mergeMasked a.req.data 0 b.req.mask
    { a with req := { a.req with data := d, mask := a.req.mask &&& ~~~b.req.mask, check := maskCheck d } }
  else a
/-- A request joined to the first of the group's that it joins, or put after them. -/
def joinSend (l : List RSend) (x : RSend) : List RSend := match l with
  | [] => [x]
  | a :: r => if a.joins x then a.join x :: r else a :: joinSend r x
/-- A request added to those of the group (R194). [DEDUCED, log 98] -/
def addSend (l : List RSend) (x : RSend) : List RSend := joinSend (l.map (fun a => a.yieldTo x)) x

/-- Sequence numbers unacknowledged in a triple (R422). -/
def State.unacked (s : State) (hd stream peer : Nat) : List (BitVec 16) :=
  ((s.remotes.filter (fun r => r.hd == hd && r.stream == stream && r.peer == peer)).map (·.req.sseq)).eraseDups
/-- The UP paths of a half-die's partition at its die: port numbers within the die (R423). -/
def State.upPaths (s : State) (hd : Nat) : List Nat :=
  (List.range 4).filter (fun p =>
    let h := s.half (2 * (hd / 2) + p / 2)
    h.member && h.part == (s.half hd).part && decide ((s.ports.get (4 * (hd / 2) + p)).st = .up))
/-- Packets unacknowledged on a path of a die (R423); those looped back inside the package use none. -/
def State.pathLoad (s : State) (die path : Nat) : Nat :=
  ((s.remotes.filter (fun r => r.hd / 2 == die && r.req.path.toNat == path && r.peer != s.pkg)).map
    (fun r => (r.hd, r.stream, r.peer, r.req.sseq))).eraseDups.length
/-- The least loaded of some paths, ties to the lowest (R423). [DEDUCED, log 53] -/
def State.leastLoaded (s : State) (die : Nat) (ps : List Nat) : Option Nat :=
  ps.foldl (fun b p => match b with
    | none => some p
    | some x => if s.pathLoad die p < s.pathLoad die x then some p else some x) none
/-- The path a packet takes (R423). -/
def State.choosePath (s : State) (hd stream peer : Nat) (va : DWord) : Option Nat :=
  match s.remotes.reverse.find? (fun r => r.hd == hd && r.stream == stream && r.peer == peer && lineVa r.req.va == lineVa va) with
  | some r => some r.req.path.toNat
  | none => s.leastLoaded (hd / 2) (s.upPaths hd)

/-- Where a looped-back request arrives: the partition that binds its FASN, else the source's own half-die (R407, R408). -/
def State.loopHalf (s : State) (hd : Nat) (fasn : BitVec 16) : Nat :=
  match s.ctxs.find? (fun e => e.2.fasn == fasn.toNat && (match e.2.st with
    | .bound | .active | .suspended | .faulted => true
    | _ => false)) with
  | some e => (s.partHalves e.2.part).headD hd
  | none => hd
/-- Put a request packet out: through its port, or back into this package (R407). -/
def State.putRequest (s : State) (hd : Nat) (p : Request) : State :=
  if p.dpeer.toNat = s.pkg then { s with loop := s.loop ++ [(s.loopHalf hd p.fasn, .req p)] }
  else { s with fabricOut := s.fabricOut ++ [(4 * (hd / 2) + p.path.toNat, .req p)] }

/-- A pending result goes: its registers keep their old values (R466). -/
def State.dropPend (s : State) (id : Nat) : State := { s with pend := s.pend.filter (·.id != id) }
/-- An agent's access is answered: a line, an acknowledgement, or a fault (R300, R413). -/
def State.answerAgent (s : State) (hd : Nat) (key : AgentKey) (va : DWord) (fault : Option PFault) (line : Option Line) : State :=
  { s with answers := s.answers ++ [{ hd, key, va, fault, line }] }
/-- A refusal of an access of a thread (R413, R466); TADDR is the access's VA. Lane 32 stands for a warp that has retired. [DEDUCED, log 35] -/
def State.refuse (s : State) (slot lane : Nat) (pend : Option Nat) (va : DWord) (code : Nat) : State :=
  let s := match pend with
    | some id => s.dropPend id
    | none => s
  if lane < 32 then s.modThread slot lane (fun t => { t with defer := t.defer ++ [pf 8 va code] }) else s

/-- The VA a want was for: the line's address and its offset (R413). -/
def Want.va (w : Want) (req : DWord) : DWord := match w with
  | .load off _ _ => lineVa req + BitVec.ofNat 64 off
  | .unif off _ _ => lineVa req + BitVec.ofNat 64 off
  | .store off => lineVa req + BitVec.ofNat 64 off
  | .commit off _ _ => lineVa req + BitVec.ofNat 64 off
  | _ => req

/-- A store of a commit has failed for threads of a warp: their later releases in it are not performed (R233). -/
def Workgroup.failCommit (g : Workgroup) (wid : Nat) (lanes : List Nat) : Workgroup :=
  { g with failed := lanes.foldl (fun (t : Table Bool) l => if (t.find (32 * wid + l)).isSome then t else t.put (32 * wid + l) false) g.failed }
/-- The same where a store's failure is learnt. -/
def State.noteCommit (s : State) (wg : Nat) (w : Want) : State := match w with
  | .commit _ wid lanes => if (s.wgs.find wg).isSome then s.modWg wg (fun g => g.failCommit wid lanes) else s
  | _ => s
/-- What waits for an access learns that it is refused (R413, R466). -/
def State.refuseAwait (s : State) (hd wg : Nat) (w : Await) (va : DWord) (code : Nat) : State := match w.want with
  | .agent key => s.answerAgent hd key va (some (pf 8 va code)) none
  | _ => (s.refuse w.slot w.lane w.pend (w.want.va va) code).noteCommit wg w.want
/-- Send one request: pass, path, sequence number and restart mark (R414, R417, R422, R423, R428). With no path UP the
source answers it with code 11 (R427). -/
def State.sendRequest (s : State) (x : RSend) : State :=
  let hd := x.req.shd.toNat
  let stream := x.req.stream.toNat
  let peer := x.req.dpeer.toNat
  let loop := peer == s.pkg
  match (if loop then some 0 else s.choosePath hd stream peer x.req.va) with
  | none => x.wants.foldl (fun s w => s.refuseAwait hd x.wg w x.req.va 11) s
  | some path =>
    let key := tripleKey hd stream peer
    let p := { x.req with
      path := BitVec.ofNat 2 path
      pass := BitVec.ofNat 64 (s.mem.read ((s.ctx x.ctx).ptab + 8 * x.passix) 8)
      sseq := BitVec.ofNat 16 (s.sseqs.get key)
      restart := !s.begun.contains key }
    let rs := x.wants.zipIdx.map (fun w =>
      { id := s.nextId + w.2, hd, stream, peer, req := p, slot := w.1.slot, lane := w.1.lane, pend := w.1.pend, want := w.1.want,
        patch := w.1.patch, ctx := x.ctx, passix := x.passix, first := s.devtime, last := s.devtime, held := false, stamp := x.stamp
        wg := x.wg, commit := x.commit, acq := w.1.acq, ro := x.ro : Remote })
    let s := { s with
      remotes := s.remotes ++ rs
      nextId := s.nextId + x.wants.length
      sseqs := s.sseqs.put key ((s.sseqs.get key + 1) % 65536)
      begun := if s.begun.contains key then s.begun else key :: s.begun }
    s.putRequest hd p

/-- `fullTriples` with the triples of the requests before. -/
def State.fullFrom (s : State) (seen : List Nat) : List RSend → List ((Nat × Nat) × Why)
  | [] => []
  | x :: r =>
    let (hd, st, peer) := (x.req.shd.toNat, x.req.stream.toNat, x.req.dpeer.toNat)
    let key := tripleKey hd st peer
    let n := (s.unacked hd st peer).length + seen.count key
    (if 256 ≤ n then x.wants.map (fun w => ((w.slot, w.lane), Why.triple hd st peer)) else []) ++ s.fullFrom (key :: seen) r
/-- Requests a group would send that find their triple full (R422): the threads that would send them. -/
def State.fullTriples (s : State) (xs : List RSend) : List ((Nat × Nat) × Why) := s.fullFrom [] xs

/-- The thread has a remote access not yet answered (R225). -/
def State.hasRemote (s : State) (slot lane : Nat) : Bool := s.remotes.any (fun r => r.slot == slot && r.lane == lane)
/-- The answer of a remote access returns a value to its thread. -/
def Want.reads : Want → Bool
  | .nothing | .store _ | .commit _ _ _ | .word _ | .agent _ => false
  | _ => true
/-- What a thread's next access waits for: answers to its remote acquires; and, before a write, to its remote reads (R217,
R219, R223). [DEDUCED, log 99] -/
def State.answersWhy (s : State) (slot lane : Nat) (wr : Bool) : Option Why :=
  let mine := s.remotes.filter (fun r => r.slot == slot && r.lane == lane)
  if mine.any (·.acq) then some (.answers false)
  else if wr && mine.any (fun r => r.want.reads) then some (.answers true) else none
/-- An access of the own package waits for answers to the thread's accesses that were looped back into it, which act on the same
bytes (R216, R407). -/
def State.loopWhy (s : State) (slot lane : Nat) : Option Why :=
  if s.remotes.any (fun r => r.slot == slot && r.lane == lane && r.peer == s.pkg) then some (.release none) else none
/-- What some threads of a warp wait for so before an access, which may be of the own package. -/
def State.warpAnswers (s : State) (slot : Nat) (lanes : List Nat) (wr : Bool) : Option Why :=
  (lanes.filterMap (fun l => (s.answersWhy slot l wr).or (s.loopWhy slot l))).head?

end Sys2Proof.Machine
end

