-- ==== Sys2Proof/Machine/Store.lean ====
section
/-! DEFINITION. How a thread's accesses reach memory once they are granted: verified lines through the L1 (R190, R198, R450),
loads and stores of every memory type (R196, R197, R200, R205), the store buffers of repeatable mode (R186 to R188) and their
commit (R187, R237), and the partials of repeatable reductions (R261, R262). -/
namespace Sys2Proof.Machine

-- Reading lines -------------------------------------------------------------------------------------------------------

/-- A line of normal or KV memory as a core sees it: from its L1 where it is held, else read from its home, verified and
allocated in the L1 (R190, R198); or the TINFO of its data-integrity fault. -/
def State.loadLine (s : State) (core n : Nat) : Except Nat (Line × State) := match (s.l1 core).find n with
  | some l => .ok (l, s)
  | none => match s.lineFault n with
    | some i => .error i
    | none => .ok (s.line n, (s.useL2 n false).fillL1 core n (s.line n))
/-- A line of sync memory, served at the home Kettle (R196, R244, R245). -/
def State.syncLine (s : State) (n : Nat) : Except Nat (Line × State) := match s.lineFault n with
  | some i => .error i
  | none => .ok (s.line n, s.takeCell n)
/-- A line reached through a page of type I/O, which no cache holds (R196). -/
def State.plainLine (s : State) (n : Nat) : Except Nat (Line × State) := match s.lineFault n with
  | some i => .error i
  | none => .ok (s.line n, s)

/-- The copy of a line is that of a context, through a leaf (R234). -/
def Copy.isOf (c : Copy) (ctx : Nat) (va leaf : DWord) : Bool :=
  c.ctx == ctx && c.va == (lineVa va).toNat && c.peer == (leafPeer leaf).toNat && c.fasn == (leafFasn leaf).toNat
/-- Two copies are of one line. -/
def Copy.same (a b : Copy) : Bool := a.ctx == b.ctx && a.peer == b.peer && a.fasn == b.fasn && a.va == b.va
/-- A copy taken into a core's L1 (R190). -/
def State.copyToL1 (s : State) (core : Nat) (c : Copy) : State :=
  let x := s.core (s.l1Home core)
  let cs := x.copies.filter (fun y => !c.same y)
  let (_, t, ds) := giveUp (s.l1Lines core) s.free.1 x.l1 cs
  (s.chose (cacheFull (s.l1Lines core) x.l1 cs)).modCore (s.l1Home core) (fun x => { x with l1 := t, copies := c :: ds })
/-- A copy taken into the L2 slices of a half-die; a dirty line given up goes to the memory-side cache (R190). -/
def State.copyToL2 (s : State) (hd : Nat) (c : Copy) : State :=
  let x := s.half hd
  let cs := x.copies.filter (fun y => !c.same y)
  let (v, t, ds) := giveUp l2Lines s.free.1 x.l2 cs
  let s := (s.chose (cacheFull l2Lines x.l2 cs)).modHalf hd (fun x => { x with l2 := t, copies := c :: ds })
  match v with
  | some (m, true) => s.useMsc m true
  | _ => s
/-- The copy of a line of a remote-cached-read-only page that a core finds in its L1, or in its half-die's L2, with whether it is
in the L1 (R190, R234). -/
def State.findCopy (s : State) (slot ctx : Nat) (va leaf : DWord) : Option (Copy × Bool) :=
  if leafMode leaf ≠ 2 then none
  else match (s.core (s.l1Home (coreOf slot))).copies.find? (·.isOf ctx va leaf) with
    | some c => some (c, true)
    | none => ((s.half (halfOf slot)).copies.find? (·.isOf ctx va leaf)).map (·, false)
/-- Its line. -/
def State.copyOf (s : State) (slot ctx : Nat) (va leaf : DWord) : Option Line := (s.findCopy slot ctx va leaf).map (·.1.line)
/-- A read that finds a copy: one found in the L2 is allocated in the reader's L1 (R190); the read is an acquire in its scope, which
leaves the copies (R218, R234). -/
def State.useCopy (s : State) (slot ctx : Nat) (va leaf : DWord) (o : OrdSc) : State :=
  let s := match s.findCopy slot ctx va leaf with
    | some (c, false) => s.copyToL1 (coreOf slot) c
    | _ => s
  s.acquire (coreOf slot) o
/-- A line of a remote-cached-read-only page, read from its package, is held in the reader's L1 and L2 (R190, R234). -/
def State.holdCopy (s : State) (slot : Nat) (c : Copy) : State :=
  (s.copyToL1 (coreOf slot) c).copyToL2 (halfOf slot) c
/-- Copies that meet a condition are discarded from the L1s and L2s of some half-dies (R210, R234). -/
def State.dropCopies (s : State) (hs : List Nat) (bad : Copy → Bool) : State :=
  { s.ageReads hs bad with
    cores := s.cores.map (fun c x => if hs.contains (coreHalf c) then { x with copies := x.copies.filter (fun y => !bad y) } else x)
    halves := s.halves.map (fun h x => if hs.contains h then { x with copies := x.copies.filter (fun y => !bad y) } else x) }
/-- The w bytes at offset o of a line, as a number. -/
def lineField (l : Line) (o w : Nat) : DWord := BitVec.ofNat 64 (dataField l.data o w)

-- Store buffers (R186) ------------------------------------------------------------------------------------------------

/-- Two targets lie in one line. -/
def Target.sameLine (a b : Target) : Bool := match a, b with
  | .mem p _, .mem q _ => p / 128 == q / 128
  | .remote v l, .remote w m => lineVa v == lineVa w && leafPeer l == leafPeer m && leafFasn l == leafFasn m
  | _, _ => false
/-- The place of a target in its line. -/
def Target.offset : Target → Nat
  | .mem p _ => p % 128
  | .io p => p % 128
  | .remote v _ => v.toNat % 128
/-- A line's data with w bytes at offset o replaced. -/
def putBytes (d : LineBits) (o w v : Nat) : LineBits :=
  mergeMasked d (BitVec.ofNat 1024 (v % 2 ^ (8 * w) * 2 ^ (8 * o))) (BitVec.ofNat 128 ((2 ^ w - 1) * 2 ^ o))
/-- A buffered operation as the same warp's loads see it (R186): reductions are not seen (R261). -/
def BufOp.patch (l : Line) (o : BufOp) : Line := match o.act with
  | .store _ w v _ => { l with data := putBytes l.data o.target.offset w v.toNat }
  | .line _ x _ => x
  | .red _ _ _ _ => l
/-- The operations of a buffer on a target's line. -/
def bufOn (b : List BufOp) (t : Target) : List BufOp := b.filter (fun o => o.target.sameLine t)
/-- A line with the warp's buffered bytes in place (R186). -/
def overlay (b : List BufOp) (l : Line) : Line := b.foldl BufOp.patch l
/-- The lines a buffer touches (R188). -/
def bufLines (b : List BufOp) : List Target :=
  b.foldl (fun ts o => if ts.any (·.sameLine o.target) then ts else o.target :: ts) []

/-- The warp runs in repeatable mode (R186). -/
def State.repeatableOf (s : State) (slot : Nat) : Bool := (s.kernelOf slot).repeatable
/-- What a warp's buffer holds: operations of a commit not yet performed, then those issued since (R186, R187). -/
def State.bufAll (s : State) (slot : Nat) : List BufOp :=
  let w := s.warp slot
  ((s.wgs.get w.wg).commits.filter (fun c => c.1 == w.wid)).map Prod.snd ++ w.buf
/-- Lines of the workgroup's store area in use: what its warps hold past 64 lines each (R188). -/
def State.areaLines (s : State) (wg : Nat) : Nat :=
  let g := s.wgs.get wg
  let excess := fun (b : List BufOp) => (bufLines b).length - 64
  ((List.filter (fun e => e.2.wg == wg) s.warps).map (fun e => excess (s.bufAll e.1))).foldl (· + ·) 0
    + (List.map (fun e => excess e.2) g.done).foldl (· + ·) 0
/-- There is room to buffer an operation of the warp on a target (R188, R261). -/
def State.bufRoom (s : State) (slot : Nat) (t : Target) : Bool :=
  let b := s.bufAll slot
  b.any (fun o => o.target.sameLine t) || decide ((bufLines b).length < 64)
    || decide (s.areaLines (s.warp slot).wg < (s.kernelOf slot).rsl)
/-- Buffer an operation, with its recess stamp (R186, R240). [DEDUCED, log 41] -/
def State.buffer (s : State) (slot : Nat) (act : BufAct) (target : Target) (va : DWord) : State :=
  let o : BufOp := { act, target, va, stamp := (s.part (s.kernelOf slot).part).recess }
  s.modWarp slot (fun w => { w with buf := w.buf ++ [o] })

-- Performing stores -----------------------------------------------------------------------------------------------------

/-- What the merge of a store finds in its line: for sync memory the Kettle's check of value and tag, else the check value's
(R245, R451). -/
def State.mergeBad (s : State) (pa mt : Nat) : Option Nat := if mt = 1 then s.lineFault (pa / 128) else s.lineBad (pa / 128)
/-- A store of w bytes at its home, as a core makes it (R190, R196, R197, R200, R244); none where the merge fails (R451). [DESIGN CHOICE, log 107] -/
def State.mergeAt (s : State) (core pa mt w : Nat) (v : DWord) : Option State :=
  if (s.mergeBad pa mt).isSome then none
  else
    let s := if mt = 1 then s.takeCell (pa / 128) else s
    (s.poke pa w v.toNat).map (fun t =>
      (if mt = 1 then t.dropL1 core (pa / 128) else t.storeL1 core pa w v.toNat).loosen s pa (pa + w))
/-- A thread's store into its own package: a merge that fails is reported to it later (R245, R452). -/
def State.storeMem (s : State) (slot lane pa mt w : Nat) (v va : DWord) : State := match s.mergeAt (coreOf slot) pa mt w v with
  | some s => s
  | none =>
    let i := (s.mergeBad pa mt).getD 1
    (s.reportCheck slot i 2 va).modThread slot lane (fun t => { t with defer := t.defer ++ [pf 7 va (if i = 3 then 3 else 1)] })
/-- A whole line stored into the own package: the L1's copy is updated where present (R190, R205). -/
def State.storeLine (s : State) (core pa : Nat) (l : Line) : State :=
  let s := (s.putLine (pa / 128) l).loosen s pa (pa + 128)
  match (s.l1 core).find (pa / 128) with
  | some _ => s.modL1 core (·.put (pa / 128) l)
  | none => s

/-- An access of a warp through a leaf of another package, as a request. -/
def State.remoteSend (s : State) (slot : Nat) (leaf : DWord) (req : Request) (wants : List Await) : RSend :=
  { wg := (s.warp slot).wg, commit := false, stamp := (s.part (s.kernelOf slot).part).recess
    ctx := (s.kernelOf slot).ctx, passix := leafPassix leaf, ro := leafMode leaf == 2, req, wants }
/-- The release is one at .fabric, and its packet carries the ordered flag (R232). -/
def OrdScFabric (o : OrdSc) : Bool := o == .fabric

-- Commits of store buffers (R187, R232, R237) ----------------------------------------------------------------------------

/-- The operation is a reduction, which no roll call commits (R261). -/
def BufOp.isRed (o : BufOp) : Bool := match o.act with
  | .red _ _ _ _ => true
  | _ => false
/-- The ordering of a buffered store. -/
def BufOp.order (o : BufOp) : OrdSc := match o.act with
  | .store _ _ _ o => o
  | .line _ _ o => o
  | .red _ _ _ _ => .plain
/-- The lanes a buffered operation was issued for. -/
def BufOp.lanes (o : BufOp) : List Nat := match o.act with
  | .store lane _ _ _ => [lane]
  | .line lanes _ _ => lanes
  | .red lane _ _ _ => [lane]
/-- The warp slot of a resident warp of a workgroup. -/
def State.slotOf (s : State) (wg wid : Nat) : Option Nat :=
  (List.find? (fun e => e.2.wg == wg && e.2.wid == wid) s.warps).map Prod.fst
/-- The buffer of a workgroup's warp, resident or retired. -/
def State.bufOf (s : State) (wg wid : Nat) : List BufOp := match s.slotOf wg wid with
  | some k => (s.warp k).buf
  | none => (s.wgs.get wg).done.get wid
/-- The stream of a warp of a workgroup (R421). -/
def Workgroup.stream (g : Workgroup) (wid : Nat) : Nat := (g.idx + wid) % 16

/-- The request of a buffered store through a leaf of another package (R411, R421). -/
def State.commitSend (s : State) (wg wid : Nat) (o : BufOp) (va leaf : DWord) : RSend :=
  let g := s.wgs.get wg
  let f := OrdScFabric o.order
  let req := match o.act with
    | .line _ l _ => s.lineRequest (64 * g.core) va leaf l f
    | .store _ w v _ => s.storeRequest (64 * g.core) va leaf w v f
    | .red _ _ _ _ => s.requestFor (64 * g.core) va leaf 3 f
  let off := match o.act with
    | .line _ _ _ => 0
    | _ => va.toNat % 128
  { wg, commit := true, stamp := o.stamp, ctx := (s.kernel g.kernel).ctx, passix := leafPassix leaf, ro := false
    req := { req with stream := BitVec.ofNat 4 (g.stream wid), shd := BitVec.ofNat 3 (coreHalf g.core) }
    wants := match s.slotOf wg wid with
      | some k => o.lanes.map (fun i => ⟨k, i, false, none, .commit off wid [i], []⟩)
      | none => [⟨64 * g.core, 32, false, none, .commit off wid o.lanes, []⟩] }
/-- An operation of a commit waits: a release for the answers to the stores committed before it, but for those on its own
ordered stream; a store to another package for room in its triple, and for answers to stores to its line on other streams, so
that the later one leaves its value (R187, R231, R232, R237, R422). -/
def State.commitWaits (s : State) (wg wid : Nat) (o : BufOp) : Bool :=
  let g := s.wgs.get wg
  let ahead := s.remotes.filter (fun r => r.wg == wg && r.commit)
  match o.target with
  | .remote va leaf =>
    let own := fun (r : Remote) => o.order == .fabric && r.stream == g.stream wid && r.peer == (leafPeer leaf).toNat
    (o.order != .plain && ahead.any (fun r => !own r))
      || ahead.any (fun r => r.stream != g.stream wid && r.peer == (leafPeer leaf).toNat && r.req.fasn == leafFasn leaf && lineVa r.req.va == lineVa va)
      || decide (256 ≤ (s.unacked (coreHalf g.core) (g.stream wid) (leafPeer leaf).toNat).length)
  | _ => o.order != .plain && !ahead.isEmpty
/-- Perform a buffered store or line as if it were issued now (R187). -/
def State.commitOp (s : State) (wg wid : Nat) (o : BufOp) : State := match o.target, o.act with
  | .mem pa mt, .store lane w v _ => match s.slotOf wg wid with
    | some k => s.storeMem k lane pa mt w v o.va
    | none => (s.mergeAt (s.wgs.get wg).core pa mt w v).getD
        (s.reportFor (s.kernel (s.wgs.get wg).kernel) ((s.wgs.get wg).core / 96) ((s.mergeBad pa mt).getD 1) 2 o.va)
  | .mem pa _, .line _ l _ => s.storeLine (s.wgs.get wg).core pa l
  | .remote va leaf, _ => s.sendRequest (s.commitSend wg wid o va leaf)
  | _, _ => s
/-- The merge of a store of a commit would fail: its threads' later releases are not performed (R233, R452). -/
def State.commitFails (s : State) (o : BufOp) : Bool := match o.target, o.act with
  | .mem pa mt, .store _ _ _ _ => (s.mergeBad pa mt).isSome
  | _, _ => false
/-- A store of a commit is not performed: it is a release, or comes after one, of a thread an earlier store of which has been refused
(R233). -/
def Workgroup.withholds (g : Workgroup) (wid : Nat) (o : BufOp) : Bool :=
  o.lanes.any (fun l => match g.failed.find (32 * wid + l) with
    | some held => held || o.order != .plain
    | none => false)
/-- Operations of a commit in order, up to the first that waits (R187, R233). -/
def State.commitOps (s : State) (wg : Nat) : List (Nat × BufOp) → List (Nat × BufOp) × State
  | [] => ([], s)
  | x :: r =>
    if s.commitWaits wg x.1 x.2 then (x :: r, s)
    else if (s.wgs.get wg).withholds x.1 x.2 then
      (s.modWg wg (fun g => { g with failed := x.2.lanes.foldl (fun t l => t.put (32 * x.1 + l) true) g.failed })).commitOps wg r
    else
      let s1 := s.commitOp wg x.1 x.2
      (if s.commitFails x.2 then s1.modWg wg (fun g => g.failCommit x.1 x.2.lanes) else s1).commitOps wg r
/-- A commit of a workgroup's store buffers begins: warps in ascending number, each in its order; reductions stay held (R187,
R261). -/
def State.commitBegin (s : State) (wg : Nat) : State :=
  if (s.wgs.get wg).committing then s
  else
    let ops := (List.range (s.wgs.get wg).nw).flatMap (fun w => ((s.bufOf wg w).filter (fun o => !o.isRed)).map (w, ·))
    let s := { s with warps := s.warps.map (fun _ w => if w.wg == wg then { w with buf := w.buf.filter BufOp.isRed } else w) }
    s.modWg wg (fun g => { g with done := g.done.map (fun _ b => b.filter BufOp.isRed), commits := ops, committing := true })
/-- A commit goes on: what of it can be performed is. -/
def State.commitStep (s : State) (wg : Nat) : State :=
  let (rest, s) := s.commitOps wg (s.wgs.get wg).commits
  s.modWg wg (fun g => { g with commits := rest })
/-- A commit is over: everything is performed, stores to other packages answered (R187, R231). -/
def State.commitOver (s : State) (wg : Nat) : Bool :=
  (s.wgs.get wg).commits.isEmpty && !s.remotes.any (fun r => r.wg == wg && r.commit)
/-- The commit of a workgroup's store buffers, as far as it gets now; and whether it is over. -/
def State.commit (s : State) (wg : Nat) : Bool × State :=
  let s := (s.commitBegin wg).commitStep wg
  if s.commitOver wg then (true, s.modWg wg (fun g => { g with committing := false, failed := [] })) else (false, s)

-- Repeatable reductions (R261) --------------------------------------------------------------------------------------------

/-- Fold one held reduction into the workgroup's partial for its location (R261). -/
def foldPartial (wgidx stamp : Nat) (ps : List Partial) (t : Target) (op : KOp) (w64 : Bool) (x : DWord) : List Partial := match ps with
  | [] => [⟨wgidx, t, op, w64, x, stamp⟩]
  | p :: r =>
    if p.wgidx == wgidx && p.target == t && p.w64 == w64 then { p with val := (kop op w64 p.val x 0).getD p.val, stamp := min p.stamp stamp } :: r
    else p :: foldPartial wgidx stamp r t op w64 x
/-- A buffered operation folded into the partials, if it is a reduction. -/
def BufOp.fold (wgidx : Nat) (ps : List Partial) (o : BufOp) : List Partial := match o.act with
  | .red _ op w64 x => foldPartial wgidx o.stamp ps o.target op w64 x
  | _ => ps
/-- At a workgroup's completion its held reductions become partials of its kernel (R261). [DEDUCED, log 40] -/
def State.gatherPartials (s : State) (wg : Nat) : State :=
  let g := s.wgs.get wg
  let ops := (List.range g.nw).flatMap (fun w => s.bufOf wg w)
  s.modKernel g.kernel (fun k => { k with partials := ops.foldl (BufOp.fold g.idx) k.partials })

end Sys2Proof.Machine
end

