-- ==== Sys2Proof/Machine/Roster.lean ====
section
/-! DEFINITION. Rosters (R177 to R184): arrival, the completion test, joining and leaving; the release of a matrix context
(R274); and the end of a warp and of its workgroup (R170, R187, R261, R366). -/
namespace Sys2Proof.Machine

def State.roster (s : State) (wg r : Nat) : Roster := (s.wgs.get wg).rosters.get r
def State.modRoster (s : State) (wg r : Nat) (f : Roster → Roster) : State :=
  s.modWg wg (fun g => { g with rosters := g.rosters.put r (f (g.rosters.get r)) })
/-- The lanes of a warp slot whose threads are neither EXITED nor HALTED. -/
def Warp.aliveLanes (w : Warp) : List Nat := (List.range 32).filter (fun l => (w.thread l).st.alive)
/-- Matrix context m of a core (R271). -/
def State.matrix (s : State) (core m : Nat) : MCtx := (s.core core).mctx.get m
def State.modMatrix (s : State) (core m : Nat) (f : MCtx → MCtx) : State :=
  s.modCore core (fun c => { c with mctx := c.mctx.put m (f (c.mctx.get m)) })

/-- A context is released once no started operation is left (R274). -/
def MCtx.settle (m : MCtx) : MCtx := if m.leaving && m.ops.isEmpty then default else m
/-- MDISS and the end of a bound roster (R184, R274): gathering issues and undelivered records go, and the context is
released after its started operations. -/
def State.unbind (s : State) (wg r : Nat) : State := match (s.roster wg r).bound with
  | none => s
  | some m =>
    let dseq := (s.roster wg r).dseq
    let pends := (s.roster wg r).gath.filterMap (·.pend)
    let s := { s with pend := s.pend.filter (fun p => !pends.contains p.id) }
    let s := s.modRoster wg r (fun x =>
      { x with
        bound := none, gath := [], tainted := false, fails := []
        issued := ((List.range 32).filter x.members.getLsbD).foldl (fun t w => Table.put t w x.started) x.issued })
    s.modMatrix (s.wgs.get wg).core m (fun x => ({ x with leaving := true, dseq } : MCtx).settle)

/-- A member warp has arrived (R178). -/
def State.arrived (s : State) (wg : Nat) (ro : Roster) (wid : Nat) : Bool := match s.slotOf wg wid with
  | none => true
  | some k => (s.warp k).aliveLanes.all (fun l => ro.pending.getLsbD (32 * wid + l))
/-- A roll-call target has been reached: (PHASE − target) mod 2^16 < 2^15 (R183). -/
def phaseReached (phase target : BitVec 16) : Bool := decide ((phase - target).toNat < 2 ^ 15)
/-- A thread waiting on a roll call of slot r goes on once its target is reached (R179, R183). -/
def Thread.passRoll (t : Thread) (r : Nat) (phase : BitVec 16) : Thread := match t.st, t.why with
  | .waiting, .roll k target => if k = r && phaseReached phase target then { t with st := .ready, pc := t.pc + 4, why := .nothing } else t
  | _, _ => t
/-- Every thread of a workgroup waiting on roster r re-tests its condition (R179). -/
def State.passRolls (s : State) (wg r : Nat) : State :=
  { s with warps := s.warps.map (fun _ w =>
      if w.wg == wg then { w with threads := w.threads.map (fun _ t => t.passRoll r (s.roster wg r).phase) } else w) }
/-- The writes into tiles that a roll call's members know of happen before what every member does next (R180, R226). -/
def shareTiles (members : BitVec 32) (u : Unready) : Unready :=
  if u.seen.any members.getLsbD then { u with seen := (u.seen ++ (List.range 32).filter members.getLsbD).eraseDups } else u
/-- A homeroom roll call of a repeatable launch commits the store buffers first (R187); it is over or under way. -/
def State.rollCommit (s : State) (wg r : Nat) : Bool × State :=
  let g := s.wgs.get wg
  if r = 0 && (s.kernel g.kernel).repeatable && (s.kernel g.kernel).st.live && !g.doomed then s.commit wg else (true, s)
/-- The completion test (R179): a roll call in which every member has arrived completes; a roster without members other
than the homeroom becomes UNUSED. -/
def State.completionTest (s : State) (wg r : Nat) : State :=
  let ro := s.roster wg r
  let s := if ro.st = .calling && (List.range 32).all (fun w => !ro.members.getLsbD w || s.arrived wg ro w) then
      let (fin, s) := s.rollCommit wg r
      if fin then
        ((s.modRoster wg r (fun x => { x with phase := x.phase + 1, pending := 0, st := .standing })).modWg wg
          (fun g => { g with unready := g.unready.map (shareTiles ro.members) })).passRolls wg r
      else s
    else s
  let ro := s.roster wg r
  if ro.st = .standing && ro.members == 0 && r != 0 then (s.unbind wg r).modRoster wg r (fun x => { x with st := .unused }) else s

/-- RJOIN by a warp (R182, R276). -/
def State.join (s : State) (wg r wid : Nat) : State :=
  if r = 0 then s
  else
    let ro := s.roster wg r
    let bit := BitVec.ofNat 32 (2 ^ wid)
    if ro.st = .unused then
      let new : Roster := {
        st := .standing, members := bit, pending := 0, phase := 0, bound := none, started := 0, issued := [], dseq := 0, fails := []
        nfs := [], gath := [], tainted := false, born := s.nextId }
      { s with nextId := s.nextId + 1 }.modRoster wg r (fun _ => new)
    else if ro.members.getLsbD wid then s
    else (s.modRoster wg r (fun x => { x with members := x.members ||| bit, issued := x.issued.put wid x.started })).completionTest wg r
/-- A warp leaves a roster, by RLEAVE or by retiring (R170, R182). -/
def State.leave (s : State) (wg r wid : Nat) : State :=
  if !(s.roster wg r).members.getLsbD wid then s
  else (s.modRoster wg r (fun x => { x with members := x.members &&& ~~~(BitVec.ofNat 32 (2 ^ wid)) })).completionTest wg r

-- The end of a warp and of a workgroup (R170) ---------------------------------------------------------------------------

/-- A kernel all of whose workgroups have completed and whose last index is handed out drains (R366). -/
def State.kernelProgress (s : State) (k : Nat) : State :=
  let r := s.kernel k
  if r.st = .running && r.wgCount ≤ r.completed then s.modKernel k (fun r => { r with st := .draining }) else s
/-- A cluster leaves fused mode when its last workgroup of a fused launch has gone, completed or saved (R191). [DEDUCED, log 93] -/
def State.unfuse (s : State) (c : Nat) : State :=
  if (s.cluster c).fused && !s.wgs.any (fun e => e.2.core / 8 == c && (s.kernel e.2.kernel).fuse) then
    let s := (List.range 8).foldl (fun s i => s.modCore (8 * c + i) (fun x => { x with l1 := [], copies := [] })) s
    s.modCluster c (fun x => { x with fused := false })
  else s
/-- Free what a workgroup held on its core (R170, R398). -/
def State.freeWg (s : State) (wg : Nat) : State :=
  let core := (s.wgs.get wg).core
  let dseqs : Table (BitVec 16) := List.map (fun e => (e.1, e.2.dseq)) (s.wgs.get wg).rosters
  let s := { s with wgs := s.wgs.erase wg }
  let s := s.modCore core (fun c =>
    { c with mctx := c.mctx.map (fun _ m => match m.roster with
      | some (w, r) => if w = wg then ({ m with leaving := true, dseq := if m.leaving then m.dseq else dseqs.get r } : MCtx).settle else m
      | none => m) })
  s.unfuse (core / 8)
/-- The workgroup's commit at its completion (R187); it is over or under way. -/
def State.lastCommit (s : State) (wg : Nat) : Bool × State :=
  let k := s.kernel (s.wgs.get wg).kernel
  if k.repeatable && k.st.live && !(s.wgs.get wg).doomed then s.commit wg else (true, s)
/-- A workgroup completes, once its buffers are committed (R170, R187): its reductions become partials, and its kernel counts
it; partials past the reduction area exhaust it (R262). -/
def State.completeWg (s : State) (wg : Nat) : State :=
  let k := (s.wgs.get wg).kernel
  let (fin, s) := s.lastCommit wg
  if !fin then s
  else
    let s := if (s.kernel k).repeatable && (s.kernel k).st.live then s.gatherPartials wg else s
    let s := if 8 * (s.kernel k).rrl < (s.kernel k).partials.length && (s.kernel k).st.live
      then s.modKernel k (fun r => { r with exhausted := true, cause := if r.cause = 0 then 6 else r.cause }) else s
    let s := s.modKernel k (fun r => { r with completed := r.completed + 1 })
    (s.freeWg wg).kernelProgress k
/-- Every warp of the workgroup has retired (R170). -/
def Workgroup.ended (g : Workgroup) : Bool := popcount g.retired == g.nw

/-- What a slot's warp leaves behind: results pending and reductions not performed go, and answers of other packages find no
thread. [DEDUCED, log 94] -/
def State.clearSlot (s : State) (slot : Nat) : State :=
  { s with
    warps := s.warps.erase slot
    pend := s.pend.filter (·.slot != slot)
    watches := s.watches.filter (·.slot != slot)
    kreqs := s.kreqs.filter (·.slot != slot)
    quads := s.quads.map (fun q x => if q = quadOf slot then { x with
      xq := x.xq.filter (fun e => e.1 != slot), sb := x.sb.filter (fun e => e.slot != slot) } else x)
    cores := s.cores.map (fun c x => if c = coreOf slot then { x with mconvQ := x.mconvQ.filter (fun e => e.1 != slot) } else x)
    remotes := s.remotes.map (fun r => if r.slot == slot && decide (r.lane < 32) then { r with
      lane := 32, pend := none
      want := match r.want with
        | .commit off wid lanes => .commit off wid lanes
        | _ => .nothing } else r) }
/-- A warp retires (R170). -/
def State.retire (s : State) (slot : Nat) : State :=
  let w := s.warp slot
  let wg := w.wg
  let s := (List.range 32).foldl (fun s l => s.drainReds slot l) s
  let s := (List.range 16).foldl (fun s r => s.leave wg r w.wid) s
  let s := s.modWg wg (fun g =>
    { g with done := if (s.warp slot).buf.isEmpty then g.done else g.done.put w.wid (s.warp slot).buf
             retired := g.retired ||| BitVec.ofNat 32 (2 ^ w.wid) })
  let s := s.clearSlot slot
  if (s.wgs.get wg).ended then s.completeWg wg else s
/-- A warp all of whose threads are EXITED or HALTED retires (R170). -/
def State.retireIfDead (s : State) (slot : Nat) : State := match s.warps.find slot with
  | none => s
  | some w => if w.aliveLanes.isEmpty then s.retire slot else s

end Sys2Proof.Machine
end

