-- ==== Sys2Proof/Machine/Group.lean ====
section
/-! DEFINITION. Issuing a group (R61, R110, R116, R172 to R175): the bundle in the focused quadrant, the fate of each of its
threads, heavy faults (R195, R335), failures reported late (R466), and the end of a period. -/
namespace Sys2Proof.Machine

-- Issuing a group (R61, R172 to R175) -----------------------------------------------------------------------------------

/-- A group as its bundle issues it. -/
structure Grp where
  /-- The quadrant. -/
  q     : Nat
  /-- The bundle set (R114): the threads active when it issues, as warp slot and lane, in ascending lane. -/
  set   : List (Nat × Nat)
  /-- Those of them that do the group: all but threads that take a failure reported before it (R466). -/
  acts  : List (Nat × Nat)
  /-- Its first word's address. -/
  pc    : DWord
  /-- Its words. -/
  n     : Nat
  ctl   : Ctl
  /-- Its issue cycle (R61). -/
  cycle : Nat
  deriving DecidableEq, Repr

/-- The address after the group. -/
def Grp.next (g : Grp) : DWord := g.pc + BitVec.ofNat 64 (4 * g.n)

/-- The group the focused quadrant's bundle issues: the active threads are its members in ISSUING; they stand at one PC. -/
def State.group (s : State) (c : Ctl) (n : Nat) : Option Grp :=
  match (s.quad s.focus).bundle with
  | none => none
  | some b =>
    let acts := (b.members.map (fun _ k => k)).filterMap (fun e => if (s.thread e.2 e.1).st = .issuing then some (e.2, e.1) else none)
    match acts with
    | [] => none
    | a :: _ => some { q := s.focus, set := acts, acts, pc := (s.thread a.1 a.2).pc, n, ctl := c, cycle := (s.quad s.focus).cycle + (n - 1) }

/-- What a group does to one of its threads (R95, R116, R175). -/
inductive Fate where
  /-- It completes; its next PC. -/
  | done (pc : DWord)
  /-- It completes a roll call in which other threads of the bundle's warps wait, and is READY at its next PC with them (R176). -/
  | met (pc : DWord)
  /-- It takes a program fault; the resume address a trap saves. -/
  | fault (f : PFault) (tepc : DWord)
  /-- It takes a failure reported after an earlier group (R466). -/
  | late (f : PFault) (tepc : DWord)
  /-- It waits at the instruction (WAITING). -/
  | wait (w : Why)
  /-- It is cut at the group (INTERLOCKED). -/
  | lock (w : Why)
  /-- It is cut at the group and is READY there. -/
  | retry
  /-- Its access waits for bits of an entry, and the bundle keeps its slot with it (R195, R330). -/
  | stall (l : LightFault)
  /-- It has executed EXIT. -/
  | exit
  /-- It returns from an exception. -/
  | eret
  deriving DecidableEq, Repr

/-- A fate ends the period though threads of the bundle are still ISSUING (R174, R175). -/
def Fate.cuts : Fate → Bool
  | .wait _ | .lock _ | .retry | .met _ => true
  | _ => false

-- Heavy faults (R195, R335) ------------------------------------------------------------------------------------------

/-- The memory processor's work on a heavy fault at an entry (R335): a notice of the VA and the context in the context's fault
area, once for each warp or command whose fault it is; and a watch on the entry, unless one is armed. [DEDUCED, log 52] -/
def State.noteHeavy (s : State) (pte ctx part : Nat) (va : DWord) (kernel wgidx wid lane core : Nat) : State :=
  let n : Noted := { ctx, va, kernel, widx := wgidx, wid }
  if s.heavies.any (fun h => h.pte == pte && h.noted.contains n) then s
  else
    let s := s.faultRecord ctx 4 0 0 0 va 0 kernel wgidx wid lane core
    if s.heavies.any (fun h => h.pte == pte) then
      { s with heavies := s.heavies.map (fun h => if h.pte == pte then { h with noted := h.noted ++ [n] } else h) }
    else { s with heavies := s.heavies ++ [{ pte, part, tell := [], noted := [n] }] }
/-- A thread's access meets an entry that is not present: its workgroup is to be saved (R195, R335). [DEDUCED, log 52] -/
def State.askSave (s : State) (slot lane pte : Nat) (va : DWord) : State :=
  let w := s.warp slot
  let g := s.wgOf slot
  let k := s.kernelOf slot
  let s := s.modWg w.wg (fun g => { g with save := match g.save with
    | none => some { reason := 1, rva := va, pte }
    | some r => some r })
  s.noteHeavy pte k.ctx k.part va g.kernel g.idx w.wid lane (coreOf slot)

/-- Give one thread its fate. A failed check is recorded (R450); a heavy fault asks for the workgroup's save (R195, R335). -/
def State.applyFate (s : State) (e : (Nat × Nat) × Fate) : State :=
  let (slot, lane) := e.1
  match e.2 with
  | .done pc => s.modThread slot lane (fun t => { t with pc := pc })
  | .met pc => s.modThread slot lane (fun t => { t with pc := pc, st := .ready, why := .nothing })
  | .fault f tepc => (if f.cause = 7 then s.reportCheck slot f.info.toNat 1 f.addr else s).trap slot lane f tepc
  | .late f tepc => s.trap slot lane f tepc
  | .wait w => s.modThread slot lane (fun t => { t with st := .waiting, why := w })
  | .lock w =>
    let s := s.modThread slot lane (fun t => { t with st := .interlocked, why := w })
    match w with
    | .heavy pte va => s.askSave slot lane pte va
    | _ => s
  | .retry => s.modThread slot lane (fun t => { t with st := .ready, why := .nothing })
  | .stall _ => s
  | .exit =>
    let s := s.modThread slot lane (fun t => { t with st := .exited, why := .nothing })
    s.dropElems slot (fun key => key % 32 == lane)
  | .eret => s.eret slot lane

/-- The members of a bundle still ISSUING become READY, and the bundle closes (R174). -/
def State.closeBundle (s : State) (g : Grp) : State :=
  let s := g.set.foldl (fun s a =>
    if (s.thread a.1 a.2).st = .issuing then s.modThread a.1 a.2 (fun t => { t with st := .ready }) else s) s
  s.modQuad g.q (fun q => { q with bundle := q.bundle.map (fun b => { b with closing := true }) })

/-- The warps of the bundle set, each once, in order of first lane (R110). -/
def Grp.warps (g : Grp) : List Nat := (g.set.map Prod.fst).eraseDups
/-- Fates by ascending lane: the order of the fault records of one group (R439). -/
def byLane (fs : List ((Nat × Nat) × Fate)) : List ((Nat × Nat) × Fate) :=
  (List.range 32).flatMap (fun l => fs.filter (fun e => e.1.2 == l)) ++ fs.filter (fun e => decide (32 ≤ e.1.2))
/-- After a group: every thread has its fate, in ascending lane; the words count toward the period; the next group's first word issues no
earlier than the issue cycle + 1 + STALL (R61); the period ends under R174; and warps left without a thread retire (R170).
A bundle that waits for an entry's bits keeps its slot and its group (R195, R330). -/
def State.finish (s : State) (g : Grp) (fates : List ((Nat × Nat) × Fate)) : State :=
  let s := (byLane fates).foldl State.applyFate s
  let s := if !(s.quad g.q).stall.isEmpty then s
    else
      let s := s.modQuad g.q (fun q =>
        { q with cycle := g.cycle + 1 + g.ctl.stall.toNat, bundle := q.bundle.map (fun b => { b with words := b.words + g.n }) })
      let issuing := g.set.any (fun a => (s.thread a.1 a.2).st == .issuing)
      if g.ctl.bell || fates.any (fun e => e.2.cuts) || !issuing then s.closeBundle g else s
  g.warps.foldl State.retireIfDead s

-- Failures reported after their group (R466) ------------------------------------------------------------------------------

/-- A failure reported to a thread after its group completed (R253, R452, R466). -/
def State.deferFault (s : State) (slot lane : Nat) (f : PFault) : State :=
  s.modThread slot lane (fun t => { t with defer := t.defer ++ [f] })

/-- The threads with a failure reported take the oldest one in place of the group (R466). [DEDUCED, log 15] -/
def State.deferred (s : State) (g : Grp) : List ((Nat × Nat) × Fate) :=
  g.acts.filterMap (fun a => match (s.thread a.1 a.2).defer with
    | f :: _ => some (a, .late f g.pc)
    | [] => none)
/-- The failures taken are removed. -/
def State.takeDeferred (s : State) (g : Grp) : State :=
  g.acts.foldl (fun s a => match (s.thread a.1 a.2).defer with
    | _ :: r => s.modThread a.1 a.2 (fun t => { t with defer := r })
    | [] => s) s

/-- An instruction of the focused quadrant's bundle: failures reported before it are taken first, the rest of the bundle
does `body`, and the group finishes. With no bundle issuing there is nothing to do. [DEDUCED, log 15] -/
def issue (c : Ctl) (n : Nat) (s : State) (body : Grp → State → State × List ((Nat × Nat) × Fate)) :
    Host.Outcome State Fault Refusal :=
  match s.group c n with
  | none => .next s
  | some g =>
    let ds := s.deferred g
    let s := s.takeDeferred g
    let h := { g with acts := g.acts.filter (fun a => !ds.any (fun e => e.1 == a)) }
    let (s, fs) := if h.acts.isEmpty then (s, []) else body h s
    .next (s.finish g (ds ++ fs))

/-- A group that R62 or R79 makes illegal: each active thread takes an illegal-instruction fault at its first word. -/
def illegalOp (s : State) : Host.Outcome State Fault Refusal :=
  issue ⟨false, 0⟩ 1 s fun g s => (s, g.acts.map (fun a => (a, .fault (pf 1 0) g.pc)))
/-- A transfer of control must end its period: without BELL it is illegal (R62, R389). -/
def belled (c : Ctl) (s : State) (o : Host.Outcome State Fault Refusal) : Host.Outcome State Fault Refusal :=
  if c.bell then o else illegalOp s

/-- The warps with a thread that does the group. -/
def Grp.actWarps (g : Grp) : List Nat := (g.acts.map Prod.fst).eraseDups
/-- The active lanes of a warp in the group. -/
def Grp.lanesOf (g : Grp) (slot : Nat) : List Nat := (g.acts.filter (·.1 == slot)).map Prod.snd
/-- Every active thread of a warp shares a fate. -/
def Grp.all (g : Grp) (slot : Nat) (f : Fate) : List ((Nat × Nat) × Fate) := (g.acts.filter (·.1 == slot)).map (·, f)
/-- A fate for each active thread. -/
def Grp.each (g : Grp) (f : Nat × Nat → Fate) : List ((Nat × Nat) × Fate) := g.acts.map (fun a => (a, f a))

/-- An interlock yield (R175): the threads with a reason become INTERLOCKED, the others READY at the group. -/
def Grp.cut (g : Grp) (why : Nat × Nat → Option Why) : List ((Nat × Nat) × Fate) :=
  g.each (fun a => match why a with
    | some w => .lock w
    | none => .retry)

-- Groups that are not performed (R175, R195) ------------------------------------------------------------------------------

/-- The fate is to wait for an entry not present (R195). -/
def Fate.heavy : Fate → Bool
  | .lock (.heavy _ _) => true
  | _ => false
/-- The fate is an interlock condition of R175. -/
def Fate.interlocked : Fate → Bool
  | .lock (.heavy _ _) => false
  | .lock _ => true
  | _ => false
/-- The fate in a group that an interlock cuts: no thread executes it, and those without the condition are READY (R175). -/
def Fate.yielded : Fate → Fate
  | .lock (.heavy _ _) => .retry
  | .lock w => .lock w
  | _ => .retry
/-- The fate in a group that an entry not present keeps from being performed: program faults are taken, the threads that
wait for the entry wait, the others are READY at the group (R195). -/
def Fate.heldBack : Fate → Fate
  | .lock w => .lock w
  | .fault f t => .fault f t
  | _ => .retry
/-- The light faults of a group. -/
def lightsOf (fs : List ((Nat × Nat) × Fate)) : List LightFault :=
  fs.filterMap (fun e => match e.2 with
    | .stall l => some l
    | _ => none)
/-- The bundle waits for bits of entries, whose translations held are discarded (R195, R330). -/
def State.stallOn (s : State) (q : Nat) (ls : List LightFault) : State :=
  (ls.foldl (fun s l => s.dropEntry l.pte) s).modQuad q (fun x => { x with stall := x.stall ++ ls })
/-- What keeps a group whose threads would have these fates from being performed, if anything does: an interlock; an entry not
present; else bits of an entry to be set, for which the bundle waits and has no fate yet (R175, R195, R330). -/
def State.keptBack (s : State) (g : Grp) (fs : List ((Nat × Nat) × Fate)) : Option (State × List ((Nat × Nat) × Fate)) :=
  if fs.any (fun e => e.2.interlocked) then some (s, fs.map (fun e => (e.1, e.2.yielded)))
  else if fs.any (fun e => e.2.heavy) then some (s, fs.map (fun e => (e.1, e.2.heldBack)))
  else match lightsOf fs with
    | [] => none
    | l :: ls => some (s.stallOn g.q (l :: ls), [])

end Sys2Proof.Machine
end

