-- ==== Sys2Proof/Machine/Ingress.lean ====
section
/-! DEFINITION. The check of a request at the package it is for, and its translation in the exporter's tables (R411, R414 to
R416, R420): for packets that arrive, and for requests of engines that stay in the package (R407). -/
namespace Sys2Proof.Machine

-- The ingress check (R414 to R416) ---------------------------------------------------------------------------------------

def passExp (p : DWord) : Nat := bf p 20 13
def passBase (p : DWord) : Nat := bf p 8 12
def passLen (p : DWord) : Nat := bf p 0 8 + 1
def passSlot (p : DWord) : Nat := bf p 36 4
/-- t of R416: device milliseconds modulo 2^13. -/
def State.passTime (s : State) : Nat := s.millis % 2 ^ 13
/-- The rights a request needs are in its pass (R411, R414). -/
def passGrants (q : Request) : Bool := match q.opc.toNat with
  | 1 | 6 => q.pass.getLsbD 33
  | 2 | 3 => q.pass.getLsbD 34
  | _ => q.pass.getLsbD 35
/-- Bytes a request touches from its VA (R416). -/
def reqBytes (q : Request) : Nat := match q.opc.toNat with
  | 4 | 5 => if q.w64 then 8 else 4
  | _ => 128
/-- The lines a request carries pass their check values (R411). -/
def reqIntact (q : Request) : Bool := match q.opc.toNat with
  | 2 => (beatLine q.data q.side).2
  | 3 => maskCheck (q.data &&& BitVec.ofNat 1024 (maskBits q.mask)) == q.check
  | _ => true
/-- The bits of a request that must be 0 (R410, R411). -/
def reqClean (q : Request) : Bool := match q.opc.toNat with
  | 4 | 5 => true
  | 2 => q.kop == 0 && !q.w64 && q.side.extractLsb' 0 32 == 0
  | _ => q.kop == 0 && !q.w64
/-- The context a partition binds under a FASN (R416): one that is torn down has none. -/
def State.ctxOfFasn (s : State) (p : Nat) (fasn : BitVec 16) : Option Nat :=
  (s.ctxs.find? (fun e => e.2.boundTo p && e.2.fasn == fasn.toNat)).map Prod.fst
/-- The MAC of a pass is right under a context's keys (R415). -/
def State.macOk (s : State) (c : Nat) (q : Request) : Bool := match (s.ctx c).keys.find (passSlot q.pass) with
  | none => false
  | some k => passMac k (bf q.pass 0 40) q.speer.toNat q.fasn.toNat == bf q.pass 40 24
/-- The ingress check after its first step (R416): the context, or the code it refuses with. -/
def State.ingress (s : State) (p : Nat) (q : Request) : Except Nat Nat := match s.ctxOfFasn p q.fasn with
  | none => .error 5
  | some c =>
    let lo := passBase q.pass * 2 ^ 27
    if !s.macOk c q then .error 1
    else if !s.everLocked || 2 ^ 12 ≤ (passExp q.pass + 2 ^ 13 - s.passTime) % 2 ^ 13 then .error 2
    else if !passGrants q then .error 3
    else if q.va.toNat < lo || lo + passLen q.pass * 2 ^ 27 < q.va.toNat + (reqBytes q) then .error 4
    else if !reqIntact q then .error 9
    else .ok c

-- Translation at the destination (R420) -----------------------------------------------------------------------------------

/-- What a request does at its home (R420). -/
def reqKind (q : Request) : AccKind := match q.opc.toNat with
  | 2 | 3 => { wr := true, sync := true }
  | 4 | 5 => { atom := true, sync := true }
  | _ => { sync := true }
/-- The address of a request: a line's, or for ATM and RED the location's. -/
def reqAddr (q : Request) : DWord := if q.opc = 4 ∨ q.opc = 5 then q.va else lineVa q.va
/-- A request translated in the exporter's tables: its physical address and MTYPE, or the code and, for code 8, the entry
(R420). [DEDUCED, log 112] -/
def State.fabricWalk (s : State) (c : Nat) (q : Request) : Except (Nat × Nat) (Nat × Nat) × State := match s.translate .agent c (reqAddr q) with
  | .ok t =>
    if leafMode t.leaf != 0 then (.error (6, 0), s)
    else match s.agentAccess c (reqBytes q) (reqAddr q) (reqKind q) with
      | (.ok ⟨_, .mem pa mt, _⟩, s) => (.ok (pa, mt), s)
      | (.fault f, s) => (.error (if f.cause = 6 then 7 else if f.cause = 7 then 9 else 6, 0), s)
      | (_, s) => (.error (6, 0), s)
  | .heavy pte => (.error (8, pte), s)
  | .fault f => (.error (if f.cause = 7 then 9 else 6, 0), if f.cause = 7 then s.reportWalk c (reqAddr q) else s)
  | _ => (.error (6, 0), s)
/-- The 64 KiB page of a VA. -/
def pageVa (va : DWord) : DWord := va &&& ~~~0xFFFF#64
/-- The exporter watches an entry for a package it has refused with code 8, and tells it the page when it changes (R335, R420). -/
def State.watchFor (s : State) (p c pte : Nat) (q : Request) : State :=
  let e := (q.speer, pageVa q.va, q.fasn)
  let s := s.noteHeavy pte c p q.va 0 0 0 0 0
  { s with heavies := s.heavies.map (fun h => if h.pte == pte && !h.tell.contains e then { h with tell := h.tell ++ [e] } else h) }

end Sys2Proof.Machine
end

