-- ==== Sys2Proof/Machine/Operands.lean ====
section
/-! DEFINITION. The operand forms and the shapes of instructions: register fields with neighbours and edges (R64, R97, R98,
R114), early reads (R82, R84), interlocks (R83, R108), and the drivers: per-thread register instructions (R116), reads across
lanes (R139 to R141), per-warp instructions (R110) and warp-whole ones (R118). -/
namespace Sys2Proof.Machine

-- Register operands -----------------------------------------------------------------------------------------------------

/-- A vector source: its field, whether it is a pair, whose register it is and the edge rule (R64, R66). -/
structure Rd where
  n    : Nat
  pair : Bool := false
  nb   : Neigh := .own
  edge : Edge := .zero
  deriving DecidableEq, Repr
/-- A vector destination: its field, and whether it is a pair. -/
structure Wr where
  n    : Nat
  pair : Bool := false
  deriving DecidableEq, Repr

/-- A lane's own register. -/
def own (v : VReg) : Rd := { n := v.toNat }
/-- A lane's own pair. -/
def ownPair (v : VReg) : Rd := { n := v.toNat, pair := true }
/-- Source a under a prefix (R66). -/
def srcA (p : Option Pfx) (v : VReg) : Rd := match p with
  | none => own v
  | some p => { n := v.toNat, nb := p.na, edge := p.ea }
/-- Source b under a prefix (R66). -/
def srcB (p : Option Pfx) (v : VReg) : Rd := match p with
  | none => own v
  | some p => { n := v.toNat, nb := p.nb, edge := p.eb }
/-- The words of a group: one, or two with a prefix or an extension (R60). -/
def groupWords (p : Option Pfx) : Nat := if p.isSome then 2 else 1

/-- The thread of the bundle set in a lane. -/
def Grp.inLane (g : Grp) (lane : Nat) : Option (Nat × Nat) := g.set.find? (fun a => a.2 == lane)
/-- The thread that supplies an operand; none where it is the constant 0 of an edge (R114). -/
def Grp.source (g : Grp) (a : Nat × Nat) (nb : Neigh) (e : Edge) : Option (Nat × Nat) :=
  let at1 := match nb with
    | .own => some a
    | .left => if a.2 = 0 then none else g.inLane (a.2 - 1)
    | .right => g.inLane (a.2 + 1)
  match at1 with
  | some u => some u
  | none => match e with
    | .zero => none
    | .clamp => some a
    | .wrap => match nb with
      | .right => match g.set.find? (fun u => decide (a.2 < u.2)) with
        | some u => some u
        | none => g.set.head?
      | _ => match g.set.reverse.find? (fun u => decide (u.2 < a.2)) with
        | some u => some u
        | none => g.set.getLast?

/-- An element of a register file: warp slot, row, lane. -/
abbrev Elem := Nat × Nat × Nat
/-- The elements a field names in a thread: one, or two for a pair (R97). -/
def State.fieldElems (s : State) (u : Nat × Nat) (n : Nat) (pair : Bool) : List Elem :=
  let r := rowOf (s.thread u.1 u.2) n
  if pair then [(u.1, r, u.2), (u.1, r + 1, u.2)] else [(u.1, r, u.2)]
/-- The elements a source names for a thread. -/
def State.rdElems (s : State) (g : Grp) (a : Nat × Nat) (r : Rd) : List Elem := match g.source a r.nb r.edge with
  | none => []
  | some u => s.fieldElems u r.n r.pair
/-- The elements a destination names for a thread. -/
def State.wrElems (s : State) (a : Nat × Nat) (d : Option Wr) : List Elem := match d with
  | none => []
  | some d => s.fieldElems a d.n d.pair

/-- The element's row is held by its warp (R98). -/
def State.elemHeld (s : State) (e : Elem) : Bool := (s.warp e.1).holds e.2.1
/-- The element is read before its fixed-latency result is readable (R82). [DEDUCED, log 16] -/
def State.elemEarly (s : State) (g : Grp) (e : Elem) : Bool :=
  (s.quad g.q).sb.any (fun x => x.slot == e.1 && !x.unif && x.key == elemKey e.2.1 e.2.2 && decide (g.cycle < x.ready))
/-- An early read that traps: SBCHK of the warp that owns the row (R84). -/
def State.elemTraps (s : State) (g : Grp) (e : Elem) : Bool := (s.warp e.1).sbchk && s.elemEarly g e
/-- Why a thread that names elements waits: results pending into them (R83), or blocks in the overflow area (R108). -/
def State.elemsWhy (s : State) (es : List Elem) : Option Why :=
  match es.flatMap (fun e => s.pendElem e.1 e.2.1 e.2.2) with
  | i :: is => some (.results (i :: is))
  | [] => match es.flatMap (fun e => ((s.warp e.1).movedOf [e.2.1]).map (fun b => e.1 * 8 + b)) with
    | b :: bs => some (.moved (b :: bs))
    | [] => none

/-- One element as a group reads it: an early read without SBCHK takes a free value (R84). [DEDUCED, log 16] -/
def State.readElem (s : State) (g : Grp) (e : Elem) : Word × State :=
  if s.elemEarly g e then (BitVec.ofNat 32 s.free.1, s.free.2) else ((s.warp e.1).elem e.2.1 e.2.2, s)
/-- The value of elements, low word first (R64). -/
def State.readElems (s : State) (g : Grp) : List Elem → DWord × State
  | [] => (0, s)
  | e :: r =>
    let (v, s) := s.readElem g e
    let (h, s) := s.readElems g r
    (BitVec.setWidth 64 v ||| (h <<< 32), s)
/-- The values of a thread's sources. -/
def State.readAll (s : State) (g : Grp) (a : Nat × Nat) : List Rd → List DWord × State
  | [] => ([], s)
  | r :: rest =>
    let (v, s) := s.readElems g (s.rdElems g a r)
    let (vs, s) := s.readAll g a rest
    (v :: vs, s)

/-- The register-range and stall-count faults of a thread that names these elements (R98, R84, R117). -/
def State.elemsFault (s : State) (g : Grp) (rs ws : List Elem) : Option PFault :=
  if !(rs ++ ws).all s.elemHeld then some (pf 2 0) else if rs.any (s.elemTraps g) then some (pf 3 0) else none

-- Writing results ---------------------------------------------------------------------------------------------------------

/-- A fixed-latency result is readable from its cycle on; it takes the place of an earlier one of the register, and the period's
slot is not released before (R81, R82, R174). -/
def Quad.mark (q : Quad) (slot key : Nat) (unif : Bool) (ready : Nat) : Quad :=
  { q with
    sb := { slot, key, unif, ready } :: q.sb.filter (fun x => !(x.slot == slot && x.key == key && x.unif == unif))
    due := max q.due ready }
/-- A per-thread write of one element by a fixed-latency instruction (R43, R81). -/
def State.writeFixed (s : State) (g : Grp) (lat : Nat) (e : Elem) (v : Word) : State :=
  let s := s.modWarp e.1 (fun w => w.writeElem e.2.1 e.2.2 v)
  s.modQuad g.q (fun q => q.mark e.1 (elemKey e.2.1 e.2.2) false (g.cycle + lat))
/-- A value to elements, low word first. -/
def State.writeElems (s : State) (g : Grp) (lat : Nat) : List Elem → DWord → State
  | [], _ => s
  | e :: r, v => (s.writeFixed g lat e (v.setWidth 32)).writeElems g lat r (v >>> 32)

/-- What a register instruction does in one thread. -/
structure Res where
  val   : DWord := 0
  /-- It sets NF (R57). -/
  nf    : Bool := false
  /-- Draws it takes (R50). -/
  draws : Nat := 0
  /-- Its next PC, if not the next group. -/
  pc    : Option DWord := none
  fault : Option PFault := none
  deriving DecidableEq, Repr

/-- The draw counter after n draws: bits [30:0] wrap and bit 31 stays 0 (R50). -/
def advance (c : Word) (n : Nat) : Word := BitVec.ofNat 32 ((c.toNat + n) % 2 ^ 31)
/-- What completing does beside the destination: draws taken and NF (R50, R57, R116). -/
def State.sideRes (s : State) (a : Nat × Nat) (r : Res) : State :=
  let s := if r.draws = 0 then s else s.modThread a.1 a.2 (fun t => { t with draw := advance t.draw r.draws })
  if r.nf then s.modWarp a.1 (fun w => { w with nf := true }) else s
/-- A thread that completes writes all its destinations (R116). -/
def State.writeRes (s : State) (g : Grp) (lat : Nat) (d : Option Wr) (a : Nat × Nat) (r : Res) : State :=
  (s.writeElems g lat (s.wrElems a d) r.val).sideRes a r
/-- The extended rows a group accessed are noted, and those written may make blocks move (R108). -/
def State.settleRows (s : State) (g : Grp) (es : List Elem) : State :=
  let xs := es.filter (fun e => 64 ≤ e.2.1 && e.2.1 < 320)
  if xs.isEmpty then s
  else
    let s := xs.foldl (fun s e => s.modWarp e.1 (fun w => w.touch (s.quad g.q).cycle [e.2.1])) s
    s.spill g.q 64

-- Per-thread register instructions ------------------------------------------------------------------------------------------

/-- What an instruction does in a thread that read a register early without SBCHK: an undefined destination and nothing else,
so no fault and no NF come of the undefined value (R5, R84). [DEDUCED, log 95] -/
def State.soften (s : State) (early : Bool) (r : Res) : Res × State :=
  if !early then (r, s)
  else if r.fault.isSome then ({ val := BitVec.ofNat 64 s.free.1, pc := r.pc }, s.free.2) else ({ r with nf := false }, s)
/-- One thread of a register instruction: a fault, or what `f` gives for the values of its sources. -/
def State.evalThread (s : State) (g : Grp) (rds : List Rd) (d : Option Wr) (f : Nat × Nat → List DWord → Res) (a : Nat × Nat) : Res × State :=
  match s.elemsFault g (rds.flatMap (s.rdElems g a)) (s.wrElems a d) with
  | some e => ({ fault := some e }, s)
  | none =>
    let early := (rds.flatMap (s.rdElems g a)).any (s.elemEarly g)
    let (vs, s) := s.readAll g a rds
    s.soften early (f a vs)
/-- All of them, before any writes (R116). -/
def State.evalAll (s : State) (g : Grp) (rds : List Rd) (d : Option Wr) (f : Nat × Nat → List DWord → Res) :
    List (Nat × Nat) → List ((Nat × Nat) × Res) × State
  | [] => ([], s)
  | a :: r =>
    let (x, s) := s.evalThread g rds d f a
    let (xs, s) := s.evalAll g rds d f r
    ((a, x) :: xs, s)
/-- The fate of a thread whose result is known. -/
def Res.fate (g : Grp) (r : Res) : Fate := match r.fault with
  | some f => .fault f g.pc
  | none => .done (r.pc.getD g.next)
/-- The threads that wait at a group because of what they name. -/
def State.interlocks (s : State) (g : Grp) (els : Nat × Nat → List Elem) : Option (List ((Nat × Nat) × Fate)) :=
  if g.acts.any (fun a => (s.elemsWhy (els a)).isSome) then some (g.cut (fun a => s.elemsWhy (els a))) else none

/-- A per-thread register instruction of fixed latency (R81, R116): `f` computes a thread's result from its sources. -/
def regOp (c : Ctl) (n lat : Nat) (rds : List Rd) (d : Option Wr) (s : State) (f : Grp → State → Nat × Nat → List DWord → Res) :
    Host.Outcome State Fault Refusal :=
  issue c n s fun g s =>
    let els := fun a => rds.flatMap (s.rdElems g a) ++ s.wrElems a d
    match s.interlocks g els with
    | some fs => (s, fs)
    | none =>
      let (rs, s1) := s.evalAll g rds d (f g s) g.acts
      let s2 := rs.foldl (fun s x => if x.2.fault.isNone then s.writeRes g lat d x.1 x.2 else s) s1
      (s2.settleRows g (g.acts.flatMap els), rs.map (fun x => (x.1, x.2.fate g)))

/-- Register values of a warp that land later, if there are any (R81, R83). -/
def State.pendRegs (s : State) (slot : Nat) (regs : List (Nat × Word)) : State :=
  if regs.isEmpty then s else s.addPend { Pending.empty slot with regs }
/-- A value as words for elements, low word first. -/
def wordsFor : List Elem → DWord → List (Nat × Word)
  | [], _ => []
  | e :: r, v => (elemKey e.2.1 e.2.2, v.setWidth 32) :: wordsFor r (v >>> 32)
/-- The results of the threads that complete are pending, one result for each warp (R81, R83, R116). -/
def State.landLater (s : State) (d : Option Wr) (rs : List ((Nat × Nat) × Res)) : State :=
  let ok := rs.filter (fun x => x.2.fault.isNone)
  (ok.map (fun x => x.1.1)).eraseDups.foldl (fun s k =>
    s.pendRegs k ((ok.filter (fun x => x.1.1 == k)).flatMap (fun x => wordsFor (s.wrElems x.1 d) x.2.val))) s
/-- A per-thread register instruction of variable latency (R81, R83, R116). -/
def lateOp (c : Ctl) (n : Nat) (rds : List Rd) (d : Option Wr) (s : State) (f : Grp → State → Nat × Nat → List DWord → Res) :
    Host.Outcome State Fault Refusal :=
  issue c n s fun g s =>
    let els := fun a => rds.flatMap (s.rdElems g a) ++ s.wrElems a d
    match s.interlocks g els with
    | some fs => (s, fs)
    | none =>
      let (rs, s1) := s.evalAll g rds d (f g s) g.acts
      let s2 := rs.foldl (fun s x => if x.2.fault.isNone then s.sideRes x.1 x.2 else s) (s1.landLater d rs)
      (s2.settleRows g (g.acts.flatMap els), rs.map (fun x => (x.1, x.2.fate g)))

-- Reads across lanes (R139 to R141) -------------------------------------------------------------------------------------------

/-- The element a lane of the bundle set offers for a source: none where the lane cannot offer a value; the constant 0 of an
edge has no element (R114, R139). [DEDUCED, log 18] -/
def State.offer (s : State) (g : Grp) (r : Rd) (lane : Nat) : Option (List Elem) := match g.inLane lane with
  | none => none
  | some u =>
    let es := s.rdElems g u r
    if es.all s.elemHeld then some es else none
/-- The values some lanes offer, for one reader. -/
def State.readOffers (s : State) (g : Grp) (r : Rd) : List Nat → List (Nat × Option Word) × State
  | [] => ([], s)
  | l :: rest =>
    let (v, s) := match s.offer g r l with
      | none => (none, s)
      | some es => let (x, s) := s.readElems g es; (some (x.setWidth 32), s)
    let (vs, s) := s.readOffers g r rest
    ((l, v) :: vs, s)
/-- One reader: its own sources, then the lanes it selects; `held` are sources whose rows it names in its own lane (R98). A lane
picked by a selector read early makes no trap (R84). [DEDUCED, log 18] -/
def State.evalCross (s : State) (g : Grp) (rds held : List Rd) (off : Rd) (d : Option Wr) (sel : Nat × Nat → List DWord → List Nat)
    (f : Nat × Nat → List (Nat × Option Word) → Res) (a : Nat × Nat) : Res × State :=
  match s.elemsFault g (rds.flatMap (s.rdElems g a)) (s.wrElems a d ++ held.flatMap (s.rdElems g a)) with
  | some e => ({ fault := some e }, s)
  | none =>
    let mine := (rds.flatMap (s.rdElems g a)).any (s.elemEarly g)
    let (vs, s) := s.readAll g a rds
    let ls := sel a vs
    let es := ls.flatMap (fun l => (s.offer g off l).getD [])
    if es.any (s.elemTraps g) && !mine then ({ fault := some (pf 3 0) }, s)
    else
      let early := mine || es.any (s.elemEarly g)
      let (os, s) := s.readOffers g off ls
      s.soften early (f a os)
/-- All readers, before any writes. -/
def State.evalCrossAll (s : State) (g : Grp) (rds held : List Rd) (off : Rd) (d : Option Wr) (sel : Nat × Nat → List DWord → List Nat)
    (f : Nat × Nat → List (Nat × Option Word) → Res) : List (Nat × Nat) → List ((Nat × Nat) × Res) × State
  | [] => ([], s)
  | a :: r =>
    let (x, s) := s.evalCross g rds held off d sel f a
    let (xs, s) := s.evalCrossAll g rds held off d sel f r
    ((a, x) :: xs, s)
/-- A cross-lane instruction over the bundle set, latency 8 (R81): each thread reads what the lanes `sel` picks offer. -/
def crossOp (c : Ctl) (n : Nat) (rds held : List Rd) (off : Rd) (d : Wr) (s : State) (sel : Grp → Nat × Nat → List DWord → List Nat)
    (f : Grp → Nat × Nat → List (Nat × Option Word) → Res) : Host.Outcome State Fault Refusal :=
  issue c n s fun g s =>
    let mine := fun a => s.rdElems g a off ++ rds.flatMap (s.rdElems g a) ++ s.wrElems a (some d)
    let late := g.set.filter (fun a => !g.acts.contains a)
    match s.interlocks g (fun a => mine a ++ late.flatMap (fun u => s.rdElems g u off)) with
    | some fs => (s, fs)
    | none =>
      let (rs, s1) := s.evalCrossAll g rds held off (some d) (sel g) (f g) g.acts
      let s2 := rs.foldl (fun s x => if x.2.fault.isNone then s.writeRes g 8 (some d) x.1 x.2 else s) s1
      (s2.settleRows g (g.acts.flatMap mine), rs.map (fun x => (x.1, x.2.fate g)))

-- Per-warp instructions (R110) ---------------------------------------------------------------------------------------------------

/-- Run the plans of a group: per warp, what its threads would do; then, with nothing to keep the group from being performed,
the effect on those that go on (R110, R175, R195). -/
def runWarps (g : Grp) (s : State) (plan : State → Nat → Fate) (run : State → Nat → State × List ((Nat × Nat) × Fate)) :
    State × List ((Nat × Nat) × Fate) :=
  let ps := g.actWarps.map (fun k => (k, plan s k))
  match s.keptBack g (ps.flatMap (fun p => g.all p.1 p.2)) with
  | some r => r
  | none => ps.foldl (fun (r : State × List ((Nat × Nat) × Fate)) p => match p.2 with
    | .done _ => let (s, fs) := run r.1 p.1; (s, r.2 ++ fs)
    | f => (r.1, r.2 ++ g.all p.1 f)) (s, [])

/-- An instruction that executes once per warp with an active thread (R110). -/
def warpOp (c : Ctl) (n : Nat) (s : State) (plan : Grp → State → Nat → Fate)
    (run : Grp → State → Nat → State × List ((Nat × Nat) × Fate)) : Host.Outcome State Fault Refusal :=
  issue c n s fun g s => runWarps g s (plan g) (run g)

/-- A warp waits for results pending into uniform registers (R83). -/
def State.sWhy (s : State) (slot : Nat) (ns : List Nat) : Option Why := match ns.flatMap (s.pendS slot) with
  | [] => none
  | is => some (.results is)
/-- A uniform register as a group reads it: an early read takes a free value (R6, R82). -/
def State.readS (s : State) (g : Grp) (slot n : Nat) : Word × State :=
  if (s.quad g.q).sb.any (fun x => x.slot == slot && x.unif && x.key == n && decide (g.cycle < x.ready)) then
    (BitVec.ofNat 32 s.free.1, s.free.2)
  else ((s.warp slot).s n, s)
/-- A uniform pair, low word first. -/
def State.readSPair (s : State) (g : Grp) (slot n : Nat) : DWord × State :=
  let (lo, s) := s.readS g slot n
  let (hi, s) := s.readS g slot (n + 1)
  (hi ++ lo, s)
/-- A fixed-latency write of a uniform register (R81). -/
def State.writeS (s : State) (g : Grp) (lat slot n : Nat) (v : Word) : State :=
  (s.modWarp slot (fun w => w.setS n v)).modQuad g.q (fun q => q.mark slot n true (g.cycle + lat))
/-- A plan that only waits for uniform registers. -/
def sPlan (ns : List Nat) (g : Grp) (s : State) (slot : Nat) : Fate := match s.sWhy slot ns with
  | some w => .lock w
  | none => .done g.next
/-- A uniform instruction of one destination, latency 3 (R81, R128). -/
def saluOp (c : Ctl) (n : Nat) (d : SReg) (srcs : List SReg) (s : State) (f : List Word → Word) : Host.Outcome State Fault Refusal :=
  warpOp c n s (sPlan (d.toNat :: srcs.map BitVec.toNat)) fun g s k =>
    let (vs, s) := srcs.foldl (fun (r : List Word × State) a => let (v, s) := r.2.readS g k a.toNat; (r.1 ++ [v], s)) ([], s)
    (s.writeS g 3 k d.toNat (f vs), g.all k (.done g.next))

-- Warp-whole instructions (R118) ----------------------------------------------------------------------------------------------------

/-- The live threads a warp-whole instruction counts: those that take a late failure at this group are not among them. [DEDUCED, log 21] -/
def State.gatherLanes (s : State) (g : Grp) (slot : Nat) : List Nat :=
  (s.warp slot).liveLanes.filter (fun l => !(g.set.contains (slot, l) && !g.acts.contains (slot, l)))
/-- The thread waits in the gathering of a warp-whole instruction (R118, R275). -/
def Why.gathers : Why → Bool
  | .gather | .joint _ => true
  | _ => false
/-- A thread that does not issue has reached a warp-whole instruction: it waits there, or is READY there with no failure to
take first (R118, R466). [DEDUCED, log 20] -/
def Thread.reached (t : Thread) (pc : DWord) : Bool :=
  t.pc == pc && ((t.st == .waiting && t.why.gathers) || (t.st == .ready && t.defer.isEmpty))
/-- Every live thread of the warp has reached the PC (R118). [DEDUCED, log 20] -/
def State.gathered (s : State) (g : Grp) (slot : Nat) : Bool :=
  (s.gatherLanes g slot).all (fun l => g.acts.contains (slot, l) || (s.thread slot l).reached g.pc)
/-- What a warp-whole execution does to its live threads: a fault is every one's (R118). -/
def State.wholeFate (s : State) (g : Grp) (slot : Nat) (lanes : List Nat) (f : Fate) : State × List ((Nat × Nat) × Fate) :=
  let fs := (lanes.filter (fun l => g.acts.contains (slot, l))).map (fun l => ((slot, l), f))
  let rest := lanes.filter (fun l => !g.acts.contains (slot, l))
  match f with
  | .done pc => (rest.foldl (fun s l => s.modThread slot l (fun t => { t with pc := pc, st := .ready, why := .nothing })) s, fs)
  | .fault e tepc => (s, fs ++ rest.map (fun l => ((slot, l), .late e tepc)))
  | _ => (s, fs)

/-- The threads of a warp that wait at a group whose execution faults take the fault too (R118). -/
def State.faultRest (s : State) (g : Grp) (fs : List ((Nat × Nat) × Fate)) : List ((Nat × Nat) × Fate) :=
  g.actWarps.flatMap (fun k => match fs.find? (fun e => e.1.1 == k) with
    | some (_, .fault e t) => ((s.gatherLanes g k).filter (fun l => !g.acts.contains (k, l))).map (fun l => ((k, l), .late e t))
    | _ => [])
/-- A warp-whole group (R118): threads in trap mode take an illegal-instruction fault; the others gather; then `plan` says
what the execution meets, and `run` does it, answering the fault of the execution if it has one. Both are given the warp's
live lanes. -/
def wholeBody (plan : Grp → State → Nat → List Nat → Fate) (run : Grp → State → Nat → List Nat → State × Option PFault)
    (g : Grp) (s : State) : State × List ((Nat × Nat) × Fate) :=
  let traps : List ((Nat × Nat) × Fate) := (g.acts.filter (fun a => (s.thread a.1 a.2).tmode)).map (fun a => (a, .fault (pf 1 0) g.pc))
  let h := { g with acts := g.acts.filter (fun a => !(s.thread a.1 a.2).tmode) }
  let whole := fun (k : Nat) =>
    let f := plan h s k (s.gatherLanes h k)
    if f.interlocked || s.gathered h k then f else .wait .gather
  let ps := h.actWarps.map (fun k => (k, whole k))
  let fs0 := ps.flatMap (fun p => h.all p.1 p.2)
  match s.keptBack g (traps ++ fs0) with
  | some (s, fs) => (s, fs ++ s.faultRest h (fs.filter (fun e => h.acts.contains e.1)))
  | none =>
    let (s, fs) := ps.foldl (fun (r : State × List ((Nat × Nat) × Fate)) p => match p.2 with
      | .done _ =>
        let lanes := r.1.gatherLanes h p.1
        let (s, e) := run h r.1 p.1 lanes
        let (s, fs) := s.wholeFate h p.1 lanes (match e with
          | some f => .fault f h.pc
          | none => .done h.next)
        (s, r.2 ++ fs)
      | f => (r.1, r.2 ++ h.all p.1 f)) (s, s.faultRest h fs0)
    (s, traps ++ fs)
/-- A warp-whole instruction (R118). -/
def wholeOp (c : Ctl) (n : Nat) (s : State) (plan : Grp → State → Nat → List Nat → Fate)
    (run : Grp → State → Nat → List Nat → State × Option PFault) : Host.Outcome State Fault Refusal :=
  issue c n s (wholeBody plan run)

/-- The live threads' rows for a field: register-range unless they hold one WB (R162). [DEDUCED, log 22] -/
def State.oneWb (s : State) (slot : Nat) (lanes : List Nat) : Bool :=
  lanes.all (fun l => (s.thread slot l).wb == (s.thread slot (lanes.headD 0)).wb)
/-- The row a field names under the warp's common WB (R162). -/
def State.wholeRow (s : State) (slot : Nat) (lanes : List Nat) (n : Nat) : Nat := rowOf (s.thread slot (lanes.headD 0)) n
/-- What a warp-whole instruction waits for on the rows it names, in any lane (R83, R108). -/
def State.rowsWhy (s : State) (slot : Nat) (rows : List Nat) : Option Why :=
  match rows.flatMap (s.pendRow slot) with
  | i :: is => some (.results (i :: is))
  | [] => match (s.warp slot).movedOf rows with
    | b :: bs => some (.moved ((b :: bs).map (fun b => slot * 8 + b)))
    | [] => none
/-- A row is read early in some lane (R82). -/
def State.rowEarly (s : State) (g : Grp) (slot row : Nat) : Bool :=
  (s.quad g.q).sb.any (fun x => x.slot == slot && !x.unif && x.key / 32 == row && decide (g.cycle < x.ready))
/-- The plan of a warp-whole instruction over rows (R117, R162): reads `rs`, writes `ws`. -/
def rowsPlan (g : Grp) (s : State) (slot : Nat) (lanes rs ws : List Nat) : Fate :=
  if !s.oneWb slot lanes || !(rs ++ ws).all (s.warp slot).holds then .fault (pf 2 0) g.pc
  else match s.rowsWhy slot (rs ++ ws) with
    | some w => .lock w
    | none => if (s.warp slot).sbchk && rs.any (s.rowEarly g slot) then .fault (pf 3 0) g.pc else .done g.next
/-- Row data as a warp-whole instruction reads it: early elements are free values (R84). -/
def State.readRow (s : State) (g : Grp) (slot row : Nat) : List Word × State :=
  (List.range 32).foldl (fun (r : List Word × State) l => let (v, s) := r.2.readElem g (slot, row, l); (r.1 ++ [v], s)) ([], s)

end Sys2Proof.Machine
end

