-- ==== Sys2Proof/Machine/Flags.lean ====
section
/-! DEFINITION. The flag computations: conditions of BRC and BRU (R73), comparison results (R121, R127, R128, R150), and what
sets the warp's non-finite flag NF (R56, R57). -/
namespace Sys2Proof.Machine

/-- COND of R73 holds of a 32-bit value. -/
def condHolds (c : Cond) (v : Word) : Bool := match c with
  | .z => v == 0
  | .nz => v != 0
  | .lt => v == 0xFFFFFFFF#32
  | .gt => v == 1
  | .le => v == 0xFFFFFFFF#32 || v == 0
  | .ge => v == 0 || v == 1
  | .un => v == 2
  | .neg => v.getLsbD 31

/-- −1, 0 or 1 by the order of two integers, in w bits (R121, R127). -/
def cmpInt (w : Nat) (x y : Int) : BitVec w := if x < y then BitVec.allOnes w else if x = y then 0 else 1
/-- The result of CMP.s64 and CMP.z64: −1 is all ones, 0 both words zero, 1 the low word 1 (R127). -/
def cmpPair (x y : Int) : DWord := cmpInt 64 x y
/-- FCMP (R150): −1, 0, 1, or 2 for an unordered pair; the zeros are equal. -/
def fcmpWord (x y : Num) : Word :=
  if x = .nan || y = .nan then 2 else if x.lt y then 0xFFFFFFFF#32 else if y.lt x then 1 else 0

/-- NF of an operation whose sources and results are these values (R57). -/
def nfOf (vs : List Num) : Bool := vs.any Num.nonfin
/-- FSTATUS as a read returns it (R56). -/
def fstatus (w : Warp) : Word := if w.nf then 1 else 0
/-- A write of FSTATUS: NF is cleared by writing 1 (R56, R7). -/
def writeFstatus (w : Warp) (v : Word) : Warp := { w with nf := w.nf && !v.getLsbD 0 }

end Sys2Proof.Machine
end

