-- ==== Sys2Proof/Machine/Integer.lean ====
section
/-! DEFINITION. The integer instructions (R119 to R127): three-register, immediate, unary and 64-bit forms. -/
namespace Sys2Proof.Machine

-- Functions on values -----------------------------------------------------------------------------------------------------

/-- Shift left by zx(b), 0 from 32 on (R121). -/
def shl32 (a b : Word) : Word := if 32 ≤ b.toNat then 0 else a <<< b.toNat
/-- Shift right, zeros entering (R121). -/
def shr32 (a b : Word) : Word := if 32 ≤ b.toNat then 0 else a >>> b.toNat
/-- Shift right, copies of a[31] entering (R121). -/
def sar32 (a b : Word) : Word := a.sshiftRight (min b.toNat 31)
/-- The larger or smaller by a key (R121, R127). -/
def pick {w : Nat} (c : Bool) (a b : BitVec w) : BitVec w := if c then a else b
/-- p of R122. -/
def bfPos (b : Word) : Nat := bf b 0 5
/-- e of R122: the field's bits inside the register. -/
def bfLen (b : Word) : Nat := min (min (bf b 8 6) 32) (32 - bfPos b)
/-- mask of R122. -/
def bfMask (b : Word) : Word := BitVec.ofNat 32 ((2 ^ bfLen b - 1) * 2 ^ bfPos b)
/-- BFX.z32 (R122). -/
def bfxZ (a b : Word) : Word := (a &&& bfMask b) >>> bfPos b
/-- BFX.s32 (R122). -/
def bfxS (a b : Word) : Word := if bfLen b = 0 then 0 else BitVec.ofInt 32 (sx (bfLen b) (bfxZ a b).toNat)
/-- BFI (R122). -/
def bfi32 (a b d : Word) : Word := (d &&& ~~~bfMask b) ||| ((a <<< bfPos b) &&& bfMask b)
/-- Leading zero bits (R126). -/
def clz32 (a : Word) : Word := BitVec.ofNat 32 (clzAux a.toNat 32)
/-- Trailing zero bits (R126). -/
def ctz32 (a : Word) : Word := BitVec.ofNat 32 (ctzAux a.toNat 0 32)
/-- The number of 1 bits (R126). -/
def popc32 (a : Word) : Word := BitVec.ofNat 32 (popcount a)
/-- Bit i moved to bit 31 − i (R126). -/
def brev32 (a : Word) : Word := BitVec.ofNat 32 (bitReverse a.toNat 32)
/-- Shift left by the low word of b, 0 from 64 on (R127). -/
def shl64 (a b : DWord) : DWord := let c := bf b 0 32; if 64 ≤ c then 0 else a <<< c
/-- Shift right, zeros entering (R127). -/
def shr64 (a b : DWord) : DWord := let c := bf b 0 32; if 64 ≤ c then 0 else a >>> c
/-- Shift right, copies of a[63] entering (R127). -/
def sar64 (a b : DWord) : DWord := a.sshiftRight (min (bf b 0 32) 63)

-- Shapes -------------------------------------------------------------------------------------------------------------------

/-- Word i of the sources. -/
def vw (vs : List DWord) (i : Nat) : Word := (vs.getD i 0).setWidth 32
/-- Pair i of the sources. -/
def vd (vs : List DWord) (i : Nat) : DWord := vs.getD i 0
/-- The result of an instruction that writes a word and does nothing else. -/
def word (v : Word) : Res := { val := v.setWidth 64 }

/-- d ← f(a, b) on 32 bits, latency 4, with neighbours (R120, R121). -/
def int3 (c : Ctl) (p : Option Pfx) (d a b : VReg) (s : State) (f : Word → Word → Word) : Host.Outcome State Fault Refusal :=
  regOp c (groupWords p) 4 [srcA p a, srcB p b] (some { n := d.toNat }) s fun _ _ _ vs => word (f (vw vs 0) (vw vs 1))
/-- d ← f(a, b, d): MAD, SEL, BFI (R120). -/
def int3d (c : Ctl) (p : Option Pfx) (d a b : VReg) (s : State) (f : Word → Word → Word → Word) : Host.Outcome State Fault Refusal :=
  regOp c (groupWords p) 4 [srcA p a, srcB p b, own d] (some { n := d.toNat }) s
    fun _ _ _ vs => word (f (vw vs 0) (vw vs 1) (vw vs 2))
/-- d ← f(a) on 32 bits (R124, R126); `n` words. -/
def int1 (c : Ctl) (n : Nat) (d a : VReg) (s : State) (f : Word → Word) : Host.Outcome State Fault Refusal :=
  regOp c n 4 [own a] (some { n := d.toNat }) s fun _ _ _ vs => word (f (vw vs 0))
/-- d ← a constant (R125). -/
def int0 (c : Ctl) (n : Nat) (d : VReg) (s : State) (v : Word) : Host.Outcome State Fault Refusal :=
  regOp c n 4 [] (some { n := d.toNat }) s fun _ _ _ _ => word v
/-- d pair ← f(a pair) (R126). -/
def pair1 (c : Ctl) (d a : VReg) (s : State) (f : DWord → DWord) : Host.Outcome State Fault Refusal :=
  regOp c 1 4 [ownPair a] (some { n := d.toNat, pair := true }) s fun _ _ _ vs => { val := f (vd vs 0) }
/-- d pair ← f(a pair, b pair) (R127). -/
def pair2 (c : Ctl) (d a b : VReg) (s : State) (f : DWord → DWord → DWord) : Host.Outcome State Fault Refusal :=
  regOp c 1 4 [ownPair a, ownPair b] (some { n := d.toNat, pair := true }) s fun _ _ _ vs => { val := f (vd vs 0) (vd vs 1) }

-- Three-register instructions (R121) -------------------------------------------------------------------------------------------

def execAdd (c : Ctl) (p : Option Pfx) (d a b : VReg) (s : State) := int3 c p d a b s (· + ·)
def execSub (c : Ctl) (p : Option Pfx) (d a b : VReg) (s : State) := int3 c p d a b s (· - ·)
def execMul (c : Ctl) (p : Option Pfx) (d a b : VReg) (s : State) := int3 c p d a b s (· * ·)
/-- MULH.s32: bits [63:32] of the signed product (R121). -/
def execMulhS32 (c : Ctl) (p : Option Pfx) (d a b : VReg) (s : State) :=
  int3 c p d a b s fun x y => BitVec.ofInt 32 (x.toInt * y.toInt / 2 ^ 32)
/-- MULH.z32: bits [63:32] of the unsigned product (R121). -/
def execMulhZ32 (c : Ctl) (p : Option Pfx) (d a b : VReg) (s : State) :=
  int3 c p d a b s fun x y => BitVec.ofNat 32 (x.toNat * y.toNat / 2 ^ 32)
def execMad (c : Ctl) (p : Option Pfx) (d a b : VReg) (s : State) := int3d c p d a b s fun x y z => x * y + z
def execAndn (c : Ctl) (p : Option Pfx) (d a b : VReg) (s : State) := int3 c p d a b s fun x y => x &&& ~~~y
def execAnd (c : Ctl) (p : Option Pfx) (d a b : VReg) (s : State) := int3 c p d a b s (· &&& ·)
def execOr (c : Ctl) (p : Option Pfx) (d a b : VReg) (s : State) := int3 c p d a b s (· ||| ·)
def execXor (c : Ctl) (p : Option Pfx) (d a b : VReg) (s : State) := int3 c p d a b s (· ^^^ ·)
def execShl (c : Ctl) (p : Option Pfx) (d a b : VReg) (s : State) := int3 c p d a b s shl32
def execShr (c : Ctl) (p : Option Pfx) (d a b : VReg) (s : State) := int3 c p d a b s shr32
def execSar (c : Ctl) (p : Option Pfx) (d a b : VReg) (s : State) := int3 c p d a b s sar32
def execRotl (c : Ctl) (p : Option Pfx) (d a b : VReg) (s : State) := int3 c p d a b s fun x y => x.rotateLeft (y.toNat % 32)
/-- SEL: a where d is not 0, else b (R121). -/
def execSel (c : Ctl) (p : Option Pfx) (d a b : VReg) (s : State) := int3d c p d a b s fun x y z => if z ≠ 0 then x else y
def execMinS32 (c : Ctl) (p : Option Pfx) (d a b : VReg) (s : State) := int3 c p d a b s fun x y => pick (x.slt y) x y
def execMinZ32 (c : Ctl) (p : Option Pfx) (d a b : VReg) (s : State) := int3 c p d a b s fun x y => pick (x.ult y) x y
def execMaxS32 (c : Ctl) (p : Option Pfx) (d a b : VReg) (s : State) := int3 c p d a b s fun x y => pick (x.slt y) y x
def execMaxZ32 (c : Ctl) (p : Option Pfx) (d a b : VReg) (s : State) := int3 c p d a b s fun x y => pick (x.ult y) y x
def execCmpS32 (c : Ctl) (p : Option Pfx) (d a b : VReg) (s : State) := int3 c p d a b s fun x y => cmpInt 32 x.toInt y.toInt
def execCmpZ32 (c : Ctl) (p : Option Pfx) (d a b : VReg) (s : State) := int3 c p d a b s fun x y => cmpInt 32 x.toNat y.toNat
def execBfxS32 (c : Ctl) (p : Option Pfx) (d a b : VReg) (s : State) := int3 c p d a b s bfxS
def execBfxZ32 (c : Ctl) (p : Option Pfx) (d a b : VReg) (s : State) := int3 c p d a b s bfxZ
def execBfi (c : Ctl) (p : Option Pfx) (d a b : VReg) (s : State) := int3d c p d a b s bfi32
/-- LEA: pair d ← pair a + sx64(b) (R123). -/
def execLea (c : Ctl) (d a b : VReg) (s : State) :=
  regOp c 1 4 [ownPair a, own b] (some { n := d.toNat, pair := true }) s fun _ _ _ vs =>
    { val := vd vs 0 + (vw vs 1).signExtend 64 }

-- Unary forms (R126) ---------------------------------------------------------------------------------------------------------

def execMov (c : Ctl) (d a : VReg) (s : State) := int1 c 1 d a s id
def execNot (c : Ctl) (d a : VReg) (s : State) := int1 c 1 d a s (~~~ ·)
def execNeg (c : Ctl) (d a : VReg) (s : State) := int1 c 1 d a s (0 - ·)
def execAbs (c : Ctl) (d a : VReg) (s : State) := int1 c 1 d a s fun x => if 0 ≤ x.toInt then x else 0 - x
def execClz (c : Ctl) (d a : VReg) (s : State) := int1 c 1 d a s clz32
def execCtz (c : Ctl) (d a : VReg) (s : State) := int1 c 1 d a s ctz32
def execPopc (c : Ctl) (d a : VReg) (s : State) := int1 c 1 d a s popc32
def execBrev (c : Ctl) (d a : VReg) (s : State) := int1 c 1 d a s brev32
def execMovZ64 (c : Ctl) (d a : VReg) (s : State) := pair1 c d a s id
def execNotZ64 (c : Ctl) (d a : VReg) (s : State) := pair1 c d a s (~~~ ·)
def execNegS64 (c : Ctl) (d a : VReg) (s : State) := pair1 c d a s (0 - ·)
def execAbsS64 (c : Ctl) (d a : VReg) (s : State) := pair1 c d a s fun x => if 0 ≤ x.toInt then x else 0 - x

-- 64-bit forms (R127) ----------------------------------------------------------------------------------------------------------

def execAddS64 (c : Ctl) (d a b : VReg) (s : State) := pair2 c d a b s (· + ·)
def execSubS64 (c : Ctl) (d a b : VReg) (s : State) := pair2 c d a b s (· - ·)
def execMulS64 (c : Ctl) (d a b : VReg) (s : State) := pair2 c d a b s (· * ·)
def execShlZ64 (c : Ctl) (d a b : VReg) (s : State) := pair2 c d a b s shl64
def execShrZ64 (c : Ctl) (d a b : VReg) (s : State) := pair2 c d a b s shr64
def execSarS64 (c : Ctl) (d a b : VReg) (s : State) := pair2 c d a b s sar64
def execMinS64 (c : Ctl) (d a b : VReg) (s : State) := pair2 c d a b s fun x y => pick (x.slt y) x y
def execMinZ64 (c : Ctl) (d a b : VReg) (s : State) := pair2 c d a b s fun x y => pick (x.ult y) x y
def execMaxS64 (c : Ctl) (d a b : VReg) (s : State) := pair2 c d a b s fun x y => pick (x.slt y) y x
def execMaxZ64 (c : Ctl) (d a b : VReg) (s : State) := pair2 c d a b s fun x y => pick (x.ult y) y x
def execCmpS64 (c : Ctl) (d a b : VReg) (s : State) := pair2 c d a b s fun x y => cmpPair x.toInt y.toInt
def execCmpZ64 (c : Ctl) (d a b : VReg) (s : State) := pair2 c d a b s fun x y => cmpPair x.toNat y.toNat
def execAndZ64 (c : Ctl) (d a b : VReg) (s : State) := pair2 c d a b s (· &&& ·)
def execOrZ64 (c : Ctl) (d a b : VReg) (s : State) := pair2 c d a b s (· ||| ·)
def execXorZ64 (c : Ctl) (d a b : VReg) (s : State) := pair2 c d a b s (· ^^^ ·)

-- Immediate and constant forms (R65, R124, R125) -----------------------------------------------------------------------------------

def execAddi (c : Ctl) (d a : VReg) (imm : BitVec 7) (s : State) := int1 c 1 d a s (· + imm.signExtend 32)
def execAddiLong (c : Ctl) (d a : VReg) (imm : BitVec 28) (s : State) := int1 c 2 d a s (· + imm.signExtend 32)
def execAndi (c : Ctl) (d a : VReg) (imm : BitVec 7) (s : State) := int1 c 1 d a s (· &&& imm.signExtend 32)
def execAndiLong (c : Ctl) (d a : VReg) (imm : BitVec 28) (s : State) := int1 c 2 d a s (· &&& imm.signExtend 32)
def execOri (c : Ctl) (d a : VReg) (imm : BitVec 7) (s : State) := int1 c 1 d a s (· ||| imm.signExtend 32)
def execOriLong (c : Ctl) (d a : VReg) (imm : BitVec 28) (s : State) := int1 c 2 d a s (· ||| imm.signExtend 32)
def execXori (c : Ctl) (d a : VReg) (imm : BitVec 7) (s : State) := int1 c 1 d a s (· ^^^ imm.signExtend 32)
def execXoriLong (c : Ctl) (d a : VReg) (imm : BitVec 28) (s : State) := int1 c 2 d a s (· ^^^ imm.signExtend 32)
def execShli (c : Ctl) (d a : VReg) (n : BitVec 5) (s : State) := int1 c 1 d a s (shl32 · (n.setWidth 32))
def execShri (c : Ctl) (d a : VReg) (n : BitVec 5) (s : State) := int1 c 1 d a s (shr32 · (n.setWidth 32))
def execSari (c : Ctl) (d a : VReg) (n : BitVec 5) (s : State) := int1 c 1 d a s (sar32 · (n.setWidth 32))
def execMovi (c : Ctl) (d : VReg) (imm : BitVec 14) (s : State) := int0 c 1 d s (imm.signExtend 32)
def execMoviLong (c : Ctl) (d : VReg) (imm : BitVec 32) (s : State) := int0 c 2 d s imm
/-- MOVH: imm14 × 2^18 (R125). -/
def execMovh (c : Ctl) (d : VReg) (imm : BitVec 14) (s : State) := int0 c 1 d s (imm.setWidth 32 <<< 18)

end Sys2Proof.Machine
end

