-- ==== Sys2Proof/Machine/Float.lean ====
section
/-! DEFINITION. The floating-point instructions (R145 to R159): FP32 arithmetic, one-source functions, conversion, packed
halves and four-element dots. -/
namespace Sys2Proof.Machine

-- Modifiers and draws (R66, R115, R146) -----------------------------------------------------------------------------------

/-- The all-zero prefix (R66). -/
def zeroPfx : Pfx := ⟨.own, .zero, .own, .zero, false, false, false, false, false, false, .rne, false⟩
/-- The prefix an instruction executes under. -/
def pfxOr (p : Option Pfx) : Pfx := p.getD zeroPfx
/-- ABS, then NEG, on a 32-bit pattern (R115). -/
def signMod (abs neg : Bool) (x : Word) : Word :=
  let y := if abs then x &&& 0x7FFFFFFF#32 else x
  if neg then y ^^^ 0x80000000#32 else y
/-- ABS, then NEG, on both halves (R115). -/
def signMod2 (abs neg : Bool) (x : Word) : Word :=
  let y := if abs then x &&& 0x7FFF7FFF#32 else x
  if neg then y ^^^ 0x80008000#32 else y
/-- The stream identity of a lane of a warp (R49). -/
def State.streamAt (s : State) (slot lane : Nat) : Nat :=
  streamId (s.kernelOf slot).launch (s.wgOf slot).idx (s.warp slot).wid lane
/-- The i-th draw a lane takes from now on (R49, R50, R146). -/
def State.drawAt (s : State) (slot lane i : Nat) : Nat :=
  (draw (s.kernelOf slot).seed (s.streamAt slot lane) (advance (s.thread slot lane).draw i).toNat).toNat

/-- A floating-point instruction: `f` is given rounding i's mode and the 32-bit sources, and answers the result and whether
it sets NF; `nd` roundings draw under .sr (R145, R146). -/
def fpOp (c : Ctl) (p : Option Pfx) (lat nd : Nat) (rds : List Rd) (d : VReg) (s : State)
    (f : Pfx → (Nat → Mode) → List DWord → Word × Bool) : Host.Outcome State Fault Refusal :=
  regOp c (groupWords p) lat rds (some { n := d.toNat }) s fun _ s a vs =>
    let q := pfxOr p
    let r := f q (fun i => Rnd.mode q.rnd (s.drawAt a.1 a.2 i)) vs
    { val := r.1.setWidth 64, nf := r.2, draws := if q.rnd = .sr then nd else 0 }
/-- a and b after their modifiers. -/
def modA (q : Pfx) (vs : List DWord) : Word := signMod q.absa q.nega (vw vs 0)
def modB (q : Pfx) (vs : List DWord) : Word := signMod q.absb q.negb (vw vs 1)
/-- Rounding toward −∞, which gives an exact zero sum its sign (R147). -/
def Mode.down (m : Mode) : Bool := m == .rdn

-- FP32 arithmetic (R148 to R151) --------------------------------------------------------------------------------------------

/-- One rounded FP32 result of exact arithmetic on the two sources (R148). -/
def fp2 (c : Ctl) (p : Option Pfx) (d a b : VReg) (s : State) (f : Bool → Num → Num → Num) : Host.Outcome State Fault Refusal :=
  fpOp c p 6 1 [srcA p a, srcB p b] d s fun q md vs =>
    let x := f32 (modA q vs)
    let y := f32 (modB q vs)
    let r := toF32 (md 0) q.sat (f (md 0).down x y)
    (r, nfOf [x, y, f32 r])
/-- The negation of a value. -/
def Num.negate : Num → Num
  | .nan => .nan
  | .inf s => .inf !s
  | .fin s m e => .fin (!s) m e

def execFadd (c : Ctl) (p : Option Pfx) (d a b : VReg) (s : State) := fp2 c p d a b s Num.add
def execFsub (c : Ctl) (p : Option Pfx) (d a b : VReg) (s : State) := fp2 c p d a b s fun dn x y => x.add dn y.negate
def execFmul (c : Ctl) (p : Option Pfx) (d a b : VReg) (s : State) := fp2 c p d a b s fun _ x y => x.mul y
/-- FFMA: a × b + d with one rounding (R148). -/
def execFfma (c : Ctl) (p : Option Pfx) (d a b : VReg) (s : State) : Host.Outcome State Fault Refusal :=
  fpOp c p 6 1 [srcA p a, srcB p b, own d] d s fun q md vs =>
    let x := f32 (modA q vs)
    let y := f32 (modB q vs)
    let z := f32 (signMod q.absd q.negd (vw vs 2))
    let r := toF32 (md 0) q.sat ((x.mul y).add (md 0).down z)
    (r, nfOf [x, y, z, f32 r])
/-- FMIN, FMAX and FCMP: no rounding; NF comes from the sources (R149, R150). -/
def fpPick (c : Ctl) (p : Option Pfx) (d a b : VReg) (s : State) (f : Word → Word → Word) : Host.Outcome State Fault Refusal :=
  fpOp c p 6 0 [srcA p a, srcB p b] d s fun q _ vs =>
    (f (modA q vs) (modB q vs), nfOf [f32 (modA q vs), f32 (modB q vs)])
def execFmin (c : Ctl) (p : Option Pfx) (d a b : VReg) (s : State) := fpPick c p d a b s fminW
def execFmax (c : Ctl) (p : Option Pfx) (d a b : VReg) (s : State) := fpPick c p d a b s fmaxW
def execFcmp (c : Ctl) (p : Option Pfx) (d a b : VReg) (s : State) := fpPick c p d a b s fun x y => fcmpWord (f32 x) (f32 y)
/-- FSCL: a × 2^sx(b) (R151). -/
def execFscl (c : Ctl) (p : Option Pfx) (d a b : VReg) (s : State) : Host.Outcome State Fault Refusal :=
  fpOp c p 6 1 [srcA p a, srcB p b] d s fun q md vs =>
    let x := f32 (modA q vs)
    let r := toF32 (md 0) q.sat (x.scale (vw vs 1).toInt)
    (r, nfOf [x, f32 r])

-- One-source functions (R152 to R155) ------------------------------------------------------------------------------------------

/-- A function of FUN: its latency, the draws it takes under .sr, and its result. -/
def fpFun (c : Ctl) (p : Option Pfx) (lat nd : Nat) (d a : VReg) (s : State) (f : Pfx → Mode → Word → Word) :
    Host.Outcome State Fault Refusal :=
  fpOp c p lat nd [srcA p a] d s fun q md vs =>
    let r := f q (md 0) (modA q vs)
    (r, nfOf [f32 (modA q vs), f32 r])
/-- A word, or the canonical NaN in place of a NaN (R36, R153). -/
def canonNan (x : Word) : Word := if f32 x = .nan then rneF32 .nan else x
/-- The class of an FP32 word, one bit set (R153). -/
def fclassWord (x : Word) : Word :=
  let neg := x.getLsbD 31
  match f32 x with
  | .nan => 0x100
  | .inf s => if s then 0x001 else 0x080
  | .fin _ m _ =>
    if m = 0 then (if neg then 0x008 else 0x010)
    else if bf x 23 8 = 0 then (if neg then 0x004 else 0x020)
    else if neg then 0x002 else 0x040

def execFabs (c : Ctl) (p : Option Pfx) (d a : VReg) (s : State) := fpFun c p 6 0 d a s fun _ _ x => canonNan (signMod true false x)
def execFneg (c : Ctl) (p : Option Pfx) (d a : VReg) (s : State) := fpFun c p 6 0 d a s fun _ _ x => canonNan (signMod false true x)
def execFrnd (c : Ctl) (p : Option Pfx) (d a : VReg) (s : State) := fpFun c p 6 1 d a s fun q md x => frnd md q.sat (f32 x)
def execFrcp (c : Ctl) (p : Option Pfx) (d a : VReg) (s : State) := fpFun c p 12 0 d a s fun _ _ x => rneF32 (f32 x).recip
def execFrsq (c : Ctl) (p : Option Pfx) (d a : VReg) (s : State) := fpFun c p 12 0 d a s fun _ _ x => rneF32 (f32 x).rsqrt
def execFsqrt (c : Ctl) (p : Option Pfx) (d a : VReg) (s : State) := fpFun c p 12 1 d a s fun q md x => toF32 md q.sat (f32 x).sqrt
def execFexp2 (c : Ctl) (p : Option Pfx) (d a : VReg) (s : State) := fpFun c p 12 0 d a s fun _ _ x => fexp2 (f32 x)
def execFlog2 (c : Ctl) (p : Option Pfx) (d a : VReg) (s : State) := fpFun c p 12 0 d a s fun _ _ x => flog2 (f32 x)
/-- FCLASS: its result is an integer, and NF comes from the source alone (R153). -/
def execFclass (c : Ctl) (p : Option Pfx) (d a : VReg) (s : State) : Host.Outcome State Fault Refusal :=
  fpOp c p 6 0 [srcA p a] d s fun q _ vs => (fclassWord (modA q vs), nfOf [f32 (modA q vs)])

-- Conversion (R156, R157) --------------------------------------------------------------------------------------------------------

/-- The narrow formats of FCVT; the integers have none. -/
def cvtFmt : CvtFmt → Option FFmt
  | .e4m3 => some .e4m3 | .e5m2 => some .e5m2 | .e3m2 => some .e3m2 | .e2m3 => some .e2m3 | .e2m1 => some .e2m1
  | .mxi8 => some .mxi8 | .bf16 => some .bf16 | .f16 => some .f16 | .s32 | .z32 => none
/-- Bits a slot takes in the register: a byte, or a half (R156). -/
def slotBits (f : FFmt) : Nat := if f.width = 16 then 16 else 8
/-- The code in slot k of a word. -/
def slotCode (f : FFmt) (k : Nat) (x : Word) : Nat := bf x (slotBits f * k) f.width
/-- A word with slot k replaced by a code; the slot's bits above the code become 0. -/
def putSlot (f : FFmt) (k code : Nat) (x : Word) : Word :=
  let w := slotBits f
  BitVec.ofNat 32 (x.toNat - bf x (w * k) w * 2 ^ (w * k) + code * 2 ^ (w * k))
/-- FCVT with DIR 0 (R157). -/
def execFcvtToFormat (c : Ctl) (p : Option Pfx) (f : CvtFmt) (k : BitVec 2) (d a : VReg) (s : State) :
    Host.Outcome State Fault Refusal :=
  match cvtFmt f with
  | some m => fpOp c p 6 1 [srcA p a, own d] d s fun q md vs =>
      let x := f32 (modA q vs)
      let code := m.round (md 0) q.sat x
      (putSlot m k.toNat code (vw vs 1), nfOf [x, m.decode code])
  | none => fpOp c p 6 1 [srcA p a] d s fun q md vs =>
      let x := f32 (modA q vs)
      let r := if f = .s32 then clampInt (md 0) x (-(2 ^ 31)) (2 ^ 31 - 1) else clampInt (md 0) x 0 (2 ^ 32 - 1)
      (BitVec.ofInt 32 r, nfOf [x])
/-- FCVT with DIR 1 (R157): exact, except from the integers. -/
def execFcvtToF32 (c : Ctl) (p : Option Pfx) (f : CvtFmt) (k : BitVec 2) (d a : VReg) (s : State) :
    Host.Outcome State Fault Refusal :=
  match cvtFmt f with
  | some m => fpOp c p 6 0 [srcA p a] d s fun q _ vs =>
      let x := m.decode (slotCode m k.toNat (modA q vs))
      (rneF32 x, nfOf [x])
  | none => fpOp c p 6 1 [srcA p a] d s fun q md vs =>
      let x : Int := if f = .s32 then (modA q vs).toInt else (modA q vs).toNat
      (toF32 (md 0) q.sat (Num.ofInt x), false)

-- Packed halves and four-element dots (R158, R159) --------------------------------------------------------------------------------

/-- Half h of a word as a value. -/
def half (m : FFmt) (h : Nat) (x : Word) : Num := m.decode (bf x (16 * h) 16)
/-- A packed instruction: the low half, then the high half (R158); `acc` is that d is a source. -/
def fpHalves (c : Ctl) (p : Option Pfx) (m : FFmt) (acc : Bool) (d a b : VReg) (s : State) (f : Bool → Num → Num → Num → Num) :
    Host.Outcome State Fault Refusal :=
  fpOp c p 6 2 ([srcA p a, srcB p b] ++ if acc then [own d] else []) d s fun q md vs =>
    let x := signMod2 q.absa q.nega (vw vs 0)
    let y := signMod2 q.absb q.negb (vw vs 1)
    let z := signMod2 q.absd q.negd (vw vs 2)
    let code := fun h => m.round (md h) q.sat (f (md h).down (half m h x) (half m h y) (half m h z))
    let srcs := [half m 0 x, half m 1 x, half m 0 y, half m 1 y] ++ if acc then [half m 0 z, half m 1 z] else []
    (BitVec.ofNat 32 (code 0 + 65536 * code 1), nfOf (srcs ++ [m.decode (code 0), m.decode (code 1)]))

def execHadd2F16 (c : Ctl) (p : Option Pfx) (d a b : VReg) (s : State) := fpHalves c p .f16 false d a b s fun dn x y _ => x.add dn y
def execHadd2Bf16 (c : Ctl) (p : Option Pfx) (d a b : VReg) (s : State) := fpHalves c p .bf16 false d a b s fun dn x y _ => x.add dn y
def execHmul2F16 (c : Ctl) (p : Option Pfx) (d a b : VReg) (s : State) := fpHalves c p .f16 false d a b s fun _ x y _ => x.mul y
def execHmul2Bf16 (c : Ctl) (p : Option Pfx) (d a b : VReg) (s : State) := fpHalves c p .bf16 false d a b s fun _ x y _ => x.mul y
def execHfma2F16 (c : Ctl) (p : Option Pfx) (d a b : VReg) (s : State) :=
  fpHalves c p .f16 true d a b s fun dn x y z => (x.mul y).add dn z
def execHfma2Bf16 (c : Ctl) (p : Option Pfx) (d a b : VReg) (s : State) :=
  fpHalves c p .bf16 true d a b s fun dn x y z => (x.mul y).add dn z

/-- DOT4 (R159): the four products are added exactly, and the accumulator takes one rounding. -/
def fpDot (c : Ctl) (p : Option Pfx) (d a b : VReg) (s : State) (elem : Nat → Num) : Host.Outcome State Fault Refusal :=
  fpOp c p 6 1 [srcA p a, srcB p b, own d] d s fun q md vs =>
    let es := fun (x : Word) => (List.range 4).map (fun k => elem (bf x (8 * k) 8))
    let acc := f32 (vw vs 2)
    let sum := dotSum (es (vw vs 0)) (es (vw vs 1))
    let r := toF32 (md 0) q.sat (if sum.isZero then acc else acc.add (md 0).down sum)
    (r, nfOf (es (vw vs 0) ++ es (vw vs 1) ++ [acc, f32 r]))
def execDot4E4m3 (c : Ctl) (p : Option Pfx) (d a b : VReg) (s : State) := fpDot c p d a b s FFmt.e4m3.decode
def execDot4E5m2 (c : Ctl) (p : Option Pfx) (d a b : VReg) (s : State) := fpDot c p d a b s FFmt.e5m2.decode
def execDot4S8 (c : Ctl) (p : Option Pfx) (d a b : VReg) (s : State) := fpDot c p d a b s fun x => Num.ofInt (sx 8 x)

end Sys2Proof.Machine
end

