-- ==== Sys2Proof/WellFormed.lean ====
section
/-! DEFINITION. Which terms of `Instr` an instruction word can say: the operand limits of R64, R67, R70 to R78 and of the
instructions' own descriptions. A term that breaks one has no encoding, and its encoding, if it were formed, is an
illegal instruction (R79). That a transfer of control ends its period with BELL (R62) is its meaning's to check. Events have no encoding and no limits here. -/
namespace Sys2Proof

/-- The register field of a 64-bit pair is even (R64). -/
def VReg.even (v : VReg) : Bool := v.toNat % 2 == 0
/-- The uniform pair is even (R64). -/
def SReg.even (v : SReg) : Bool := v.toNat % 2 == 0
/-- A register field that must be a multiple of 4 (R77, R268, R282, R344). -/
def VReg.quad (v : VReg) : Bool := v.toNat % 4 == 0
/-- A uniform field that must be a multiple of 4 (R282, R344). -/
def SReg.quad (v : SReg) : Bool := v.toNat % 4 == 0

/-- The fields a prefix may set (R67): NB and EB, the NEG and ABS of a, of b, of d, and RND with SAT. NA and EA are
allowed in every row. -/
structure PfxRow where
  nb    : Bool
  signA : Bool
  signB : Bool
  signD : Bool
  rnd   : Bool
  deriving DecidableEq, Repr

/-- "Every field a row does not allow must be 0" (R67). -/
def Pfx.fits (r : PfxRow) (p : Pfx) : Bool :=
  (r.nb || (decide (p.nb = .own) && decide (p.eb = .zero)))
  && (r.signA || (!p.nega && !p.absa)) && (r.signB || (!p.negb && !p.absb)) && (r.signD || (!p.negd && !p.absd))
  && (r.rnd || (decide (p.rnd = .rne) && !p.sat))

/-- An absent prefix behaves as the all-zero one and always fits (R66). -/
def pfxFits (r : PfxRow) (p : Option Pfx) : Bool := match p with
  | none => true
  | some p => p.fits r

/-- 32-bit integer majors (R67, first row). -/
def PfxRow.int : PfxRow := ⟨true, false, false, false, false⟩
/-- SHFL (R67). -/
def PfxRow.lane : PfxRow := ⟨false, false, false, false, false⟩
/-- FADD, FSUB, FMUL, HADD2, HMUL2 (R67). -/
def PfxRow.arith : PfxRow := ⟨true, true, true, false, true⟩
/-- FFMA and HFMA2 (R67). -/
def PfxRow.fma : PfxRow := ⟨true, true, true, true, true⟩
/-- FMIN, FMAX, FCMP (R67). -/
def PfxRow.compare : PfxRow := ⟨true, true, true, false, false⟩
/-- FSCL (R67). -/
def PfxRow.scale : PfxRow := ⟨true, true, false, false, true⟩
/-- DOT4 (R67). -/
def PfxRow.dot : PfxRow := ⟨true, false, false, false, true⟩
/-- FRND, FSQRT and FCVT (R67). -/
def PfxRow.unRnd : PfxRow := ⟨false, true, false, false, true⟩
/-- The other functions of FUN (R67). -/
def PfxRow.un : PfxRow := ⟨false, true, false, false, false⟩

/-- OP codes of ATM.64 (R77). -/
def KOp.has64 : KOp → Bool
  | .add | .minZ32 | .maxZ32 | .swap | .cas => true
  | _ => false
/-- OP codes of RED (R77). -/
def KOp.hasRed : KOp → Bool
  | .swap | .cas | .incw | .decw => false
  | _ => true

/-- SLOT range of each FMT of FCVT (R74). -/
def CvtFmt.slots : CvtFmt → Nat
  | .bf16 | .f16 => 2
  | .s32 | .z32 => 1
  | _ => 4

/-- The control-register numbers R112 and R380 list. -/
def cregListed (r : BitVec 14) : Bool :=
  [0x000, 0x001, 0x002, 0x003, 0x004, 0x005, 0x008, 0x009, 0x00A, 0x00C, 0x010, 0x011, 0x012, 0x014, 0x015, 0x016,
   0x100, 0x101, 0x102, 0x103, 0x104, 0x105, 0x200, 0x201, 0x202, 0x203, 0x204, 0x205, 0x206, 0x207].contains r.toNat

/-- Rows QPACK reads: the blocks of a line (R38, R164). -/
def MxFmt.rows : MxFmt → Nat
  | .e4m3 | .e5m2 | .mxi8 => 4
  | .e3m2 | .e2m3 => 5
  | .e2m1 => 8

/-- ORDSC of LDS and STS, and of MLD and MST in the scratchpad, is 0 or 1 (R76, R268). -/
def OrdSc.coreOnly : OrdSc → Bool
  | .plain | .core => true
  | _ => false

/-- The operand limits of an instruction word's fields. -/
def wellFormed : Instr → Bool
  | .add _ p _ _ _ | .sub _ p _ _ _ | .mul _ p _ _ _ | .mulhS32 _ p _ _ _ | .mulhZ32 _ p _ _ _ | .mad _ p _ _ _
  | .andn _ p _ _ _ | .and _ p _ _ _ | .or _ p _ _ _ | .xor _ p _ _ _ | .shl _ p _ _ _ | .shr _ p _ _ _
  | .sar _ p _ _ _ | .rotl _ p _ _ _ | .sel _ p _ _ _ | .minS32 _ p _ _ _ | .minZ32 _ p _ _ _ | .maxS32 _ p _ _ _
  | .maxZ32 _ p _ _ _ | .cmpS32 _ p _ _ _ | .cmpZ32 _ p _ _ _ | .bfxS32 _ p _ _ _ | .bfxZ32 _ p _ _ _
  | .bfi _ p _ _ _ => pfxFits .int p
  | .lea _ d a _ => d.even && a.even
  | .movZ64 _ d a | .notZ64 _ d a | .negS64 _ d a | .absS64 _ d a => d.even && a.even
  | .addS64 _ d a b | .subS64 _ d a b | .mulS64 _ d a b | .shlZ64 _ d a b | .shrZ64 _ d a b | .sarS64 _ d a b
  | .minS64 _ d a b | .minZ64 _ d a b | .maxS64 _ d a b | .maxZ64 _ d a b | .cmpS64 _ d a b | .cmpZ64 _ d a b
  | .andZ64 _ d a b | .orZ64 _ d a b | .xorZ64 _ d a b => d.even && a.even && b.even
  | .shfl _ p _ _ _ => pfxFits .lane p
  | .sld _ w64 _ d a => a.even && (!w64 || d.even)
  | .call _ d _ | .callLong _ d _ => d.even
  | .jmpi _ a | .ret _ a => a.even
  | .fadd _ p _ _ _ | .fsub _ p _ _ _ | .fmul _ p _ _ _ | .hadd2F16 _ p _ _ _ | .hadd2Bf16 _ p _ _ _
  | .hmul2F16 _ p _ _ _ | .hmul2Bf16 _ p _ _ _ => pfxFits .arith p
  | .ffma _ p _ _ _ | .hfma2F16 _ p _ _ _ | .hfma2Bf16 _ p _ _ _ => pfxFits .fma p
  | .fmin _ p _ _ _ | .fmax _ p _ _ _ | .fcmp _ p _ _ _ => pfxFits .compare p
  | .fscl _ p _ _ _ => pfxFits .scale p
  | .frnd _ p _ _ | .fsqrt _ p _ _ => pfxFits .unRnd p
  | .fabs _ p _ _ | .fneg _ p _ _ | .frcp _ p _ _ | .frsq _ p _ _ | .fexp2 _ p _ _ | .flog2 _ p _ _
  | .fclass _ p _ _ => pfxFits .un p
  | .fcvtToFormat _ p f k _ _ | .fcvtToF32 _ p f k _ _ => pfxFits .unRnd p && decide (k.toNat < f.slots)
  | .dot4E4m3 _ p _ _ _ | .dot4E5m2 _ p _ _ _ | .dot4S8 _ p _ _ _ => pfxFits .dot p
  | .qpack _ f _ _ _ a => decide (a.toNat + f.rows ≤ 128)
  | .topk _ k d _ => d.even && decide (1 ≤ k.toNat) && decide (k.toNat ≤ 8)
  | .ldg _ w _ _ d a => a.even && (w != .z64 || d.even)
  | .stg _ w _ _ d a => a.even && (w != .z64 || d.even) && w != .s8 && w != .s16
  | .lds _ w _ d _ => w != .z64 || d.even
  | .sts _ w _ d _ => (w != .z64 || d.even) && w != .s8 && w != .s16
  | .ldl _ _ _ _ a | .stl _ _ _ _ a => a.even
  | .ldsr _ _ a => a.even
  | .salloc _ span _ _ => span.toNat != 7
  | .pref _ _ a | .cinv _ _ a | .cwb _ _ a => a.even
  | .atm _ op _ d a => a.even && op != .addZ64 && (op != .cas || d.even)
  | .atm64 _ op _ d a => a.even && op.has64 && d.even && (op != .cas || d.quad)
  | .red _ op _ d a => a.even && op.hasRed && (op != .addZ64 || d.even)
  | .waitge _ _ _ a | .waiteq _ _ _ a => a.even
  | .qpush _ _ d a | .qpop _ _ d a => d.even && a.even
  | .winb _ w => decide (w.toNat < 20)
  | .mld _ spad o strm _ a | .mst _ spad o strm _ a => a.quad && (!spad || (o.coreOnly && !strm))
  | .mmv _ _ q _ _ => q.quad
  | .cpy _ _ _ a | .gath _ a | .scat _ a | .coll _ a | .repart _ a => a.even
  | .kvld _ _ _ a | .kvapp _ _ a => a.quad
  | .kvevict _ _ a | .kvseal _ a | .kvhdr _ _ a => a.even
  | .crd _ _ r | .cwr _ _ r => cregListed r
  | _ => true

end Sys2Proof
end

