-- ==== Sys2Proof/Machine/Blocks.lean ====
section
/-! DEFINITION. FSTAT and SRDRAW (R160, R161), and the block instructions over whole rows (R162 to R167). -/
namespace Sys2Proof.Machine

/-- FSTAT (R160): the flag is read, and cleared if asked and a thread of the warp completes; the result lands later. -/
def execFstat (c : Ctl) (clr : Bool) (d : VReg) (s : State) : Host.Outcome State Fault Refusal :=
  issue c 1 s fun g s =>
    let els := fun a => s.wrElems a (some { n := d.toNat })
    match s.interlocks g els with
    | some fs => (s, fs)
    | none =>
      let ok := g.acts.filter (fun a => (els a).all s.elemHeld)
      let rs := ok.map (fun a => (a, word (fstatus (s.warp a.1))))
      let s1 := s.landLater (some { n := d.toNat }) rs
      let s2 := (ok.map Prod.fst).eraseDups.foldl (fun s k =>
        if clr then s.modWarp k (fun w => { w with nf := false }) else s) s1
      (s2.settleRows g (g.acts.flatMap els), g.each (fun a => if ok.contains a then .done g.next else .fault (pf 2 0) g.pc))

/-- SRDRAW (R161). -/
def execSrdraw (c : Ctl) (d : VReg) (s : State) : Host.Outcome State Fault Refusal :=
  lateOp c 1 [] (some { n := d.toNat }) s fun _ s a _ => { val := BitVec.ofNat 64 (s.drawAt a.1 a.2 0), draws := 1 }

-- Whole rows (R162) ---------------------------------------------------------------------------------------------------------

/-- What a block instruction leaves: rows with their tag, words of a row that keeps its data none; the scale shadow; NF; the
blocks that drew on every lane's counter; or a fault. -/
structure BlkRes where
  rows  : List (Nat × Option (List Word) × BitVec 4 × DWord) := []
  nf    : Bool := false
  draws : Nat := 0
  fault : Option PFault := none
  deriving DecidableEq, Repr

/-- The 32 words of a row with the elements' keys. -/
def rowKeys (row : Nat) (ws : List Word) : List (Nat × Word) := ws.zipIdx.map (fun x => (elemKey row x.2, x.1))
/-- The results of a block instruction are pending; draws and NF take effect (R162). -/
def State.applyBlk (s : State) (slot : Nat) (r : BlkRes) : State :=
  let s := s.addPend { Pending.empty slot with
    regs := r.rows.flatMap (fun x => match x.2.1 with
      | some ws => rowKeys x.1 ws
      | none => [])
    rowMeta := r.rows.map (fun x => (x.1, x.2.2)), blk := true }
  let s := if r.draws = 0 then s else (List.range 32).foldl (fun s l => s.modThread slot l (fun t => { t with draw := advance t.draw r.draws })) s
  if r.nf then s.modWarp slot (fun w => { w with nf := true }) else s
/-- The rows registers of consecutive numbers name (R162, R164). -/
def State.regRows (s : State) (slot : Nat) (lanes : List Nat) (a n : Nat) : List Nat :=
  (List.range n).map (fun j => s.wholeRow slot lanes (a + j))
/-- Rows as a warp-whole instruction reads them, each with its tag and shadow. -/
def State.readRows (s : State) (g : Grp) (slot : Nat) : List Nat → List (List Word × BitVec 4 × DWord) × State
  | [] => ([], s)
  | r :: rest =>
    let (ws, s1) := s.readRow g slot r
    let (xs, s2) := s1.readRows g slot rest
    ((ws, (s.warp slot).tags.get r, (s.warp slot).shadows.get r) :: xs, s2)
/-- Rows accessed by a warp-whole instruction, as elements. -/
def rowElems (slot : Nat) (rows : List Nat) : List Elem := rows.map (fun r => (slot, r, 0))

/-- A block instruction reading `na` rows from a and writing `nd` rows from d: `bad` is a register-range fault of its own, and
`f` is given the destination rows, the sources and the live lanes (R162). A source read early without SBCHK leaves its results
undefined, with no fault, no NF and no draw (R84). -/
def blkOp (c : Ctl) (d : VReg) (nd : Nat) (a : VReg) (na : Nat) (s : State) (bad : Warp → Nat → Bool)
    (f : State → Nat → List Nat → List Nat → List (List Word × BitVec 4 × DWord) → BlkRes) : Host.Outcome State Fault Refusal :=
  wholeOp c 1 s
    (fun g s k lanes =>
      let tooFar := bad (s.warp k) (s.wholeRow k lanes a.toNat)
      match rowsPlan g s k lanes (s.regRows k lanes a.toNat na) (s.regRows k lanes d.toNat nd) with
      | .fault e t => if e.cause = 3 && tooFar then .fault (pf 2 0) t else .fault e t
      | .done pc => if tooFar then .fault (pf 2 0) g.pc else .done pc
      | x => x)
    (fun g s k lanes =>
      let rs := s.regRows k lanes a.toNat na
      let ds := s.regRows k lanes d.toNat nd
      let early := rs.any (s.rowEarly g k)
      let (xs, s1) := s.readRows g k rs
      let r0 := f s k lanes ds xs
      let r := if early then { r0 with fault := none, nf := false, draws := 0 } else r0
      if r.fault.isSome then (s1, r.fault) else ((s1.applyBlk k r).settleRows g (rowElems k (rs ++ ds)), none))
/-- No fault of its own. -/
def noBad (_ : Warp) (_ : Nat) : Bool := false

/-- The words of source row i. -/
def rowWords (xs : List (List Word × BitVec 4 × DWord)) (i : Nat) : List Word := (xs.getD i ([], 0, 0)).1
/-- Its values. -/
def rowVals (xs : List (List Word × BitVec 4 × DWord)) (i : Nat) : List Num := (rowWords xs i).map f32
/-- Its line. -/
def rowAsLine (xs : List (List Word × BitVec 4 × DWord)) (i : Nat) : Line :=
  { data := lineOfWords ((rowWords xs i).map BitVec.toNat), tag := (xs.getD i ([], 0, 0)).2.1, scales := (xs.getD i ([], 0, 0)).2.2 }
/-- A destination row. -/
def destRow (ds : List Nat) (i : Nat) : Nat := ds.getD i 0

/-- BAMAX (R163). -/
def execBamax (c : Ctl) (d a : VReg) (s : State) : Host.Outcome State Fault Refusal :=
  blkOp c d 1 a 1 s noBad fun _ _ _ ds xs =>
    { rows := [(destRow ds 0, some (List.replicate 32 (rneF32 (amax (rowVals xs 0)))), 9, 0)], nf := nfOf (rowVals xs 0) }
/-- SCSEL (R163). -/
def execScsel (c : Ctl) (f : MxFmt) (e : Sel) (d a : VReg) (s : State) : Host.Outcome State Fault Refusal :=
  blkOp c d 1 a 1 s noBad fun _ _ _ ds xs =>
    { rows := [(destRow ds 0, some (List.replicate 32 (BitVec.ofNat 32 (mxScale (amax (rowVals xs 0)) (tagFmt (MxFmt.tag f)) e))), 0, 0)]
      nf := nfOf (rowVals xs 0) }

/-- The blocks of QPACK, in order: codes and scale; `n` counts the blocks before that drew (R164). -/
def packBlocks (f : FFmt) (e : Sel) (mode : Nat → Nat → Mode) (n : Nat) : List (List Num) → List (List Nat × Nat)
  | [] => []
  | v :: r =>
    let b := quantiseBlock v f e (fun lane => mode lane n)
    b :: packBlocks f e mode (if b.2 = 0xFF then n else n + 1) r
/-- QPACK (R164). -/
def execQpack (c : Ctl) (f : MxFmt) (e : Sel) (m : Rnd) (d a : VReg) (s : State) : Host.Outcome State Fault Refusal :=
  blkOp c d 1 a f.rows s noBad fun s k _ ds xs =>
    let vals := (List.range f.rows).map (rowVals xs)
    let bs := packBlocks (tagFmt (MxFmt.tag f)) e (fun lane i => Rnd.mode m (s.drawAt k lane i)) 0 vals
    let data := layBlocks (MxFmt.tag f) (bs.map Prod.fst)
    { rows := [(destRow ds 0, some ((List.range 32).map (lineWord data)), BitVec.ofNat 4 (MxFmt.tag f), laySlots (bs.map Prod.snd))]
      nf := nfOf vals.flatten || bs.any (fun b => b.2 == 0xFF)
      draws := if m = .sr then (bs.filter (fun b => b.2 != 0xFF)).length else 0 }
/-- QUNPK (R165): a part past those of the row's tag is a register-range fault. -/
def execQunpk (c : Ctl) (part : BitVec 3) (d a : VReg) (s : State) : Host.Outcome State Fault Refusal :=
  blkOp c d 1 a 1 s (fun w row => decide (tagBlocks (w.tags.get row).toNat ≤ part.toNat)) fun _ _ _ ds xs =>
    let l := rowAsLine xs 0
    let t := l.tag.toNat
    let vs := if t = 0 ∨ t = 9 then rowVals xs 0 else decodeBlock t l part.toNat
    let ws := if t = 0 ∨ t = 9 then rowWords xs 0 else vs.map rneF32
    { rows := [(destRow ds 0, some ws, 9, 0)], nf := nfOf (vs ++ ws.map f32) }
/-- SCGET (R166). -/
def execScget (c : Ctl) (d a : VReg) (s : State) : Host.Outcome State Fault Refusal :=
  blkOp c d 1 a 1 s noBad fun _ _ _ ds xs =>
    let l := rowAsLine xs 0
    let ws := (List.range 32).map (fun i =>
      if i < 8 then BitVec.ofNat 32 (slotOf l.scales i) else if i = 8 then l.tag.setWidth 32 else 0)
    { rows := [(destRow ds 0, some ws, 0, 0)] }
/-- SCSET (R166). -/
def execScset (c : Ctl) (d a : VReg) (s : State) : Host.Outcome State Fault Refusal :=
  blkOp c d 1 a 1 s noBad fun _ _ _ ds xs =>
    let ws := rowWords xs 0
    let tag : BitVec 4 := (ws.getD 8 0).setWidth 4
    { rows := [(destRow ds 0, none, BitVec.ofNat 4 (tag.toNat % 10), laySlots ((ws.take 8).map (fun w => bf w 0 8)))]
      fault := if 10 ≤ tag.toNat then some (pf 7 0 3) else none }

/-- An entry into a ranking, greatest first, an equal value after those already there (R167). [DEDUCED, log 23] -/
def rankIn (x : Word × Nat) : List (Word × Nat) → List (Word × Nat)
  | [] => [x]
  | y :: r => if (f32 y.1).lt (f32 x.1) then x :: y :: r else y :: rankIn x r
/-- TOPK (R167). [DEDUCED, log 23] -/
def execTopk (c : Ctl) (k : BitVec 4) (d a : VReg) (s : State) : Host.Outcome State Fault Refusal :=
  blkOp c d 2 a 1 s noBad fun _ _ lanes ds xs =>
    let cand := ((rowWords xs 0).zipIdx).filter (fun x => lanes.contains x.2)
    let order := (cand.filter (fun x => f32 x.1 != .nan)).foldl (fun r x => rankIn x r) []
    let entry := fun (r : Nat) => if k.toNat ≤ r then ((0 : Word), (0 : Word)) else match order[r]? with
      | some x => (x.1, BitVec.ofNat 32 x.2)
      | none => (0xFF800000#32, 0x0000FFFF#32)
    let es := (List.range 32).map entry
    { rows := [(destRow ds 0, some (es.map Prod.fst), 0, 0), (destRow ds 1, some (es.map Prod.snd), 0, 0)]
      nf := nfOf (rowVals xs 0) || es.any (fun x => x.1 == 0xFF800000#32) }

end Sys2Proof.Machine
end

