-- ==== Sys2Proof/Machine/Uniform.lean ====
section
/-! DEFINITION. Uniform instructions (R128 to R130, R132): SALU, SMOV, BCAST, VTOS, SWAITQ and SMOVI. SLD stands with the
memory accesses. -/
namespace Sys2Proof.Machine

/-- A SALU function of two registers (R128). -/
def salu2 (c : Ctl) (d a b : SReg) (s : State) (f : Word → Word → Word) : Host.Outcome State Fault Refusal :=
  saluOp c 1 d [a, b] s fun vs => f (vs.getD 0 0) (vs.getD 1 0)

def execSadd (c : Ctl) (d a b : SReg) (s : State) := salu2 c d a b s (· + ·)
def execSsub (c : Ctl) (d a b : SReg) (s : State) := salu2 c d a b s (· - ·)
def execSand (c : Ctl) (d a b : SReg) (s : State) := salu2 c d a b s (· &&& ·)
def execSor (c : Ctl) (d a b : SReg) (s : State) := salu2 c d a b s (· ||| ·)
def execSxor (c : Ctl) (d a b : SReg) (s : State) := salu2 c d a b s (· ^^^ ·)
def execSshl (c : Ctl) (d a b : SReg) (s : State) := salu2 c d a b s shl32
def execSshr (c : Ctl) (d a b : SReg) (s : State) := salu2 c d a b s shr32
def execScmp (c : Ctl) (d a b : SReg) (s : State) := salu2 c d a b s fun x y => cmpInt 32 x.toInt y.toInt
def execSmov (c : Ctl) (d a : SReg) (s : State) := saluOp c 1 d [a] s fun vs => vs.getD 0 0
def execSmovi (c : Ctl) (d : SReg) (imm : BitVec 14) (s : State) := saluOp c 1 d [] s fun _ => imm.signExtend 32
def execSmoviLong (c : Ctl) (d : SReg) (imm : BitVec 32) (s : State) := saluOp c 2 d [] s fun _ => imm

/-- The destination elements of a warp's active threads. [DEDUCED, log 19] -/
def State.warpElems (s : State) (g : Grp) (slot : Nat) (n : Nat) : List Elem := (g.lanesOf slot).flatMap (fun l => s.fieldElems (slot, l) n false)
/-- BCAST (R129): a fault is taken by every active thread of the warp (R110, R128). -/
def execBcast (c : Ctl) (d : VReg) (a : SReg) (s : State) : Host.Outcome State Fault Refusal :=
  warpOp c 1 s
    (fun g s k => match s.sWhy k [a.toNat] with
      | some w => .lock w
      | none => match s.elemsWhy (s.warpElems g k d.toNat) with
        | some w => .lock w
        | none => if (s.warpElems g k d.toNat).all s.elemHeld then .done g.next else .fault (pf 2 0) g.pc)
    (fun g s k =>
      let es := s.warpElems g k d.toNat
      let (v, s) := s.readS g k a.toNat
      let s := es.foldl (fun s e => s.writeFixed g 3 e v) s
      (s.settleRows g es, g.all k (.done g.next)))

/-- VTOS (R129): the lowest-numbered active lane of the warp gives the value. [DEDUCED, log 19] -/
def execVtos (c : Ctl) (d : SReg) (a : VReg) (s : State) : Host.Outcome State Fault Refusal :=
  let elem := fun (g : Grp) (s : State) (k : Nat) => s.fieldElems (k, (g.lanesOf k).headD 0) a.toNat false
  warpOp c 1 s
    (fun g s k => match s.sWhy k [d.toNat] with
      | some w => .lock w
      | none => match s.elemsWhy (elem g s k) with
        | some w => .lock w
        | none => match s.elemsFault g (elem g s k) [] with
          | some f => .fault f g.pc
          | none => .done g.next)
    (fun g s k =>
      let es := elem g s k
      let (v, s) := s.readElems g es
      ((s.writeS g 8 k d.toNat (v.setWidth 32)).settleRows g es, g.all k (.done g.next)))

/-- A sequence number has appeared in RSLT (R111, R132). -/
def seqAppeared (seq q : BitVec 16) : Bool := decide ((seq - q).toNat < 2 ^ 15)
/-- SWAITQ (R132). -/
def execSwaitq (c : Ctl) (a : SReg) (s : State) : Host.Outcome State Fault Refusal :=
  warpOp c 1 s (sPlan [a.toNat]) fun g s k =>
    let (v, s) := s.readS g k a.toNat
    let q := v.setWidth 16
    (s, g.all k (if seqAppeared (s.warp k).rsltseq q then .done g.next else .wait (.seq q)))

end Sys2Proof.Machine
end

