-- ==== Sys2Proof/Machine/Control.lean ====
section
/-! DEFINITION. Control transfer (R133 to R138): branches, calls, returns, EXIT and NOP; and the release that EXIT and other
instructions make of a thread's earlier accesses (R219, R233, R253, R466). -/
namespace Sys2Proof.Machine

/-- The address of the branching word plus four times an offset (R65). -/
def branchTo {w : Nat} (pc : DWord) (off : BitVec w) : DWord := pc + 4 * off.signExtend 64
/-- BRA (R133). -/
def execBra (c : Ctl) (off : BitVec 21) (s : State) : Host.Outcome State Fault Refusal :=
  belled c s (issue c 1 s fun g s => (s, g.each (fun _ => .done (branchTo g.pc off))))
/-- BRC (R133). -/
def execBrc (c : Ctl) (a : VReg) (cond : Cond) (off : BitVec 11) (s : State) : Host.Outcome State Fault Refusal :=
  belled c s (regOp c 1 4 [own a] none s fun g _ _ vs => { pc := if condHolds cond (vw vs 0) then some (branchTo g.pc off) else none })
/-- BRU (R133): every active thread of a warp goes the same way. -/
def execBru (c : Ctl) (a : SReg) (cond : Cond) (off : BitVec 11) (s : State) : Host.Outcome State Fault Refusal :=
  belled c s (warpOp c 1 s (sPlan [a.toNat]) fun g s k =>
    let (v, s) := s.readS g k a.toNat
    (s, g.all k (.done (if condHolds cond v then branchTo g.pc off else g.next))))
/-- The link and the jump of CALL (R134). -/
def callOp (c : Ctl) (n : Nat) (d : VReg) (off : BitVec 32) (s : State) : Host.Outcome State Fault Refusal :=
  belled c s (regOp c n 4 [] (some { n := d.toNat, pair := true }) s fun g _ _ _ => { val := g.next, pc := some (branchTo g.pc off) })
def execCall (c : Ctl) (d : VReg) (imm : BitVec 14) (s : State) := callOp c 1 d (imm.signExtend 32) s
def execCallLong (c : Ctl) (d : VReg) (imm : BitVec 32) (s : State) := callOp c 2 d imm s
/-- A jump to a pair, which must be 4-byte aligned (R80, R135); an undefined target never faults (R5, R84). [DEDUCED, log 95] -/
def jumpOp (c : Ctl) (a : VReg) (s : State) : Host.Outcome State Fault Refusal :=
  belled c s (regOp c 1 4 [ownPair a] none s fun _ _ _ vs =>
    if bf (vd vs 0) 0 2 = 0 then { pc := some (vd vs 0) } else { pc := some (vd vs 0 &&& ~~~3#64), fault := some (pf 4 (vd vs 0)) })
def execJmpi (c : Ctl) (a : VReg) (s : State) := jumpOp c a s
/-- RET marks the transfer for fetch prediction, which is timing (R135). -/
def execRet (c : Ctl) (a : VReg) (s : State) := jumpOp c a s
/-- NOP (R138). -/
def execNop (c : Ctl) (s : State) : Host.Outcome State Fault Refusal :=
  issue c 1 s fun g s => (s, g.each (fun _ => .done g.next))

-- Releases ------------------------------------------------------------------------------------------------------------------

/-- Perform the outstanding reductions of some threads; those with a failure take it in place of the group (R253, R466): the
state, the faults, and the group of the rest. -/
def State.settleReleases (s : State) (g : Grp) : State × List ((Nat × Nat) × Fate) × Grp :=
  let s := g.acts.foldl (fun s a => s.drainReds a.1 a.2) s
  let ds := s.deferred g
  (s.takeDeferred g, ds, { g with acts := g.acts.filter (fun a => !ds.any (fun e => e.1 == a)) })
/-- Threads of a group with accesses to other packages not answered (R232, R466). -/
def State.remoteWhy (s : State) (why : Why) (a : Nat × Nat) : Option Why := if s.hasRemote a.1 a.2 then some why else none
/-- A group that is a release by each of its threads: reductions first; threads with unanswered accesses wait; then `body`. -/
def releasing (g : Grp) (s : State) (why : Why) (body : Grp → State → State × List ((Nat × Nat) × Fate)) :
    State × List ((Nat × Nat) × Fate) :=
  let (s, ds, h) := s.settleReleases g
  if h.acts.isEmpty then (s, ds)
  else if h.acts.any (fun a => (s.remoteWhy why a).isSome) then (s, ds ++ h.cut (s.remoteWhy why))
  else
    let (s, fs) := body h s
    (s, ds ++ fs)

/-- EXIT (R137): a failure of an earlier access is taken before it passes (R466). -/
def execExit (c : Ctl) (s : State) : Host.Outcome State Fault Refusal :=
  belled c s (issue c 1 s fun g s => releasing g s (.release none) fun g s => (s, g.each (fun _ => .exit)))

end Sys2Proof.Machine
end

