-- ==== Sys2Proof/Machine/RosterOps.lean ====
section
/-! DEFINITION. Roster instructions (R177 to R183): RJOIN, RLEAVE, ROLL, ROLLA and ROLLW. -/
namespace Sys2Proof.Machine

/-- The slot is one the kernel declares (R177). -/
def State.rosterDeclared (s : State) (slot r : Nat) : Bool := decide (r ≤ (s.wgOf slot).nrost)
/-- RJOIN and RLEAVE act once per warp; an undeclared slot faults every active thread of the warp (R177, R182). -/
def memberOp (c : Ctl) (r : Nat) (s : State) (f : State → Nat → Nat → State) : Host.Outcome State Fault Refusal :=
  warpOp c 1 s
    (fun g s k => if s.rosterDeclared k r then .done g.next else .fault (pf 2 0) g.pc)
    (fun g s k => (f s (s.warp k).wg (s.warp k).wid, g.all k (.done g.next)))
def execRjoin (c : Ctl) (slot : BitVec 4) (s : State) := memberOp c slot.toNat s fun s wg w => s.join wg slot.toNat w
/-- RLEAVE (R182): no effect on the homeroom. -/
def execRleave (c : Ctl) (slot : BitVec 4) (s : State) :=
  memberOp c slot.toNat s fun s wg w => if slot = 0 then s else s.leave wg slot.toNat w

-- Roll calls (R183) -----------------------------------------------------------------------------------------------------------

/-- The roster a thread's warp names by a slot. -/
def State.rosterAt (s : State) (slot r : Nat) : Roster := s.roster (s.warp slot).wg r
/-- The bit of PENDING that stands for a thread (R178). -/
def State.pendingBit (s : State) (a : Nat × Nat) : Nat := 32 * (s.warp a.1).wid + a.2
/-- The fault of a roll-call instruction in a thread (R177, R183, R117); `arrive` for ROLL and ROLLA. -/
def State.rollFault (s : State) (g : Grp) (r : Nat) (arrive : Bool) (rs ws : List Elem) (a : Nat × Nat) : Option PFault :=
  let ro := s.rosterAt a.1 r
  if !s.rosterDeclared a.1 r || ro.st == .unused then some (pf 2 0)
  else if arrive && !ro.members.getLsbD (s.warp a.1).wid && !ro.pending.getLsbD (s.pendingBit a) then some (pf 2 0)
  else s.elemsFault g rs ws
/-- A thread sets its PENDING bit toward the roll call (R179, R183). -/
def State.arrive (s : State) (r : Nat) (a : Nat × Nat) : State :=
  s.modRoster (s.warp a.1).wg r (fun x =>
    { x with pending := x.pending ||| BitVec.ofNat 1024 (2 ^ s.pendingBit a), st := if x.st = .standing then .calling else x.st })
/-- The workgroups of threads, each once. -/
def State.groupsOf (s : State) (as : List (Nat × Nat)) : List Nat := (as.map (fun a => (s.warp a.1).wg)).eraseDups
/-- The fate of a thread that waits for a target: it passes where the roll call has been reached. -/
def State.rollFate (s : State) (g : Grp) (r : Nat) (target : BitVec 16) (a : Nat × Nat) : Fate :=
  if phaseReached (s.rosterAt a.1 r).phase target then .done g.next else .wait (.roll r target)

/-- Threads of the bundle's warps that waited in a roll call wait no longer. -/
def State.freed (s t : State) (g : Grp) : Bool :=
  g.actWarps.any (fun k => (List.range 32).any (fun l => (s.thread k l).st == .waiting && (t.thread k l).st != .waiting))
/-- The fate of a thread that arrives: where the call it completes frees other threads of the bundle's warps, the period ends, so
that all of them go on together (R176, R437). [DEDUCED, log 113] -/
def State.arriveFate (s : State) (g : Grp) (r : Nat) (target : BitVec 16) (freed : Bool) (a : Nat × Nat) : Fate := match s.rollFate g r target a with
  | .done pc => if freed then .met pc else .done pc
  | f => f
/-- ROLL and ROLLA: arrivals of the group, the completion test, then each thread's fate; ROLLA's `d` takes the target. -/
def arriveOp (g : Grp) (r : Nat) (d : Option Wr) (s : State) : State × List ((Nat × Nat) × Fate) :=
  let bad := fun a => s.rollFault g r true [] (s.wrElems a d) a
  let ok := g.acts.filter (fun a => (bad a).isNone)
  let target := fun (a : Nat × Nat) => (s.rosterAt a.1 r).phase + 1
  let s1 := ok.foldl (fun s a => s.arrive r a) s
  let s2 := (s.groupsOf ok).foldl (fun s wg => s.completionTest wg r) s1
  let s3 := if d.isSome then (s2.landLater d (ok.map (fun a => (a, { val := (target a).setWidth 64 })))).settleRows g (ok.flatMap (fun a => s.wrElems a d)) else s2
  (s3, g.each (fun a => match bad a with
    | some f => .fault f g.pc
    | none => if d.isSome then .done g.next else s3.arriveFate g r (target a) (s1.freed s2 g) a))
/-- A roll-call instruction in trap mode is illegal (R181); the rest of the group does `body`, and where an interlock cuts the
group no thread executes it (R175). -/
def noTrapMode (g : Grp) (s : State) (body : Grp → State → State × List ((Nat × Nat) × Fate)) : State × List ((Nat × Nat) × Fate) :=
  let traps := g.acts.filter (fun a => (s.thread a.1 a.2).tmode)
  let h := { g with acts := g.acts.filter (fun a => !(s.thread a.1 a.2).tmode) }
  let (s, fs) := if h.acts.isEmpty then (s, []) else body h s
  (s, traps.map (fun a => (a, if fs.any (fun e => e.2.interlocked) then .retry else .fault (pf 1 0) g.pc)) ++ fs)
/-- What register fields of a group wait for, before `body` (R83). -/
def interlocked (els : State → Nat × Nat → List Elem) (body : Grp → State → State × List ((Nat × Nat) × Fate))
    (g : Grp) (s : State) : State × List ((Nat × Nat) × Fate) := match s.interlocks g (els s) with
  | some fs => (s, fs)
  | none => body g s

/-- ROLL (R183). -/
def execRoll (c : Ctl) (slot : BitVec 4) (s : State) : Host.Outcome State Fault Refusal :=
  issue c 1 s fun g s => noTrapMode g s fun g s => releasing g s (.release none) fun g s => arriveOp g slot.toNat none s
/-- ROLLA (R183). -/
def execRolla (c : Ctl) (d : VReg) (slot : BitVec 4) (s : State) : Host.Outcome State Fault Refusal :=
  let w : Option Wr := some { n := d.toNat }
  issue c 1 s fun g s => noTrapMode g s (interlocked (fun s a => s.wrElems a w) fun g s =>
    releasing g s (.release none) fun g s => arriveOp g slot.toNat w s)
/-- The threads of ROLLW in turn: the target is the register's low half (R183). -/
def rollwAll (g : Grp) (r : Nat) (a : VReg) (s : State) : List (Nat × Nat) → State × List ((Nat × Nat) × Fate)
  | [] => (s, [])
  | t :: rest =>
    let es := s.fieldElems t a.toNat false
    let (x, s1) := match s.rollFault g r false es [] t with
      | some f => (Fate.fault f g.pc, s)
      | none => let (v, s1) := s.readElems g es; (s1.rollFate g r (v.setWidth 16) t, s1)
    let (s2, fs) := rollwAll g r a s1 rest
    (s2, (t, x) :: fs)
/-- ROLLW (R183). -/
def execRollw (c : Ctl) (a : VReg) (slot : BitVec 4) (s : State) : Host.Outcome State Fault Refusal :=
  issue c 1 s fun g s => noTrapMode g s (interlocked (fun s t => s.fieldElems t a.toNat false) fun g s =>
    let s := (s.groupsOf g.acts).foldl (fun s wg => s.completionTest wg slot.toNat) s
    let (s, fs) := rollwAll g slot.toNat a s g.acts
    (s.settleRows g (g.acts.flatMap (fun t => s.fieldElems t a.toNat false)), fs))

end Sys2Proof.Machine
end

