-- ==== Sys2Proof/Machine/Window.lean ====
section
/-! DEFINITION. The register window and extended blocks (R99 to R105): WINB, XACQ, XTRY, XREL and the grant of a request; and
YIELD's back-off (R257). -/
namespace Sys2Proof.Machine

/-- WINB (R100). -/
def execWinb (c : Ctl) (w : BitVec 5) (s : State) : Host.Outcome State Fault Refusal :=
  issue c 1 s fun g s =>
    (g.acts.foldl (fun s a => s.modThread a.1 a.2 (fun t => { t with wb := 16 * w.toNat })) s, g.each (fun _ => .done g.next))

/-- The warp holds extended slot k (R96). -/
def Warp.holdsSlot (w : Warp) (k : Nat) : Bool := w.xheld.getLsbD k
/-- The slot is granted: its 32 rows hold 0 with tag and shadow 0 (R101). -/
def Warp.grantSlot (w : Warp) (k now : Nat) : Warp :=
  let out := fun (row : Nat) => row < 64 + 32 * k || 96 + 32 * k ≤ row
  { w with
    xheld := w.xheld ||| BitVec.ofNat 8 (2 ^ k)
    xmoved := w.xmoved &&& ~~~(BitVec.ofNat 8 (2 ^ k))
    xout := w.xout &&& ~~~(BitVec.ofNat 8 (2 ^ k))
    xlast := w.xlast.put k now
    vreg := List.filter (fun e => out (e.1 / 32)) w.vreg
    tags := List.filter (fun e => out e.1) w.tags
    shadows := List.filter (fun e => out e.1) w.shadows }
/-- The slot is released and its contents are gone (R103). -/
def Warp.dropSlot (w : Warp) (k : Nat) : Warp :=
  { w.grantSlot k 0 with xheld := w.xheld &&& ~~~(BitVec.ofNat 8 (2 ^ k)) }
/-- The value XACQ and XTRY write: the slot's first row (R101). -/
def slotRow (k : Nat) : Word := BitVec.ofNat 32 (64 + 32 * k)

/-- The threads of a warp write a value to d, or fault where its row is not held; the result lands later (R101, R102). -/
def State.slotResult (s : State) (g : Grp) (slot : Nat) (d : VReg) (v : Word) : State × List ((Nat × Nat) × Fate) :=
  let acts := g.acts.filter (fun a => a.1 == slot)
  let ok := acts.filter (fun a => (s.wrElems a (some { n := d.toNat })).all s.elemHeld)
  ((s.landLater (some { n := d.toNat }) (ok.map (fun a => (a, word v)))).settleRows g (ok.flatMap (fun a => s.wrElems a (some { n := d.toNat }))),
   acts.map (fun a => (a, if ok.contains a then .done g.next else .fault (pf 2 0) g.pc)))
/-- The warp's slots are those its kernel declares (R101). -/
def State.slotDeclared (s : State) (slot k : Nat) : Bool := decide (k < (s.wgOf slot).xb)
/-- An instruction on an extended slot, warp by warp, after the interlock on d. -/
def slotOp (c : Ctl) (d : VReg) (k : Nat) (s : State) (f : Grp → State → Nat → State × List ((Nat × Nat) × Fate)) :
    Host.Outcome State Fault Refusal :=
  issue c 1 s fun g s => interlocked (fun s a => s.wrElems a (some { n := d.toNat })) (fun g s =>
    g.actWarps.foldl (fun (r : State × List ((Nat × Nat) × Fate)) w =>
      let (s, fs) := if r.1.slotDeclared w k then f g r.1 w else (r.1, g.all w (.fault (pf 2 0) g.pc))
      (s, r.2 ++ fs)) (s, [])) g s

/-- XACQ (R101): a slot not held is asked for, and the threads wait for the grant. -/
def execXacq (c : Ctl) (d : VReg) (k : BitVec 3) (s : State) : Host.Outcome State Fault Refusal :=
  slotOp c d k.toNat s fun g s w =>
    if (s.warp w).holdsSlot k.toNat then s.slotResult g w d (slotRow k.toNat)
    else
      let s := s.modQuad g.q (fun q => if q.xq.contains (w, k.toNat) then q else { q with xq := q.xq ++ [(w, k.toNat)] })
      (s, g.all w (.wait (.extBlock k.toNat d.toNat)))
/-- XTRY (R102): it grants at once only with the queue empty and a block free (R105). -/
def execXtry (c : Ctl) (d : VReg) (k : BitVec 3) (s : State) : Host.Outcome State Fault Refusal :=
  slotOp c d k.toNat s fun g s w =>
    if (s.warp w).holdsSlot k.toNat then s.slotResult g w d (slotRow k.toNat)
    else if (s.quad g.q).xq.isEmpty && decide (1 ≤ s.exfree g.q) then
      (s.modWarp w (fun x => x.grantSlot k.toNat g.cycle)).slotResult g w d (slotRow k.toNat)
    else s.slotResult g w d 0xFFFFFFFF
/-- Results of the warp are pending into rows of slot k (R103). -/
def State.slotPending (s : State) (slot k : Nat) : Bool :=
  (List.range 32).any (fun i => !(s.pendRow slot (64 + 32 * k + i)).isEmpty)
/-- XREL (R103). -/
def execXrel (c : Ctl) (k : BitVec 3) (s : State) : Host.Outcome State Fault Refusal :=
  warpOp c 1 s
    (fun g s w =>
      if !s.slotDeclared w k.toNat then .fault (pf 2 0) g.pc
      else if (s.warp w).holdsSlot k.toNat && s.slotPending w k.toNat then .lock (.xrel k.toNat)
      else .done g.next)
    (fun g s w =>
      (if (s.warp w).holdsSlot k.toNat then s.modWarp w (fun x => x.dropSlot k.toNat) else s, g.all w (.done g.next)))

/-- A thread waiting in XACQ takes the grant of slot k: its register, or a register-range fault (R101). -/
def State.takeGrant (s : State) (slot k lane : Nat) : State :=
  let t := s.thread slot lane
  match t.st, t.why with
  | .waiting, .extBlock j d =>
    if j = k then
      let row := rowOf t d
      if (s.warp slot).holds row then
        ((s.pendRegs slot [(elemKey row lane, slotRow k)]).modWarp slot (fun w => w.touch (s.quad (quadOf slot)).cycle [row])).modThread slot lane
          (fun t => { t with st := .ready, pc := t.pc + 4, why := .nothing })
      else s.trap slot lane (pf 2 0) t.pc
    else s
  | _, _ => s
/-- EXTENDED_BLOCK_GRANT (R101, R105): the request at the head of a quadrant's queue, where a block is free. -/
def execExtendedBlockGrant (q : Nat) (s : State) : Host.Outcome State Fault Refusal :=
  if 1536 ≤ q then .fault .noSuchUnit
  else match (s.quad q).xq with
    | [] => .next s
    | (w, k) :: rest =>
      if s.exfree q = 0 then .next s
      else
        let s := s.modQuad q (fun x => { x with xq := rest })
        let s := s.modWarp w (fun x => x.grantSlot k (s.quad q).cycle)
        .next ((List.range 32).foldl (fun s l => s.takeGrant w k l) s |>.retireIfDead w)

/-- The thread waits for a moved block to be back (R108). -/
def Thread.awaits (t : Thread) (b : Nat) : Bool := match t.why with
  | .moved bs => bs.contains b
  | _ => false
/-- A thread of the quadrant waits for the moved block k of a warp slot. -/
def State.blockAwaited (s : State) (slot k : Nat) : Bool :=
  (s.quadWarps (quadOf slot)).any (fun w => List.any (s.warp w).threads (fun e => e.2.awaits (slot * 8 + k)))
/-- REGISTER_BLOCK_RETURN (R108): a block moved to the overflow area that an access waits for comes back, others moving out where
they must; its return counts as an access in the next cycle, so that it is not the next to leave. [DEDUCED, log 92] -/
def execRegisterBlockReturn (slot k : Nat) (s : State) : Host.Outcome State Fault Refusal :=
  if (s.warp slot).xmoved.getLsbD k && s.blockAwaited slot k then
    let q := quadOf slot
    let s := s.modWarp slot (fun w => { w with xmoved := w.xmoved &&& ~~~(BitVec.ofNat 8 (2 ^ k)), xout := w.xout &&& ~~~(BitVec.ofNat 8 (2 ^ k)), xlast := w.xlast.put k ((s.quad q).cycle + 1) })
    .next (s.spill q 64)
  else .next s

-- YIELD (R257) --------------------------------------------------------------------------------------------------------------------

/-- What the threads of a warp that completes a YIELD leave: each with the value of its register (R257). [DEDUCED, log 26] -/
def State.backOff (s : State) (slot : Nat) (vs : List (Nat × Word)) : State :=
  let changed := vs.any (fun v => (s.thread slot v.1).ylast != v.2)
  let s := vs.foldl (fun s v => s.modThread slot v.1 (fun t => { t with ylast := v.2 })) s
  s.modWarp slot (fun w => { w with yexp := if changed then 0 else min (w.yexp + 1) 8, yheld := true })
/-- YIELD (R257). [DEDUCED, log 26] -/
def execYield (c : Ctl) (d : VReg) (s : State) : Host.Outcome State Fault Refusal :=
  issue c 1 s fun g s => interlocked (fun s a => s.rdElems g a (own d)) (fun g s =>
    let (rs, s) := s.evalAll g [own d] none (fun _ vs => { val := vd vs 0 }) g.acts
    let ok := rs.filter (fun x => x.2.fault.isNone)
    let s := (ok.map (fun x => x.1.1)).eraseDups.foldl (fun s k =>
      s.backOff k ((ok.filter (fun x => x.1.1 == k)).map (fun x => (x.1.2, x.2.val.setWidth 32)))) s
    (s.settleRows g (g.acts.flatMap (fun a => s.rdElems g a (own d))), rs.map (fun x => (x.1, x.2.fate g)))) g s
/-- YIELD_BACKOFF_EXPIRY (R172, R257). -/
def execYieldBackoffExpiry (slot : Nat) (s : State) : Host.Outcome State Fault Refusal :=
  if (s.warps.find slot).isSome then .next (s.modWarp slot (fun w => { w with yheld := false })) else .next s

end Sys2Proof.Machine
end

