-- ==== Sys2Proof/Machine/System.lean ====
section
/-! DEFINITION. Control registers and the system instructions (R112, R113, R380, R388 to R391), illegal instructions (R79, R62),
and FENCE, OPRDY and CPWP (R224 to R226, R310). -/
namespace Sys2Proof.Machine

-- Control registers (R112, R380) ----------------------------------------------------------------------------------------------

/-- The kernel's flags as KFLAGS shows them (R380). -/
def Kernel.flags (k : Kernel) : Nat :=
  (if k.late then 1 else 0) + (if k.repeatable then 2 else 0) + (if k.fuse then 4 else 0) + (if k.seedov then 8 else 0)
/-- The value CRD reads for a thread (R112, R380, R391). [DEDUCED, log 28] -/
def State.creg (s : State) (slot lane r : Nat) : Nat :=
  let w := s.warp slot
  let t := w.thread lane
  let g := s.wgOf slot
  let k := s.kernelOf slot
  match r with
  | 0x000 => lane
  | 0x001 => w.wid
  | 0x002 => g.idx
  | 0x003 => k.launch
  | 0x004 => coreOf slot
  | 0x005 => quadOf slot % 4
  | 0x008 => if t.tmode then 1 else 0
  | 0x009 => t.wb
  | 0x00A => t.draw.toNat
  | 0x00C => if w.sbchk then 1 else 0
  | 0x010 => (fstatus w).toNat
  | 0x011 => w.rsltv.toNat
  | 0x012 => w.rsltseq.toNat
  | 0x014 => w.xheld.toNat
  | 0x015 => s.exfree (quadOf slot)
  | 0x016 => s.capRows (quadOf slot)
  | 0x100 => bf t.tepc 0 32
  | 0x101 => bf t.tepc 32 32
  | 0x102 => t.tcause.toNat
  | 0x103 => bf t.taddr 0 32
  | 0x104 => bf t.taddr 32 32
  | 0x105 => t.tinfo.toNat
  | 0x200 => k.ctx
  | 0x201 => k.part
  | 0x202 => (s.ctx k.ctx).fasn
  | 0x203 => bf k.seed 0 32
  | 0x204 => bf k.seed 32 32
  | 0x205 => k.flags
  | 0x206 => k.pidx.toNat
  | 0x207 => k.queue
  | _ => 0
/-- CRD (R391). -/
def execCrd (c : Ctl) (d : VReg) (r : BitVec 14) (s : State) : Host.Outcome State Fault Refusal :=
  lateOp c 1 [] (some { n := d.toNat }) s fun _ s a _ => { val := BitVec.ofNat 64 (s.creg a.1 a.2 r.toNat) }

/-- A register of the warp (R112). -/
def cregOfWarp (r : Nat) : Bool := [0x00C, 0x010, 0x011, 0x012, 0x014].contains r
/-- A write of a warp register; those that are RO ignore it (R56, R113, R7). -/
def Warp.writeCreg (w : Warp) (r : Nat) (v : Word) : Warp := match r with
  | 0x00C => { w with sbchk := v.getLsbD 0 }
  | 0x010 => writeFstatus w v
  | _ => w
/-- A write of a thread register: TEPC in trap mode; the others are RO (R380, R391). -/
def Thread.writeCreg (t : Thread) (r : Nat) (v : Word) : Thread :=
  if !t.tmode then t
  else match r with
    | 0x100 => { t with tepc := t.tepc.extractLsb' 32 32 ++ v }
    | 0x101 => { t with tepc := v ++ t.tepc.extractLsb' 0 32 }
    | _ => t
/-- CWR to a warp register, once per warp with the value of its lowest active lane (R391). -/
def cwrWarp (c : Ctl) (a : VReg) (r : Nat) (s : State) : Host.Outcome State Fault Refusal :=
  let elem := fun (g : Grp) (s : State) (k : Nat) => s.fieldElems (k, (g.lanesOf k).headD 0) a.toNat false
  warpOp c 1 s
    (fun g s k =>
      let es := s.warpElems g k a.toNat
      match s.elemsWhy es with
      | some w => .lock w
      | none => match s.elemsFault g (elem g s k) es with
        | some f => .fault f g.pc
        | none => .done g.next)
    (fun g s k =>
      let es := s.warpElems g k a.toNat
      let (v, s) := s.readElems g (elem g s k)
      ((s.modWarp k (fun w => w.writeCreg r (v.setWidth 32))).settleRows g es, g.all k (.done g.next)))
/-- CWR to any other register: each thread writes its own (R391). -/
def cwrThread (c : Ctl) (a : VReg) (r : Nat) (s : State) : Host.Outcome State Fault Refusal :=
  issue c 1 s fun g s => interlocked (fun s t => s.rdElems g t (own a)) (fun g s =>
    let (rs, s) := s.evalAll g [own a] none (fun _ vs => { val := vd vs 0 }) g.acts
    let s := rs.foldl (fun s x =>
      if x.2.fault.isNone then s.modThread x.1.1 x.1.2 (fun t => t.writeCreg r (x.2.val.setWidth 32)) else s) s
    (s.settleRows g (g.acts.flatMap (fun t => s.rdElems g t (own a))), rs.map (fun x => (x.1, x.2.fate g)))) g s
/-- CWR (R391). -/
def execCwr (c : Ctl) (a : VReg) (r : BitVec 14) (s : State) : Host.Outcome State Fault Refusal :=
  if cregOfWarp r.toNat then cwrWarp c a r.toNat s else cwrThread c a r.toNat s

-- Faults an instruction asks for (R79, R388, R389) ---------------------------------------------------------------------------------

/-- TRAP: the resume address is the next group's (R388). -/
def execTrap (c : Ctl) (code : BitVec 9) (s : State) : Host.Outcome State Fault Refusal :=
  issue c 1 s fun g s => (s, g.each (fun _ => .fault (pf 9 0 code.toNat) g.next))
/-- BRK: the resume address is this group's (R388). -/
def execBrk (c : Ctl) (code : BitVec 9) (s : State) : Host.Outcome State Fault Refusal :=
  issue c 1 s fun g s => (s, g.each (fun _ => .fault (pf 10 0 code.toNat) g.pc))
/-- ERET (R389). -/
def execEret (c : Ctl) (s : State) : Host.Outcome State Fault Refusal :=
  belled c s (issue c 1 s fun g s => (s, g.each (fun a =>
    let t := s.thread a.1 a.2
    if !t.tmode then .fault (pf 1 0) g.pc else if bf t.tepc 0 2 ≠ 0 then .fault (pf 4 t.tepc) g.pc else .eret)))
/-- A group that R62 or R79 makes illegal: each active thread takes an illegal-instruction fault. -/
def execIllegalInstruction (s : State) : Host.Outcome State Fault Refusal := illegalOp s

-- Ordering (R225, R226) --------------------------------------------------------------------------------------------------------------

/-- A thread has accesses not yet complete: reductions not performed, or accesses of another package not answered (R225). -/
def State.outstanding (s : State) (slot lane : Nat) : Bool :=
  s.kreqs.any (fun r => r.slot == slot && r.lane == lane) || s.hasRemote slot lane
/-- The access acquires at a scope: the core's L1 loses its lines where the scope is wider than the core (R218). -/
def State.acquireAt (s : State) (core : Nat) (sc : Scope) : State := if sc = .core then s else s.modL1 core (fun _ => [])
/-- FENCE (R225): a thread with accesses outstanding cuts the period; one without passes, as a release and an acquire. -/
def execFence (c : Ctl) (sc : Scope) (s : State) : Host.Outcome State Fault Refusal :=
  issue c 1 s fun g s =>
    let why := fun (a : Nat × Nat) => if s.outstanding a.1 a.2 then some (Why.fence sc) else none
    if g.acts.any (fun a => (why a).isSome) then (s, g.cut why)
    else (g.actWarps.foldl (fun s k => (s.acquireAt (coreOf k) sc).fencePass k) s, g.each (fun _ => .done g.next))
/-- A write into a tile that a warp made, or that happens before what it does next, has not landed (R226). -/
def State.tilePending (s : State) (slot : Nat) : Bool :=
  (s.wgOf slot).unready.any (fun u => u.pend.isSome && u.seen.contains (s.warp slot).wid)
/-- The tile writes a warp knows of are ready for its next joint issue (R226); one that is ready for every warp needs no
record. -/
def Workgroup.makeReady (g : Workgroup) (wid : Nat) : Workgroup :=
  let us := g.unready.map (fun u => if u.seen.contains wid && !u.ready.contains wid then { u with ready := u.ready ++ [wid] } else u)
  { g with unready := us.filter (fun u => decide (u.ready.length < g.nw)) }
/-- OPRDY (R226): scratchpad writes land as they are made; tile writes of the warp, and those before them, are waited for. [DEDUCED, log 46] -/
def execOprdy (c : Ctl) (s : State) : Host.Outcome State Fault Refusal :=
  issue c 1 s fun g s =>
    let why := fun (a : Nat × Nat) => if s.tilePending a.1 then some Why.oprdy else none
    if g.acts.any (fun a => (why a).isSome) then (s, g.cut why)
    else (g.actWarps.foldl (fun s k => s.modWg (s.warp k).wg (fun x => x.makeReady (s.warp k).wid)) s, g.each (fun _ => .done g.next))
/-- CPWP (R310): the write pointer of channel n of the thread's cluster. -/
def execCpwp (c : Ctl) (d : VReg) (n : BitVec 4) (s : State) : Host.Outcome State Fault Refusal :=
  lateOp c 1 [] (some { n := d.toNat }) s fun _ s a _ =>
    { val := ((s.cluster (clusterOf a.1)).chans.get n.toNat).wp.setWidth 64 }

end Sys2Proof.Machine
end

