-- ==== Sys2Proof/Machine/Memory.lean ====
section
/-! DEFINITION. The order of a memory group (R116, R117, R192 to R195, R422, R466) and the accesses of threads: LDG and STG
(R200), LDS and STS (R204), LDT and STT (R208), PREF, CINV and CWB (R210), and SALLOC (R203). -/
namespace Sys2Proof.Machine

-- Checks and plans -------------------------------------------------------------------------------------------------------------

/-- What a thread that passed its checks accesses: a virtual address, with the data of a store; a scratchpad offset; or
nothing, with the value its destination takes (a clipped element, or an operand that was undefined). -/
inductive MAcc where
  | acc (a : Acc) (v : DWord)
  /-- At the Kettle: an operand, and a compare value or the end of the page. -/
  | atom (a : Acc) (x y : DWord)
  | spad (o : Nat) (v : DWord)
  | skip (v : DWord)
  deriving DecidableEq, Repr

/-- What a thread's access came to. -/
inductive Did where
  /-- It returns a value. -/
  | val (v : DWord)
  /-- It is done and returns nothing. -/
  | done
  | fault (f : PFault)
  | wait (w : Why)
  deriving DecidableEq, Repr

/-- The fate a check gives its thread; `va` is the address of a heavy fault's access (R195). -/
def Ck.fate {α : Type} (g : Grp) (va : DWord) : Ck α → Fate
  | .ok _ => .done g.next
  | .fault f => .fault f g.pc
  | .light l => .stall l
  | .heavy p => .lock (.heavy p va)
  | .lock w => .lock w

/-- A memory instruction of threads. -/
structure MemOp where
  /-- The register elements a thread names. -/
  els  : Grp → State → Nat × Nat → List Elem
  /-- Its checks in the order of R117, with the operands read. -/
  plan : Grp → State → Nat × Nat → Ck MAcc × State
  /-- The address it accesses, for a heavy fault. -/
  addr : State → Nat × Nat → DWord
  /-- The scope at which it releases when it issues. -/
  rel  : State → Nat × Nat → OrdSc
  /-- The scope of a store that is not buffered, and so releases as it issues, where it goes through an I/O page (R188). -/
  ord  : OrdSc := .plain
  /-- It is an acquire by its threads (R219). -/
  acq  : Bool := false
  /-- It writes, so that it is not performed before an earlier read has taken its value (R217). -/
  wr   : Bool := true
  /-- Reductions that its threads have had accepted are performed before it (R216, R253). -/
  drain : Bool := true
  /-- The request it sends, where it goes to another package. -/
  send : State → Nat × Nat → MAcc → Option (DWord × Request × Want)
  /-- The thread sets NF as the request goes (R253). -/
  sendNF : MAcc → Bool := fun _ => false
  /-- The access itself, in this package. -/
  perform : State → Nat × Nat → MAcc → Did × State
  /-- The elements its result goes to. -/
  dest : State → Nat × Nat → List Elem

/-- Accesses to other packages a release must await: all but earlier packets of its own stream where it carries the ordered
flag (R225, R232). -/
def State.releaseWhy (s : State) (a : Nat × Nat) (o : OrdSc) (m : MAcc) : Option Why :=
  let peer : Option Nat := match o, m with
    | .fabric, .acc ⟨_, .remote _ leaf, _⟩ _ => some (leafPeer leaf).toNat
    | .fabric, .atom ⟨_, .remote _ leaf, _⟩ _ _ => some (leafPeer leaf).toNat
    | _, _ => none
  if o ≠ .plain && s.remotes.any (fun r => r.slot == a.1 && r.lane == a.2 && some r.peer != peer) then some (.release peer) else none

/-- The access of a plan, if it makes one. -/
def MAcc.access : MAcc → Option Acc
  | .acc a _ => some a
  | .atom a _ _ => some a
  | _ => none
/-- The access goes through a page of type I/O (R196). -/
def MAcc.isIo : MAcc → Bool
  | .acc ⟨_, .io _, _⟩ _ => true
  | .acc ⟨_, .mem _ 3, _⟩ _ => true
  | _ => false
/-- The access is of the own package. -/
def MAcc.isOwn (m : MAcc) : Bool := match m.access with
  | some ⟨_, .remote _ _, _⟩ => false
  | some _ => true
  | none => false
/-- An access that passed its checks waits for earlier accesses of its thread: those it releases, and answers that it may not
overtake (R216, R217, R223, R225, R232). [DEDUCED, log 88] [DEDUCED, log 99] -/
def MemOp.waits (m : MemOp) (s : State) (a : Nat × Nat) (x : MAcc) : Option Why :=
  match s.releaseWhy a (if x.isIo && m.rel s a == .plain then m.ord else m.rel s a) x with
  | some w => some w
  | none => match s.answersWhy a.1 a.2 m.wr with
    | some w => some w
    | none => if x.isOwn then s.loopWhy a.1 a.2 else none
/-- The plans of a group's threads in ascending lane. -/
def planAll (m : MemOp) (g : Grp) (s : State) : List (Nat × Nat) → List ((Nat × Nat) × Ck MAcc) × State
  | [] => ([], s)
  | a :: r =>
    let (c, s) := m.plan g s a
    let c := match c with
      | .ok x => match m.waits s a x with
        | some w => .lock w
        | none => .ok x
      | x => x
    let (cs, s) := planAll m g s r
    ((a, c) :: cs, s)

/-- The request of a thread as it would be sent, without the number of its pending result. -/
def State.sendFor (s : State) (m : MemOp) (a : Nat × Nat) (c : Ck MAcc) (pend : Option Nat) : Option RSend := match c with
  | .ok x => match m.send s a x with
    | some (leaf, req, want) => some (s.remoteSend a.1 leaf req [⟨a.1, a.2, m.acq, pend, want, match x with
        | .acc ⟨_, t, _⟩ _ => if s.repeatableOf a.1 then bufOn (s.bufAll a.1) t else []
        | _ => []⟩])
    | none => none
  | _ => none

/-- A group under way: the state, requests to be sent, results by element, and fates. -/
structure MRun where
  s     : State
  sends : List RSend
  vals  : List (Nat × Nat × Word)
  fates : List ((Nat × Nat) × Fate)

/-- A value to elements, by warp slot and key. -/
def valsFor (es : List Elem) (v : DWord) : List (Nat × Nat × Word) :=
  List.zipWith (fun (e : Elem) w => (e.1, w)) es (wordsFor es v)
/-- The lane's translation is held from now on (R193). -/
def State.holdTrans (s : State) (a : Nat × Nat) (m : MAcc) : State := match m.access with
  | some x => s.fill a.1 a.2 x.tr
  | none => s
/-- One thread's access. -/
def MRun.one (m : MemOp) (g : Grp) (r : MRun) (p : (Nat × Nat) × Ck MAcc) : MRun := match p.2 with
  | .ok x =>
    let s := r.s.holdTrans p.1 x
    match s.sendFor m p.1 p.2 (if (m.dest s p.1).isEmpty then none else some s.nextId) with
    | some q =>
      let s := if (m.dest s p.1).isEmpty then s
        else s.addPend { Pending.empty p.1.1 with regs := wordsFor (m.dest s p.1) 0, remote := true }
      let s := if m.sendNF x then s.modWarp p.1.1 (fun w => { w with nf := true }) else s
      { r with s, sends := addSend r.sends q, fates := r.fates ++ [(p.1, .done g.next)] }
    | none => match m.perform s p.1 x with
      | (.val v, s) => { r with s, vals := r.vals ++ valsFor (m.dest s p.1) v, fates := r.fates ++ [(p.1, .done g.next)] }
      | (.done, s) => { r with s, fates := r.fates ++ [(p.1, .done g.next)] }
      | (.fault f, s) => { r with s, fates := r.fates ++ [(p.1, .fault f g.pc)] }
      | (.wait w, s) => { r with s, fates := r.fates ++ [(p.1, .wait w)] }
  | c => { r with fates := r.fates ++ [(p.1, c.fate g 0)] }

/-- A line access through a migrate-counted leaf is counted in the cluster's TLB (R336). -/
def State.countMigration (s : State) (cluster ctx : Nat) (va : DWord) : State :=
  s.modCluster cluster (fun c => { c with tlb := c.tlb.map (fun t =>
    if t.hits ctx va && leafMode t.leaf == 3 then { t with count := min (t.count + 1) 65535 } else t) })
/-- The requests of a group go out, in ascending order of the first lane of each (R194, R411). -/
def State.sendAll (s : State) (xs : List RSend) : State :=
  xs.foldl (fun s x => match x.wants with
    | [] => s.sendRequest x
    | w :: _ => (s.countMigration (clusterOf w.slot) x.ctx x.req.va).sendRequest x) s
/-- The values of a group land later, one result for each warp (R83). -/
def State.landVals (s : State) (vs : List (Nat × Nat × Word)) : State :=
  (vs.map Prod.fst).eraseDups.foldl (fun s k => s.pendRegs k ((vs.filter (fun v => v.1 == k)).map Prod.snd)) s

/-- Once every register is there: checks, then the group as a whole is performed or kept (R195, R422). -/
def memBody (m : MemOp) (g : Grp) (s : State) : State × List ((Nat × Nat) × Fate) :=
  let els := fun a => m.els g s a
  let (ps, s) := planAll m g s g.acts
  match s.keptBack g (ps.map (fun p => (p.1, p.2.fate g (m.addr s p.1)))) with
  | some r => r
  | none =>
    let full := s.fullTriples (ps.foldl (fun l p => match s.sendFor m p.1 p.2 none with
      | some x => addSend l x
      | none => l) [])
    if !full.isEmpty then (s, g.cut (fun a => (full.find? (fun e => e.1 == a)).map Prod.snd))
    else
      let s := if m.drain then g.acts.foldl (fun s a => s.drainReds a.1 a.2) s else s
      let r := ps.foldl (MRun.one m g) { s, sends := [], vals := [], fates := [] }
      (((r.s.sendAll r.sends).landVals r.vals).settleRows g (g.acts.flatMap els), r.fates)
/-- A memory instruction of threads: interlocks, then, for a release, the reductions it carries; then the group. -/
def memOp (c : Ctl) (s : State) (m : MemOp) : Host.Outcome State Fault Refusal :=
  issue c 1 s fun g s => interlocked (m.els g) (fun g s =>
    if g.acts.any (fun a => m.rel s a != .plain) then
      let (s, ds, h) := s.settleReleases g
      if h.acts.isEmpty then (s, ds) else let (s, fs) := memBody m h s; (s, ds ++ fs)
    else memBody m g s) g s

-- Operands -----------------------------------------------------------------------------------------------------------------------

/-- Bytes of a width (R76). -/
def widthBytes : Width → Nat
  | .z8 | .s8 => 1
  | .z16 | .s16 => 2
  | .z32 => 4
  | .z64 => 8
/-- A loaded value as the register takes it (R200). -/
def extendTo (w : Width) (x : DWord) : DWord := match w with
  | .s8 => (((x.setWidth 8).signExtend 32 : Word)).setWidth 64
  | .s16 => (((x.setWidth 16).signExtend 32 : Word)).setWidth 64
  | _ => x
/-- The destination or source register of a width (R199). -/
def regOf (n : Nat) (w : Width) : Rd := { n, pair := w == .z64 }
/-- The elements of a thread's own register of a width. -/
def State.dataElems (s : State) (a : Nat × Nat) (n : Nat) (w : Width) : List Elem := s.fieldElems a n (w == .z64)
/-- The address a thread's pair holds. -/
def State.pairAddr (s : State) (a : Nat × Nat) (v : VReg) : DWord := (s.warp a.1).pair a.2 v.toNat
/-- Rows held and not early, then the values of element lists; an early operand is a free value, marked (R84, R98, R117). -/
def State.operands (s : State) (g : Grp) (rs ws : List Elem) (k : DWord → Bool → State → Ck MAcc × State) : Ck MAcc × State :=
  match s.elemsFault g (rs ++ ws) [] with
  | some f => (.fault f, s)
  | none =>
    let early := rs.any (s.elemEarly g)
    let (v, s) := s.readElems g rs
    k v early s
/-- The same where `ws` is written, not read. -/
def State.operandsTo (s : State) (g : Grp) (rs ws : List Elem) (k : DWord → Bool → State → Ck MAcc × State) : Ck MAcc × State :=
  match s.elemsFault g rs ws with
  | some f => (.fault f, s)
  | none =>
    let early := rs.any (s.elemEarly g)
    let (v, s) := s.readElems g rs
    k v early s
/-- An access that returns nothing, through an address that was undefined, is not made: it has no destination, and nothing else
changes (R84). -/
def softCk (early : Bool) (c : Ck MAcc) : Ck MAcc := if early then .ok (.skip 0) else c
/-- A load through an undefined address returns an undefined value (R84). [DEDUCED, log 17] -/
def State.freeLoad (s : State) : Ck MAcc × State := (.ok (.skip (BitVec.ofNat 64 s.free.1)), s.free.2)
/-- The access of a thread at an address, carrying v. -/
def State.accessOf (s : State) (a : Nat × Nat) (w : Nat) (va v : DWord) (k : AccKind) : Ck MAcc :=
  (s.access (.lane a.1 a.2) (s.ctxOf a.1) w va k).bind (fun x => .ok (.acc x v))

-- Loads and stores of global memory -----------------------------------------------------------------------------------------------

/-- Memory types of a load of a width (R196): sync memory takes .z32 and .z64 only. -/
def loadKind (w : Width) : AccKind := { sync := w == .z32 || w == .z64, kv := true, io := true }
/-- Memory types of a store of a width (R196). -/
def storeKind (w : Width) : AccKind := { wr := true, sync := w == .z32 || w == .z64, io := true }
/-- A line as a warp's loads see it: buffered bytes over it in repeatable mode (R186). -/
def State.seenLine (s : State) (slot : Nat) (t : Target) (l : Line) : Line :=
  if s.repeatableOf slot then overlay (bufOn (s.bufAll slot) t) l else l
/-- A line of the own package as a core reads it, with an acquire at o made before the read; through a page of type I/O it is
not cached (R190, R196, R198, R218). -/
def State.readLine (s : State) (slot : Nat) (o : OrdSc) (pa mt : Nat) : Except Nat (Line × State) :=
  let s := s.acquire (coreOf slot) o
  if mt = 1 then s.syncLine (pa / 128) else if mt = 3 then s.plainLine (pa / 128) else s.loadLine (coreOf slot) (pa / 128)
/-- A load of w bytes (R200). -/
def State.loadBytes (s : State) (a : Nat × Nat) (o : OrdSc) (w : Width) (x : Acc) : Did × State := match x.t with
  | .mem pa mt => match s.readLine a.1 o pa mt with
    | .error i => (.fault (pf 7 x.va i), s)
    | .ok (l, s) => (.val (extendTo w (lineField (s.seenLine a.1 x.t l) (pa % 128) (widthBytes w))), s.observe a.1 false pa (widthBytes w) o)
  | .io pa =>
    if ioHost pa then (.val (extendTo w (BitVec.ofNat 64 s.free.1)), s.free.2.acquire (coreOf a.1) o)
    else (.val (extendTo w (BitVec.ofNat 64 (s.ioRead pa (widthBytes w)))), s.acquire (coreOf a.1) o)
  | .remote va leaf => match s.copyOf a.1 (s.ctxOf a.1) va leaf with
    | some l => (.val (extendTo w (lineField (s.seenLine a.1 x.t l) (va.toNat % 128) (widthBytes w))), s.useCopy a.1 (s.ctxOf a.1) va leaf o)
    | none => (.done, s)
/-- A store of w bytes: buffered in repeatable mode but for one through an I/O page, each of which is performed exactly once
(R186, R188, R196); else performed (R200). [DEDUCED, log 88] -/
def State.storeBytes (s : State) (a : Nat × Nat) (o : OrdSc) (w : Width) (x : Acc) (v : DWord) : Did × State :=
  let n := widthBytes w
  match x.t with
  | .io pa => (.done, s.ioWrite pa n v.toNat)
  | .mem pa 3 => (.done, (s.storeMem a.1 a.2 pa 3 n v x.va).publish a.1 false pa n o)
  | t =>
    if s.repeatableOf a.1 then
      if s.bufRoom a.1 t then (.done, s.buffer a.1 (.store a.2 n v o) t x.va) else (.fault (pf 5 x.va), s)
    else match t with
      | .mem pa mt => (.done, (s.storeMem a.1 a.2 pa mt n v x.va).publish a.1 false pa n o)
      | _ => (.done, s)
/-- The release scope of a store, which a buffered one takes at its commit (R237). -/
def State.storeRel (s : State) (o : OrdSc) (a : Nat × Nat) : OrdSc := if s.repeatableOf a.1 then .plain else o
/-- A remote load's request: the line, unless a copy of it is held (R190, R234, R411). [DESIGN CHOICE, log 25] -/
def State.loadSend (s : State) (a : Nat × Nat) (w : Width) (key : Nat) (m : MAcc) : Option (DWord × Request × Want) := match m with
  | .acc ⟨va, .remote _ leaf, _⟩ _ =>
    if (s.copyOf a.1 (s.ctxOf a.1) va leaf).isSome then none
    else some (leaf, s.requestFor a.1 (lineVa va) leaf 1 false, .load (va.toNat % 128) w key)
  | _ => none
/-- A remote store's request: a masked write, unless it is buffered (R186, R411). -/
def State.storeSend (s : State) (a : Nat × Nat) (o : OrdSc) (w : Width) (m : MAcc) : Option (DWord × Request × Want) := match m with
  | .acc ⟨va, .remote _ leaf, _⟩ v =>
    if s.repeatableOf a.1 then none
    else some (leaf, s.storeRequest a.1 va leaf (widthBytes w) v (OrdScFabric o), .store (va.toNat % 128))
  | _ => none
/-- The key of the first element. -/
def keyOf (es : List Elem) : Nat := match es with
  | [] => 0
  | e :: _ => elemKey e.2.1 e.2.2

/-- LDG (R199, R200). STRM is replacement only. -/
def execLdg (c : Ctl) (w : Width) (o : OrdSc) (_strm : Bool) (d a : VReg) (s : State) : Host.Outcome State Fault Refusal :=
  memOp c s {
    els := fun _ s t => s.fieldElems t a.toNat true ++ s.dataElems t d.toNat w
    plan := fun g s t => s.operandsTo g (s.fieldElems t a.toNat true) (s.dataElems t d.toNat w) fun va early s =>
      if early then s.freeLoad else (s.accessOf t (widthBytes w) va 0 (loadKind w), s)
    addr := fun s t => s.pairAddr t a
    rel := fun _ _ => .plain
    acq := o != .plain
    wr := false
    send := fun s t m => s.loadSend t w (keyOf (s.dataElems t d.toNat w)) m
    perform := fun s t m => match m with
      | .acc x _ => s.loadBytes t o w x
      | .skip v => (.val v, s)
      | _ => (.done, s)
    dest := fun s t => s.dataElems t d.toNat w }
/-- STG (R199, R200). -/
def execStg (c : Ctl) (w : Width) (o : OrdSc) (_strm : Bool) (d a : VReg) (s : State) : Host.Outcome State Fault Refusal :=
  memOp c s {
    els := fun _ s t => s.fieldElems t a.toNat true ++ s.dataElems t d.toNat w
    plan := fun g s t => s.operands g (s.fieldElems t a.toNat true) (s.dataElems t d.toNat w) fun va early s =>
      let (v, s) := s.readElems g (s.dataElems t d.toNat w)
      (softCk early (s.accessOf t (widthBytes w) va v (storeKind w)), s)
    addr := fun s t => s.pairAddr t a
    rel := fun s t => s.storeRel o t
    ord := o
    send := fun s t m => s.storeSend t o w m
    perform := fun s t m => match m with
      | .acc x v => s.storeBytes t o w x v
      | _ => (.done, s)
    dest := fun _ _ => [] }

-- The scratchpad (R201 to R204) -----------------------------------------------------------------------------------------------------

/-- The checks of a scratchpad access (R204). -/
def State.spadCk (s : State) (a : Nat × Nat) (o w : Nat) (v : DWord) : Ck MAcc :=
  if o % w ≠ 0 then .fault (pf 4 (BitVec.ofNat 64 o))
  else if (s.wgOf a.1).scr < o + w then .fault (pf 5 (BitVec.ofNat 64 o))
  else .ok (.spad o v)
/-- A read of the workgroup's region. -/
def State.spadLoad (s : State) (slot o : Nat) (w : Width) : DWord :=
  extendTo w (BitVec.ofNat 64 ((s.wgOf slot).spad.read o (widthBytes w)))
/-- A write of the workgroup's region. -/
def State.spadStore (s : State) (slot o w : Nat) (v : DWord) : State :=
  s.modWg (s.warp slot).wg (fun g => { g with spad := g.spad.write o w v.toNat })
/-- LDS (R204). -/
def execLds (c : Ctl) (w : Width) (acq : Bool) (d a : VReg) (s : State) : Host.Outcome State Fault Refusal :=
  memOp c s {
    els := fun _ s t => s.fieldElems t a.toNat false ++ s.dataElems t d.toNat w
    plan := fun g s t => s.operandsTo g (s.fieldElems t a.toNat false) (s.dataElems t d.toNat w) fun o early s =>
      if early then s.freeLoad else (s.spadCk t o.toNat (widthBytes w) 0, s)
    addr := fun _ _ => 0
    rel := fun _ _ => .plain
    wr := false
    send := fun _ _ _ => none
    perform := fun s t m => match m with
      | .spad o _ => (.val (s.spadLoad t.1 o w), s.observe t.1 true o (widthBytes w) (if acq then .core else .plain))
      | .skip v => (.val v, s)
      | _ => (.done, s)
    dest := fun s t => s.dataElems t d.toNat w }
/-- STS (R204): never buffered (R188). -/
def execSts (c : Ctl) (w : Width) (rel : Bool) (d a : VReg) (s : State) : Host.Outcome State Fault Refusal :=
  memOp c s {
    els := fun _ s t => s.fieldElems t a.toNat false ++ s.dataElems t d.toNat w
    plan := fun g s t => s.operands g (s.fieldElems t a.toNat false) (s.dataElems t d.toNat w) fun o early s =>
      let (v, s) := s.readElems g (s.dataElems t d.toNat w)
      (softCk early (s.spadCk t o.toNat (widthBytes w) v), s)
    addr := fun _ _ => 0
    rel := fun _ _ => if rel then .core else .plain
    send := fun _ _ _ => none
    perform := fun s t m => match m with
      | .spad o v => (.done, (s.spadStore t.1 o (widthBytes w) v).publish t.1 true o (widthBytes w) (if rel then .core else .plain))
      | _ => (.done, s)
    dest := fun _ _ => [] }
/-- SALLOC's allocation in a workgroup (R203). -/
def Workgroup.salloc (g : Workgroup) (n span : Nat) : Word × Workgroup :=
  let size := roundUp n 512
  if size = 0 ∨ g.scr < g.top + size ∨ 16 ≤ g.allocs.length then (0xFFFFFFFF#32, g)
  else (BitVec.ofNat 32 g.top, { g with allocs := g.allocs ++ [⟨g.top, size, span⟩], top := g.top + size })
/-- SALLOC (R203): a stall fault of the source comes after the register range of a thread's own destination (R117); a size read
early leaves the destinations undefined and allocates nothing (R84). -/
def execSalloc (c : Ctl) (span : BitVec 3) (d a : VReg) (s : State) : Host.Outcome State Fault Refusal :=
  let src := fun (g : Grp) (s : State) (k : Nat) => s.fieldElems (k, (g.lanesOf k).headD 0) a.toNat false
  issue c 1 s fun g s => interlocked (fun s t => src g s t.1 ++ s.wrElems t (some { n := d.toNat })) (fun g s =>
    g.actWarps.foldl (fun (r : State × List ((Nat × Nat) × Fate)) k => match r.1.elemsFault g (src g r.1 k) [] with
      | some f => (r.1, r.2 ++ (g.all k (.fault f g.pc)).map (fun e =>
          if (r.1.wrElems e.1 (some { n := d.toNat })).all r.1.elemHeld then e else (e.1, .fault (pf 2 0) g.pc)))
      | none =>
        let early := (src g r.1 k).any (r.1.elemEarly g)
        let (n, s) := r.1.readElems g (src g r.1 k)
        let s := s.settleRows g (src g r.1 k)
        let (v, wg) := if early then (n.setWidth 32, s.wgOf k) else (s.wgOf k).salloc n.toNat span.toNat
        let s := s.modWg (s.warp k).wg (fun _ => wg)
        let (s, fs) := s.slotResult g k d v
        (s, r.2 ++ fs)) (s, [])) g s

-- Shaped accesses (R206 to R208) -------------------------------------------------------------------------------------------------------

-- Fields of a shape record (R206)
def shpRank (r : LineBits) : Nat := bf r 64 3
def shpElem (r : LineBits) : Nat := bf r 72 3
def shpClip (r : LineBits) : Bool := r.getLsbD 80
def shpSpace (r : LineBits) : Bool := r.getLsbD 88
def shpSwz (r : LineBits) : Nat := bf r 89 3
def shpDim (r : LineBits) (j : Nat) : Nat := bf r (128 + 32 * j) 32
def shpStride (r : LineBits) (j : Nat) : Int := sx 64 (bf r (384 + 64 * j) 64)
def shpBase (r : LineBits) : Nat := bf r 0 64
/-- The width of the elements (R76, R206). -/
def shpWidth (r : LineBits) : Width := match shpElem r with
  | 0 => .z8 | 1 => .s8 | 2 => .z16 | 3 => .s16 | 4 => .z32 | _ => .z64
/-- Sign- and zero-extending codes write alike (R208). -/
def storeWidth : Width → Width
  | .s8 => .z8
  | .s16 => .z16
  | w => w
/-- A shape record LDSR accepts (R207). -/
def shapeValid (r : LineBits) : Bool :=
  let w := widthBytes (shpWidth r)
  1 ≤ shpRank r && shpElem r ≤ 5 && (List.range (shpRank r)).all (fun j => decide (1 ≤ shpDim r j)) && shpBase r % w == 0
    && (if shpSpace r then decide (shpBase r < 2 ^ 32) && decide (shpSwz r ≤ 6) else canonical (BitVec.ofNat 64 (shpBase r)))
/-- The span code of the allocation that holds an offset (R208). -/
def Workgroup.spanAt (g : Workgroup) (o : Nat) : Nat := match g.allocs.find? (fun a => decide (a.base ≤ o) && decide (o < a.base + a.size)) with
  | some a => a.span
  | none => 0
/-- The coordinate registers of a shaped access. [DEDUCED, log 32] -/
def State.coordElems (s : State) (a : Nat × Nat) (v : VReg) (rank : Nat) : List Elem :=
  (List.range rank).flatMap (fun j => s.fieldElems a (v.toNat + j) false)
/-- Words of a list of elements. -/
def State.readWords (s : State) (g : Grp) : List Elem → List Word × State
  | [] => ([], s)
  | e :: r =>
    let (v, s) := s.readElem g e
    let (vs, s) := s.readWords g r
    (v :: vs, s)
/-- The place of an element once its coordinates are known (R208); misalignment comes before the range (R117). [DEDUCED, log 32] -/
def State.shapeCk (s : State) (a : Nat × Nat) (r : LineBits) (cs : List Int) (v : DWord) (wr : Bool) : Ck MAcc :=
  let w := if wr then storeWidth (shpWidth r) else shpWidth r
  let n := widthBytes w
  if cs.zipIdx.any (fun c => decide (c.1 < 0) || decide ((shpDim r c.2 : Int) ≤ c.1)) then
    if shpClip r then .fault (pf 5 0) else .ok (.skip 0)
  else
    let at0 : Int := shpBase r + (cs.zipIdx.map (fun c => c.1 * shpStride r c.2)).foldl (· + ·) 0
    if at0 % n ≠ 0 then .fault (pf 4 (BitVec.ofInt 64 at0))
    else if shpSpace r then
      if at0 < 0 ∨ ((s.wgOf a.1).scr : Int) ≤ at0 ∨ (s.wgOf a.1).spanAt at0.toNat ≠ shpSwz r then .fault (pf 5 (BitVec.ofInt 64 at0))
      else s.spadCk a at0.toNat n v
    else if at0 < 0 ∨ (2 ^ 64 : Int) ≤ at0 then .fault (pf 5 (BitVec.ofInt 64 at0))
    else s.accessOf a n (BitVec.ofInt 64 at0) v (if wr then storeKind w else loadKind w)
/-- The width of the slot a shaped access names; an empty slot has none. -/
def State.slotShape (s : State) (slot : Nat) (k : BitVec 3) : Option LineBits := (s.warp slot).shapes.find k.toNat
/-- The elements a shaped access names: coordinates and data, of an empty slot the first of each; a coordinate past v127
names no register. -/
def State.shapeElems (s : State) (t : Nat × Nat) (k : BitVec 3) (d a : VReg) : List Elem := match s.slotShape t.1 k with
  | none => s.coordElems t a 1 ++ s.dataElems t d.toNat .z32
  | some r => s.coordElems t a (shpRank r) ++ s.dataElems t d.toNat (shpWidth r)
/-- A shaped access waits for its slot too (R207). -/
def State.shapeWhy (s : State) (g : Grp) (k : BitVec 3) : Option (List ((Nat × Nat) × Fate)) :=
  if g.acts.any (fun a => !(s.pendShape a.1 k.toNat).isEmpty) then
    some (g.cut (fun a => match s.pendShape a.1 k.toNat with
      | [] => none
      | is => some (.results is)))
  else none
/-- The checks of a shaped access (R117, R208): the register range, early reads, the slot, then its place. -/
def State.shapePlan (s : State) (g : Grp) (t : Nat × Nat) (k : BitVec 3) (d a : VReg) (wr : Bool) : Ck MAcc × State :=
  match s.slotShape t.1 k with
  | none =>
    let ce := s.coordElems t a 1
    let de := s.dataElems t d.toNat .z32
    (.fault ((s.elemsFault g (if wr then ce ++ de else ce) (ce ++ de)).getD (pf 5 0)), s)
  | some r =>
    let ce := s.coordElems t a (shpRank r)
    let de := s.dataElems t d.toNat (shpWidth r)
    if (shpWidth r == .z64 && d.toNat % 2 == 1) || decide (128 < a.toNat + shpRank r) || !(ce ++ de).all s.elemHeld then (.fault (pf 2 0), s)
    else if (if wr then ce ++ de else ce).any (s.elemTraps g) then (.fault (pf 3 0), s)
    else
      let early := ce.any (s.elemEarly g)
      if early && !wr then s.freeLoad
      else
        let (cs, s) := s.readWords g ce
        let (v, s) := if wr then s.readElems g de else (0, s)
        (softCk early (s.shapeCk t r (cs.map BitVec.toInt) v wr), s)
/-- A shaped access whose slot is not pending. -/
def shapeOp (c : Ctl) (k : BitVec 3) (s : State) (m : MemOp) : Host.Outcome State Fault Refusal :=
  issue c 1 s fun g s => match s.shapeWhy g k with
    | some fs => (s, fs)
    | none => interlocked (m.els g) (fun g s =>
      if g.acts.any (fun a => m.rel s a != .plain) then
        let (s, ds, h) := s.settleReleases g
        if h.acts.isEmpty then (s, ds) else let (s, fs) := memBody m h s; (s, ds ++ fs)
      else memBody m g s) g s
/-- The address of a shaped access, for a heavy fault. -/
def State.shapeAddr (s : State) (t : Nat × Nat) (k : BitVec 3) (a : VReg) : DWord := match s.slotShape t.1 k with
  | none => 0
  | some r =>
    let cs := (s.coordElems t a (shpRank r)).map (fun e => ((s.warp e.1).elem e.2.1 e.2.2).toInt)
    BitVec.ofInt 64 (shpBase r + (cs.zipIdx.map (fun c => c.1 * shpStride r c.2)).foldl (· + ·) 0)
/-- The width a slot gives. -/
def State.slotWidth (s : State) (slot : Nat) (k : BitVec 3) : Width := match s.slotShape slot k with
  | some r => shpWidth r
  | none => .z32

/-- LDT (R208). -/
def execLdt (c : Ctl) (slot : BitVec 3) (o : OrdSc) (_strm : Bool) (d a : VReg) (s : State) : Host.Outcome State Fault Refusal :=
  shapeOp c slot s {
    els := fun _ s t => s.shapeElems t slot d a
    plan := fun g s t => s.shapePlan g t slot d a false
    addr := fun s t => s.shapeAddr t slot a
    rel := fun _ _ => .plain
    acq := o != .plain
    wr := false
    send := fun s t m => s.loadSend t (s.slotWidth t.1 slot) (keyOf (s.dataElems t d.toNat (s.slotWidth t.1 slot))) m
    perform := fun s t m => match m with
      | .acc x _ => s.loadBytes t o (s.slotWidth t.1 slot) x
      | .spad at0 _ =>
        (.val (s.spadLoad t.1 at0 (s.slotWidth t.1 slot)), s.observe t.1 true at0 (widthBytes (s.slotWidth t.1 slot)) o)
      | .skip v => (.val v, s)
      | .atom _ _ _ => (.done, s)
    dest := fun s t => s.dataElems t d.toNat (s.slotWidth t.1 slot) }
/-- The record addresses the scratchpad. -/
def State.slotSpad (s : State) (slot : Nat) (k : BitVec 3) : Bool := match s.slotShape slot k with
  | some r => shpSpace r
  | none => false
/-- STT (R208). -/
def execStt (c : Ctl) (slot : BitVec 3) (o : OrdSc) (_strm : Bool) (d a : VReg) (s : State) : Host.Outcome State Fault Refusal :=
  shapeOp c slot s {
    els := fun _ s t => s.shapeElems t slot d a
    plan := fun g s t => s.shapePlan g t slot d a true
    addr := fun s t => s.shapeAddr t slot a
    rel := fun s t => if s.slotSpad t.1 slot then o else s.storeRel o t
    ord := o
    send := fun s t m => s.storeSend t o (storeWidth (s.slotWidth t.1 slot)) m
    perform := fun s t m => match m with
      | .acc x v => s.storeBytes t o (storeWidth (s.slotWidth t.1 slot)) x v
      | .spad at0 v =>
        (.done, (s.spadStore t.1 at0 (widthBytes (s.slotWidth t.1 slot)) v).publish t.1 true at0 (widthBytes (s.slotWidth t.1 slot)) o)
      | _ => (.done, s)
    dest := fun _ _ => [] }

-- Cache instructions (R209, R210) -------------------------------------------------------------------------------------------------------

/-- The memory types PREF may bring in, and those CINV and CWB may name. -/
def prefKind : AccKind := { kv := true }
def cmoKind : AccKind := { sync := true, kv := true, io := true }
/-- A line of the own package brought into a level, where it is intact (R210). [DEDUCED, log 33] -/
def State.prefetch (s : State) (core n : Nat) (l : CacheLevel) : State :=
  if (s.lineFault n).isSome then s
  else match l with
    | .l1 => match s.loadLine core n with
      | .ok (_, s) => s
      | .error _ => s
    | .l2 => s.useL2 n false
    | .msc => s.useMsc n false
/-- A line of a remote-cached-read-only page is brought into the L1: from the L2, or from its package, whose answer no thread awaits;
it has no other home here (R190, R210, R234). -/
def State.prefetchCopy (s : State) (slot : Nat) (va leaf : DWord) (l : CacheLevel) : State :=
  if l ≠ .l1 ∨ leafMode leaf ≠ 2 then s
  else if (s.copyOf slot (s.ctxOf slot) va leaf).isSome then s.useCopy slot (s.ctxOf slot) va leaf .plain
  else
    let x := s.remoteSend slot leaf (s.requestFor slot (lineVa va) leaf 1 false) [⟨slot, 32, false, none, .nothing, []⟩]
    if (s.fullTriples [x]).isEmpty then s.sendRequest x else s
/-- PREF (R210): a line that passes every check is brought into the level named; else nothing. [DEDUCED, log 33] -/
def execPref (c : Ctl) (l : CacheLevel) (a : VReg) (s : State) : Host.Outcome State Fault Refusal :=
  memOp c s {
    els := fun _ s t => s.fieldElems t a.toNat true
    plan := fun g s t => s.operands g (s.fieldElems t a.toNat true) [] fun va early s =>
      (match early, s.accessOf t 1 va 0 prefKind with
        | false, .ok x => .ok x
        | _, _ => .ok (.skip 0), s)
    addr := fun s t => s.pairAddr t a
    rel := fun _ _ => .plain
    wr := false
    drain := false
    send := fun _ _ _ => none
    perform := fun s t m => match m with
      | .acc ⟨_, .mem pa _, _⟩ _ => (.done, s.prefetch (coreOf t.1) (pa / 128) l)
      | .acc ⟨va, .remote _ leaf, _⟩ _ => (.done, s.prefetchCopy t.1 va leaf l)
      | _ => (.done, s)
    dest := fun _ _ => [] }
/-- The cores around a core within a scope (R210, R212). -/
def State.coresIn (s : State) (core : Nat) (sc : Scope) : List Nat := match sc with
  | .core => [core]
  | .cluster => (List.range 8).map (fun i => core / 8 * 8 + i)
  | .die => (List.range 96).map (fun i => core / 96 * 96 + i)
  | _ => (s.partHalves (s.half (coreHalf core)).part).flatMap (fun h => (List.range 48).map (fun i => 48 * h + i))
/-- The copies of a line of another package go from the L1s and L2s of a core's partition (R210, R234). -/
def State.dropLineCopies (s : State) (core : Nat) (va leaf : DWord) : State :=
  s.dropCopies (s.partHalves (s.half (coreHalf core)).part) (fun c => c.isOf c.ctx va leaf)
/-- The copies of a line of another package go from the L1s within a scope narrower than .fabric (R210). -/
def State.dropL1Copies (s : State) (core : Nat) (sc : Scope) (va leaf : DWord) : State :=
  (s.coresIn core sc).foldl (fun s k => s.modCore (s.l1Home k) (fun x => { x with copies := x.copies.filter (fun c => !c.isOf c.ctx va leaf) })) s
/-- CINV (R210): the line leaves the L1s within the scope; at .fabric every copy of a line of another package goes. -/
def execCinv (c : Ctl) (sc : Scope) (a : VReg) (s : State) : Host.Outcome State Fault Refusal :=
  memOp c s {
    els := fun _ s t => s.fieldElems t a.toNat true
    plan := fun g s t => s.operands g (s.fieldElems t a.toNat true) [] fun va early s =>
      (softCk early (s.accessOf t 1 va 0 cmoKind), s)
    addr := fun s t => s.pairAddr t a
    rel := fun _ _ => .plain
    wr := false
    send := fun _ _ _ => none
    perform := fun s t m => match m with
      | .acc ⟨_, .mem pa mt, _⟩ _ =>
        (.done, if mt = 0 ∨ mt = 2 then (s.coresIn (coreOf t.1) sc).foldl (fun s k => s.dropL1 k (pa / 128)) s else s)
      | .acc ⟨va, .remote _ leaf, _⟩ _ =>
        (.done, if sc = .fabric then s.dropLineCopies (coreOf t.1) va leaf else s.dropL1Copies (coreOf t.1) sc va leaf)
      | _ => (.done, s)
    dest := fun _ _ => [] }
/-- CWB (R210): the line is written back and left clean; at .fabric a line of a direct-remote page is written back by its
package. [DEDUCED, log 34] -/
def execCwb (c : Ctl) (sc : Scope) (a : VReg) (s : State) : Host.Outcome State Fault Refusal :=
  memOp c s {
    els := fun _ s t => s.fieldElems t a.toNat true
    plan := fun g s t => s.operands g (s.fieldElems t a.toNat true) [] fun va early s =>
      (softCk early (s.accessOf t 1 va 0 cmoKind), s)
    addr := fun s t => s.pairAddr t a
    rel := fun _ _ => .plain
    wr := false
    send := fun s t m => match sc, m with
      | .fabric, .acc ⟨va, .remote _ leaf, _⟩ _ =>
        if leafMode leaf ≠ 1 || fld leaf.toNat 9 2 == 1 then none else some (leaf, s.requestFor t.1 (lineVa va) leaf 6 false, .nothing)
      | _, _ => none
    perform := fun s _ m => match m with
      | .acc ⟨_, .mem pa mt, _⟩ _ => (.done, if mt = 0 ∨ mt = 2 then s.cleanLine (pa / 128) else s)
      | _ => (.done, s)
    dest := fun _ _ => [] }

end Sys2Proof.Machine
end

