-- ==== Sys2Proof/Machine/Lines.lean ====
section
/-! DEFINITION. Memory instructions of a whole warp: SLD (R131), LDL and STL (R205), and LDSR (R207). -/
namespace Sys2Proof.Machine

/-- A uniform pair is read before its result is readable (R6, R82). -/
def State.sEarly (s : State) (g : Grp) (slot n : Nat) : Bool :=
  (s.quad g.q).sb.any (fun x => x.slot == slot && x.unif && (x.key == n || x.key == n + 1) && decide (g.cycle < x.ready))
/-- A uniform register is read early (R82). -/
def State.sEarly1 (s : State) (g : Grp) (slot n : Nat) : Bool :=
  (s.quad g.q).sb.any (fun x => x.slot == slot && x.unif && x.key == n && decide (g.cycle < x.ready))
/-- Why a warp's request finds its triple full, given what every warp of the group would send (R422). -/
def State.warpTriple (s : State) (g : Grp) (send : Nat → Option RSend) (k : Nat) : Option Why :=
  ((s.fullTriples ((g.actWarps.filterMap send).foldl addSend [])).find? (fun e => e.1.1 == k)).map Prod.snd
/-- Requests for what waits in each lane. -/
def lanesAwait (slot : Nat) (lanes : List Nat) (acq : Bool) (pend : Option Nat) (want : Want) (patch : List BufOp) : List Await :=
  lanes.map (fun l => ⟨slot, l, acq, pend, want, patch⟩)
/-- An execution that would go on waits first, if there is something to wait for. -/
def Fate.unless : Fate → Option Why → Fate
  | .done _, some w => .lock w
  | f, _ => f
/-- Threads of a warp perform their outstanding reductions (R216). -/
def State.drainLanes (s : State) (slot : Nat) (lanes : List Nat) : State := lanes.foldl (fun s l => s.drainReds slot l) s
/-- What the warp's buffer holds of a target's line, where its loads see it (R186). -/
def State.overFor (s : State) (slot : Nat) (t : Target) : List BufOp :=
  if s.repeatableOf slot then bufOn (s.bufAll slot) t else []
/-- The check of one access of a warp, by its lowest lane. -/
def State.warpAccess (s : State) (slot lane w : Nat) (va : DWord) (k : AccKind) : Ck Acc :=
  s.access (.lane slot lane) (s.ctxOf slot) w va k
/-- The target is in another package. -/
def Ck.remoteLeaf : Ck Acc → Option DWord
  | .ok ⟨_, .remote _ leaf, _⟩ => some leaf
  | _ => none

-- SLD (R131) ----------------------------------------------------------------------------------------------------------------------

/-- The width of SLD. -/
def sldWidth (w64 : Bool) : Width := if w64 then .z64 else .z32
/-- SLD's check for a warp. -/
def State.sldCk (s : State) (g : Grp) (w64 : Bool) (a : SReg) (k : Nat) : Ck Acc :=
  s.warpAccess k ((g.lanesOf k).headD 0) (widthBytes (sldWidth w64)) ((s.warp k).sPair a.toNat) (loadKind (sldWidth w64))
/-- SLD's request, where its line is in another package. -/
def State.sldSend (s : State) (g : Grp) (w64 : Bool) (o : OrdSc) (d a : SReg) (pend : Option Nat) (k : Nat) : Option RSend :=
  match s.sldCk g w64 a k with
  | .ok x => match x.t with
    | .remote va leaf => if (s.copyOf k (s.ctxOf k) va leaf).isSome then none
      else some (s.remoteSend k leaf (s.requestFor k (lineVa va) leaf 1 false)
        (lanesAwait k (g.lanesOf k) (o != .plain) pend (.unif (va.toNat % 128) w64 d.toNat) (s.overFor k x.t)))
    | _ => none
  | _ => none
/-- The values of SLD's destination. -/
def sldRegs (d : SReg) (w64 : Bool) (v : DWord) : List (Nat × Word) :=
  (d.toNat, v.setWidth 32) :: if w64 then [(d.toNat + 1, (v >>> 32).setWidth 32)] else []
/-- The uniform registers SLD names. -/
def sldNames (w64 : Bool) (d a : SReg) : List Nat := [a.toNat, a.toNat + 1, d.toNat] ++ if w64 then [d.toNat + 1] else []
/-- SLD (R131): a load once per warp, its faults taken by every active thread. -/
def execSld (c : Ctl) (w64 : Bool) (o : OrdSc) (d a : SReg) (s : State) : Host.Outcome State Fault Refusal :=
  warpOp c 1 s
    (fun g s k => match s.sWhy k (sldNames w64 d a) with
      | some w => .lock w
      | none =>
        if s.sEarly g k a.toNat then .done g.next
        else (((s.sldCk g w64 a k).fate g ((s.warp k).sPair a.toNat)).unless (s.warpTriple g (s.sldSend g w64 o d a none) k)).unless
          (s.warpAnswers k (g.lanesOf k) false))
    (fun g s k =>
      let lanes := g.lanesOf k
      let done := fun (s : State) (v : DWord) => (s.addPend { Pending.empty k with sregs := sldRegs d w64 v }, g.all k (.done g.next))
      if s.sEarly g k a.toNat then done s.free.2 (BitVec.ofNat 64 s.free.1)
      else
        let s := s.drainLanes k lanes
        match s.sldCk g w64 a k with
        | .ok x =>
          let s := s.fill k (lanes.headD 0) x.tr
          match s.sldSend g w64 o d a (some s.nextId) k with
          | some q => ((s.addPend { Pending.empty k with sregs := sldRegs d w64 0, remote := true }).sendAll [q], g.all k (.done g.next))
          | none => match s.loadBytes (k, lanes.headD 0) o (sldWidth w64) x with
            | (.val v, s) => done s v
            | (.fault f, s) => (s, g.all k (.fault f g.pc))
            | (_, s) => (s, g.all k (.done g.next))
        | r => (s, g.all k (r.fate g ((s.warp k).sPair a.toNat))))

-- LDSR (R207) ------------------------------------------------------------------------------------------------------------------------

/-- A line read (LDL, LDSR) and a line written (STL) (R196). -/
def lineLoadKind : AccKind := { kv := true }
def lineStoreKind : AccKind := { wr := true }
/-- LDSR's check for a warp. -/
def State.ldsrCk (s : State) (g : Grp) (a : SReg) (k : Nat) : Ck Acc :=
  s.warpAccess k ((g.lanesOf k).headD 0) 128 ((s.warp k).sPair a.toNat) lineLoadKind
/-- LDSR's request, where its line is in another package. -/
def State.ldsrSend (s : State) (g : Grp) (slot : Nat) (a : SReg) (pend : Option Nat) (k : Nat) : Option RSend :=
  match s.ldsrCk g a k with
  | .ok x => match x.t with
    | .remote va leaf => if (s.copyOf k (s.ctxOf k) va leaf).isSome then none
      else some (s.remoteSend k leaf (s.requestFor k va leaf 1 false) (lanesAwait k (g.lanesOf k) false pend (.shape slot) (s.overFor k x.t)))
    | _ => none
  | _ => none
/-- A line that a warp reads whole, in its own package or from a copy it holds (R190, R234). -/
def State.wholeLine (s : State) (k : Nat) (o : OrdSc) (x : Acc) : Except Nat (Line × State) := match x.t with
  | .mem pa mt => match s.readLine k o pa mt with
    | .error i => .error i
    | .ok (l, s) => .ok (s.seenLine k x.t l, s.observe k false pa 128 o)
  | .remote va leaf => .ok (s.seenLine k x.t ((s.copyOf k (s.ctxOf k) va leaf).getD default), s.useCopy k (s.ctxOf k) va leaf o)
  | .io _ => .ok (default, s)
/-- LDSR (R207). -/
def execLdsr (c : Ctl) (slot : BitVec 3) (a : SReg) (s : State) : Host.Outcome State Fault Refusal :=
  let addr := fun (s : State) (k : Nat) => (s.warp k).sPair a.toNat
  warpOp c 1 s
    (fun g s k => match s.sWhy k [a.toNat, a.toNat + 1] with
      | some w => .lock w
      | none => match s.pendShape k slot.toNat with
        | i :: is => .lock (.results (i :: is))
        | [] =>
          if s.sEarly g k a.toNat then .done g.next
          else (((s.ldsrCk g a k).fate g (addr s k)).unless (s.warpTriple g (s.ldsrSend g slot.toNat a none) k)).unless
            (s.warpAnswers k (g.lanesOf k) false))
    (fun g s k =>
      let lanes := g.lanesOf k
      let done := fun (s : State) (r : LineBits) => (s.addPend { Pending.empty k with shape := some (slot.toNat, r) }, g.all k (.done g.next))
      if s.sEarly g k a.toNat then done s.free.2 (BitVec.ofNat 1024 s.free.1)
      else
        let s := s.drainLanes k lanes
        match s.ldsrCk g a k with
        | .ok x =>
          let s := s.fill k (lanes.headD 0) x.tr
          match s.ldsrSend g slot.toNat a (some s.nextId) k with
          | some q => ((s.addPend { Pending.empty k with shape := some (slot.toNat, 0), remote := true }).sendAll [q], g.all k (.done g.next))
          | none => match s.wholeLine k .plain x with
            | .error i => (s, g.all k (.fault (pf 7 x.va i) g.pc))
            | .ok (l, s) => if shapeValid l.data then done s l.data else (s, g.all k (.fault (pf 5 x.va) g.pc))
        | r => (s, g.all k (r.fate g (addr s k))))

/-- Undefined lines, of a tag that is not reserved (R38). -/
def freeLines (v n : Nat) : List Line := (List.range n).map (fun j =>
  { data := BitVec.ofNat 1024 (fld v (1092 * j) 1024), tag := BitVec.ofNat 4 (fld v (1092 * j + 1024) 4 % 10)
    scales := BitVec.ofNat 64 (fld v (1092 * j + 1028) 64) })

-- LDL and STL (R205) -------------------------------------------------------------------------------------------------------------------

/-- The address pair's elements in the lowest live lane. -/
def State.lineAddrElems (s : State) (k : Nat) (lanes : List Nat) (a : VReg) : List Elem := s.fieldElems (k, lanes.headD 0) a.toNat true
/-- The address it holds. -/
def State.lineAddr (s : State) (k : Nat) (lanes : List Nat) (a : VReg) : DWord := s.pairAddr (k, lanes.headD 0) a
/-- The row of d. -/
def State.lineRow (s : State) (k : Nat) (lanes : List Nat) (d : VReg) : Nat := s.wholeRow k lanes d.toNat
/-- The check of the line's access. -/
def State.lineCk (s : State) (k : Nat) (lanes : List Nat) (a : VReg) (wr : Bool) : Ck Acc :=
  s.warpAccess k (lanes.headD 0) 128 (s.lineAddr k lanes a) (if wr then lineStoreKind else lineLoadKind)
/-- A line instruction's request, where the line is in another package and not buffered. -/
def State.lineSend (s : State) (k : Nat) (lanes : List Nat) (a d : VReg) (wr : Bool) (o : OrdSc) (pend : Option Nat) : Option RSend :=
  match s.lineCk k lanes a wr with
  | .ok x => match x.t with
    | .remote va leaf =>
      if wr then
        if s.repeatableOf k then none
        else some (s.remoteSend k leaf (s.lineRequest k va leaf ((s.warp k).rowLine (s.lineRow k lanes d)) (OrdScFabric o))
          (lanesAwait k lanes false none .nothing []))
      else if (s.copyOf k (s.ctxOf k) va leaf).isSome then none
      else some (s.remoteSend k leaf (s.requestFor k va leaf 1 false)
        (lanesAwait k lanes (o != .plain) pend (.line (s.lineRow k lanes d)) (s.overFor k x.t)))
    | _ => none
  | _ => none
/-- A release on behalf of every live thread awaits their accesses to other packages (R219, R225, R232). -/
def State.lineRelease (s : State) (k : Nat) (lanes : List Nat) (a : VReg) (o : OrdSc) : Option Why :=
  let m := match s.lineCk k lanes a true with
    | .ok x => MAcc.acc x 0
    | _ => .skip 0
  (lanes.filterMap (fun l => s.releaseWhy (k, l) o m)).head?
/-- What a line instruction meets (R205): the register range, what is pending, early reads, then its access. -/
def linePlan (d a : VReg) (wr : Bool) (o : OrdSc) (g : Grp) (s : State) (k : Nat) (lanes : List Nat) : Fate :=
  let row := s.lineRow k lanes d
  let ae := s.lineAddrElems k lanes a
  if !s.oneWb k lanes || !(s.warp k).holds row || !ae.all s.elemHeld then .fault (pf 2 0) g.pc
  else match s.rowsWhy k [row] with
    | some w => .lock w
    | none => match s.elemsWhy ae with
      | some w => .lock w
      | none =>
        if (s.warp k).sbchk && (ae.any (s.elemEarly g) || (wr && s.rowEarly g k row)) then .fault (pf 3 0) g.pc
        else if ae.any (s.elemEarly g) then .done g.next
        else ((((s.lineCk k lanes a wr).fate g (s.lineAddr k lanes a)).unless
          (s.warpTriple g (fun j => s.lineSend j (s.gatherLanes g j) a d wr o none) k)).unless (s.warpAnswers k lanes wr)).unless
            (if wr && !s.repeatableOf k then s.lineRelease k lanes a o else none)
/-- A row written whole, to land later (R43, R205). -/
def State.landRow (s : State) (k row : Nat) (l : Line) (remote : Bool) : State :=
  s.addPend { Pending.empty k with regs := rowKeys row ((List.range 32).map (lineWord l.data)), rowMeta := [(row, l.tag, l.scales)], remote }
/-- LDL (R205). -/
def execLdl (c : Ctl) (o : OrdSc) (_strm : Bool) (d a : VReg) (s : State) : Host.Outcome State Fault Refusal :=
  wholeOp c 1 s (linePlan d a false o) fun g s k lanes =>
    let row := s.lineRow k lanes d
    let ae := s.lineAddrElems k lanes a
    let els := ae ++ rowElems k [row]
    if ae.any (s.elemEarly g) then ((s.free.2.landRow k row ((freeLines s.free.1 1).headD default) false).settleRows g els, none)
    else
      let s := s.drainLanes k lanes
      match s.lineCk k lanes a false with
      | .ok x =>
        let s := s.fill k (lanes.headD 0) x.tr
        match s.lineSend k lanes a d false o (some s.nextId) with
        | some q => (((s.landRow k row default true).sendAll [q]).settleRows g els, none)
        | none => match s.wholeLine k o x with
          | .error i => (s.settleRows g els, some (pf 7 x.va i))
          | .ok (l, s) => ((s.landRow k row l false).settleRows g els, none)
      | _ => (s, none)
/-- STL, performed or buffered once its checks have passed (R186, R205). -/
def State.storeRow (s : State) (k : Nat) (lanes : List Nat) (o : OrdSc) (x : Acc) (l : Line) : State × Option PFault :=
  if s.repeatableOf k then
    if s.bufRoom k x.t then (s.buffer k (.line lanes l o) x.t x.va, none) else (s, some (pf 5 x.va))
  else match x.t with
    | .mem pa _ => ((s.storeLine (coreOf k) pa l).publish k false pa 128 o, none)
    | .remote va leaf => (s.sendAll [s.remoteSend k leaf (s.lineRequest k va leaf l (OrdScFabric o)) (lanesAwait k lanes false none .nothing [])], none)
    | .io _ => (s, none)
/-- A warp-whole store: a release acts for every live thread, whose reductions it carries first (R205, R219). -/
def wholeStore (c : Ctl) (o : OrdSc) (s : State) (plan : Grp → State → Nat → List Nat → Fate)
    (run : Grp → State → Nat → List Nat → State × Option PFault) : Host.Outcome State Fault Refusal :=
  issue c 1 s fun g s =>
    if o = .plain then wholeBody plan run g s
    else
      let s := g.actWarps.foldl (fun s k => s.drainLanes k (s.warp k).liveLanes) s
      let ds := s.deferred g
      let s := s.takeDeferred g
      let h := { g with acts := g.acts.filter (fun t => !ds.any (fun e => e.1 == t)) }
      if h.acts.isEmpty then (s, ds) else let (s, fs) := wholeBody plan run h s; (s, ds ++ fs)
/-- STL (R205): one through an address read early is not made (R84). -/
def execStl (c : Ctl) (o : OrdSc) (_strm : Bool) (d a : VReg) (s : State) : Host.Outcome State Fault Refusal :=
  wholeStore c o s (linePlan d a true o) fun g s k lanes =>
    let row := s.lineRow k lanes d
    let s := s.drainLanes k lanes
    let (ws, s) := s.readRow g k row
    let l : Line := { data := lineOfWords (ws.map BitVec.toNat), tag := (s.warp k).tags.get row, scales := (s.warp k).shadows.get row }
    let ae := s.lineAddrElems k lanes a
    let s := s.settleRows g (ae ++ rowElems k [row])
    if ae.any (s.elemEarly g) then (s, none)
    else match s.lineCk k lanes a true with
      | .ok x => (s.fill k (lanes.headD 0) x.tr).storeRow k lanes o x l
      | .fault f => (s, some f)
      | _ => (s, none)

end Sys2Proof.Machine
end

