-- ==== Sys2Proof/Machine/Agents.lean ====
section
/-! DEFINITION. Accesses of engines, of the matrix unit and of the other agents of the device to memory, line by line (R292, R300,
R328, R335, R450): an access is translated without a TLB, a light fault is served in place, a heavy fault waits; a line of another
package is asked for by a request, and the work waits for its answer (R407, R422, R466). -/
namespace Sys2Proof.Machine

/-- An agent on behalf of a kernel: the half-die it works at, the work it does, the context it translates through, and whose work
it is. -/
structure Agent where
  hd     : Nat
  key    : AgentKey
  ctx    : Nat
  kernel : Nat
  widx   : Nat
  wid    : Nat
  deriving DecidableEq, Repr

/-- An agent's line meets an entry that is not present: a notice and a watch (R335). -/
def State.agentHeavy (s : State) (g : Agent) (pte : Nat) (va : DWord) : State :=
  s.noteHeavy pte g.ctx (s.ctx g.ctx).part va g.kernel g.widx g.wid 0 0
/-- The record of a line an agent read, where the check failed at a merge: nothing is merged (R451, R455). [DEDUCED, log 36] -/
def State.reportMerge (s : State) (ctx info n : Nat) : State :=
  if info = 1 then s.report 3 2 (128 * n) ctx (homeHalf (128 * n) / 2) (some (s.ctx ctx).part) else s.reportLine ctx info n

/-- What stops an agent's access: a fault, or a wait. -/
inductive Halt where
  | fault (f : PFault)
  | wait
  deriving DecidableEq, Repr

/-- The place n of an agent's work. -/
def AgentKey.at (k : AgentKey) (n : Nat) : AgentKey := match k with
  | .work id _ => .work id n
  | k => k
/-- Answers kept for a work go, once it is over; those that still come are for nobody. -/
def State.dropWork (s : State) (id : Nat) : State :=
  { s with
    answers := s.answers.filter (fun a => match a.key with
      | .work i _ => i != id
      | _ => true)
    remotes := s.remotes.map (fun r => match r.want with
      | .agent (.work i _) => if i = id then { r with want := .nothing } else r
      | _ => r) }
/-- A request of an agent's work, as it is sent to another package (R414, R417, R421); no workgroup makes it. [DESIGN CHOICE, log 115] -/
def State.agentSend (s : State) (g : Agent) (n : Nat) (leaf : DWord) (q : Request) : RSend :=
  { wg := 2 ^ 64, commit := false, stamp := (s.part (s.ctx g.ctx).part).recess, ctx := g.ctx, passix := leafPassix leaf, ro := false
    req := { q with shd := BitVec.ofNat 3 g.hd, stream := 0 }
    wants := [⟨3072 * g.hd, 32, false, none, .agent (g.key.at n), []⟩] }
/-- What another package answers to place n of an agent's work: its answer where it has come; else the work waits, the request
being sent unless it is under way or its triple is full (R300, R407, R422). -/
def State.agentAsk (s : State) (g : Agent) (n : Nat) (leaf : DWord) (q : Request) : Except Halt (Option Line) × State :=
  match s.answers.find? (fun a => a.hd == g.hd && a.key == g.key.at n && a.va == q.va) with
  | some a => (match a.fault with
    | some f => .error (.fault f)
    | none => .ok a.line, s)
  | none =>
    let x := s.agentSend g n leaf q
    if s.remotes.any (fun r => r.hd == g.hd && r.want == .agent (g.key.at n) && r.req.va == q.va) || !(s.fullTriples [x]).isEmpty then
      (.error .wait, s)
    else (.error .wait, s.sendRequest x)
/-- A line as an agent on a half-die reads it at place n of its work (R39, R300, R450). [DESIGN CHOICE, log 115] -/
def State.agentRead (s : State) (g : Agent) (n : Nat) (va : DWord) : Except Halt Line × State :=
  match s.agentAccess g.ctx 128 va lineLoadKind with
  | (.ok ⟨_, .mem pa _, _⟩, s) => match s.lineFault (pa / 128) with
    | some i => (.error (.fault (pf 7 va i)), s.reportLine g.ctx i (pa / 128))
    | none => (.ok (s.line (pa / 128)), s)
  | (.ok ⟨_, .remote _ leaf, _⟩, s) => match s.agentAsk g n leaf (s.requestFor (3072 * g.hd) va leaf 1 false) with
    | (.error h, s) => (.error h, s)
    | (.ok l, s) =>
      let l := l.getD default
      if l.tag.toNat ≥ 10 then (.error (.fault (pf 7 va 3)), s) else (.ok l, s)
  | (.fault f, s) => (.error (.fault f), s)
  | (.heavy p, s) => (.error .wait, s.agentHeavy g p va)
  | (_, s) => (.error (.fault (pf 6 va)), s)
/-- Lines read one after another; the first that stops, stops them all. -/
def State.agentReads (s : State) (g : Agent) (n : Nat) : List DWord → Except Halt (List Line) × State
  | [] => (.ok [], s)
  | va :: r => match s.agentRead g n va with
    | (.error h, s) => (.error h, s)
    | (.ok l, s) => match s.agentReads g n r with
      | (.ok ls, s) => (.ok (l :: ls), s)
      | (.error h, s) => (.error h, s)

/-- Where an agent's line goes once its access is granted here (R300). -/
def State.agentPlace (s : State) (g : Agent) (va : DWord) : Except Halt Target × State :=
  match s.agentAccess g.ctx 128 va lineStoreKind with
  | (.ok x, s) => (.ok x.t, s)
  | (.fault f, s) => (.error (.fault f), s)
  | (.heavy p, s) => (.error .wait, s.agentHeavy g p va)
  | (_, s) => (.error (.fault (pf 6 va)), s)
/-- The places of several lines, each with what stops it. -/
def State.agentPlaces (s : State) (g : Agent) : List DWord → List (Except Halt Target) × State
  | [] => ([], s)
  | va :: r =>
    let (t, s) := s.agentPlace g va
    let (ts, s) := s.agentPlaces g r
    (t :: ts, s)
/-- A request of an agent's work to another package: its place in the work, the leaf, and the packet. -/
abbrev AgentReq := Nat × DWord × Request
/-- Requests that must be answered, one after another, before the work goes on: the first refused stops it (R300, R413). -/
def State.agentTell (s : State) (g : Agent) : List AgentReq → Except Halt Unit × State
  | [] => (.ok (), s)
  | x :: r => match s.agentAsk g x.1 x.2.1 x.2.2 with
    | (.error h, s) => (.error h, s)
    | (.ok _, s) => s.agentTell g r
/-- The request that writes a whole line, where its place is in another package (R411). -/
def State.agentLineReq (s : State) (g : Agent) (n : Nat) (t : Target) (l : Line) : Option AgentReq := match t with
  | .remote va leaf => some (n, leaf, s.lineRequest (3072 * g.hd) va leaf l false)
  | _ => none
/-- An agent writes a whole line in this package (R205, R300, R331). -/
def State.agentPut (s : State) (t : Target) (l : Line) : State := match t with
  | .mem pa _ => (s.putLine (pa / 128) l).loosen s pa (pa + 128)
  | _ => s
/-- Lines written to their places: those of other packages first, from place n of the work on, each answered; then, all at once,
those of this package (R205, R300). -/
def State.agentWrite (s : State) (g : Agent) (n : Nat) (xs : List (Target × Line)) : Except Halt Unit × State :=
  match s.agentTell g (xs.zipIdx.filterMap (fun x => s.agentLineReq g (n + x.2) x.1.1 x.1.2)) with
  | (.error h, s) => (.error h, s)
  | (.ok _, s) => (.ok (), xs.foldl (fun s x => s.agentPut x.1 x.2) s)
/-- The places that are granted. -/
def placesOf {α : Type} (ts : List (Except Halt α)) : List α := ts.filterMap (fun t => match t with
  | .ok x => some x
  | .error _ => none)
/-- Something stops with a wait. -/
def Halt.waits {α : Type} : Except Halt α → Bool
  | .error .wait => true
  | _ => false
/-- The first fault of several. -/
def firstFault {α : Type} : List (Except Halt α) → Option PFault
  | [] => none
  | .error (.fault f) :: _ => some f
  | _ :: r => firstFault r

end Sys2Proof.Machine
end

