-- ==== Sys2Proof/Machine/Tiles.lean ====
section
/-! DEFINITION. Tile registers (R264 to R270): shapes and MSHP, MLD and MST, MZERO; writes that no OPRDY has made ready
(R226); and the conflicts with matrix operations (R291). -/
namespace Sys2Proof.Machine

-- Shapes (R265, R267) --------------------------------------------------------------------------------------------------------------

def shRows (x : Word) : Nat := bf x 0 8 + 1
def shWidth (x : Word) : Nat := bf x 8 2 + 1
def shTag (x : Word) : Nat := bf x 12 4
/-- Line slots of a shape. -/
def shLines (x : Word) : Nat := shRows x * shWidth x
/-- The tile is one the workgroup holds (R264). -/
def State.tileHeld (s : State) (slot n : Nat) : Bool := (s.wgOf slot).held.getLsbD n
def State.tileShape (s : State) (slot n : Nat) : Word := (s.wgOf slot).mshp.get n
/-- A tile of undefined contents. -/
def freeTile (v : Nat) : Tile := (List.range 256).map (fun j =>
  (j, { data := BitVec.ofNat 1024 (fld v (1088 * j) 1024), slots := BitVec.ofNat 64 (fld v (1088 * j + 1024) 64) }))
/-- A line as a tile holds it: no tag (R264). -/
def tileLineOf (l : Line) : TileLine := ⟨l.data, l.scales⟩

/-- Tiles a joint operation reads, and the tile it writes (R281 to R286). -/
def MIns.reads : MIns → List Nat
  | .mldw t => [t]
  | .mma _ t => [t]
  | .mmv _ _ t => [t]
  | .mdual _ _ x y => [x, y]
  | _ => []
def MIns.writes : MIns → List Nat
  | .drnT _ t _ => [t]
  | _ => []
/-- Tiles that issues name (R277). -/
def capReads (cs : List Capture) : List Nat := cs.flatMap (fun c => c.ins.reads)
def capWrites (cs : List Capture) : List Nat := cs.flatMap (fun c => c.ins.writes)
/-- The two contexts' operations of a workgroup not finished (R276). -/
def State.opsOf (s : State) (wg : Nat) : List MatOp :=
  ((List.range 2).flatMap (fun m => (s.matrix (s.wgs.get wg).core m).ops)).filter (·.wg == wg)
/-- Rosters of a workgroup with an operation gathering (R276). -/
def State.gathering (s : State) (wg : Nat) : List (Nat × Roster) := List.filter (fun e => !e.2.gath.isEmpty) (s.wgs.get wg).rosters
/-- An operation started or gathering names a tile, or a write into it is pending (R266). -/
def State.tileBusy (s : State) (wg n : Nat) : Bool :=
  let names := fun (cs : List Capture) => (capReads cs ++ capWrites cs).contains n
  (s.opsOf wg).any (fun o => names o.caps) || (s.gathering wg).any (fun e => names e.2.gath) || !(s.pendTile wg n).isEmpty

/-- An access of a tile by a thread, or with `op` by an operation of the other context, meets an operation it conflicts with
(R291). -/
def conflicts (n : Nat) (wr op : Bool) (cs : List Capture) : Bool := ((wr || op) && (capReads cs).contains n) || (capWrites cs).contains n
/-- The contents of a tile become undefined, those still to land too. [DEDUCED, log 42] -/
def State.spoilTile (s : State) (wg n : Nat) : State :=
  let (v, s) := s.free
  let s := s.modWg wg (fun g => { g with tiles := g.tiles.put n (freeTile v) })
  { s with pend := s.pend.map (fun p =>
      if (s.warp p.slot).wg == wg && p.tile.any (fun e => e.1 == n) then { p with tile := some (n, freeTile v) } else p) }
/-- Every operation that an access of a tile conflicts with is marked, but for those of context `me`; the tile's contents
become undefined if there is one. Answers whether there is. -/
def State.conflict (s : State) (wg n : Nat) (wr : Bool) (me : Option Nat) : Bool × State :=
  let core := (s.wgs.get wg).core
  let meets := conflicts n wr me.isSome
  let hit := (List.range 2).any (fun m => some m != me && (s.matrix core m).ops.any (fun o => o.wg == wg && meets o.caps))
    || (s.gathering wg).any (fun e => e.2.bound != me && meets e.2.gath)
  if !hit then (false, s)
  else
    let s := (List.range 2).foldl (fun s m => if some m == me then s else s.modMatrix core m (fun x =>
      { x with ops := x.ops.map (fun o => if o.wg == wg && meets o.caps then { o with tainted := true } else o) })) s
    let s := s.modWg wg (fun g => { g with rosters := g.rosters.map (fun _ r =>
      if r.bound != me && meets r.gath then { r with tainted := true } else r) })
    (true, s.spoilTile wg n)

-- Landing ----------------------------------------------------------------------------------------------------------------------------

/-- A tile's new contents land, those of pending result `id`; what it held before stays a possible reading until an OPRDY (R226). A
write that lands after an operation on the tile has been issued conflicts with it (R291, R431). -/
def State.landTile (s : State) (wg n id : Nat) (t : Tile) : State :=
  let (hit, s) := s.conflict wg n true none
  let (t, s) := if hit then (freeTile s.free.1, s.free.2) else (t, s)
  s.modWg wg (fun g => { g with
    tiles := g.tiles.put n t
    unready := g.unready.map (fun u => if u.pend == some id then { u with pend := none, old := g.tiles.get n } else u) })
/-- The values a line of a tile may still be read with, behind the value `v` it holds: what each write gone before replaced,
newest first, back to one that an issue on the roster is sure to see (R226). -/
def olderLines (r j : Nat) (v : TileLine) : List Unready → List TileLine
  | [] => []
  | u :: rest =>
    let was := u.old.get j
    if was = v then olderLines r j v rest else if u.sure.contains r then [] else was :: olderLines r j was rest
/-- The values a line of a tile operand of roster r may be read with: what it holds, what writes not sure to be seen
replaced, and what writes under way will leave (R226). -/
def State.lineChoices (s : State) (wg r n j : Nat) : List TileLine :=
  let g := s.wgs.get wg
  let landed := (g.unready.filter (fun u => u.tile == n && u.pend.isNone)).reverse
  let coming := s.pend.filterMap (fun p => match p.tile with
    | some (m, t) => if m == n && (s.warp p.slot).wg == wg then some (t.get j) else none
    | none => none)
  ((g.tiles.get n).get j :: olderLines r j ((g.tiles.get n).get j) landed) ++ coming
/-- A tile as an operation of roster r reads it: a line that a write not made ready has reached, or may still reach, holds its
old or its new value (R226). [DEDUCED, log 46] -/
def State.operandTile (s : State) (wg r n : Nat) : Tile × State :=
  let g := s.wgs.get wg
  if !g.unready.any (fun u => u.tile == n) && (s.pendTile wg n).isEmpty then (g.tiles.get n, s)
  else
    let (v, s) := s.free
    ((List.range 256).map (fun j =>
      let c := s.lineChoices wg r n j
      (j, c.getD (fld v (64 * j) 64 % c.length) default)), s)

-- MSHP and MZERO ------------------------------------------------------------------------------------------------------------------------

/-- A legal shape, for one whose value is undefined (R5, R265). -/
def freeShape (v : Nat) : Word :=
  let w := v % 4
  BitVec.ofNat 32 (v / 4 % (256 / (w + 1)) + 2 ^ 8 * w + 2 ^ 12 * (v / 1024 % 10))
/-- A shape MSHP accepts, or the fault it takes (R266). -/
def shapeFault (x : Word) : Option PFault :=
  if 10 ≤ shTag x then some (pf 7 0 3) else if bf x 16 16 ≠ 0 ∨ bf x 10 2 ≠ 0 ∨ 256 < shLines x then some (pf 5 0) else none
/-- MSHP (R266): a value read early leaves an undefined shape and faults nowhere (R5, R6). -/
def execMshp (c : Ctl) (d : SReg) (n : MReg) (s : State) : Host.Outcome State Fault Refusal :=
  warpOp c 1 s
    (fun g s k => match s.sWhy k [d.toNat] with
      | some w => .lock w
      | none =>
        if !s.tileHeld k n.toNat then .fault (pf 2 0) g.pc
        else match (if s.sEarly1 g k d.toNat then none else shapeFault ((s.warp k).s d.toNat)) with
          | some f => .fault f g.pc
          | none => if s.tileBusy (s.warp k).wg n.toNat then .lock (.tile n.toNat true) else .done g.next)
    (fun g s k =>
      let (x, s) := if s.sEarly1 g k d.toNat then (freeShape s.free.1, s.free.2) else ((s.warp k).s d.toNat, s)
      (s.modWg (s.warp k).wg (fun w => { w with mshp := w.mshp.put n.toNat x }), g.all k (.done g.next)))
/-- A tile's new contents are to land, and are not ready for a joint issue before an OPRDY (R226, R269, R270). -/
def State.pendTileWrite (s : State) (k n : Nat) (t : Tile) (remote : Bool) (sregs : List (Nat × Word) := []) : State :=
  let (hit, s) := s.conflict (s.warp k).wg n true none
  let (t, s) := if hit then (freeTile s.free.1, s.free.2) else (t, s)
  let u : Unready := { tile := n, old := (s.wgOf k).tiles.get n, pend := some s.nextId, seen := [(s.warp k).wid], ready := [], sure := [], flags := [], fenced := false }
  (s.modWg (s.warp k).wg (fun g => { g with unready := g.unready ++ [u] })).addPend { Pending.empty k with tile := some (n, t), sregs, remote }
/-- MZERO (R270). -/
def execMzero (c : Ctl) (n : MReg) (s : State) : Host.Outcome State Fault Refusal :=
  wholeOp c 1 s
    (fun g s k _ =>
      if !s.tileHeld k n.toNat then .fault (pf 2 0) g.pc
      else if !(s.pendTile (s.warp k).wg n.toNat).isEmpty then .lock (.tile n.toNat false)
      else .done g.next)
    (fun _ s k _ => (s.pendTileWrite k n.toNat [] false, none))

-- MLD and MST (R268, R269) ----------------------------------------------------------------------------------------------------------------

/-- The registers a tile access reads in the lowest live lane: the base, its high half and the stride. -/
def State.tileElems (s : State) (k : Nat) (lanes : List Nat) (a : VReg) (spad : Bool) : List Elem :=
  let u := (k, lanes.headD 0)
  s.fieldElems u a.toNat false ++ (if spad then [] else s.fieldElems u (a.toNat + 1) false) ++ s.fieldElems u (a.toNat + 2) false
/-- Base and stride from those registers. -/
def baseStride (ws : List Word) (spad : Bool) : DWord × Nat :=
  if spad then ((ws.getD 0 0).setWidth 64, (ws.getD 1 0).toNat) else (ws.getD 1 0 ++ ws.getD 0 0, (ws.getD 2 0).toNat)
/-- Base and stride as they stand. -/
def State.tileBase (s : State) (k : Nat) (lanes : List Nat) (a : VReg) (spad : Bool) : DWord × Nat :=
  baseStride ((s.tileElems k lanes a spad).map (fun e => (s.warp e.1).elem e.2.1 e.2.2)) spad
/-- The address of each line of a shape, slot by slot (R269). -/
def lineAddrs (shape : Word) (b : DWord) (st : Nat) : List DWord :=
  (List.range (shLines shape)).map (fun j => b + BitVec.ofNat 64 (j / shWidth shape * st + 128 * (j % shWidth shape)))
/-- The checks of all lines: a fault of any comes first, then an entry not present, then a light fault (R195, R269). -/
def allOk : List (DWord × Ck Acc) → Except (DWord × Ck Acc) (List Acc)
  | [] => .ok []
  | (va, x) :: r => match x, allOk r with
    | .ok a, .ok as => .ok (a :: as)
    | .ok _, .error e => .error e
    | .fault f, _ => .error (va, .fault f)
    | x, .ok _ => .error (va, x)
    | _, .error (v, .fault f) => .error (v, .fault f)
    | .light _, .error (v, .heavy q) => .error (v, .heavy q)
    | x, .error _ => .error (va, x)
/-- The lines of a tile access in global memory. -/
def State.tileAccs (s : State) (k : Nat) (lanes : List Nat) (n : Nat) (b : DWord) (st : Nat) (wr : Bool) :
    Except (DWord × Ck Acc) (List Acc) :=
  allOk ((lineAddrs (s.tileShape k n) b st).map (fun va =>
    (va, s.warpAccess k (lanes.headD 0) 128 va (if wr then lineStoreKind else lineLoadKind))))
/-- What a tile access meets at its base, stride and lines (R269). -/
def State.tileFate (s : State) (g : Grp) (k : Nat) (lanes : List Nat) (n : Nat) (b : DWord) (st : Nat) (spad wr : Bool) : Fate :=
  if b.toNat % 128 ≠ 0 ∨ st % 128 ≠ 0 then .fault (pf 4 b) g.pc
  else if spad then
    match (List.range (shLines (s.tileShape k n))).find? (fun j =>
        let w := shWidth (s.tileShape k n)
        decide ((s.wgOf k).scr < b.toNat + j / w * st + 128 * (j % w) + 128)) with
    | some j => .fault (pf 5 (b + BitVec.ofNat 64 (j / shWidth (s.tileShape k n) * st + 128 * (j % shWidth (s.tileShape k n))))) g.pc
    | none => .done g.next
  else match s.tileAccs k lanes n b st wr with
    | .ok _ => .done g.next
    | .error (va, x) => x.fate g va
/-- Requests for the lines of a tile in other packages: reads into a pending result, or writes. -/
def State.tileSends (s : State) (k : Nat) (lanes : List Nat) (n : Nat) (o : OrdSc) (pend : Option Nat) (wr : Bool) (xs : List Acc) :
    List RSend :=
  if wr && s.repeatableOf k then []
  else (xs.zipIdx.filterMap (fun x => match x.1.t with
    | .remote va leaf =>
      if wr then
        let l := ((s.wgOf k).tiles.get n).get x.2
        some (s.remoteSend k leaf (s.lineRequest k va leaf
          { data := l.data, tag := BitVec.ofNat 4 (shTag (s.tileShape k n)), scales := l.slots } (OrdScFabric o)) (lanesAwait k lanes false none .nothing []))
      else if (s.copyOf k (s.ctxOf k) va leaf).isSome then none
      else some (s.remoteSend k leaf (s.requestFor k va leaf 1 false)
        (lanesAwait k lanes (o != .plain) pend (.tile n x.2) (s.overFor k x.1.t)))
    | _ => none)).foldl addSend []
/-- The peer all lines of a store go to, if there is one: earlier packets to it need no answer before a release that carries
the ordered flag (R232). -/
def onePeer (xs : List Acc) : MAcc := match xs with
  | [] => .skip 0
  | x :: r => match x.t with
    | .remote _ leaf => if r.all (fun y => match y.t with
        | .remote _ l => leafPeer l == leafPeer leaf
        | _ => false) then .acc x 0 else .skip 0
    | _ => .skip 0
/-- What MLD or MST meets (R117, R269). -/
def tilePlan (spad wr : Bool) (o : OrdSc) (t : MReg) (a : VReg) (g : Grp) (s : State) (k : Nat) (lanes : List Nat) : Fate :=
  let n := t.toNat
  let u := (k, lanes.headD 0)
  let es := s.tileElems k lanes a spad
  let all := (List.range 3).flatMap (fun i => s.fieldElems u (a.toNat + i) false)
  if !s.oneWb k lanes || !all.all s.elemHeld || !s.tileHeld k n then .fault (pf 2 0) g.pc
  else match s.elemsWhy es with
    | some w => .lock w
    | none =>
      if !(s.pendTile (s.warp k).wg n).isEmpty then .lock (.tile n false)
      else if es.any (s.elemTraps g) then .fault (pf 3 0) g.pc
      else if es.any (s.elemEarly g) then .done g.next
      else
        let (b, st) := s.tileBase k lanes a spad
        let why := if spad then none else match s.tileAccs k lanes n b st wr with
          | .error _ => none
          | .ok xs => match s.fullTriples (s.tileSends k lanes n o none wr xs) with
            | f :: _ => some f.2
            | [] => if wr && !s.repeatableOf k then (lanes.filterMap (fun l => s.releaseWhy (k, l) o (onePeer xs))).head? else none
        ((s.tileFate g k lanes n b st spad wr).unless why).unless (s.warpAnswers k lanes wr)
/-- The translations of a tile access are held from now on (R193). -/
def State.fillAll (s : State) (k : Nat) (lanes : List Nat) (xs : List Acc) : State :=
  xs.foldl (fun s x => s.fill k (lanes.headD 0) x.tr) s
/-- The lines of MLD in this package, verified; lines elsewhere are left for their answers (R198, R269). -/
def State.tileRead (s : State) (k : Nat) (o : OrdSc) (tag : Nat) : List Acc → Except PFault (List TileLine) × State
  | [] => (.ok [], s)
  | x :: r =>
    let put := fun (l : TileLine) (s : State) => match s.tileRead k o tag r with
      | (.ok ls, s) => (.ok (l :: ls), s)
      | e => e
    let elsewhere := match x.t with
      | .remote va leaf => (s.copyOf k (s.ctxOf k) va leaf).isNone
      | _ => false
    if elsewhere then put default s
    else match s.wholeLine k o x with
      | .error i => (.error (pf 7 x.va i), s)
      | .ok (l, s) => if tag ≠ 0 ∧ l.tag.toNat ≠ tag then (.error (pf 7 x.va 4), s) else put (tileLineOf l) s
/-- MLD (R269). -/
def execMld (c : Ctl) (spad : Bool) (o : OrdSc) (_strm : Bool) (t : MReg) (a : VReg) (s : State) : Host.Outcome State Fault Refusal :=
  wholeOp c 1 s (tilePlan spad false o t a) fun g s k lanes =>
    let n := t.toNat
    let sh := s.tileShape k n
    let s := s.settleRows g (s.tileElems k lanes a spad)
    if (s.tileElems k lanes a spad).any (s.elemEarly g) then (s.free.2.pendTileWrite k n (freeTile s.free.1) false, none)
    else
      let (b, st) := s.tileBase k lanes a spad
      if spad then
        let at0 := fun j => b.toNat + j / shWidth sh * st + 128 * (j % shWidth sh)
        let ls := (List.range (shLines sh)).map (fun j =>
          (j, { data := BitVec.ofNat 1024 ((s.wgOf k).spad.read (at0 j) 128), slots := 0x7F7F7F7F7F7F7F7F : TileLine }))
        let s := (List.range (shLines sh)).foldl (fun s j => s.observe k true (at0 j) 128 o) s
        (s.pendTileWrite k n (ls.foldl (fun t e => Table.put t e.1 e.2) ((s.wgOf k).tiles.get n)) false, none)
      else match s.tileAccs k lanes n b st false with
        | .error _ => (s, none)
        | .ok xs =>
          let s := (s.drainLanes k lanes).fillAll k lanes xs
          match s.tileRead k o (shTag sh) xs with
          | (.error f, s) => (s, some f)
          | (.ok ls, s) =>
            let new := ls.zipIdx.foldl (fun t e => Table.put t e.2 e.1) ((s.wgOf k).tiles.get n)
            let qs := s.tileSends k lanes n o (some s.nextId) false xs
            ((s.pendTileWrite k n new (!qs.isEmpty)).sendAll qs, none)
/-- The lines of MST in the warp's store buffer (R186, R269): all of them, or none where there is no room. -/
def State.bufferTile (s : State) (k : Nat) (lanes : List Nat) (o : OrdSc) : List (Acc × Line) → Option State
  | [] => some s
  | (x, l) :: r => if s.bufRoom k x.t then (s.buffer k (.line lanes l o) x.t x.va).bufferTile k lanes o r else none
/-- MST (R269): one through a base or stride read early is not made (R84). -/
def execMst (c : Ctl) (spad : Bool) (o : OrdSc) (_strm : Bool) (t : MReg) (a : VReg) (s : State) : Host.Outcome State Fault Refusal :=
  wholeStore c o s (tilePlan spad true o t a) fun g s k lanes =>
    let n := t.toNat
    let s := (s.conflict (s.warp k).wg n false none).2
    let sh := s.tileShape k n
    let tile := (s.wgOf k).tiles.get n
    let es := s.tileElems k lanes a spad
    let s := s.settleRows g es
    let (b, st) := s.tileBase k lanes a spad
    if es.any (s.elemEarly g) then (s, none)
    else match s.tileFate g k lanes n b st spad true with
    | .done _ =>
      if spad then
        let at0 := fun j => b.toNat + j / shWidth sh * st + 128 * (j % shWidth sh)
        let s := s.modWg (s.warp k).wg (fun w => { w with
          spad := (List.range (shLines sh)).foldl (fun m j => m.write (at0 j) 128 (tile.get j).data.toNat) w.spad })
        ((List.range (shLines sh)).foldl (fun s j => s.publish k true (at0 j) 128 o) s, none)
      else match s.tileAccs k lanes n b st true with
        | .error _ => (s, none)
        | .ok xs =>
          let s := (s.drainLanes k lanes).fillAll k lanes xs
          let ls := xs.zipIdx.map (fun x => (x.1, ({ data := (tile.get x.2).data, tag := BitVec.ofNat 4 (shTag sh), scales := (tile.get x.2).slots } : Line)))
          if s.repeatableOf k then match s.bufferTile k lanes o ls with
            | some s => (s, none)
            | none => (s, some (pf 5 ((xs.headD ⟨0, .io 0, default⟩).va)))
          else
            let qs := s.tileSends k lanes n o none true xs
            let s := ls.foldl (fun s x => match x.1.t with
              | .mem pa _ => (s.storeLine (coreOf k) pa x.2).publish k false pa 128 o
              | _ => s) s
            (s.sendAll qs, none)
    | .fault f _ => (s, some f)
    | _ => (s, none)

end Sys2Proof.Machine
end

