-- ==== Sys2Proof/Machine/Matrix.lean ====
section
/-! DEFINITION. What matrix operations compute (R281 to R289): blocks of tile rows, weights, products, the backward step and
drains, as functions of the context's bank, weight gradients and latch. -/
namespace Sys2Proof.Machine

-- Blocks (R38, R267) ----------------------------------------------------------------------------------------------------------------

/-- The rate of an operand format (R267). -/
def rateOf (t : Nat) : Nat := if t = 5 then 4 else if t = 7 then 1 else 2
/-- A tag accepted as a matrix operand (R267). -/
def matTag (t : Nat) : Bool := 1 ≤ t && t ≤ 7
/-- Block j of a line of a tag. -/
def blkOf (t : Nat) (d : LineBits) (slots : DWord) (j : Nat) : Blk :=
  let w := (tagFmt t).width
  { scale := blockScale t slots j, bits := bf d (32 * w * j) (32 * w) }
/-- The blocks of a line in order. -/
def lineBlks (t : Nat) (d : LineBits) (slots : DWord) : List Blk := (List.range (tagBlocks t)).map (blkOf t d slots)
/-- Elements without their scale. -/
def Blk.elems (b : Blk) (t : Nat) : List Num :=
  let w := (tagFmt t).width
  (List.range 32).map (fun i => (tagFmt t).decode (fld b.bits (w * i) w))
/-- Elements decoded under their scale (R35). -/
def Blk.vals (b : Blk) (t : Nat) : List Num :=
  (b.elems t).map (fun x => if b.scale = 0xFF then .nan else x.scale ((b.scale : Int) - 127))
/-- A NaN or infinite element, or a 0xFF scale (R292). -/
def Blk.odd (b : Blk) (t : Nat) : Bool := b.scale == 0xFF || (b.elems t).any Num.nonfin
/-- The block sequence of some line slots of a tile (R267). -/
def slotBlks (t : Nat) (x : Tile) (from0 n : Nat) : List Blk :=
  (List.range n).flatMap (fun i => lineBlks t (x.get (from0 + i)).data (x.get (from0 + i)).slots)
/-- The block sequence of row r of a tile (R267). -/
def rowBlks (shape : Word) (x : Tile) (r : Nat) : List Blk := slotBlks (shTag shape) x (r * shWidth shape) (shWidth shape)

-- Results ----------------------------------------------------------------------------------------------------------------------------

/-- What an operation leaves. -/
structure MRes where
  bank  : Table Word
  dw    : Table Word
  latch : Option Latch
  /-- Lines of its destination tile, from slot 0 on. -/
  tile  : List Line := []
  /-- Lines of each warp's destination rows. -/
  rows  : List (Nat × List Line) := []
  /-- Lines of memory from BASE on. -/
  lines : List Line := []
  /-- NF is to be set (R292). -/
  nf    : Bool
  /-- A drain under MODE 4 took its draws (R288). -/
  drew  : Bool := false
  deriving DecidableEq, Repr

/-- A failure of a code (R278). [DEDUCED, log 45] -/
def mfail {α : Type} (code : Nat) : Except FailRec α := .error ⟨0, code, 0, 0⟩
/-- The check holds, or the operation fails with a code. -/
def mcheck (c : Bool) (code : Nat) : Except FailRec Unit := if c then .ok () else mfail code

/-- A bank entry after its terms in order (R52). -/
def chain (z : Bool) (b : Table Word) (i : Nat) (ts : List Num) : Word := ts.foldl accumulate (if z then 0 else b.get i)
/-- Entries of a bank with their terms: the bank after them, and whether a NaN or an infinity was produced. -/
def chains (z : Bool) (b : Table Word) (es : List (Nat × List Num)) : Table Word × Bool :=
  let vs := es.map (fun e => (e.1, chain z b e.1 e.2))
  (vs.foldl (fun b v => b.set v.1 v.2) b, vs.any (fun v => wordNF v.2))
/-- The exact sums of two block sequences, pair by pair (R52). -/
def blockSums (ta : Nat) (a : List Blk) (tb : Nat) (b : List Blk) : List Num :=
  List.zipWith (fun x y => blockdot (x.elems ta) x.scale (y.elems tb) y.scale) a b

/-- MLDW (R281). -/
def mldwRes (m : MCtx) (shape : Word) (x : Tile) : Except FailRec MRes := do
  let t := shTag shape
  mcheck (matTag t) 2
  mcheck (decide (shRows shape ≤ 128)) 1
  let kb := min (tagBlocks t * shWidth shape) (4 * rateOf t)
  let cols := (List.range (shRows shape)).map (fun n => (rowBlks shape x n).take kb)
  pure { bank := m.bank, dw := [], latch := some ⟨t, kb, cols⟩, nf := cols.any (fun c => c.any (·.odd t)) }
/-- MMA (R283). -/
def mmaRes (m : MCtx) (z : Bool) (shape : Word) (x : Tile) : Except FailRec MRes := match m.latch with
  | none => mfail 4
  | some l => do
    let t := shTag shape
    mcheck (matTag t) 2
    mcheck (decide (l.kb ≤ tagBlocks t * shWidth shape)) 1
    let rows := (List.range (shRows shape)).map (fun r => (rowBlks shape x r).take l.kb)
    let (bank, nf) := chains z m.bank (rows.zipIdx.flatMap (fun a => l.cols.zipIdx.map (fun w =>
      (a.2 * 128 + w.2, blockSums t a.1 l.fmt w.1))))
    pure { bank, dw := m.dw, latch := m.latch
           nf := nf || rows.any (fun r => r.any (·.odd t)) || l.cols.any (fun c => c.any (·.odd l.fmt)) }

-- MMV (R282, R284)
def mmvZ (vs : List Word) : Bool := (vs.getD 2 0).getLsbD 31
def mmvFmt (vs : List Word) : Nat := bf (vs.getD 2 0) 16 4
def mmvN (vs : List Word) : Nat := bf (vs.getD 2 0) 0 13
def mmvBase (vs : List Word) : DWord := vs.getD 1 0 ++ vs.getD 0 0
def mmvStride (vs : List Word) : Nat := (vs.getD 3 0).toNat
/-- Line slots of each of the V vectors. -/
def mmvLv (shape : Word) (v : Nat) : Nat := shLines shape / v
/-- The limits of MMV. -/
def mmvLimits (vs : List Word) (v : Nat) (shape : Word) : Except FailRec Unit := do
  let t := shTag shape
  let kb := mmvLv shape v * tagBlocks t
  mcheck (matTag t && matTag (mmvFmt vs)) 2
  mcheck (decide (1 ≤ mmvLv shape v) && decide (1 ≤ mmvN vs) && decide (mmvN vs ≤ 4096) && bf (vs.getD 2 0) 20 11 == 0
    && bf (vs.getD 2 0) 13 3 == 0 && decide ((mmvBase vs).toNat % 128 = 0) && decide (mmvStride vs % 128 = 0)
    && decide (kb ≤ 64 * min (rateOf t) (rateOf (mmvFmt vs)))) 1
/-- The lines of one weight row. -/
def mmvRowLines (vs : List Word) (v : Nat) (shape : Word) : Nat := ceilDiv (mmvLv shape v * tagBlocks (shTag shape)) (tagBlocks (mmvFmt vs))
/-- The addresses of the weight lines, row by row. -/
def mmvAddrs (vs : List Word) (v : Nat) (shape : Word) : List DWord :=
  (List.range (mmvN vs)).flatMap (fun n => (List.range (mmvRowLines vs v shape)).map (fun c =>
    mmvBase vs + BitVec.ofNat 64 (n * mmvStride vs + 128 * c)))
/-- MMV once its weight lines are read (R284). -/
def mmvRes (m : MCtx) (vs : List Word) (v : Nat) (shape : Word) (x : Tile) (ls : List Line) : Except FailRec MRes := do
  let t := shTag shape
  let wf := mmvFmt vs
  let lv := mmvLv shape v
  let kb := lv * tagBlocks t
  let nl := mmvRowLines vs v shape
  mcheck (ls.all (fun l => decide (l.tag.toNat = wf))) 2
  let vecs := (List.range v).map (fun j => slotBlks t x (j * lv) lv)
  let rows := (List.range (mmvN vs)).map (fun n =>
    (((ls.drop (n * nl)).take nl).flatMap (fun l => lineBlks wf l.data l.scales)).take kb)
  let (bank, nf) := chains (mmvZ vs) m.bank (vecs.zipIdx.flatMap (fun a => rows.zipIdx.map (fun w =>
    (a.2 * 4096 + w.2, blockSums t a.1 wf w.1))))
  pure { bank, dw := m.dw, latch := none, nf := nf || vecs.any (fun r => r.any (·.odd t)) || rows.any (fun r => r.any (·.odd wf)) }

/-- Groups of up to 32 of a list. -/
def groups32 {α : Type} (l : List α) : List (List α) := (List.range (ceilDiv l.length 32)).map (fun g => (l.drop (32 * g)).take 32)
/-- The exact sums of groups of 32 products (R285). -/
def groupSums (a b : List Num) : List Num := List.zipWith dotSum (groups32 a) (groups32 b)
/-- MDUAL (R285). [DEDUCED, log 110] -/
def mdualRes (m : MCtx) (zx zw : Bool) (sx : Word) (x : Tile) (sy : Word) (y : Tile) : Except FailRec MRes := match m.latch with
  | none => mfail 4
  | some l => do
    let ok := fun (t : Nat) => t == 1 || t == 2 || t == 7
    mcheck (ok l.fmt && ok (shTag sx) && ok (shTag sy)) 2
    let n := l.cols.length
    let rows := shRows sx
    let kd := 32 * l.kb
    mcheck (decide (shRows sy = rows) && decide (l.kb ≤ tagBlocks (shTag sx) * shWidth sx)
      && decide (ceilDiv n 32 ≤ tagBlocks (shTag sy) * shWidth sy) && decide (rows * kd ≤ 32768)) 1
    let xb := (List.range rows).map (fun r => (rowBlks sx x r).take l.kb)
    let yb := (List.range rows).map (fun r => (rowBlks sy y r).take (ceilDiv n 32))
    let xs := xb.map (fun r => r.flatMap (·.vals (shTag sx)))
    let ys := yb.map (fun r => (r.flatMap (·.vals (shTag sy))).take n)
    let ws := l.cols.map (fun c => c.flatMap (·.vals l.fmt))
    let (bank, nx) := chains zx m.bank (ys.zipIdx.flatMap (fun yr => (List.range kd).map (fun k =>
      (yr.2 * kd + k, groupSums yr.1 (ws.map (·.getD k (.fin false 0 0)))))))
    let (dw, nw) := chains zw m.dw ((List.range n).flatMap (fun j => (List.range kd).map (fun k =>
      (j * kd + k, groupSums (ys.map (·.getD j (.fin false 0 0))) (xs.map (·.getD k (.fin false 0 0)))))))
    pure { bank, dw, latch := m.latch
           nf := nx || nw || xb.any (·.any (·.odd (shTag sx))) || ys.any (·.any Num.nonfin) || l.cols.any (·.any (·.odd l.fmt)) }

-- Drains (R286 to R289) --------------------------------------------------------------------------------------------------------------

-- Fields of the descriptor, from the captured s(8o) to s(8o + 6) (R287)
def drnFmt (vs : List Word) : Nat := bf (vs.getD 0 0) 0 4
def drnSel (vs : List Word) : Sel := if (vs.getD 0 0).getLsbD 5 then .fit else .floor
def drnMode (vs : List Word) : Nat := bf (vs.getD 0 0) 6 3
def drnSat (vs : List Word) : Bool := (vs.getD 0 0).getLsbD 9
def drnClip (vs : List Word) : Bool := (vs.getD 0 0).getLsbD 10
def drnMkind (vs : List Word) : Bool := (vs.getD 0 0).getLsbD 11
def drnZero (vs : List Word) : Bool := (vs.getD 0 0).getLsbD 12
def drnNrow (vs : List Word) : Nat := bf (vs.getD 4 0) 0 9
def drnRow0 (vs : List Word) : Nat := bf (vs.getD 4 0) 16 8
def drnBase (vs : List Word) : DWord := vs.getD 6 0 ++ vs.getD 5 0
/-- The multiplier. -/
def drnMul (vs : List Word) : Num := if drnMkind vs then f32 (vs.getD 1 0) else .fin false 1 (sx 8 (bf (vs.getD 0 0) 16 8))
/-- Lines that NROW source rows fill in a format (R288). -/
def drnLines (fmt nrow : Nat) : Nat := if fmt = 0 ∨ 9 < fmt then 0 else ceilDiv (4 * nrow) (tagBlocks fmt)
/-- The descriptor is within its limits, for `sets` drain sets (R286 to R288). -/
def drnValid (vs : List Word) (sets : Nat) : Bool :=
  let w0 := vs.getD 0 0
  let w4 := vs.getD 4 0
  bf w0 24 8 == 0 && bf w0 13 3 == 0 && bf w0 4 1 == 0 && bf w4 24 8 == 0 && bf w4 9 7 == 0 && drnMode vs ≤ 4
    && 1 ≤ drnFmt vs && drnFmt vs ≤ 9 && !(drnMkind vs && f32 (vs.getD 1 0) == .nan)
    && !(drnClip vs && (f32 (vs.getD 2 0) == .nan || f32 (vs.getD 3 0) == .nan))
    && 1 ≤ drnNrow vs && drnNrow vs ≤ 256 && drnRow0 vs + sets * drnNrow vs ≤ 256

/-- A rounding mode by its code, with the draw it takes (R287, R303). -/
def modeOf (code : Nat) (g : Nat) : Mode := match code with
  | 0 => .rne | 1 => .rtz | 2 => .rdn | 3 => .rup | _ => .sr g
/-- Blocks laid into lines of a tag, from line 0 on; what is left of the last line is zero (R38, R288, R305). -/
def blockLines (t : Nat) (bs : List (List Nat × Nat)) : List Line :=
  let n := tagBlocks t
  (List.range (ceilDiv bs.length n)).map (fun i =>
    let c := (bs.drop (n * i)).take n
    { data := layBlocks t (c.map Prod.fst), tag := BitVec.ofNat 4 t, scales := if tagMx t then laySlots (c.map Prod.snd) else 0 })
/-- 32 exact values as the codes of a block of a tag, with its scale (R55, R288, R305). -/
def toBlock (t : Nat) (sel : Sel) (sat : Bool) (mode : Nat → Mode) (v : List Num) : List Nat × Nat :=
  if tagMx t then quantiseBlock v (tagFmt t) sel mode
  else (v.zipIdx.map (fun x => (tagFmt t).round (mode x.2) sat x.1), 0)
/-- A block as a drain writes it holds a NaN or a 0xFF scale (R292). -/
def blockOdd (t : Nat) (b : List Nat × Nat) : Bool := (tagMx t && b.2 == 0xFF) || b.1.any (fun c => (tagFmt t).decode c == .nan)
/-- A block as written holds a NaN, an infinity or a 0xFF scale (R57, R301, R346). -/
def blockNF (t : Nat) (b : List Nat × Nat) : Bool := (tagMx t && b.2 == 0xFF) || b.1.any (fun c => ((tagFmt t).decode c).nonfin)

/-- One drain set: its blocks, from a source row on. [DEDUCED, log 44] -/
def drainSet (src : Table Word) (vs : List Word) (rnd : Nat → Nat) (row : Nat) : List (List Nat × Nat) :=
  (List.range (4 * drnNrow vs)).map (fun q =>
    let e := 128 * row + 32 * q
    toBlock (drnFmt vs) (drnSel vs) (drnSat vs) (fun k => modeOf (drnMode vs) (rnd (e + k)))
      ((List.range 32).map (fun k =>
        drainVal (drnClip vs) (f32 (src.get (e + k))) (drnMul vs) (f32 (vs.getD 2 0)) (f32 (vs.getD 3 0)))))
/-- The drained entries, set to +0 where ZERO is 1. -/
def drainZero (vs : List Word) (sets : Nat) (src : Table Word) : Table Word :=
  if drnZero vs then
    src.filter (fun e => !(128 * drnRow0 vs ≤ e.1 && e.1 < 128 * (drnRow0 vs + sets * drnNrow vs)))
  else src
/-- MDRN (R288): the blocks of each of `sets` sets, and what is left. [DEDUCED, log 44] -/
def drainRes (m : MCtx) (w : Bool) (vs : List Word) (sets : Nat) (rnd : Nat → Nat) : Except FailRec (List (List (List Nat × Nat)) × MRes) := do
  mcheck (drnValid vs sets) 1
  let src := if w then m.dw else m.bank
  let bs := (List.range sets).map (fun i => drainSet src vs rnd (drnRow0 vs + i * drnNrow vs))
  let inNf := (List.range (128 * sets * drnNrow vs)).any (fun e => wordNF (src.get (128 * drnRow0 vs + e)))
  let left := drainZero vs sets src
  pure (bs, { bank := if w then m.bank else left, dw := if w then left else m.dw, latch := m.latch
              nf := inNf || bs.any (·.any (blockOdd (drnFmt vs))), drew := drnMode vs == 4 })
/-- The draw of drained element e (R289). -/
def drainDraw (seed : DWord) (launch widx slot dseq e : Nat) : Nat :=
  (draw seed (launch * 2 ^ 34 + widx * 2 ^ 10 + slot * 2 ^ 5) (2 ^ 31 + dseq * 2 ^ 15 + e)).toNat

end Sys2Proof.Machine
end

