-- ==== Sys2Proof/Machine/MatrixOps.lean ====
section
/-! DEFINITION. Matrix contexts and joint issue (R271 to R280, R286 to R293): MCONV, MDISS, MWAIT, MSTAT; the issue of MLDW, MMA,
MMV, MDUAL and MDRN; and the start and the finish of an operation. -/
namespace Sys2Proof.Machine

/-- The roster a warp names is in use and the warp is a member (R273). -/
def State.memberOf (s : State) (slot r : Nat) : Bool :=
  (s.rosterAt slot r).st != .unused && (s.rosterAt slot r).members.getLsbD (s.warp slot).wid

-- Binding (R273, R274) ------------------------------------------------------------------------------------------------------------------

/-- The lower-numbered context with no roster. -/
def State.freeMatrix (s : State) (core : Nat) : Option Nat := (List.range 2).find? (fun m => (s.matrix core m).roster.isNone)
/-- Bind a roster to a context, its bank and gradients +0 and its latch empty (R273). -/
def State.bindMatrix (s : State) (wg r m : Nat) : State :=
  (s.modMatrix (s.wgs.get wg).core m (fun _ => { (default : MCtx) with roster := some (wg, r) })).modRoster wg r (fun x => { x with bound := some m })
/-- MCONV (R273): a warp that finds no context waits in the core's queue, and behind those already there. [DEDUCED, log 47] -/
def execMconv (c : Ctl) (slot : BitVec 4) (s : State) : Host.Outcome State Fault Refusal :=
  let r := slot.toNat
  warpOp c 1 s
    (fun g s k =>
      if !s.rosterDeclared k r || !s.memberOf k r then .fault (pf 2 0) g.pc else .done g.next)
    (fun g s k =>
      if (s.rosterAt k r).bound.isSome then (s, g.all k (.done g.next))
      else match s.freeMatrix (coreOf k), (s.core (coreOf k)).mconvQ with
        | some m, [] => (s.bindMatrix (s.warp k).wg r m, g.all k (.done g.next))
        | _, _ => (s.modCore (coreOf k) (fun x => { x with mconvQ := x.mconvQ ++ [(k, r)] }), g.all k (.wait (.mconv r))))
/-- The threads of a warp that wait in MCONV for a slot go on after it (R95, R273). [DEDUCED, log 47] -/
def State.wakeMconv (s : State) (k r : Nat) : State :=
  s.modWarp k (fun w => { w with threads := w.threads.map (fun _ t =>
    if t.st = .waiting ∧ t.why = .mconv r then { t with st := .ready, why := .nothing, pc := t.pc + 4 } else t) })
/-- MCONV_GRANT (R273): the roster at the head of a core's queue is bound once a context is free; one bound since, or UNUSED
by now, needs none. -/
def execMconvGrant (core : Nat) (s : State) : Host.Outcome State Fault Refusal :=
  if 384 ≤ core then .fault .noSuchUnit
  else match (s.core core).mconvQ with
    | [] => .next s
    | (k, r) :: rest =>
      let pop := fun (s : State) => s.modCore core (fun x => { x with mconvQ := rest })
      if (s.rosterAt k r).st = .unused ∨ (s.rosterAt k r).bound.isSome then .next ((pop s).wakeMconv k r)
      else match s.freeMatrix core with
        | some m => .next (((pop s).bindMatrix (s.warp k).wg r m).wakeMconv k r)
        | none => .next s
/-- MDISS (R274). [DEDUCED, log 111] -/
def execMdiss (c : Ctl) (slot : BitVec 4) (s : State) : Host.Outcome State Fault Refusal :=
  let r := slot.toNat
  warpOp c 1 s
    (fun g s k =>
      if !s.rosterDeclared k r || ((s.rosterAt k r).bound.isSome && !s.memberOf k r) then .fault (pf 2 0) g.pc else .done g.next)
    (fun g s k => (s.unbind (s.warp k).wg r, g.all k (.done g.next)))

-- MWAIT and MSTAT (R279, R280) -------------------------------------------------------------------------------------------------------------

/-- A started operation is one of the roster that a slot of a workgroup now holds. -/
def MatOp.ofRoster (o : MatOp) (wg r : Nat) (ro : Roster) : Bool := o.wg == wg && o.slot == r && ro.st != .unused && o.born == ro.born
/-- Operations the warp issued on the roster are still to start or to finish, on either context (R279). -/
def State.unfinished (s : State) (slot r : Nat) : Bool :=
  let ro := s.rosterAt slot r
  let wid := (s.warp slot).wid
  ro.bound.isSome && (ro.gath.any (·.wid == wid)
    || (s.opsOf (s.warp slot).wg).any (fun o => o.ofRoster (s.warp slot).wg r ro && o.caps.any (·.wid == wid)))
/-- The fault of a failure record (R278, R279). -/
def FailRec.fault (f : FailRec) : PFault := if f.code = 5 then ⟨f.cause, f.info, 0⟩ else pf 5 0 f.code
/-- MWAIT (R279, R292): a warp-whole instruction that delivers the oldest failure, or sets NF and passes. -/
def execMwait (c : Ctl) (slot : BitVec 4) (s : State) : Host.Outcome State Fault Refusal :=
  let r := slot.toNat
  wholeOp c 1 s
    (fun g s k _ =>
      if !s.rosterDeclared k r then .fault (pf 2 0) g.pc
      else if s.unfinished k r then .lock (.mwait r) else .done g.next)
    (fun _ s k _ =>
      let ro := s.rosterAt k r
      let wg := (s.warp k).wg
      let wid := (s.warp k).wid
      if ro.bound.isNone then (s, none)
      else match ro.fails.get wid with
        | f :: rest => (s.modRoster wg r (fun x => { x with fails := x.fails.put wid rest }), some f.fault)
        | [] =>
          let s := if ro.nfs.get wid then s.modWarp k (fun w => { w with nf := true }) else s
          (s.modRoster wg r (fun x => { x with nfs := x.nfs.erase wid }), none))
/-- The word of MSTAT (R280). -/
def State.mstat (s : State) (slot r : Nat) : Word :=
  let ro := s.rosterAt slot r
  let fail := match ro.fails.get (s.warp slot).wid with
    | f :: _ => f.code
    | [] => 0
  BitVec.ofNat 32 (put (put (put ro.dseq.toNat 24 fail) 30 (ro.bound.getD 0)) 31 (if ro.bound.isSome then 1 else 0))
/-- MSTAT (R280). -/
def execMstat (c : Ctl) (d : VReg) (slot : BitVec 4) (s : State) : Host.Outcome State Fault Refusal :=
  issue c 1 s fun g s => interlocked (fun s a => s.wrElems a (some { n := d.toNat })) (fun g s =>
    g.actWarps.foldl (fun (r : State × List ((Nat × Nat) × Fate)) w =>
      let (s, fs) := if r.1.rosterDeclared w slot.toNat then r.1.slotResult g w d (r.1.mstat w slot.toNat)
        else (r.1, g.all w (.fault (pf 2 0) g.pc))
      (s, r.2 ++ fs)) (s, [])) g s

-- Joint issue (R275 to R277) -----------------------------------------------------------------------------------------------------------------

/-- The uniform registers a joint instruction reads, as their descriptor says (R277, R282, R287). -/
def MIns.uniforms (i : MIns) (w0 : Word) : List (Option Nat) := match i with
  | .mmv q _ _ => [some q, some (q + 1), some (q + 2), some (q + 3)]
  | .drnT _ _ o | .drnV _ _ o =>
    [some (8 * o), if drnMkind [w0] then some (8 * o + 1) else none] ++ (if drnClip [w0] then [some (8 * o + 2), some (8 * o + 3)] else [none, none])
      ++ [some (8 * o + 4)]
  | .drnM _ o =>
    [some (8 * o), if drnMkind [w0] then some (8 * o + 1) else none] ++ (if drnClip [w0] then [some (8 * o + 2), some (8 * o + 3)] else [none, none])
      ++ [some (8 * o + 4), some (8 * o + 5), some (8 * o + 6)]
  | _ => []
/-- The first of them. -/
def MIns.firstUniform : MIns → Option Nat
  | .mmv q _ _ => some q
  | .drnT _ _ o | .drnV _ _ o | .drnM _ o => some (8 * o)
  | _ => none
/-- Those registers as a warp holds them now. -/
def State.uniformsNow (s : State) (k : Nat) (i : MIns) : List Word :=
  (i.uniforms ((s.warp k).s (i.firstUniform.getD 0))).map (fun n => match n with
    | some n => (s.warp k).s n
    | none => 0)
/-- Some registers read by a group, 0 for one that is not. -/
def State.readUniforms (s : State) (g : Grp) (k : Nat) : List (Option Nat) → List Word × State
  | [] => ([], s)
  | n :: r =>
    let (v, s) := match n with
      | some n => s.readS g k n
      | none => (0, s)
    let (vs, s) := s.readUniforms g k r
    (v :: vs, s)
/-- The vector rows MDRN.V writes in a warp (R288). -/
def State.drainRows (s : State) (k : Nat) (lanes : List Nat) (i : MIns) (vs : List Word) : List Nat := match i with
  | .drnV _ d _ => (List.range (drnLines (drnFmt vs) (drnNrow vs))).map (fun j => s.wholeRow k lanes d + j)
  | _ => []
/-- A further issue by a warp ahead of STARTED waits (R275). -/
def State.jointAhead (s : State) (k r : Nat) : Bool := decide ((s.rosterAt k r).started < (s.rosterAt k r).issued.get (s.warp k).wid)
/-- What a joint issue meets (R275). -/
def jointPlan (r : Nat) (i : MIns) (g : Grp) (s : State) (k : Nat) (lanes : List Nat) : Fate :=
  let held := (i.reads ++ i.writes).all (s.tileHeld k)
  let vec := match i with
    | .drnV _ _ _ => true
    | _ => false
  if !s.rosterDeclared k r then .fault (pf 2 0) g.pc
  else if s.jointAhead k r then .wait (.joint r)
  else if (s.rosterAt k r).bound.isNone || !s.memberOf k r || !held || (vec && !s.oneWb k lanes) then .fault (pf 2 0) g.pc
  else match s.sWhy k (i.firstUniform.toList) with
    | some w => .lock w
    | none => match s.sWhy k ((i.uniforms ((s.warp k).s (i.firstUniform.getD 0))).filterMap id) with
      | some w => .lock w
      | none =>
        let rows := s.drainRows k lanes i (s.uniformsNow k i)
        if !rows.all (s.warp k).holds then .done g.next
        else match s.rowsWhy k rows with
          | some w => .lock w
          | none => .done g.next
/-- The tile writes that a warp's OPRDY has made ready are seen by the operation it now issues on a roster (R226). -/
def Workgroup.makeSure (g : Workgroup) (wid r : Nat) : Workgroup :=
  { g with unready := g.unready.map (fun u => if u.ready.contains wid && !u.sure.contains r then { u with sure := u.sure ++ [r] } else u) }
/-- A joint issue once the warp has gathered (R275, R277, R288); of rows that a descriptor read early implies, those up to the first
that is not held (R5, R6). -/
def State.jointIssue (s : State) (r : Nat) (i : MIns) (g : Grp) (k : Nat) (lanes : List Nat) : State × Option PFault :=
  let head := i.firstUniform.any (s.sEarly1 g k)
  let (w0, s) := match i.firstUniform with
    | some n => s.readS g k n
    | none => (0, s)
  let early := head || ((i.uniforms w0).filterMap id).any (s.sEarly1 g k)
  let (vs, s) := s.readUniforms g k (i.uniforms w0)
  let vs := match i with
    | .mmv _ _ _ => vs
    | _ => vs.set 0 w0
  let all := s.drainRows k lanes i vs
  let rows := if early then all.takeWhile (s.warp k).holds else all
  if !rows.all (s.warp k).holds then (s, some (pf 2 0))
  else
    let vec := !rows.isEmpty
    let id := s.nextId
    let s := if vec then s.addPend { Pending.empty k with
        regs := rows.flatMap (fun row => rowKeys row (List.replicate 32 0)), rowMeta := rows.map (fun row => (row, 0, 0)), remote := true } else s
    let s := (s.settleRows g (rowElems k rows))
    let w := s.warp k
    ((s.modWg w.wg (fun x => x.makeSure w.wid r)).modRoster w.wg r (fun x => { x with
      issued := x.issued.put w.wid (x.issued.get w.wid + 1)
      gath := x.gath ++ [{ wid := w.wid, ins := i, vals := vs, pend := if vec then some id else none, row := all.headD 0, early, head }] }), none)
/-- A joint instruction (R275). -/
def jointOp (c : Ctl) (slot : BitVec 4) (i : MIns) (s : State) : Host.Outcome State Fault Refusal :=
  wholeOp c 1 s (jointPlan slot.toNat i) fun g s k lanes => s.jointIssue slot.toNat i g k lanes
def execMldw (c : Ctl) (t : MReg) (slot : BitVec 4) (s : State) := jointOp c slot (.mldw t.toNat) s
def execMma (c : Ctl) (z : Bool) (slot : BitVec 4) (t : MReg) (s : State) := jointOp c slot (.mma z t.toNat) s
def execMmv (c : Ctl) (slot : BitVec 4) (q : SReg) (v : BitVec 3) (t : MReg) (s : State) :=
  jointOp c slot (.mmv q.toNat (v.toNat + 1) t.toNat) s
def execMdual (c : Ctl) (zx zw : Bool) (slot : BitVec 4) (x y : MReg) (s : State) := jointOp c slot (.mdual zx zw x.toNat y.toNat) s
def execMdrnT (c : Ctl) (w : Bool) (t : MReg) (slot : BitVec 4) (o : BitVec 3) (s : State) := jointOp c slot (.drnT w t.toNat o.toNat) s
def execMdrnV (c : Ctl) (w : Bool) (d : VReg) (slot : BitVec 4) (o : BitVec 3) (s : State) := jointOp c slot (.drnV w d.toNat o.toNat) s
def execMdrnM (c : Ctl) (w : Bool) (slot : BitVec 4) (o : BitVec 3) (s : State) := jointOp c slot (.drnM w o.toNat) s

-- The start of an operation (R276, R277) ---------------------------------------------------------------------------------------------------------

/-- Every member has issued the next operation of the roster (R276). -/
def Roster.startable (r : Roster) : Bool :=
  r.bound.isSome && !r.gath.isEmpty && r.members != 0
    && (List.range 32).all (fun w => !r.members.getLsbD w || decide (r.started < r.issued.get w))
/-- A register of one of the issues was read early: what the operation would compute is undefined (R6). -/
def readEarly (cs : List Capture) : Bool := cs.any (·.early)
/-- The issues counted toward one operation differ (R277); an undefined value makes no difference (R5). [DEDUCED, log 45] -/
def mismatched (cs : List Capture) : Bool := match cs with
  | [] => false
  | c :: r => r.any (fun d => d.ins != c.ins || (d.vals != c.vals && !readEarly cs))
/-- The tiles of a starting operation meet the other context's, or a write still to land (R291, R431). [DEDUCED, log 42] -/
def State.startConflicts (s : State) (wg m : Nat) (cs : List Capture) : Bool × State :=
  let one := fun (wr : Bool) (r : Bool × State) (n : Nat) =>
    let (hit, s) := r.2.conflict wg n wr (some m)
    let late := !(s.pendTile wg n).isEmpty
    (r.1 || hit || late, if late then s.spoilTile wg n else s)
  (capWrites cs).foldl (one true) ((capReads cs).foldl (one false) (false, s))
/-- An operand as an operation captures it at its start (R276). -/
def State.operand (s : State) (wg r m n : Nat) : Operand × State :=
  let g := s.wgs.get wg
  if (s.matrix g.core m).ops.any (fun o => o.wg == wg && (capWrites o.caps).contains n) then (⟨g.mshp.get n, none⟩, s)
  else
    let (t, s) := s.operandTile wg r n
    (⟨g.mshp.get n, some t⟩, s)
/-- The next operation of a roster starts, if every member has issued it (R276). -/
def State.startOp (s : State) (wg slot : Nat) : State :=
  let ro := s.roster wg slot
  match ro.bound with
  | none => s
  | some m =>
    if !ro.startable then s
    else
      let g := s.wgs.get wg
      let bad := mismatched ro.gath
      let (hit, s) := if bad then (false, s) else s.startConflicts wg m ro.gath
      let reads := if bad then [] else ((ro.gath.headD default).ins.reads ++ (ro.gath.headD default).ins.writes).eraseDups
      let (ts, s) := reads.foldl (fun (r : Table Operand × State) n => let (o, s) := r.2.operand wg slot m n; (r.1.put n o, s)) ([], s)
      let op : MatOp := {
        id := s.nextId, born := ro.born, wg, slot, kernel := g.kernel, widx := g.idx, caps := ro.gath, tiles := ts
        members := (List.range 32).filter (fun w => ro.members.getLsbD w)
        tainted := hit || (s.roster wg slot).tainted }
      let s := { s with nextId := s.nextId + 1 }.modRoster wg slot (fun x => { x with started := x.started + 1, gath := [], tainted := false })
      s.modMatrix g.core m (fun x => { x with ops := x.ops ++ [op] })
/-- MATRIX_OPERATION_START (R276). -/
def execMatrixOperationStart (wg slot : Nat) (s : State) : Host.Outcome State Fault Refusal := .next (s.startOp wg slot)

-- The finish of an operation (R278, R288, R291, R292) ----------------------------------------------------------------------------------------------

/-- Some entries of a bank undefined. -/
def freeEntries (t : Table Word) (v : Nat) (is : List Nat) : Table Word := is.foldl (fun t i => t.set i (BitVec.ofNat 32 (fld v (32 * i) 32))) t
/-- The entries of the bank and of the gradients that one issue of an operation writes (R281 to R288): a drain none but those it
sets to +0, with `zero`. [DEDUCED, log 43] -/
def MIns.entries (c : Capture) (latch : Option Latch) (shape : Nat → Word) (sets : Nat) (zero : Bool) : List Nat × List Nat :=
  let n := (latch.map (·.cols.length)).getD 0
  let kd := 32 * (latch.map (·.kb)).getD 0
  let grid := fun (rows step cols : Nat) => ((List.range rows).flatMap (fun r => (List.range cols).map (fun i => r * step + i))).filter (· < 32768)
  let drained := if zero && drnZero c.vals
    then ((List.range (128 * sets * drnNrow c.vals)).map (128 * drnRow0 c.vals + ·)).filter (· < 32768) else []
  match c.ins with
  | .mldw _ => ([], List.range 32768)
  | .mma _ t => (grid (shRows (shape t)) 128 n, [])
  | .mmv _ v _ => (grid v 4096 (min (mmvN c.vals) 4096), [])
  | .mdual _ _ x _ => if n = 0 then ([], []) else (grid (shRows (shape x)) kd kd, grid n kd kd)
  | .drnT w _ _ | .drnV w _ _ | .drnM w _ => if w then ([], drained) else (drained, [])
/-- The pending result of a warp's drain takes its lines (R43, R288), but for elements no longer awaited. -/
def State.fillRows (s : State) (id row : Nat) (ls : List Line) : State :=
  let at0 := fun (key : Nat) => lineWord (ls.getD (key / 32 - row) default).data (key % 32)
  { s with pend := s.pend.map (fun p => if p.id == id then { p with
      regs := p.regs.map (fun e => (e.1, at0 e.1))
      rowMeta := p.rowMeta.map (fun e => (e.1, (ls.getD (e.1 - row) default).tag, (ls.getD (e.1 - row) default).scales))
      remote := false } else p) }
/-- The rows a drain to vector registers would write in a warp, where its own descriptor implies fewer, are undefined too (R278,
R431). -/
def State.spoilRows (s : State) (op : MatOp) (c : Capture) (v : Nat) : State :=
  let rowsOf := fun (d : Capture) => match d.ins with
    | .drnV _ _ _ => drnLines (drnFmt d.vals) (drnNrow d.vals)
    | _ => 0
  let (mine, n) := (rowsOf c, (op.caps.map rowsOf).foldl max 0)
  match s.slotOf op.wg c.wid with
  | none => s
  | some k => ((List.range (n - mine)).map (c.row + mine + ·)).foldl (fun s row =>
      if (s.warp k).holds row then
        let l := (freeLines (fld v (1092 * row) 1092) 1).headD default
        s.modWarp k (fun w => w.setRow row l.data l.tag l.scales)
      else s) s
/-- Undefined values in the destinations one issue names, entries it writes, the warp's rows, and a tile that is not the one `leaveTile` writes (R278, R291); a joint
mismatch writes no entry (R277), and a drain that a conflict met has set its entries to +0 (R294). [DEDUCED, log 43] -/
def State.spoilIssue (s : State) (core m : Nat) (op : MatOp) (failed : Bool) (c : Capture) : State :=
  let (v, s) := s.free
  let (u, s) := s.free
  let es := if mismatched op.caps then ([], [])
    else MIns.entries c (s.matrix core m).latch (fun n => (op.tiles.get n).shape) (match c.ins with
      | .drnV _ _ _ => op.members.length
      | _ => 1) failed
  let s := s.modMatrix core m (fun x => { x with bank := freeEntries x.bank v es.1, dw := freeEntries x.dw u es.2 })
  match c.ins with
  | .drnT _ t _ => if (s.wgs.find op.wg).isNone || (op.caps.headD default).ins.writes.contains t then s else s.spoilTile op.wg t
  | .drnV _ _ _ =>
    let s := match c.pend with
      | some id => s.fillRows id c.row (freeLines u 1024)
      | none => s
    s.spoilRows op c v
  | _ => s
/-- The operation's destinations are undefined. -/
def State.spoilDests (s : State) (core m : Nat) (op : MatOp) (failed : Bool) : State :=
  op.caps.foldl (fun s c => s.spoilIssue core m op failed c) s
/-- The roster of an operation is still there to deliver its failures and NF, bound or not (R271, R274). [DEDUCED, log 111] -/
def State.reporting (s : State) (op : MatOp) : Bool :=
  (s.wgs.find op.wg).isSome && op.ofRoster op.wg op.slot (s.roster op.wg op.slot)
/-- The warps that issued an operation. -/
def MatOp.wids (op : MatOp) : List Nat := (op.caps.map (·.wid)).eraseDups
/-- A failure record for every warp that issued the operation, later than those made before (R278, R394). -/
def State.addFail (s : State) (op : MatOp) (f : FailRec) : State :=
  if !s.reporting op then s
  else
    let f := { f with age := (s.wgs.get op.wg).failSeq }
    (s.modWg op.wg (fun g => { g with failSeq := g.failSeq + 1 })).modRoster op.wg op.slot (fun x => { x with
      fails := op.wids.foldl (fun t w => Table.put t w (t.get w ++ [f])) x.fails })
/-- DSEQ of the operation's roster, as the drains started before it leave it (R289). [DEDUCED, log 114] -/
def State.dseqOf (s : State) (core m : Nat) (op : MatOp) : BitVec 16 :=
  if s.reporting op then (s.roster op.wg op.slot).dseq else (s.matrix core m).dseq
/-- A drain has taken its draws (R288). -/
def State.bumpDseq (s : State) (core m : Nat) (op : MatOp) : State :=
  let n := s.dseqOf core m op + 1
  (if s.reporting op then s.modRoster op.wg op.slot (fun x => { x with dseq := n }) else s).modMatrix core m (fun x => { x with dseq := n })
/-- A drain that draws, of a roster with an operation on the other context that was started before it, comes after that one, whose
drain may draw (R289). [DEDUCED, log 114] -/
def State.drawWaits (s : State) (core m : Nat) (op : MatOp) : Bool :=
  (s.matrix core (1 - m)).ops.any (fun o => o.wg == op.wg && o.slot == op.slot && o.born == op.born && decide (o.id < op.id))

/-- A tile operand at the finish: as captured, as an earlier operation left it (`passTile`), or undefined after a conflict. -/
def State.operandNow (s : State) (op : MatOp) (n : Nat) : Word × Tile :=
  let o := op.tiles.get n
  (o.shape, if op.tainted then freeTile (Config.freeValue (s.fresh + n)) else match o.tile with
    | some t => t
    | none => (s.wgs.get op.wg).tiles.get n)
/-- What a drain leaves with its lines to each destination: `bs` the blocks of each set. -/
def drainDest (i : MIns) (op : MatOp) (vs : List Word) (bs : List (List (List Nat × Nat))) (x : MRes) : Except FailRec MRes :=
  let ls := bs.map (blockLines (drnFmt vs))
  match i with
  | .drnT _ t _ =>
    let sh := (op.tiles.get t).shape
    if shTag sh = drnFmt vs ∧ (ls.headD []).length ≤ shLines sh then .ok { x with tile := ls.headD [] } else mfail 1
  | .drnV _ _ _ => .ok { x with rows := op.members.zip ls }
  | _ => .ok { x with lines := ls.headD [] }
/-- What an operation computes, or why it fails, or that it must wait for memory (R281 to R289). [DEDUCED, log 110] -/
def State.runOp (s : State) (g : Agent) (core m : Nat) (op : MatOp) : Except Halt (Except FailRec MRes) × State :=
  let mc := s.matrix core m
  let c := op.caps.headD default
  let k := s.kernel op.kernel
  let drain := fun (w : Bool) (sets : Nat) =>
    (drainRes mc w c.vals sets (drainDraw k.seed k.launch op.widx op.slot (s.dseqOf core m op).toNat)).bind
      (fun r => drainDest c.ins op c.vals r.1 r.2)
  if mismatched op.caps then (.ok (mfail 3), s)
  else match c.ins with
    | .mldw t => let (sh, x) := s.operandNow op t; (.ok (mldwRes mc sh x), s)
    | .mma z t => let (sh, x) := s.operandNow op t; (.ok (mmaRes mc z sh x), s)
    | .mmv _ v t =>
      let (sh, x) := s.operandNow op t
      match mmvLimits c.vals v sh with
      | .error f => (.ok (.error f), s)
      | .ok _ => match s.agentReads g 0 (mmvAddrs c.vals v sh) with
        | (.error .wait, s) => (.error .wait, s)
        | (.error (.fault f), s) => (.ok (.error ⟨0, 5, f.cause, if f.cause = 7 then f.info else 5⟩), s)
        | (.ok ls, s) => (.ok (mmvRes mc c.vals v sh x ls), s)
    | .mdual zx zw a b =>
      let (sa, xa) := s.operandNow op a
      let (sb, xb) := s.operandNow op b
      (.ok (mdualRes mc zx zw sa xa sb xb), s)
    | .drnT w _ _ => (.ok (drain w 1), s)
    | .drnV w _ _ => (.ok (drain w op.members.length), s)
    | .drnM w _ => (.ok (drain w 1), s)
/-- The lines of a drain to memory: those of other packages first, each answered, then, all at once, those of this package; where
one's access fails, any of the others of this package (R278, R288). -/
def State.drainLines (s : State) (g : Agent) (core : Nat) (base : DWord) (ls : List Line) : Except Halt Unit × State :=
  let vas := (List.range ls.length).map (fun j => base + BitVec.ofNat 64 (128 * j))
  let (ts, s) := s.agentPlaces g vas
  let put1 := fun (s : State) (x : Except Halt Target × Line) => match x.1 with
    | .ok (.mem pa mt) => (s.agentPut (.mem pa mt) x.2).dropL1 core (pa / 128)
    | _ => s
  let some1 := fun (f : PFault) (s : State) =>
    (Except.error (Halt.fault f), ((ts.zip ls).zipIdx.filter (fun x => tst s.free.1 x.2)).foldl (fun t x => put1 t x.1) s.free.2)
  if ts.any Halt.waits then (.error .wait, s)
  else match firstFault ts with
    | some f => some1 f s
    | none => match s.agentTell g (((placesOf ts).zip ls).zipIdx.filterMap (fun x => s.agentLineReq g (1 + x.2) x.1.1 x.1.2)) with
      | (.error .wait, s) => (.error .wait, s)
      | (.error (.fault f), s) => some1 f s
      | (.ok _, s) => (.ok (), (ts.zip ls).foldl put1 s)
/-- The tile as a drain leaves it: its lines in place of the first ones (R288). -/
def drainedTile (t : Tile) (ls : List Line) : Tile := ls.zipIdx.foldl (fun y l => Table.put y l.2 (tileLineOf l.1)) t
/-- What a drain to a tile leaves in it goes to the operations of its context that read or write the tile next, up to the first that
writes it (R276): also where the workgroup has gone. -/
def passTile (wg n : Nat) (t : Tile) : List MatOp → List MatOp
  | [] => []
  | o :: r =>
    if o.wg == wg && (capReads o.caps ++ capWrites o.caps).contains n then
      let o1 := { o with tiles := o.tiles.put n { o.tiles.get n with tile := some t } }
      if (capWrites o.caps).contains n then o1 :: r else o1 :: passTile wg n t r
    else o :: passTile wg n t r
/-- The tile a drain leaves: `new` its contents, or undefined ones (R278, R291). -/
def State.leaveTile (s : State) (core m : Nat) (op : MatOp) (new : Option (List Line)) : State :=
  match (op.caps.headD default).ins with
  | .drnT _ t _ =>
    let (x, s) := match new with
      | some ls => (drainedTile (if (s.wgs.find op.wg).isSome then (s.wgs.get op.wg).tiles.get t else ((op.tiles.get t).tile.getD default)) ls, s)
      | none => (freeTile s.free.1, s.free.2)
    let s := if (s.wgs.find op.wg).isSome then s.modWg op.wg (fun g => { g with tiles := g.tiles.put t x }) else s
    s.modMatrix core m (fun c => { c with ops := c.ops.take 1 ++ passTile op.wg t x (c.ops.drop 1) })
  | _ => s
/-- The results of an operation reach the context, the tile and the rows (R276, R288). -/
def State.applyRes (s : State) (core m : Nat) (op : MatOp) (x : MRes) : State :=
  let s := s.modMatrix core m (fun c => { c with bank := x.bank, dw := x.dw, latch := x.latch })
  let s := s.leaveTile core m op (if op.tainted then none else some x.tile)
  let s := op.caps.foldl (fun s c => match c.pend, x.rows.find? (fun r => r.1 == c.wid) with
    | some id, some r => s.fillRows id c.row r.2
    | some id, none => s.dropPend id
    | none, _ => s) s
  let s := if x.drew then s.bumpDseq core m op else s
  if x.nf && !op.tainted && s.reporting op then
    s.modRoster op.wg op.slot (fun r => { r with nfs := op.wids.foldl (fun t w => Table.put t w true) r.nfs })
  else s
/-- The first operation leaves the context, which is released with its last if it is to be (R274). -/
def State.popOp (s : State) (core m : Nat) : State := s.modMatrix core m (fun x => ({ x with ops := x.ops.drop 1 } : MCtx).settle)
/-- An operation with a register read early computes nothing: undefined values in its destinations, of which memory at an undefined
place is none, and no failure and no NF; MMV still empties the latch, and a drain whose mode is known to draw counts (R5, R6). -/
def State.softFinish (s : State) (core m : Nat) (op : MatOp) : State :=
  let s := (s.spoilDests core m op true).leaveTile core m op none
  match (op.caps.headD default).ins with
  | .mmv _ _ _ => s.modMatrix core m (fun x => { x with latch := none })
  | .drnT _ _ _ | .drnV _ _ _ | .drnM _ _ =>
    if !(op.caps.any (·.head)) && drnMode (op.caps.headD default).vals = 4 then s.bumpDseq core m op else s
  | _ => s
/-- MATRIX_OPERATION_FINISH (R276, R278, R291, R292): the oldest started operation of a context. -/
def execMatrixOperationFinish (core ctx : Nat) (s : State) : Host.Outcome State Fault Refusal :=
  if 384 ≤ core ∨ 2 ≤ ctx then .fault .noSuchUnit
  else match (s.matrix core ctx).ops with
    | [] => .next s
    | op :: _ =>
      let g : Agent := { hd := coreHalf core, key := .work op.id 0, ctx := (s.kernel op.kernel).ctx, kernel := op.kernel, widx := op.widx, wid := 0 }
      let pop := fun (s : State) => (s.dropWork op.id).popOp core ctx
      let failed := fun (s : State) (f : FailRec) => pop (((s.spoilDests core ctx op true).leaveTile core ctx op none).addFail op f)
      let fresh := fun (s : State) => { s with fresh := s.fresh + 17 }
      if readEarly op.caps && !mismatched op.caps then .next (pop (s.softFinish core ctx op))
      else match s.runOp g core ctx op with
      | (.error _, s) => .next s
      | (.ok (.error f), s) => .next (failed (fresh s) f)
      | (.ok (.ok x), s) =>
        let vs := (op.caps.headD default).vals
        if x.drew && s.drawWaits core ctx op then .next s
        else match (if x.lines.isEmpty then (.ok (), s) else s.drainLines g core (drnBase vs) x.lines) with
        | (.error .wait, s) => .next s
        | (.error (.fault f), s) => .next (failed (fresh s) ⟨0, 5, f.cause, if f.cause = 7 then f.info else 5⟩)
        | (.ok _, s) =>
          let s := (fresh s).applyRes core ctx op x
          let s := if op.tainted then s.spoilDests core ctx op false else s
          .next (pop s)

end Sys2Proof.Machine
end

