-- ==== Sys2Proof/Machine/Kv.lean ====
section
/-! DEFINITION. KV pages (R338 to R350): headers, KVLD, KVAPP, KVEVICT, KVSEAL and KVHDR, each one step of the half-die's KV
server; and the Steeper's conversion of sealed pages. -/
namespace Sys2Proof.Machine

-- Headers (R339) ---------------------------------------------------------------------------------------------------------------------

def hdrSurv (h : LineBits) : Nat := bf h 0 512
def hdrGen (h : LineBits) : Nat := bf h 512 16
def hdrScnt (h : LineBits) : Nat := bf h 528 16
def hdrAcnt (h : LineBits) : Nat := bf h 544 16
def hdrFmt (h : LineBits) : Nat := bf h 560 4
def hdrSealed (h : LineBits) : Bool := h.getLsbD 564
def hdrConverting (h : LineBits) : Bool := h.getLsbD 565
def hdrAge (h : LineBits) : Nat := bf h 704 64
/-- Field [lo + n − 1 : lo] of a line replaced. -/
def setFld (d : LineBits) (lo n v : Nat) : LineBits := BitVec.ofNat 1024 (d.toNat - bf d lo n * 2 ^ lo + v % 2 ^ n * 2 ^ lo)
/-- The header is valid (R339). [DEDUCED, log 48] -/
def hdrValid (h : LineBits) : Bool :=
  (hdrFmt h == 1 || hdrFmt h == 2 || hdrFmt h == 5) && hdrAcnt h ≤ 512 && hdrSurv h / 2 ^ hdrAcnt h == 0
    && hdrScnt h == popAux (hdrSurv h) 512 && (hdrFmt h != 5 || hdrSealed h)

/-- A KV page an instruction names: its VA, the page's PA, its header line's VA and PA, and the translations taken. -/
structure KvPage where
  va  : DWord
  pa  : Nat
  hva : DWord
  hpa : Nat
  tr  : Trans
  th  : Trans
  deriving DecidableEq, Repr

/-- A translation of a KV leaf of 64 KiB, header or data page, in the partition and outside the areas that a KV step may not
read, or with `wr` write (R247, R308, R338). -/
def State.kvLeaf (s : State) (t : Trans) (kvh wr : Bool) (va : DWord) : Ck Nat :=
  let e := t.leaf.toNat
  let pa := fld e 16 32 * 2 ^ 16 + (va.toNat - t.base)
  if fld e 4 2 = 0 ∧ fld e 9 2 = 2 ∧ tst e 8 = kvh ∧ (kvh ∨ t.size = 2 ^ 16) ∧ s.inPart (s.ctx t.ctx).part pa 1 then
    if inOverflow pa || (wr && inChannelArea pa) then .fault (pf 6 va) else .ok pa
  else .fault (pf 5 va)
/-- A needed A or D bit is missing (R330): `wr` when the access needs W, `d` when it needs D. -/
def litCk (t : Trans) (va : DWord) (wr d : Bool) : Ck Unit :=
  let e := t.leaf.toNat
  if !tst e 11 || (d && !tst e 12) then
    .light { pte := t.pte, size := t.size, dirty := d, ctx := t.ctx, va, kind := { wr, normal := false, kv := true } }
  else .ok ()
/-- The VA of the header line of the page with a frame (R338). [DEDUCED, log 17] -/
def State.hdrVa (s : State) (ctx frame : Nat) : DWord := (s.ctx ctx).kvhb + BitVec.ofNat 64 (128 * frame)
/-- The checks of a KV instruction's two translations in their order (R345): whether it writes, and whether it writes the data
page. -/
def State.kvCk (s : State) (slot lane : Nat) (va : DWord) (wr page : Bool) : Ck KvPage :=
  let ctx := s.ctxOf slot
  (s.translate (.lane slot lane) ctx va).bind fun tr => (s.kvLeaf tr false page va).bind fun pa =>
    if (s.half (homeHalf pa)).converted.contains (pa / 2 ^ 16) && tst pa 15 then .fault (pf 5 va)
    else if wr && !tst tr.leaf.toNat 6 then .fault (pf 6 va)
    else
      let hva := s.hdrVa ctx (pa / 2 ^ 16)
      let at0 := fun (c : Ck Trans) => match c with
        | .fault f => if f.cause = 7 then Ck.fault f else .fault (pf 5 hva)
        | x => x
      (at0 (s.translate (.lane slot lane) ctx hva)).bind fun th => (s.kvLeaf th true wr hva).bind fun hpa =>
        if homeHalf hpa ≠ homeHalf pa then .fault (pf 5 hva)
        else if wr && !tst th.leaf.toNat 6 then .fault (pf 6 hva)
        else (litCk tr va wr page).bind fun _ => (litCk th hva wr wr).bind fun _ =>
          .ok { va, pa := pa / 2 ^ 16 * 2 ^ 16, hva, hpa := hpa / 128 * 128, tr, th }
/-- The address of a heavy fault of those translations. -/
def State.kvHeavyVa (s : State) (slot lane : Nat) (va : DWord) : DWord :=
  match (s.translate (.lane slot lane) (s.ctxOf slot) va).bind (fun tr => s.kvLeaf tr false false va) with
  | .ok pa => s.hdrVa (s.ctxOf slot) (pa / 2 ^ 16)
  | _ => va
/-- The server is staging the page with a frame (R342). -/
def State.stagingKv (s : State) (frame : Nat) : Bool := (s.half (homeHalf (frame * 2 ^ 16))).steeper.any (fun e => e.frame == frame && e.staging)
/-- A KV step writes a line (R331, R340). -/
def State.kvPut (s : State) (n : Nat) (l : Line) : State := (s.putLine n l).kvWrote s (128 * n) (128 * n + 128)
/-- Write a page's header. -/
def State.putHdr (s : State) (hpa : Nat) (h : LineBits) : State := s.kvPut (hpa / 128) { s.line (hpa / 128) with data := h }
/-- A valid header that no KV step can have left and that is no valid initial one: SEALED, FMT 0x5, or CONVERTING while nothing
stages the page, on a page that was never sealed (R340). -/
def State.hdrForged (s : State) (p : KvPage) : Bool :=
  let h := (s.line (p.hpa / 128)).data
  (s.lineFault (p.hpa / 128)).isNone && hdrValid h && (hdrSealed h || hdrConverting h || hdrFmt h == 5)
    && !s.sealedKv.contains (p.hpa / 128, p.pa / 2 ^ 16)
/-- Such a header, and its page, hold undefined values (R340). -/
def State.hdrFound (s : State) (p : KvPage) : State :=
  if s.hdrForged p then
    let e := (p.hpa / 128, p.pa / 2 ^ 16)
    let s := s.spoilKv e
    if hdrSealed (s.line (p.hpa / 128)).data then { s with sealedKv := e :: s.sealedKv } else s
  else s
/-- The header of a page as a KV step finds it, a stale CONVERTING cleared: one that fails its check value or is not valid is a
bad header, and a reserved tag fails as on any line (R39, R339, R342). [DEDUCED, log 48] [DEDUCED, log 101] -/
def State.kvHeader (s : State) (p : KvPage) : Except PFault (LineBits × State) := match s.lineFault (p.hpa / 128) with
  | some i => .error (pf 7 p.hva (if i = 3 then 3 else 5))
  | none =>
    let h := (s.line (p.hpa / 128)).data
    if !hdrValid h then .error (pf 7 p.hva 5)
    else if hdrConverting h && !s.stagingKv (p.pa / 2 ^ 16) then
      let h := setFld h 565 1 0
      .ok (h, s.putHdr p.hpa h)
    else .ok (h, s)
/-- The translations of a KV instruction are held (R193). -/
def State.fillKv (s : State) (slot lane : Nat) (p : KvPage) : State := (s.fill slot lane p.th).fill slot lane p.tr
/-- The L1 of a core whose threads the server has read or written lines for holds nothing older of them (R216, R223). -/
def State.dropKv (s : State) (core : Nat) (ns : List Nat) : State := ns.foldl (fun s n => s.dropL1 core n) s
/-- The error record of a header whose line fails its check at a step of the server (R450, R455). -/
def State.reportHdr (s : State) (slot : Nat) (p : KvPage) : State := match s.lineBad (p.hpa / 128) with
  | some i => s.reportCheck slot i 1 p.hva
  | none => s

-- Shared plan ---------------------------------------------------------------------------------------------------------------------------

/-- What a warp-whole KV instruction meets: rows read and written, uniform registers named, whether its address is early, its
translations, and what `more` adds before them. -/
def kvPlan (rs ws us : List Nat) (a : SReg) (wr page : Bool) (g : Grp) (s : State) (k : Nat) (lanes : List Nat) (more : Option Fate) : Fate :=
  match rowsPlan g s k lanes rs ws with
  | .done pc => match s.sWhy k us with
    | some w => .lock w
    | none => match more with
      | some f => f
      | none =>
        if s.sEarly g k a.toNat then .done pc
        else
          let va := (s.warp k).sPair a.toNat
          match s.kvCk k (lanes.headD 0) va wr page with
          | .ok _ => (Fate.done pc).unless (s.warpAnswers k lanes wr)
          | x => x.fate g (s.kvHeavyVa k (lanes.headD 0) va)
  | f => f
/-- The page of a KV instruction once it executes; an address that is read early, and so undefined, gives none, and the step is
not made (R84). -/
def State.kvPage (s : State) (g : Grp) (k lane : Nat) (a : SReg) (wr page : Bool) : Option KvPage × State :=
  if s.sEarly g k a.toNat then (none, s)
  else match s.kvCk k lane ((s.warp k).sPair a.toNat) wr page with
    | .ok p => (some p, (s.fillKv k lane p).hdrFound p)
    | _ => (none, s)

-- KVLD (R346) ------------------------------------------------------------------------------------------------------------------------------

/-- The line of a page that token i lies in, under its header (R338). -/
def tokenLine (h : LineBits) (i : Nat) : Nat := if hdrFmt h = 5 then popAux (hdrSurv h) i / 2 else i
/-- The four blocks of token i of a page, under its header (R338): its line populated and verified (R22, R198). -/
def State.token (s : State) (p : KvPage) (h : LineBits) (i : Nat) : Except PFault (List Blk) :=
  let f := hdrFmt h
  let slot := popAux (hdrSurv h) i
  let n := p.pa / 128 + tokenLine h i
  let va := BitVec.ofNat 64 (p.tr.base + 128 * tokenLine h i)
  if !populated (128 * n) then .error (pf 5 va)
  else match s.lineFault n with
  | some e => .error (pf 7 va e)
  | none =>
    let l := s.line n
    if f ≠ 5 ∧ l.tag.toNat ≠ f then .error (pf 7 va 4)
    else .ok (((lineBlks f l.data l.scales).drop (if f = 5 then 4 * (slot % 2) else 0)).take 4)
/-- A token's block in a tile's format (R346). -/
def tokenBlock (f t : Nat) (b : Blk) : List Nat × Nat :=
  if f = t then
    let w := (tagFmt t).width
    ((List.range 32).map (fun i => fld b.bits (w * i) w), b.scale)
  else toBlock t .fit false (fun _ => .rne) (b.vals f)
/-- The tile's shape takes a range of tokens: rows, format and width (R346). -/
def kvShape (sh : Word) (c : Nat) : Bool :=
  c ≤ shRows sh && (match shTag sh with
    | 1 | 2 | 5 => shWidth sh == 1
    | 7 => shWidth sh == 2
    | 9 => shWidth sh == 4
    | _ => false)
/-- The survivors of a range, as the lines of tile rows, and whether NF is to be set. -/
def State.kvRows (s : State) (p : KvPage) (h : LineBits) (t : Nat) : List Nat → Except PFault (List (List Line) × Bool)
  | [] => .ok ([], false)
  | i :: r => match s.token p h i with
    | .error f => .error f
    | .ok bs => match s.kvRows p h t r with
      | .error f => .error f
      | .ok (ls, nf) =>
        let ws := bs.map (tokenBlock (hdrFmt h) t)
        .ok (blockLines t ws :: ls, nf || bs.any (·.odd (hdrFmt h)) || ws.any (blockNF t))
/-- KVLD (R346). -/
def execKvld (c : Ctl) (_strm : Bool) (t : MReg) (a : SReg) (s : State) : Host.Outcome State Fault Refusal :=
  let n := t.toNat
  let us := [a.toNat, a.toNat + 1, a.toNat + 2, a.toNat + 3]
  let early := fun (g : Grp) (s : State) (k : Nat) => s.sEarly g k a.toNat || s.sEarly1 g k (a.toNat + 2)
  wholeOp c 1 s
    (fun g s k lanes =>
      if !s.oneWb k lanes || !s.tileHeld k n then .fault (pf 2 0) g.pc
      else match s.sWhy k us with
        | some w => .lock w
        | none =>
          if !(s.pendTile (s.warp k).wg n).isEmpty then .lock (.tile n false)
          else if early g s k then .done g.next
          else
            let w := (s.warp k).s (a.toNat + 2)
            let i0 := bf w 0 9
            let cn := bf w 16 9
            if bf w 9 7 ≠ 0 ∨ bf w 25 7 ≠ 0 ∨ cn = 0 ∨ 512 < i0 + cn ∨ !kvShape (s.tileShape k n) cn then
              .fault (pf 5 ((s.warp k).sPair a.toNat)) g.pc
            else kvPlan [] [] [] a false false g s k lanes none)
    (fun g s k lanes =>
      let land := fun (s : State) (x : Tile) (v : Word) => s.pendTileWrite k n x false [(a.toNat + 3, v)]
      if early g s k then
        let (v, s) := s.free
        let (u, s) := s.free
        (land s (freeTile v) (BitVec.ofNat 32 u), none)
      else
        let w := (s.warp k).s (a.toNat + 2)
        match s.kvPage g k (lanes.headD 0) a false false with
        | (none, s) => (s, none)
        | (some p, s) => match s.kvHeader p with
          | .error f => (s.reportHdr k p, some f)
          | .ok (h, s1) =>
            let is := ((List.range (bf w 16 9)).map (bf w 0 9 + ·)).filter (fun i => h.getLsbD i)
            let sh := s1.tileShape k n
            match s1.kvRows p h (shTag sh) is with
            | .error f => (s, some f)
            | .ok (rows, nf) =>
              let old := (s1.wgOf k).tiles.get n
              let blank := (List.range (shLines sh)).foldl (fun x j => Table.put x j (default : TileLine)) old
              let x := rows.flatten.zipIdx.foldl (fun x l => Table.put x l.2 (tileLineOf l.1)) blank
              let s := s1.dropKv (coreOf k) (p.hpa / 128 :: is.map (fun i => p.pa / 128 + tokenLine h i))
              let s := if nf then s.modWarp k (fun w => { w with nf := true }) else s
              (land s x (BitVec.ofNat 32 (hdrGen h * 65536 + rows.length)), none))

-- KVAPP, KVEVICT, KVSEAL and KVHDR (R347 to R350) -------------------------------------------------------------------------------------------

/-- KVAPP's step (R347). [DEDUCED, log 104] -/
def State.kvAppend (s : State) (p : KvPage) (l : Line) : Except PFault (Nat × State) := match s.kvHeader p with
  | .error f => .error f
  | .ok (h, s) =>
    if hdrSealed h then .error (pf 6 p.va)
    else if 512 ≤ hdrAcnt h then .error (pf 5 p.va)
    else if l.tag.toNat ≠ hdrFmt h then .error (pf 7 p.va 4)
    else if !populated (p.pa + 128 * hdrAcnt h) then .error (pf 5 p.va)
    else
      let j := hdrAcnt h
      let h1 := setFld (setFld (setFld h 0 512 (hdrSurv h + 2 ^ j)) 544 16 (j + 1)) 528 16 (hdrScnt h + 1)
      .ok (hdrGen h * 65536 + j, (s.kvPut (p.pa / 128 + j) l).putHdr p.hpa h1)
/-- KVAPP (R347): a release at .pkg by every live thread. -/
def execKvapp (c : Ctl) (d : VReg) (a : SReg) (s : State) : Host.Outcome State Fault Refusal :=
  wholeOp c 1 s
    (fun g s k lanes =>
      let more := if lanes.any (s.outstanding k) then some (Fate.lock .kvapp) else none
      kvPlan [s.wholeRow k lanes d.toNat] [] [a.toNat, a.toNat + 1, a.toNat + 2] a true true g s k lanes more)
    (fun g s k lanes =>
      let row := s.wholeRow k lanes d.toNat
      let (ws, s) := s.readRow g k row
      let l : Line := { data := lineOfWords (ws.map BitVec.toNat), tag := (s.warp k).tags.get row, scales := (s.warp k).shadows.get row }
      let undefinedPlace := fun (s : State) => (s.free.2.addPend { Pending.empty k with sregs := [(a.toNat + 2, BitVec.ofNat 32 s.free.1)] }, none)
      match s.kvPage g k (lanes.headD 0) a true true with
      | (none, s) => undefinedPlace s
      | (some p, s) => match s.kvAppend p l with
        | .error f => (s.reportHdr k p, some f)
        | .ok (v, s) =>
          let s := s.dropKv (coreOf k) [p.hpa / 128, p.pa / 128 + v % 65536]
          ((s.addPend { Pending.empty k with sregs := [(a.toNat + 2, BitVec.ofNat 32 v)] }).settleRows g (rowElems k [row]), none))
/-- KVEVICT's step (R348). -/
def State.kvEvict (s : State) (p : KvPage) (mask : Nat) : Except PFault State := match s.kvHeader p with
  | .error f => .error f
  | .ok (h, s) =>
    if hdrSealed h then .error (pf 6 p.va)
    else
      let surv := (BitVec.ofNat 512 (hdrSurv h) &&& ~~~(BitVec.ofNat 512 mask)).toNat
      .ok (s.putHdr p.hpa (setFld (setFld h 0 512 surv) 528 16 (popAux surv 512)))
/-- KVEVICT (R348). -/
def execKvevict (c : Ctl) (d : VReg) (a : SReg) (s : State) : Host.Outcome State Fault Refusal :=
  wholeOp c 1 s
    (fun g s k lanes => kvPlan [s.wholeRow k lanes d.toNat] [] [a.toNat, a.toNat + 1] a true false g s k lanes none)
    (fun g s k lanes =>
      let row := s.wholeRow k lanes d.toNat
      let (ws, s) := s.readRow g k row
      match s.kvPage g k (lanes.headD 0) a true false with
      | (none, s) => (s, none)
      | (some p, s) => match s.kvEvict p (bf (lineOfWords (ws.map BitVec.toNat)) 0 512) with
        | .error f => (s.reportHdr k p, some f)
        | .ok s => ((s.dropKv (coreOf k) [p.hpa / 128]).settleRows g (rowElems k [row]), none))
/-- KVSEAL's step (R349). -/
def State.kvSeal (s : State) (ctx : Nat) (p : KvPage) : Except PFault State := match s.kvHeader p with
  | .error f => .error f
  | .ok (h, s) =>
    if hdrSealed h then .ok s
    else
      let s := s.putHdr p.hpa (setFld (setFld h 564 1 1) 704 64 s.millis)
      let s := { s with sealedKv := (p.hpa / 128, p.pa / 2 ^ 16) :: s.sealedKv }
      .ok (s.modHalf (homeHalf p.pa) (fun x => if x.steeper.length < 65536 then { x with
        steeper := x.steeper ++ [{ frame := p.pa / 2 ^ 16, ctx, hdr := p.hpa, staging := false, image := [] }] } else x))
/-- KVSEAL (R349): once per warp. -/
def execKvseal (c : Ctl) (a : SReg) (s : State) : Host.Outcome State Fault Refusal :=
  warpOp c 1 s
    (fun g s k => match s.sWhy k [a.toNat, a.toNat + 1] with
      | some w => .lock w
      | none =>
        let va := (s.warp k).sPair a.toNat
        let lane := (g.lanesOf k).headD 0
        if s.sEarly g k a.toNat then .done g.next
        else ((s.kvCk k lane va true false).fate g (s.kvHeavyVa k lane va)).unless (s.warpAnswers k (g.lanesOf k) true))
    (fun g s k =>
      match s.kvPage g k ((g.lanesOf k).headD 0) a true false with
      | (none, s) => (s, g.all k (.done g.next))
      | (some p, s) => match s.kvSeal (s.ctxOf k) p with
        | .error f => (s.reportHdr k p, g.all k (.fault f g.pc))
        | .ok s => (s.dropKv (coreOf k) [p.hpa / 128], g.all k (.done g.next)))
/-- KVHDR (R350). -/
def execKvhdr (c : Ctl) (d : VReg) (a : SReg) (s : State) : Host.Outcome State Fault Refusal :=
  wholeOp c 1 s
    (fun g s k lanes => kvPlan [] [s.wholeRow k lanes d.toNat] [a.toNat, a.toNat + 1] a false false g s k lanes none)
    (fun g s k lanes =>
      let row := s.wholeRow k lanes d.toNat
      let land := fun (s : State) (x : LineBits) => ((s.landRow k row { data := x, tag := 0, scales := 0 } false).settleRows g (rowElems k [row]), none)
      if s.sEarly g k a.toNat then land s.free.2 (BitVec.ofNat 1024 s.free.1)
      else match s.kvPage g k (lanes.headD 0) a false false with
        | (none, s) => (s, none)
        | (some p, s) => match s.kvHeader p with
          | .error f => (s.reportHdr k p, some f)
          | .ok (h, s) => land (s.dropKv (coreOf k) [p.hpa / 128]) h)

-- The Steeper (R342) ---------------------------------------------------------------------------------------------------------------------------

/-- A frame's item enters quarantine: it is stamped, and RECESS advances (R240, R337). -/
def State.quarantine (s : State) (p hd : Nat) (item : DWord) : State :=
  s.modPart p (fun x => { x with recess := x.recess + 1, quar := x.quar ++ [⟨hd, item, x.recess⟩] })
/-- Take a frame's entry out of a half-die's list. -/
def State.dropSteep (s : State) (hd frame : Nat) : State :=
  s.modHalf hd (fun x => { x with steeper := x.steeper.filter (fun e => e.frame != frame) })
/-- The 256 lines of a converted page (R342): survivors in ascending order, each re-quantised to E2M1. -/
def steepImage (h : LineBits) (line : Nat → Line) : List Line :=
  let f := hdrFmt h
  let bs := ((List.range 512).filter (fun i => h.getLsbD i)).flatMap (fun i =>
    (lineBlks f (line i).data (line i).scales).map (fun b => quantiseBlock (b.vals f) .e2m1 .fit (fun _ => .rne)))
  let ls := blockLines 5 bs
  ls ++ List.replicate (256 - ls.length) { data := 0, tag := 5, scales := 0 }
/-- STEEPER_STAGE (R342): step 1 and the staging of a listed page whose age has reached KVAGE. [DEDUCED, log 104] -/
def execSteeperStage (hd frame : Nat) (s : State) : Host.Outcome State Fault Refusal :=
  if 8 ≤ hd then .fault .noSuchUnit
  else match (s.half hd).steeper.find? (fun e => e.frame == frame && !e.staging) with
    | none => .next s
    | some e =>
      let age := (s.ctx e.ctx).kvage
      let h := (s.line (e.hdr / 128)).data
      if age = 0 then .next s
      else if (s.lineBad (e.hdr / 128)).isSome || !hdrValid h || (hdrFmt h != 1 && hdrFmt h != 2) then .next (s.dropSteep hd frame)
      else if s.millis - hdrAge h < age then .next s
      else
        let s := s.putHdr e.hdr (setFld h 565 1 1)
        match (List.range 512).findSome? (fun i =>
            let n := frame * 512 + i
            (if populated (128 * n) then s.lineBad n else some 0).map (fun x => (x, n))) with
        | some (info, n) => .next (((s.putHdr e.hdr (setFld h 565 1 0)).reportLine e.ctx info n).report 7 frame (128 * n) e.ctx (hd / 2) (some (s.half hd).part) |>.dropSteep hd frame)
        | none =>
          let image := steepImage h (fun i => s.line (frame * 512 + i))
          .next (s.modHalf hd (fun x => { x with steeper := x.steeper.map (fun y => if y.frame == frame then { y with staging := true, image } else y) }))
/-- STEEPER_COMMIT (R342): step 2 of a staged page, and its upper half into quarantine. -/
def execSteeperCommit (hd frame : Nat) (s : State) : Host.Outcome State Fault Refusal :=
  if 8 ≤ hd then .fault .noSuchUnit
  else match (s.half hd).steeper.find? (fun e => e.frame == frame && e.staging) with
    | none => .next s
    | some e =>
      let h := (s.line (e.hdr / 128)).data
      if (s.lineBad (e.hdr / 128)).isSome || !hdrValid h then .next (s.dropSteep hd frame)
      else
        let s := e.image.zipIdx.foldl (fun s l => s.kvPut (frame * 512 + l.2) l.1) s
        let s := s.putHdr e.hdr (setFld (setFld (setFld h 560 4 5) 565 1 0) 512 16 (hdrGen h + 1))
        let s := (s.dropSteep hd frame).modHalf hd (fun x => { x with converted := frame :: x.converted.filter (· ≠ frame) })
        .next (s.quarantine (s.half hd).part hd (BitVec.ofNat 64 (frame * 2 ^ 16 + 0x8005)))

end Sys2Proof.Machine
end

