-- ==== Sys2Proof/Machine/Engines.lean ====
section
/-! DEFINITION. Engine commands (R295 to R303, R311, R316, R319): their command lines, the checks at issue, and CPY, GATH, SCAT,
COLL and REPART as instructions; completion records and failures. -/
namespace Sys2Proof.Machine

-- Command lines (R297) -----------------------------------------------------------------------------------------------------------------

def cmdCrec (l : LineBits) : DWord := l.extractLsb' 64 64
def cmdCtag (l : LineBits) : Nat := bf l 48 16
def cmdKind (l : LineBits) : Nat := bf l 8 4
def cmdScope (l : LineBits) : Nat := bf l 0 3
/-- Bits [hi − 1 : lo] of a line are 0. -/
def rsv0 (l : LineBits) (lo hi : Nat) : Bool := bf l lo (hi - lo) == 0
/-- The header of a command of an OP is accepted (R297). -/
def cmdHeader (l : LineBits) (op lo : Nat) : Bool :=
  cmdKind l == op && rsv0 l 12 48 && rsv0 l 3 8 && decide (lo ≤ cmdScope l) && decide (cmdScope l ≤ 5)

-- CPY (R303, R304)
def cpyK2 (l : LineBits) : Int := sx 8 (bf l 368 8)
def cpySrid (l : LineBits) : Nat := bf l 376 8
def cpyDspace (l : LineBits) : Bool := l.getLsbD 366
def cpySspace (l : LineBits) : Bool := l.getLsbD 365
def cpySat (l : LineBits) : Bool := l.getLsbD 364
def cpySel (l : LineBits) : Sel := if l.getLsbD 363 then .fit else .floor
def cpyMode (l : LineBits) : Nat := bf l 360 3
def cpyFmt (l : LineBits) : Nat := bf l 356 4
def cpyOpc (l : LineBits) : Nat := bf l 352 3
def cpyNrows (l : LineBits) : Nat := bf l 336 16
def cpyNcols (l : LineBits) : Nat := bf l 320 16
def cpyDstr (l : LineBits) : Nat := bf l 288 32
def cpySstr (l : LineBits) : Nat := bf l 256 32
def cpyDst (l : LineBits) : DWord := l.extractLsb' 192 64
def cpySrc (l : LineBits) : DWord := l.extractLsb' 128 64
/-- Source lines packed into one of a quantise (R304). -/
def cpyGroup (l : LineBits) : Nat := tagBlocks (cpyFmt l)
/-- DROWS and DCOLS (R304), `bpl` the lines one source line of a dequantise becomes. -/
def cpyDrows (l : LineBits) : Nat := if cpyOpc l = 3 then 32 * cpyNcols l else cpyNrows l
def cpyDcols (l : LineBits) (bpl : Nat) : Nat := match cpyOpc l with
  | 1 => cpyNcols l / cpyGroup l
  | 2 => cpyNcols l * bpl
  | 3 => cpyNrows l / 32
  | _ => cpyNcols l
/-- A range of lines lies in a region of `scr` bytes. -/
def inRegion (scr : Nat) (base : DWord) (rows str cols : Nat) : Bool :=
  decide (base.toNat < 2 ^ 32) && decide (base.toNat + (rows - 1) * str + 128 * cols ≤ scr)
/-- A CPY command line is accepted (R297, R303). -/
def cpyValid (l : LineBits) (scr bpl : Nat) : Bool :=
  let o := cpyOpc l
  cmdHeader l 0 2 && cmdCrec l == 0 && rsv0 l 384 1024 && rsv0 l 367 368 && rsv0 l 355 356
    && o ≤ 4 && cpyMode l ≤ 4 && 1 ≤ cpyNrows l && 1 ≤ cpyNcols l && cpyNrows l * cpyNcols l ≤ 32768
    && (if o = 1 then 1 ≤ cpyFmt l && cpyFmt l ≤ 8 else cpyFmt l == 0)
    && cpyDstr l % 128 == 0 && cpySstr l % 128 == 0 && (cpyDst l).toNat % 128 == 0 && (cpySrc l).toNat % 128 == 0
    && (o != 1 || cpyNcols l % cpyGroup l == 0) && (o != 3 || cpyNrows l % 32 == 0)
    && (cpyDrows l ≤ 1 || decide (128 * cpyDcols l bpl ≤ cpyDstr l))
    && (!cpySspace l || inRegion scr (cpySrc l) (cpyNrows l) (cpySstr l) (cpyNcols l))
    && (!cpyDspace l || (inRegion scr (cpyDst l) (cpyDrows l) (cpyDstr l) (cpyDcols l bpl) && !(o == 1 && cpyFmt l ≤ 6) && o != 4))

-- GATH and SCAT (R311)
def gsPbase (l : LineBits) : DWord := l.extractLsb' 384 64
def gsRop (l : LineBits) : Nat := bf l 358 2
def gsOob (l : LineBits) : Bool := l.getLsbD 357
def gsRlines (l : LineBits) : Nat := bf l 352 5
def gsTrows (l : LineBits) : Nat := bf l 320 32
def gsTstr (l : LineBits) : Nat := bf l 288 32
def gsTbase (l : LineBits) : DWord := l.extractLsb' 224 64
def gsCount (l : LineBits) : Nat := bf l 192 32
def gsIdx (l : LineBits) : DWord := l.extractLsb' 128 64
/-- A GATH (op 1) or SCAT (op 2) command line is accepted (R297, R311). -/
def gsValid (l : LineBits) (op : Nat) : Bool :=
  cmdHeader l op 3 && rsv0 l 448 1024 && rsv0 l 360 384 && (gsPbase l).toNat % 128 == 0 && (gsTbase l).toNat % 128 == 0
    && (gsIdx l).toNat % 4 == 0 && (if op = 1 then gsRop l == 0 else gsRop l ≤ 1) && 1 ≤ gsRlines l && gsRlines l ≤ 16
    && 1 ≤ gsTrows l && gsTstr l % 128 == 0 && 128 * gsRlines l ≤ gsTstr l && 1 ≤ gsCount l && gsCount l ≤ 2 ^ 24

-- COLL and REPART (R316, R319)
def grpRank (l : LineBits) : Nat := bf l 364 10
def grpNrank (l : LineBits) : Nat := bf l 352 11
def grpEpoch (l : LineBits) : Nat := bf l 336 16
def grpGid (l : LineBits) : Nat := bf l 320 16
def grpRtab (l : LineBits) : DWord := l.extractLsb' 256 64
def grpSbuf (l : LineBits) : DWord := l.extractLsb' 128 64
/-- DBUF of COLL, OBUF of REPART. -/
def grpDbuf (l : LineBits) : DWord := l.extractLsb' 192 64
def collSeed (l : LineBits) : DWord := l.extractLsb' 416 64
def collNl (l : LineBits) : Nat := bf l 384 32
def collSel (l : LineBits) : Sel := if l.getLsbD 383 then .fit else .floor
def collMode (l : LineBits) : Nat := bf l 380 3
def collFmt (l : LineBits) : Nat := bf l 376 4
def collCop (l : LineBits) : Nat := bf l 374 2
/-- A COLL command line is accepted (R297, R316). -/
def collValid (l : LineBits) : Bool :=
  cmdHeader l 3 3 && rsv0 l 480 1024 && rsv0 l 363 364 && 1 ≤ grpNrank l && grpNrank l ≤ 1024 && grpRank l < grpNrank l
    && 1 ≤ collNl l && collNl l ≤ 2 ^ 22 && collCop l ≤ 2 && collMode l ≤ 4 && collFmt l ≤ 9 && (collFmt l != 0 || collCop l == 2)
    && (collCop l != 1 || collNl l % grpNrank l == 0)
def repNrec (l : LineBits) : Nat := bf l 384 32
def repRcap (l : LineBits) : Nat := bf l 416 32
/-- Record size in bytes. -/
def repSize (l : LineBits) : Nat := 8 * bf l 376 6
def repWen (l : LineBits) : Bool := l.getLsbD 480
/-- Byte offsets of x, y, z and the weight. -/
def repOff (l : LineBits) (i : Nat) : Nat := 4 * bf l (448 + 8 * i) 8
/-- Bounds of the domain box on axis i. -/
def repLo (l : LineBits) (i : Nat) : Num := f32 (l.extractLsb' (512 + 32 * i) 32)
def repHi (l : LineBits) (i : Nat) : Num := f32 (l.extractLsb' (608 + 32 * i) 32)
/-- A REPART command line is accepted (R297, R319). -/
def repValid (l : LineBits) : Bool :=
  cmdHeader l 4 3 && rsv0 l 704 1024 && rsv0 l 481 512 && rsv0 l 382 384 && rsv0 l 374 376 && rsv0 l 363 364
    && 1 ≤ grpNrank l && grpNrank l ≤ 1024 && grpRank l < grpNrank l && 16 ≤ repSize l && repSize l ≤ 256
    && (List.range 4).all (fun i => decide (repOff l i + 4 ≤ repSize l))
    && (List.range 3).all (fun i => !(repLo l i).nonfin && !(repHi l i).nonfin && (repLo l i).lt (repHi l i))

-- Issue (R296) ---------------------------------------------------------------------------------------------------------------------------

/-- A command line lies on a normal page (R296). -/
def engLineKind : AccKind := {}
/-- CREC lies on a normal page of the partition (R297). [DEDUCED, log 71] -/
def State.crecOk (s : State) (ctx : Nat) (va : DWord) : Bool := decide (va.toNat % 128 = 0) && (match s.translate .agent ctx va with
  | .ok t =>
    let e := t.leaf.toNat
    fld e 4 2 == 0 && fld e 9 2 == 0 && s.inPart (s.ctx ctx).part (fld e 16 32 * 2 ^ 16 + (va.toNat - t.base)) 1
  | .fault _ => false
  | _ => true)
/-- The fault of a walk for CREC that meets a line whose check fails (R450). -/
def State.crecFault (s : State) (ctx : Nat) (va : DWord) : Option PFault := match s.translate .agent ctx va with
  | .fault f => if f.cause = 7 then some f else none
  | _ => none
/-- The fields of the command are accepted (R297, R303, R311, R316, R319). -/
def State.cmdFields (s : State) (slot op bpl : Nat) (l : LineBits) : Bool := match op with
  | 0 => cpyValid l (s.wgOf slot).scr bpl
  | 1 | 2 => gsValid l op
  | 3 => collValid l
  | _ => repValid l
/-- The fault of a command that is not accepted (R297, R450). -/
def State.cmdFault (s : State) (slot op bpl : Nat) (l : LineBits) (va : DWord) : Option PFault :=
  if !s.cmdFields slot op bpl l then some (pf 5 va)
  else if op = 0 then none
  else match s.crecFault (s.ctxOf slot) (cmdCrec l) with
    | some f => some f
    | none => if s.crecOk (s.ctxOf slot) (cmdCrec l) then none else some (pf 5 va)
/-- Where a warp's command line is. -/
def State.cmdCk (s : State) (g : Grp) (a : SReg) (k : Nat) : Ck Acc :=
  let va := (s.warp k).sPair a.toNat
  (s.warpAccess k ((g.lanesOf k).headD 0) 128 va engLineKind).bind (fun x => match x.t with
    | .io _ => .fault (pf 6 va)
    | _ => .ok x)
/-- The command line of another package that a warp has read, or a copy of it that its half-die holds (R234, R296). -/
def State.heldCmd (s : State) (k : Nat) (va leaf : DWord) : Option Line :=
  match s.copyOf k (s.ctxOf k) va leaf with
  | some l => some l
  | none => (s.warp k).cmd.bind (fun x => if x.1 = va then some x.2 else none)
/-- The read of a command line that lies in another package and is not held (R296, R411). -/
def State.cmdSend (s : State) (g : Grp) (a : SReg) (k : Nat) : Option RSend :=
  match s.cmdCk g a k with
  | .ok ⟨va, .remote _ leaf, _⟩ =>
    if (s.heldCmd k va leaf).isSome then none
    else some (s.remoteSend k leaf (s.requestFor k va leaf 1 false) (lanesAwait k (g.lanesOf k) false none .cmd []))
  | _ => none
/-- A warp's command line once it is there: from this package, or held from another. -/
def State.cmdLine (s : State) (k : Nat) (x : Acc) : Except Nat (Line × State) := match x.t with
  | .mem pa mt => s.readLine k .plain pa mt
  | .remote _ leaf => .ok ((s.heldCmd k x.va leaf).getD default, s)
  | .io _ => .error 1
/-- The TAG of the first source line of a dequantise, as it stands at issue: how many destination lines its ticket counts for
each source line follows from it. Where the line is not at hand the number is undefined. [DEDUCED, log 72] -/
def State.cpyBpl (s : State) (k lane : Nat) (l : LineBits) : Ck Nat :=
  if cpyOpc l ≠ 2 then .ok 1
  else if cpySspace l then .ok 1
  else match s.warpAccess k lane 128 (cpySrc l) lineLoadKind with
    | .ok ⟨_, .mem pa _, _⟩ =>
      let t := (s.line (pa / 128)).tag.toNat
      .ok (if 1 ≤ t ∧ t ≤ 8 then tagBlocks t else 1)
    | .light l => .light l
    | _ => .ok ([2, 4, 5, 8].getD (s.free.1 % 4) 4)
/-- The engine a command of a half-die joins. -/
def HalfDie.queueOf (h : HalfDie) (op : Nat) : List EngCmd := match op with
  | 1 | 2 => h.gs
  | 3 => h.coll
  | _ => h.rep
def HalfDie.enqueue (h : HalfDie) (op : Nat) (c : EngCmd) : HalfDie := match op with
  | 1 | 2 => { h with gs := h.gs ++ [c] }
  | 3 => { h with coll := h.coll ++ [c] }
  | _ => { h with rep := h.rep ++ [c] }
/-- The kind of a half-die's engine as a wait names it: 1 gather/scatter, 3 collective, 4 repartition. -/
def engKind (op : Nat) : Nat := if op = 2 then 1 else op

/-- A channel's record in memory (R308). -/
def State.mirrorChan (s : State) (cl n : Nat) : State :=
  let c := (s.cluster cl).chans.get n
  let pa := cl / 6 * 2 ^ 36 + 0xC90400000 + 512 * (cl % 6) + 32 * n
  let s := s.pokeDev pa 8 (put (put (put c.wp.toNat 32 c.queue.length) 40 c.cause.toNat) 62 c.st)
  s.pokeDev (pa + 8) 8 c.faddr.toNat
def State.modChan (s : State) (cl n : Nat) (f : Chan → Chan) : State :=
  (s.modCluster cl (fun x => { x with chans := x.chans.put n (f (x.chans.get n)) })).mirrorChan cl n

/-- What an ENG group meets in a warp (R296, R117); the commands of the group's earlier warps take their places first. -/
def engPlan (op ch : Nat) (d : Option SReg) (a : SReg) (g : Grp) (s : State) (k : Nat) : Fate :=
  let va := (s.warp k).sPair a.toNat
  let before := g.actWarps.findIdx (· == k)
  match s.sWhy k ([a.toNat, a.toNat + 1] ++ d.toList.map BitVec.toNat) with
  | some w => .lock w
  | none =>
    if (g.lanesOf k).any (fun l => s.hasRemote k l) then .lock (.release none)
    else if s.sEarly g k a.toNat then .done g.next
    else match s.cmdCk g a k with
      | .ok x =>
        if (s.cmdSend g a k).isSome then .lock ((s.warpTriple g (s.cmdSend g a) k).getD (.answers true))
        else match s.cmdLine k x with
          | .error i => .fault (pf 7 va i) g.pc
          | .ok (l, s1) => match s1.cpyBpl k ((g.lanesOf k).headD 0) (if op = 0 then l.data else 0) with
            | .ok bpl => match s1.cmdFault k op bpl l.data va with
              | some f => .fault f g.pc
              | none =>
              if op = 0 then
                (if 8 ≤ ((s.cluster (clusterOf k)).chans.get ch).queue.length + before then .lock (.channel (clusterOf k * 16 + ch)) else .done g.next)
              else if 16 ≤ ((s.half (halfOf k)).queueOf op).length + before then .lock (.engine (halfOf k) (engKind op)) else .done g.next
            | y => y.fate g (cpySrc l.data)
      | y => y.fate g va
/-- The fate leaves a command line that a warp has read from another package for the group's next issue. -/
def Fate.keepsCmd : Fate → Bool
  | .retry => true
  | .lock (.answers _) => true
  | _ => false
/-- Command lines of another package are asked for, one read for each warp that lacks its own (R296). -/
def State.askCmds (s : State) (g : Grp) (op ch : Nat) (d : Option SReg) (a : SReg) : State :=
  s.sendAll ((g.actWarps.filter (fun k => engPlan op ch d a g s k == .lock (.answers true))).filterMap (s.cmdSend g a))
/-- A warp's command is captured and joins its queue (R296). [DEDUCED, log 71] -/
def State.engIssue (s : State) (op ch : Nat) (d : Option SReg) (a : SReg) (g : Grp) (k : Nat) : State :=
  let undefinedSd := fun (s : State) => match d with
    | some r => s.free.2.addPend { Pending.empty k with sregs := [(r.toNat, BitVec.ofNat 32 s.free.1)] }
    | none => s
  if s.sEarly g k a.toNat then undefinedSd s
  else match s.cmdCk g a k with
    | .ok x =>
        let s := s.fill k ((g.lanesOf k).headD 0) x.tr
        match s.cmdLine k x with
        | .error _ => s
        | .ok (l, s) =>
          let bpl := match s.cpyBpl k ((g.lanesOf k).headD 0) (if op = 0 then l.data else 0) with
            | .ok b => b
            | _ => 1
          let s := if op = 0 then s.free.2 else s
          let w := s.warp k
          let wg := s.wgOf k
          let kn := s.kernelOf k
          let cmd : EngCmd := {
            id := s.nextId, line := l.data, ctx := kn.ctx, part := kn.part, kernel := wg.kernel, wg := w.wg, wid := w.wid
            launch := BitVec.ofNat 16 kn.launch, wgidx := wg.idx, ticket := 0, doneLines := 0, tag := none, bpl, nf := false, aborted := false }
          let s := { s with nextId := s.nextId + 1 }
          if op = 0 then
            let cl := clusterOf k
            let e := ((s.cluster cl).chans.get ch).tick + BitVec.ofNat 32 (cpyDrows l.data * cpyDcols l.data bpl)
            let s := s.modChan cl ch (fun x => { x with
              tick := e, queue := x.queue ++ [{ cmd with ticket := e }], st := if x.st = 0 then 1 else x.st })
            match d with
            | some r => s.addPend { Pending.empty k with sregs := [(r.toNat, e)] }
            | none => s
          else s.modHalf (halfOf k) (fun h => h.enqueue op cmd)
    | _ => s
/-- An ENG group (R296): a release by each of its threads toward the engine. -/
def engOp (c : Ctl) (op ch : Nat) (d : Option SReg) (a : SReg) (s : State) : Host.Outcome State Fault Refusal :=
  issue c 1 s fun g s =>
    let (s, ds, h) := s.settleReleases g
    if h.acts.isEmpty then (s, ds)
    else
      let s := s.askCmds h op ch d a
      let (s, fs) := runWarps h s (engPlan op ch d a h) (fun s k => (s.engIssue op ch d a h k, h.all k (.done h.next)))
      let s := ((fs.filter (fun e => !e.2.keepsCmd)).map (fun e => e.1.1)).eraseDups.foldl (fun s k => s.modWarp k (fun w => { w with cmd := none })) s
      (s, ds ++ fs)
def execCpy (c : Ctl) (ch : BitVec 4) (d a : SReg) (s : State) := engOp c 0 ch.toNat (some d) a s
def execGath (c : Ctl) (a : SReg) (s : State) := engOp c 1 0 none a s
def execScat (c : Ctl) (a : SReg) (s : State) := engOp c 2 0 none a s
def execColl (c : Ctl) (a : SReg) (s : State) := engOp c 3 0 none a s
def execRepart (c : Ctl) (a : SReg) (s : State) := engOp c 4 0 none a s

-- Causes, records, failures (R298, R299, R301, R309) ------------------------------------------------------------------------------------------

/-- The cause code of an access that failed (R298). -/
def engCause (f : PFault) : Nat := match f.cause.toNat with
  | 4 => 1
  | 7 => if f.info = 3 then 4 else if f.info = 4 then 5 else 3
  | 8 => 6
  | _ => 2
/-- The agent that runs a command at a half-die. -/
def EngCmd.agent (c : EngCmd) (hd : Nat) : Agent :=
  { hd, key := .work c.id 0, ctx := c.ctx, kernel := c.kernel, widx := c.wgidx, wid := c.wid }
/-- NF of a warp in a saved frame is set, in the device's record and in memory: bit 48 of its state line (R301, R395). -/
def State.frameNF (s : State) (f : Frame) (wid : Nat) : State :=
  if !f.warps.any (fun e => e.1 == wid) then s
  else
    let pa := s.frameBase f.ctx f.slot + 0x1000 + 0x1000 * wid + 6
    { s.pokeDev pa 1 (s.mem.read pa 1 ||| 1) with frames := s.frames.map (fun x => if x.id == f.id then { x with
      warps := x.warps.map (fun w x => if w = wid then { x with nf := true } else x) } else x) }
/-- NF of the issuing warp, where it is resident or saved, as the command completes (R301). -/
def State.engNF (s : State) (c : EngCmd) (nf : Bool) : State :=
  if !nf then s
  else match s.slotOf c.wg c.wid with
    | some k => s.modWarp k (fun w => { w with nf := true })
    | none => match s.frames.find? (fun f => f.id == c.wg) with
      | some f => s.frameNF f c.wid
      | none => s
/-- The issuing kernel completes as faulted, cause 2 (R299, R309, R366). [DEDUCED, log 75] -/
def State.engFaulted (s : State) (k : Nat) : State := s.modKernel k (fun r => { r with cause := if r.cause = 0 then 2 else r.cause })
/-- What a command ends with (R299). -/
structure EngEnd where
  result : Nat := 1
  cause  : Nat := 0
  frank  : Nat := 0
  faddr  : DWord := 0
  cnt0   : Nat := 0
  cnt1   : Nat := 0
  cnt2   : Nat := 0
  cnt3   : Nat := 0
  total  : Nat := 0
  gkept  : Nat := 0
  deriving DecidableEq, Repr
/-- The completion record (R299). -/
def EngEnd.line (e : EngEnd) (ctag : Nat) : Line :=
  let r := put (put (put (put (put e.result 32 e.cause) 48 ctag) 64 (e.cnt0 % 2 ^ 32)) 96 (e.cnt1 % 2 ^ 32)) 128 (e.cnt2 % 2 ^ 32)
  let r := put (put (put (put (put r 160 (e.cnt3 % 2 ^ 32)) 192 e.faddr.toNat) 256 e.frank) 288 (e.total % 2 ^ 64)) 352 (e.gkept % 2 ^ 32)
  { data := BitVec.ofNat 1024 r, tag := 0, scales := 0 }
/-- A command that stopped leaves its counts undefined (R299). -/
def State.freeCounts (s : State) (e : EngEnd) : EngEnd × State :=
  if e.result ≠ 3 then (e, s)
  else
    let (v, s) := s.free
    ({ e with cnt0 := fld v 0 32, cnt1 := fld v 32 32, cnt2 := fld v 64 32, cnt3 := fld v 96 32, total := fld v 128 64, gkept := fld v 192 32 }, s)
/-- The end of a command of a fabric engine: its completion record, or a fault record and the kernel faulted (R299);
`none` while the record's page waits. [DEDUCED, log 75] -/
def State.engRecord (s : State) (hd : Nat) (c : EngCmd) (e : EngEnd) : Option State :=
  let (e, s) := s.freeCounts e
  match s.agentPlace (c.agent hd) (cmdCrec c.line) with
  | (.error .wait, _) => none
  | (.ok (.mem pa mt), s) => some (s.agentPut (.mem pa mt) (e.line (cmdCtag c.line)))
  | (_, s) => some ((s.faultRecord c.ctx 6 0 0 0 (cmdCrec c.line) 0 c.kernel c.wgidx c.wid 0 0).engFaulted c.kernel)
/-- Undefined lines at addresses an engine could write, each whole (R312, R315). -/
def State.spoilLines (s : State) (g : Agent) (vas : List DWord) : State :=
  let (v, s) := s.free
  let (ts, s) := s.agentPlaces g vas
  ((ts.zip (freeLines v vas.length)).foldl (fun s x => match x.1 with
    | .ok (.mem pa mt) => s.agentPut (.mem pa mt) { x.2 with tag := BitVec.ofNat 4 (x.2.tag.toNat % 10) }
    | _ => s) s)
/-- Some bytes of a line become undefined, the rest of it as it was; a whole line, with its TAG and slots. -/
def State.spoilPart (s : State) (t : Except Halt Target) (lo hi : Nat) : State := match t with
  | .ok (.mem pa _) =>
    let (v, s) := s.free
    let u := (freeLines v 1).headD default
    let u := { u with tag := BitVec.ofNat 4 (u.tag.toNat % 10) }
    let m := BitVec.ofNat 1024 (maskBits (BitVec.ofNat 128 ((2 ^ (hi - lo) - 1) * 2 ^ lo)))
    let old := s.line (pa / 128)
    (s.putLine (pa / 128) (if lo = 0 ∧ hi = 128 then u else { old with data := (old.data &&& ~~~m) ||| (u.data &&& m) })).loosen s (pa + lo) (pa + hi)
  | _ => s
/-- A region of an agent's address space becomes undefined, where the agent may write it; the bytes outside it stay (R315,
R319). -/
def State.spoilRegion (s : State) (g : Agent) (va : DWord) (n : Nat) : State :=
  let o := va.toNat % 128
  let (ts, s) := s.agentPlaces g ((List.range (ceilDiv (o + n) 128)).map (fun i => lineVa va + BitVec.ofNat 64 (128 * i)))
  if n = 0 then s
  else ts.zipIdx.foldl (fun s t => s.spoilPart t.1 (o - 128 * t.2) (min 128 (o + n - 128 * t.2))) s

end Sys2Proof.Machine
end

