-- ==== Sys2Proof/Machine/Channels.lean ====
section
/-! DEFINITION. The engines at work: copy channels (R302 to R309) and the gather/scatter engine (R311 to R313). -/
namespace Sys2Proof.Machine

-- Values of CPY (R304 to R306) ----------------------------------------------------------------------------------------------------------

/-- The draw of element k of source line n (R306). -/
def cpyDraw (c : EngCmd) (seed : DWord) (n k : Nat) : Nat :=
  (draw seed (c.launch.toNat * 2 ^ 34 + c.wgidx * 2 ^ 10 + 0x3FF) (2 ^ 31 + cpySrid c.line * 2 ^ 23 + 256 * n + k)).toNat
/-- A line's 32 words as FP32 values. -/
def wordVals (l : Line) : List Num := (List.range 32).map (fun i => f32 (lineWord l.data i))
/-- A quantise: source lines (with their number) packed into one (R305). -/
def cpyQuantise (c : EngCmd) (seed : DWord) (ls : List (Nat × Line)) : Line × Bool :=
  let bs := ls.map (fun x => toBlock (cpyFmt c.line) (cpySel c.line) (cpySat c.line) (fun k => modeOf (cpyMode c.line) (cpyDraw c seed x.1 k))
    ((wordVals x.2).map (fun v => v.scale (cpyK2 c.line))))
  ((blockLines (cpyFmt c.line) bs).headD default,
   ls.any (fun x => nfOf (wordVals x.2)) || bs.any (blockNF (cpyFmt c.line)))
/-- A dequantise: block b of a source line as a line of FP32 (R305). -/
def cpyDequantise (c : EngCmd) (seed : DWord) (n b : Nat) (l : Line) : Line × Bool :=
  let t := l.tag.toNat
  let x := blkOf t l.data l.scales b
  let ws := (x.vals t).zipIdx.map (fun v => toF32 (modeOf (cpyMode c.line) (cpyDraw c seed n (32 * b + v.2))) (cpySat c.line) (v.1.scale (cpyK2 c.line)))
  ({ data := lineOfWords (ws.map BitVec.toNat), tag := 9, scales := 0 }, x.odd t || ws.any wordNF)
/-- A rescale of a line (R305). -/
def cpyRescale (c : EngCmd) (seed : DWord) (n : Nat) (l : Line) : Line × Bool :=
  let t := l.tag.toNat
  let k2 := cpyK2 c.line
  let codes := fun (x : Blk) => (List.range 32).map (fun i => fld x.bits ((tagFmt t).width * i) (tagFmt t).width)
  let one := fun (x : Blk × Nat) =>
    let sc : Int := x.1.scale + k2
    if tagMx t ∧ x.1.scale = 0xFF then (codes x.1, 0xFF)
    else if tagMx t ∧ 0 ≤ sc ∧ sc ≤ 254 then (codes x.1, sc.toNat)
    else toBlock t (cpySel c.line) (cpySat c.line) (fun k => modeOf (cpyMode c.line) (cpyDraw c seed n (32 * x.2 + k)))
      ((x.1.vals t).map (fun v => v.scale k2))
  let xs := lineBlks t l.data l.scales
  let bs := xs.zipIdx.map one
  ((blockLines t bs).headD default, xs.any (·.odd t) || bs.any (blockNF t))
/-- The TAG an operation accepts (R304). -/
def cpyAccepts (opc t : Nat) : Bool := match opc with
  | 0 => t ≤ 9
  | 1 | 3 => t == 0 || t == 9
  | 2 => 1 ≤ t && t ≤ 8
  | _ => 1 ≤ t && t ≤ 9

-- Lines of CPY (R303, R307) --------------------------------------------------------------------------------------------------------------

/-- Address of a source line. -/
def cpySrcAt (l : LineBits) (r c : Nat) : DWord := cpySrc l + BitVec.ofNat 64 (r * cpySstr l + 128 * c)
/-- Address of a destination line. -/
def cpyDstAt (l : LineBits) (r c : Nat) : DWord := cpyDst l + BitVec.ofNat 64 (r * cpyDstr l + 128 * c)
/-- The source lines of destination line (r, c), row and column. -/
def cpySources (c : EngCmd) (r k : Nat) : List (Nat × Nat) := match cpyOpc c.line with
  | 1 => (List.range (cpyGroup c.line)).map (fun i => (r, cpyGroup c.line * k + i))
  | 2 => [(r, k / c.bpl)]
  | 3 => (List.range 32).map (fun i => (32 * k + i, r / 32))
  | _ => [(r, k)]
/-- An address is one of rows of lines. -/
def inLines (va base : DWord) (str rows cols : Nat) : Bool :=
  (List.range rows).any (fun r =>
    let o := (va - base - BitVec.ofNat 64 (r * str)).toNat
    decide (o < 128 * cols) && o % 128 == 0)
/-- Source and destination overlap at a destination line, or at a source line of it: its contents are undefined (R307). -/
def cpyOverlaps (c : EngCmd) (r k : Nat) : Bool :=
  let l := c.line
  cpySspace l == cpyDspace l && (inLines (cpyDstAt l r k) (cpySrc l) (cpySstr l) (cpyNrows l) (cpyNcols l)
    || (cpySources c r k).any (fun x => inLines (cpySrcAt l x.1 x.2) (cpyDst l) (cpyDstr l) (cpyDrows l) (cpyDcols l c.bpl)))
/-- A source line: memory, or the workgroup's scratchpad, whose lines have TAG 0 and slots 0 (R303); of a workgroup that has
completed nothing is left to read, and the data is undefined. -/
def State.cpyRead (s : State) (hd : Nat) (c : EngCmd) (r k : Nat) : Except Halt Line × State :=
  let va := cpySrcAt c.line r k
  if cpySspace c.line then match s.wgs.find c.wg with
    | some g => (.ok { data := BitVec.ofNat 1024 (g.spad.read va.toNat 128), tag := 0, scales := 0 }, s)
    | none => (.ok { data := BitVec.ofNat 1024 s.free.1, tag := 0, scales := 0 }, s.free.2)
  else s.agentRead (c.agent hd) (2 * c.doneLines) va
/-- Several of them; each must carry the command's TAG (R304). -/
def State.cpyReads (s : State) (hd : Nat) (c : EngCmd) (tag : Option Nat) : List (Nat × Nat) →
    Except Halt (List (Nat × Line) × Option Nat) × State
  | [] => (.ok ([], tag), s)
  | x :: r => match s.cpyRead hd c x.1 x.2 with
    | (.error h, s) => (.error h, s)
    | (.ok l, s) =>
      if !cpyAccepts (cpyOpc c.line) l.tag.toNat || tag.any (· ≠ l.tag.toNat) then
        (.error (.fault (pf 7 (cpySrcAt c.line x.1 x.2) 4)), s)
      else match s.cpyReads hd c (some l.tag.toNat) r with
        | (.ok (ls, t), s) => (.ok ((x.1 * cpyNcols c.line + x.2, l) :: ls, t), s)
        | e => e
/-- The value of destination line (r, k) from its source lines, and NF. -/
def cpyLine (c : EngCmd) (seed : DWord) (r k : Nat) (ls : List (Nat × Line)) : Line × Bool :=
  let x := ls.headD (0, default)
  match cpyOpc c.line with
  | 1 => cpyQuantise c seed ls
  | 2 => cpyDequantise c seed x.1 (k % c.bpl) x.2
  | 3 => ({ data := lineOfWords (ls.map (fun y => (lineWord y.2.data (r % 32)).toNat)), tag := x.2.tag, scales := 0 }, false)
  | 4 => cpyRescale c seed x.1 x.2
  | _ => (x.2, false)
/-- A destination line is written: memory, or data only in the scratchpad, whose region bounds it; of a workgroup that has
completed nothing is left to write (R300, R302, R303). -/
def State.cpyWrite (s : State) (hd : Nat) (c : EngCmd) (va : DWord) (l : Line) : Except Halt Unit × State :=
  if cpyDspace c.line then match s.wgs.find c.wg with
    | none => (.ok (), s)
    | some g => if va.toNat + 128 ≤ g.scr then (.ok (), s.modWg c.wg (fun g => { g with spad := g.spad.write va.toNat 128 l.data.toNat }))
      else (.error (.fault (pf 5 va)), s)
  else match s.agentPlace (c.agent hd) va with
    | (.ok t, s) => s.agentWrite (c.agent hd) (2 * c.doneLines + 1) [(t, l)]
    | (.error h, s) => (.error h, s)
/-- A command whose lines carry a TAG: of a dequantise, it is what the number of destination lines follows from (R304). [DEDUCED, log 72] -/
def EngCmd.tagged (c : EngCmd) (t : Option Nat) : EngCmd :=
  { c with tag := t, bpl := if cpyOpc c.line = 2 then tagBlocks (t.getD 0) else c.bpl }
/-- The destination lines of a copy command. -/
def EngCmd.dstLines (c : EngCmd) : Nat := cpyDrows c.line * cpyDcols c.line c.bpl
/-- One destination line (R305, R307): the command with its TAG and NF so far, or what stops it and where. -/
def State.cpyStep (s : State) (hd : Nat) (c : EngCmd) (n : Nat) : Except (Halt × DWord) EngCmd × State :=
  let cols := cpyDcols c.line c.bpl
  let (r, k) := (n / cols, n % cols)
  let dst := cpyDstAt c.line r k
  match s.cpyReads hd c c.tag (cpySources c r k) with
  | (.error h, s) => (.error (h, match h with
      | .fault f => f.addr
      | .wait => 0), s)
  | (.ok (ls, t), s) =>
    let c := c.tagged t
    let (l, nf) := cpyLine c (s.kernel c.kernel).seed r k ls
    let (l, s) := if cpyOverlaps c r k then
        let (v, s) := s.free
        let u := (freeLines v 1).headD default
        ({ u with tag := BitVec.ofNat 4 (u.tag.toNat % 10) }, s)
      else (l, s)
    match s.cpyWrite hd c dst l with
    | (.error h, s) => (.error (h, dst), s)
    | (.ok _, s) => (.ok { c with nf := c.nf || nf }, s)
/-- Up to `m` destination lines of a command, in delivery order (R307); a line that waits is begun again, and takes no free value. -/
def State.cpyRun (s : State) (hd : Nat) : Nat → EngCmd → EngCmd × Option (Halt × DWord) × State
  | 0, c => (c, none, s)
  | m + 1, c =>
    if c.dstLines ≤ c.doneLines then (c, none, s)
    else match s.cpyStep hd c c.doneLines with
      | (.error (.wait, a), s1) => (c, some (.wait, a), { s1 with fresh := s.fresh })
      | (.error h, s) => (c, some h, s)
      | (.ok c, s) => State.cpyRun (s.dropWork c.id) hd m { c with doneLines := c.doneLines + 1 }

/-- CPY_EXECUTE (R302, R307, R309): the channel's next lines, up to 16 before its write pointer is written. -/
def execCpyExecute (cluster ch : Nat) (s : State) : Host.Outcome State Fault Refusal :=
  if 48 ≤ cluster ∨ 16 ≤ ch then .fault .noSuchUnit
  else
    let x := (s.cluster cluster).chans.get ch
    let pop := fun (s : State) (c : EngCmd) (wp : Word) => (s.dropWork c.id).modChan cluster ch (fun x => { x with
      queue := x.queue.drop 1, st := if x.queue.length ≤ 1 then 0 else 1, wp })
    match x.queue with
    | [] => .next s
    | c :: rest =>
      if x.st = 2 then .next s
      else if c.aborted then .next (pop s c c.ticket)
      else
        let hd := cluster / 6
        let (d, h, s) := s.cpyRun hd 16 c
        let wp := x.wp + BitVec.ofNat 32 (d.doneLines - c.doneLines)
        match h with
        | some (.fault f, at0) =>
          let s := s.modChan cluster ch (fun x => { x with wp, st := 2, cause := BitVec.ofNat 8 (engCause f), faddr := at0, queue := d :: rest })
          .next ((s.faultRecord c.ctx 3 (engCause f) ch 0 at0 0 c.kernel c.wgidx c.wid 0 0).engFaulted c.kernel)
        | _ =>
          if d.dstLines ≤ d.doneLines then .next (pop (s.engNF d d.nf) c c.ticket)
          else .next (s.modChan cluster ch (fun x => { x with wp, queue := d :: rest }))

-- Gather and scatter (R311 to R313) ----------------------------------------------------------------------------------------------------------

/-- Address of line i of packed row j. -/
def gsPacked (l : LineBits) (j i : Nat) : DWord := gsPbase l + BitVec.ofNat 64 (128 * (gsRlines l * j + i))
/-- Address of line i of table row n. -/
def gsTable (l : LineBits) (n i : Nat) : DWord := gsTbase l + BitVec.ofNat 64 (n * gsTstr l + 128 * i)
/-- The lines of the index list. -/
def gsIndexVas (l : LineBits) : List DWord :=
  (List.range (ceilDiv ((gsIdx l).toNat % 128 + 4 * gsCount l) 128)).map (fun i => lineVa (gsIdx l) + BitVec.ofNat 64 (128 * i))
/-- The indices that lines of the list hold, in list order, each with its position; `none` stands for a line not read. -/
def gsIndexOf (l : LineBits) (ls : List (Option Line)) : List (Nat × Nat) :=
  (List.range (gsCount l)).filterMap (fun j =>
    let o := (gsIdx l).toNat % 128 + 4 * j
    (ls.getD (o / 128) none).map (fun x => ((lineWord x.data (o % 128 / 4)).toNat, j)))
/-- The index list: each line of it is read once. -/
def State.gsIndices (s : State) (g : Agent) (l : LineBits) : Except Halt (List Nat) × State :=
  match s.agentReads g 0 (gsIndexVas l) with
  | (.error h, s) => (.error h, s)
  | (.ok ls, s) => (.ok ((gsIndexOf l (ls.map some)).map Prod.fst), s)
/-- The indices in those lines of a list that can be read, where others cannot. -/
def State.gsReadable (s : State) (g : Agent) (l : LineBits) : List Nat :=
  (gsIndexOf l ((gsIndexVas l).map (fun va => match (s.agentRead g 0 va).1 with
    | .ok x => some x
    | .error _ => none))).map Prod.fst
/-- Lines that must carry TAG 0x0 or 0x9 (R313). -/
def wrongTag (vas : List DWord) (ls : List Line) : Option DWord :=
  ((vas.zip ls).find? (fun x => x.2.tag.toNat ≠ 0 ∧ x.2.tag.toNat ≠ 9)).map Prod.fst
/-- Element-wise .fadd of a packed line into a table line (R312), and NF. -/
def faddLine (t p : Line) : Line × Bool :=
  let ws := (List.range 32).map (fun i => (lineWord t.data i, lineWord p.data i))
  ({ t with data := lineOfWords (ws.map (fun w => (faddW w.1 w.2).toNat)) }, ws.any (fun w => wordNF w.1 || wordNF w.2 || wordNF (faddW w.1 w.2)))
/-- The sums of packed lines and the table lines of other packages they are added to, as those were read and as earlier ones leave
them: whether one sets NF (R312). -/
def faddNF : List (DWord × Line) → List (DWord × Target × Line × Line) → Bool
  | _, [] => false
  | seen, (va, .remote _ _, told, p) :: r =>
    let (l, nf) := faddLine (((seen.find? (fun x => x.1 == va)).map Prod.snd).getD told) p
    nf || faddNF ((va, l) :: seen) r
  | seen, _ :: r => faddNF seen r
/-- The requests that add a packed line to a line of another package: one RED for each word, from place n of the work on (R312,
R411). -/
def State.faddReqs (s : State) (g : Agent) (n : Nat) (t : Target) (p : Line) : List AgentReq := match t with
  | .remote va leaf => (List.range 32).map (fun i => (n + i, leaf,
      s.atomRequest (3072 * g.hd) (va + BitVec.ofNat 64 (4 * i)) leaf true (kopCode .fadd) false ((lineWord p.data i).setWidth 64) 0 false))
  | _ => []
/-- A line of this package takes the sum of itself and a packed line, at its home; with whether one has set NF (R312, R313). -/
def faddAt (r : State × Bool) (t : Target) (p : Line) : State × Bool := match t with
  | .mem pa _ =>
    let (l, nf) := faddLine (r.1.line (pa / 128)) p
    (r.1.agentPut t l, r.2 || nf)
  | _ => r
/-- SCAT with ROP 1 (R312): sums of lines of other packages first, each answered; then, all at once, those of this package; answers
NF. -/
def State.scatAdd (s : State) (g : Agent) (xs : List (DWord × Target × Line × Line)) : Except Halt Bool × State :=
  match s.agentTell g ((xs.zipIdx.map (fun x => s.faddReqs g (1 + 32 * x.2) x.1.2.1 x.1.2.2.2)).flatten) with
  | (.error h, s) => (.error h, s)
  | (.ok _, s) =>
    let r := xs.foldl (fun r x => faddAt r x.2.1 x.2.2.2) (s, false)
    (.ok (r.2 || faddNF [] xs), r.1)
/-- The positions of a list whose index is in range, and the first that is not. -/
def gsSplit (l : LineBits) (is : List Nat) : List (Nat × Nat) × Option Nat :=
  (is.zipIdx.filterMap (fun x => if x.1 < gsTrows l then some (x.2, x.1) else none),
   (is.zipIdx.find? (fun x => gsTrows l ≤ x.1)).map Prod.snd)
/-- Addresses of the lines of rows. -/
def rowVas (l : LineBits) (rows : List Nat) (f : LineBits → Nat → Nat → DWord) : List DWord :=
  rows.flatMap (fun r => (List.range (gsRlines l)).map (f l r))
/-- The end of a command that stopped at an address (R298, R312). -/
def stopAt (cause : Nat) (va : DWord) : EngEnd := { result := 3, cause, faddr := va }

/-- GATH's work (R312): its end, or none while a line waits. -/
def State.gather (s : State) (hd : Nat) (c : EngCmd) : Option EngEnd × State :=
  let g := c.agent hd
  let l := c.line
  let all := rowVas l (List.range (gsCount l)) gsPacked
  let stop := fun (s : State) (e : EngEnd) => (some e, s.spoilLines g all)
  match s.gsIndices g l with
  | (.error .wait, s) => (none, s)
  | (.error (.fault f), s) => stop s (stopAt (engCause f) f.addr)
  | (.ok is, s) =>
    let (rows, bad) := gsSplit l is
    if gsOob l && bad.isSome then stop s (stopAt 9 (gsIdx l + BitVec.ofNat 64 (4 * bad.getD 0)))
    else match s.agentReads g 0 (rowVas l (rows.map Prod.snd) gsTable) with
      | (.error .wait, s) => (none, s)
      | (.error (.fault f), s) => stop s (stopAt (engCause f) f.addr)
      | (.ok ls, s) =>
        let (ts, s) := s.agentPlaces g all
        if ts.any Halt.waits then (none, s)
        else match firstFault ts with
          | some f => stop s (stopAt (engCause f) f.addr)
          | none =>
            let n := gsRlines l
            let out := (List.range (gsCount l)).flatMap (fun j => match rows.findIdx? (fun r => r.1 == j) with
              | some p => (ls.drop (n * p)).take n
              | none => List.replicate n ({ data := 0, tag := 0, scales := 0 } : Line))
            match s.agentWrite g 1 ((placesOf ts).zip out) with
            | (.error .wait, s) => (none, s)
            | (.error (.fault f), s) => stop s (stopAt (engCause f) f.addr)
            | (.ok _, s) => (some { cnt0 := rows.length, cnt1 := gsCount l - rows.length }, s)
/-- SCAT's work (R312, R313). -/
def State.scatter (s : State) (hd : Nat) (c : EngCmd) : Option (EngEnd × Bool) × State :=
  let g := c.agent hd
  let l := c.line
  match s.gsIndices g l with
  | (.error .wait, s) => (none, s)
  | (.error (.fault f), s) =>
    (some (stopAt (engCause f) f.addr, false), s.spoilLines g (rowVas l ((gsSplit l (s.gsReadable g l)).1.map Prod.snd) gsTable))
  | (.ok is, s) =>
    let (rows, bad) := gsSplit l is
    let tvas := rowVas l (rows.map Prod.snd) gsTable
    let pvas := rowVas l (rows.map Prod.fst) gsPacked
    let stop := fun (s : State) (e : EngEnd) => (some (e, false), s.spoilLines g tvas)
    if gsOob l && bad.isSome then stop s (stopAt 9 (gsIdx l + BitVec.ofNat 64 (4 * bad.getD 0)))
    else match s.agentReads g 0 pvas with
      | (.error .wait, s) => (none, s)
      | (.error (.fault f), s) => stop s (stopAt (engCause f) f.addr)
      | (.ok ps, s) => match s.agentReads g 0 tvas with
        | (.error .wait, s) => (none, s)
        | (.error (.fault f), s) => stop s (stopAt (engCause f) f.addr)
        | (.ok told, s) =>
          let (ts, s) := s.agentPlaces g tvas
          if ts.any Halt.waits then (none, s)
          else match firstFault ts, wrongTag pvas ps, wrongTag tvas told with
            | some f, _, _ => stop s (stopAt (engCause f) f.addr)
            | none, some va, _ => stop s (stopAt 5 va)
            | none, none, some va => stop s (stopAt 5 va)
            | none, none, none =>
              let e : EngEnd := { cnt0 := rows.length, cnt1 := gsCount l - rows.length }
              let places := placesOf ts
              let done := if gsRop l = 0 then (match s.agentWrite g 1 (places.zip ps) with
                  | (.ok _, s) => (.ok false, s)
                  | (.error h, s) => (.error h, s))
                else s.scatAdd g (tvas.zip (places.zip (told.zip ps)))
              match done with
              | (.error .wait, s) => (none, s)
              | (.error (.fault f), s) => stop s (stopAt (engCause f) f.addr)
              | (.ok nf, s) => (some (e, nf), s)

/-- The head of the gather/scatter engine's queue ends with its record. -/
def State.gsEnd (s : State) (hd : Nat) (c : EngCmd) (e : EngEnd) (nf : Bool) (s0 : State) : State := match (s.engNF c nf).engRecord hd c e with
  | none => (s0.agentPlace (c.agent hd) (cmdCrec c.line)).2
  | some s => (s.dropWork c.id).modHalf hd (fun h => { h with gs := h.gs.drop 1 })
/-- The gather/scatter engine runs the head of its queue, if it is a command of an OP (R302, R312). -/
def gsRun (hd op : Nat) (s : State) (work : State → EngCmd → Option (EngEnd × Bool) × State) : Host.Outcome State Fault Refusal :=
  if 8 ≤ hd then .fault .noSuchUnit
  else match (s.half hd).gs with
    | [] => .next s
    | c :: _ =>
      if cmdKind c.line ≠ op then .next s
      else if c.aborted then .next (s.gsEnd hd c { result := 3, cause := 10 } false s)
      else match work s c with
        | (none, s) => .next s
        | (some (e, nf), s1) => .next (s1.gsEnd hd c e nf s)
/-- GATHER_EXECUTE (R312). -/
def execGatherExecute (hd : Nat) (s : State) : Host.Outcome State Fault Refusal :=
  gsRun hd 1 s fun s c => let (e, s) := s.gather hd c; (e.map (·, false), s)
/-- SCATTER_EXECUTE (R312, R313). -/
def execScatterExecute (hd : Nat) (s : State) : Host.Outcome State Fault Refusal :=
  gsRun hd 2 s fun s c => s.scatter hd c

end Sys2Proof.Machine
end

