-- ==== Sys2Proof/Machine/Ranks.lean ====
section
/-! DEFINITION. Groups of ranks (R314 to R323): matching, collectives and repartition. The commands of a group on this package
are run together by one event, which carries what the engines of other packages sent. -/
namespace Sys2Proof.Machine

/-- A rank of a group on this package: its half-die, its command, its rank-table lines, and what the other ranks are told. -/
structure LocalRank where
  hd   : Nat
  cmd  : EngCmd
  tab  : List Line
  told : RankIn
  /-- The address of the line that stopped it (R299). -/
  at0  : DWord
  deriving DecidableEq, Repr, Inhabited

/-- Bytes of lines from the first on. -/
def lineBytes (ls : List Line) : List Byte := ls.flatMap (fun l => (List.range 128).map (dataByte l.data))
/-- Lists of n items cut from a list. -/
def cutEvery {α : Type} (n : Nat) (l : List α) : List (List α) := (List.range (l.length / n)).map (fun i => (l.drop (n * i)).take n)
/-- Addresses of n lines. -/
def linesFrom (va : DWord) (n : Nat) : List DWord := (List.range n).map (fun i => va + BitVec.ofNat 64 (128 * i))
/-- PASS of entry r of a rank table (R314). -/
def rankPass (tab : List Line) (r : Nat) : DWord := (tab.getD (r / 4) default).data.extractLsb' (256 * (r % 4) + 64) 64
/-- Entry r of a rank table (R314): BUF, PEER and FASN. -/
def rankEntry (tab : List Line) (r : Nat) : DWord × BitVec 10 × BitVec 16 :=
  let d := (tab.getD (r / 4) default).data
  let o := 256 * (r % 4)
  (d.extractLsb' o 64, d.extractLsb' (o + 128) 10, d.extractLsb' (o + 144) 16)

/-- A rank's command with what it exchanges: its rank table, and its input lines or records (R315, R316, R319). -/
def State.rankRead (s : State) (op : Nat) (hd : Nat) (c : EngCmd) : Except Halt LocalRank × State :=
  let g := c.agent hd
  let l := c.line
  let mk := fun (tab ls : List Line) (recs : List (List Byte)) (cause : Nat) (at0 : DWord) => ({
    hd, cmd := c, tab, at0
    told := { rank := grpRank l, op := BitVec.ofNat 3 op, fmt := BitVec.ofNat 6 (if op = 3 then collFmt l else bf l 376 6)
              nl := BitVec.ofNat 32 (if op = 3 then collNl l else 0), nrank := BitVec.ofNat 11 (grpNrank l), table := tab.map check16
              rcap := BitVec.ofNat 32 (if op = 3 then 0 else repRcap l), cmd := l, cause := BitVec.ofNat 8 cause, refuse := 0, lines := ls
              recs } } : LocalRank)
  match s.agentReads g 0 (linesFrom (grpRtab l) (ceilDiv (grpNrank l) 4)) with
  | (.error h, s) => if c.aborted then (.ok (mk [] [] [] 10 0), s) else (.error h, s)
  | (.ok tab, s) =>
    if c.aborted then (.ok (mk tab [] [] 10 0), s)
    else if op = 3 then match s.agentReads g 0 (linesFrom (grpSbuf l) (collNl l)) with
      | (.error .wait, s) => (.error .wait, s)
      | (.error (.fault f), s) => (.ok (mk tab [] [] (engCause f) f.addr), s)
      | (.ok ls, s) => match ls.findIdx? (fun x => decide (x.tag.toNat ≠ collFmt l)) with
        | none => (.ok (mk tab ls [] 0 0), s)
        | some i => (.ok (mk tab ls [] 5 (grpSbuf l + BitVec.ofNat 64 (128 * i))), s)
    else
      let o := (grpSbuf l).toNat % 128
      match s.agentReads g 0 (linesFrom (lineVa (grpSbuf l)) (ceilDiv (o + repNrec l * repSize l) 128)) with
      | (.error .wait, s) => (.error .wait, s)
      | (.error (.fault f), s) => (.ok (mk tab [] [] (engCause f) f.addr), s)
      | (.ok ls, s) => (.ok (mk tab [] (cutEvery (repSize l) (((lineBytes ls).drop o).take (repNrec l * repSize l))) 0 0), s)
/-- What a rank that stopped before it could exchange anything tells. -/
def bareRank (op cause : Nat) (l : LineBits) : RankIn :=
  { (default : RankIn) with rank := grpRank l, op := BitVec.ofNat 3 op, nrank := BitVec.ofNat 11 (grpNrank l), cmd := l, cause := BitVec.ofNat 8 cause }
/-- All ranks of a group on this package; one that cannot read its table stops with the cause. -/
def State.ranksRead (s : State) (op : Nat) : List (Nat × EngCmd) → Except Halt (List LocalRank) × State
  | [] => (.ok [], s)
  | x :: r => match s.rankRead op x.1 x.2 with
    | (.error .wait, s) => (.error .wait, s)
    | (.error (.fault f), s) => match s.ranksRead op r with
      | (.ok ls, s) => (.ok ({ hd := x.1, cmd := x.2, tab := [], told := bareRank op (engCause f) x.2.line, at0 := f.addr } :: ls), s)
      | e => e
    | (.ok l, s) => match s.ranksRead op r with
      | (.ok ls, s) => (.ok (l :: ls), s)
      | e => e

-- Who joins (R315) -------------------------------------------------------------------------------------------------------------------------

/-- The commands of an OP, GID and EPOCH queued on some half-dies, each with its half-die. -/
def State.cmdsOn (s : State) (hs : List Nat) (op gid epoch : Nat) : List (Nat × EngCmd) :=
  hs.flatMap (fun h => (((s.half h).queueOf op).filter (fun c => grpGid c.line == gid && grpEpoch c.line == epoch)).map (h, ·))
/-- The FASNs of this package that a command's rank table names, where it can be read. -/
def State.namedFasns (s : State) (x : Nat × EngCmd) : List Nat :=
  let n := grpNrank x.2.line
  match (s.agentReads (x.2.agent x.1) 0 (linesFrom (grpRtab x.2.line) (ceilDiv n 4))).1 with
  | .error _ => []
  | .ok tab => (List.range n).filterMap (fun i =>
      let (_, peer, fasn) := rankEntry tab i
      if peer.toNat = s.pkg then some fasn.toNat else none)
/-- The commands of a group on this package: those of a partition, and those of other partitions whose contexts their rank tables
name (R315). [DEDUCED, log 73] -/
def State.groupCmds (s : State) (part op gid epoch : Nat) : List (Nat × EngCmd) :=
  let hs := s.partHalves part
  let named := (s.cmdsOn hs 3 gid epoch ++ s.cmdsOn hs 4 gid epoch).flatMap s.namedFasns
  s.cmdsOn hs op gid epoch ++ (s.cmdsOn ((List.range 8).filter (fun h => (s.half h).member && !hs.contains h)) op gid epoch).filter (fun x =>
    named.contains (s.ctx x.2.ctx).fasn)
/-- What ranks must agree on (R315). [DEDUCED, log 73] -/
def ranksAgree (a b : RankIn) : Bool := a.op == b.op && a.fmt == b.fmt && a.nl == b.nl && a.nrank == b.nrank && a.table == b.table
/-- The ranks differ, or two claim one rank (R315). -/
def mismatchedRanks (rs : List RankIn) : Bool := match rs with
  | [] => false
  | r :: rest => rest.any (fun x => !ranksAgree r x) || (rs.map (·.rank)).eraseDups.length != rs.length
/-- Every rank of the group is there. -/
def allRanks (rs : List RankIn) (n : Nat) : Bool := (List.range n).all (fun i => rs.any (·.rank == i))
/-- The rank with a number, of those of a group. -/
def rankNo (rs : List RankIn) (i : Nat) : RankIn := (rs.find? (·.rank == i)).getD default
/-- A command leaves its engine's queue. -/
def HalfDie.dequeue (h : HalfDie) (op : Nat) (c : EngCmd) : HalfDie := match op with
  | 3 => { h with coll := h.coll.erase c }
  | _ => { h with rep := h.rep.erase c }
/-- Entry i of a rank's table is reached in its own context's tables (R315). -/
def State.localEntry (s : State) (r : LocalRank) (i : Nat) : Bool :=
  let (_, peer, fasn) := rankEntry r.tab i
  peer.toNat == s.pkg && fasn.toNat == (s.ctx r.cmd.ctx).fasn
/-- Who writes a rank's own window: its engine in its context, or in the context of this package that its entry names (R315). -/
def State.windowAgent (s : State) (r : LocalRank) : Option Agent :=
  let me := grpRank r.cmd.line
  let (_, peer, fasn) := rankEntry r.tab me
  let g := r.cmd.agent r.hd
  if r.tab.isEmpty || peer.toNat ≠ s.pkg then none
  else if s.localEntry r me then some g
  else (s.ctxOfFasn (s.half (s.loopHalf r.hd fasn)).part fasn).map (fun c => { g with ctx := c })
/-- Bytes of a rank's window (R316, R319). -/
def LocalRank.windowBytes (r : LocalRank) (op : Nat) : Nat :=
  let l := r.cmd.line
  if op = 3 then 128 * (if collCop l = 2 then grpNrank l * collNl l else collNl l) else repRcap l * repSize l
/-- Bytes of a rank's destination (R317, R322). -/
def LocalRank.destBytes (r : LocalRank) (op : Nat) : Nat :=
  let l := r.cmd.line
  if op = 3 then 128 * (if collCop l = 1 then collNl l / grpNrank l else if collCop l = 2 then grpNrank l * collNl l else collNl l)
  else repNrec l * repSize l
/-- A rank's window becomes undefined. -/
def State.spoilWindow (s : State) (r : LocalRank) (op : Nat) : State := match s.windowAgent r with
  | some g => s.spoilRegion g (rankEntry r.tab (grpRank r.cmd.line)).1 (r.windowBytes op)
  | none => s
/-- A rank's destination becomes undefined. -/
def State.spoilDest (s : State) (r : LocalRank) (op : Nat) : State :=
  s.spoilRegion (r.cmd.agent r.hd) (grpDbuf r.cmd.line) (r.destBytes op)

-- Records and stops (R299, R301, R315) -------------------------------------------------------------------------------------------------------

/-- How a rank ends: the kind of its command, its record, and whether its own work set NF. -/
structure RankEnd where
  r  : LocalRank
  op : Nat
  e  : EngEnd
  nf : Bool := false
  deriving DecidableEq, Repr
/-- Each rank's NF and record; where one's page waits, none is written, and `back` goes on with the wait (R300, R301). -/
def State.rankRecords (s back : State) : List RankEnd → State
  | [] => s
  | x :: rest => match (s.engNF x.r.cmd x.nf).engRecord x.r.hd x.r.cmd x.e with
    | none => (back.agentPlace (x.r.cmd.agent x.r.hd) (cmdCrec x.r.cmd.line)).2
    | some s => State.rankRecords ((s.dropWork x.r.cmd.id).modHalf x.r.hd (fun h => h.dequeue x.op x.r.cmd)) back rest
/-- A group that has stopped is remembered for the ranks that are still to come (R315). -/
def State.noteStop (s : State) (part gid epoch cause frank : Nat) (fasns ranks : List Nat) : State :=
  let same := fun (x : GroupStop) => x.part == part && x.gid == gid && x.epoch == epoch
  let old := (s.stops.find? same).getD { gid, epoch, part, fasns := [], cause, frank, ranks := [] }
  { s with stops := { old with fasns := (old.fasns ++ fasns).eraseDups, ranks := (old.ranks ++ ranks).eraseDups } :: s.stops.filter (fun x => !same x) }
/-- Nothing is left to remember of a group in a partition. -/
def State.forgetStop (s : State) (part gid epoch : Nat) : State :=
  { s with stops := s.stops.filter (fun x => !(x.part == part && x.gid == gid && x.epoch == epoch)) }
/-- The FASNs of the contexts of some ranks. -/
def State.rankFasns (s : State) (rs : List LocalRank) : List Nat := rs.map (fun r => (s.ctx r.cmd.ctx).fasn)
/-- Every rank here stops: those with a cause of their own with it and its address, the others because a peer stopped; on a
mismatch all for that (R298, R299, R315). -/
def State.stopRanks (s back : State) (rs : List (Nat × LocalRank)) (cause frank : Nat) : State :=
  let s := rs.foldl (fun s x => (s.spoilDest x.2 x.1).spoilWindow x.2 x.1) s
  s.rankRecords back (rs.map (fun x =>
    let r := x.2
    let own := r.told.cause ≠ 0 ∧ (cause ≠ 7 ∨ r.told.cause = 10)
    { r, op := x.1, e := { result := 3, cause := if own then r.told.cause.toNat else cause, frank := if own then 0 else frank
                           faddr := if own then r.at0 else 0 } }))
/-- The lowest rank of some that meets a condition. -/
def firstRank (rs : List RankIn) (p : RankIn → Bool) : Nat := ((rs.filter p).map (·.rank)).foldl min 1024

-- Writes (R205, R300) -------------------------------------------------------------------------------------------------------------------------

/-- What goes into a line: all of it, or bytes from an offset on, where the rest of the line stays as it was (R205, R300). -/
inductive Fill where
  | line (l : Line)
  | bytes (o : Nat) (bs : List Byte)
  deriving DecidableEq, Repr
/-- Whole lines from an address on. -/
def fillLines (va : DWord) (ls : List Line) : List (DWord × Fill) := (linesFrom va ls.length).zip (ls.map Fill.line)
/-- Bytes from an address on, line by line. -/
def fillBytes (va : DWord) (bs : List Byte) : List (DWord × Fill) :=
  let o := va.toNat % 128
  if bs.isEmpty then []
  else (linesFrom (lineVa va) (ceilDiv (o + bs.length) 128)).zipIdx.map (fun x =>
    let lo := if x.2 = 0 then o else 0
    (x.1, .bytes lo ((bs.drop (128 * x.2 - o)).take (128 - lo))))
/-- The data bytes and the mask of bytes from an offset on (R411). -/
def bytesMask (o : Nat) (bs : List Byte) : LineBits × BitVec 128 :=
  (lineOfBytes (List.replicate o 0 ++ bs.map BitVec.toNat), BitVec.ofNat 128 ((2 ^ bs.length - 1) * 2 ^ o))
/-- A place for a fill, granted to an agent; a line that is merged into is verified (R300, R451). -/
def State.fillPlace (s : State) (g : Agent) (x : DWord × Fill) : Except Halt Target × State := match s.agentPlace g x.1, x.2 with
  | (.ok (.mem pa mt), s), .bytes _ _ => match s.lineBad (pa / 128) with
    | some i => (.error (.fault (pf 7 x.1 i)), s.reportMerge g.ctx i (pa / 128))
    | none => (.ok (.mem pa mt), s)
  | y, _ => y
/-- The places of several fills. -/
def State.fillPlaces (s : State) (g : Agent) : List (DWord × Fill) → List (Except Halt Target) × State
  | [] => ([], s)
  | x :: r =>
    let (t, s) := s.fillPlace g x
    let (ts, s) := s.fillPlaces g r
    (t :: ts, s)
/-- The request for a fill whose place is in another package (R411). -/
def State.fillReq (s : State) (g : Agent) (n : Nat) (t : Target) (x : Fill) : Option AgentReq := match t, x with
  | .remote va leaf, .line l => some (n, leaf, s.lineRequest (3072 * g.hd) va leaf l false)
  | .remote va leaf, .bytes o bs =>
    let (d, m) := bytesMask o bs
    some (n, leaf, { s.requestFor (3072 * g.hd) va leaf 3 false with data := d, mask := m, check := maskCheck d })
  | _, _ => none
/-- A fill is written in this package (R205, R300, R331). -/
def State.fillPut (s : State) (t : Target) (x : Fill) : State := match t, x with
  | .mem pa mt, .line l => s.agentPut (.mem pa mt) l
  | .mem pa _, .bytes o bs =>
    let (d, m) := bytesMask o bs
    let old := s.line (pa / 128)
    (s.putLine (pa / 128) { old with data := mergeMasked old.data d m }).loosen s (128 * (pa / 128) + o) (128 * (pa / 128) + o + bs.length)
  | _, _ => s

-- A group's work (R315) -------------------------------------------------------------------------------------------------------------------------

/-- What a rank here is to do once all inputs are there: stop of its own, or write its destination; and its record. -/
structure RankPlan where
  r    : LocalRank
  stop : Option EngEnd := none
  dest : List (DWord × Fill)
  e    : EngEnd
  nf   : Bool := false
  /-- Regions whose overlap leaves them undefined: its destination, its input, its window (R319). -/
  bad  : Bool × Bool × Bool := (false, false, false)
  deriving DecidableEq, Repr
/-- What a group does: the plans of the ranks here, the lines of window i that rank w writes, what the window of rank i then
holds, and whether its contents are undefined in the end (R316, R319). -/
structure GroupPlan where
  plans  : List RankPlan
  writes : Nat → Nat → List DWord
  holds  : Nat → List (DWord × Fill)
  spoil  : Bool
/-- A write of a line of a window of this package by a rank of another context or another package, as the exporter checks and
translates it (R315, R407, R416, R420): its place, or the code it is refused with, or a wait. -/
def State.windowFabric (s : State) (hd : Nat) (tab : List Line) (i speer : Nat) (va : DWord) : Except Halt Target × State :=
  let (_, peer, fasn) := rankEntry tab i
  let q := { s.lineRequest (3072 * hd) va 0 default false with fasn, dpeer := peer, speer := BitVec.ofNat 10 speer, pass := rankPass tab i }
  let p := (s.half (s.loopHalf hd fasn)).part
  match s.ingress p q with
  | .error code => (.error (.fault (pf 8 va code)), s)
  | .ok c => match s.fabricWalk c q with
    | (.error (8, pte), s) => (.error .wait, s.watchFor p c pte q)
    | (.error (code, _), s) => (.error (.fault (pf 8 va code)), s)
    | (.ok (pa, mt), s) => (.ok (.mem pa mt), s)
/-- The places of the lines that rank w writes in window i, where it is a window of this package or w is a rank here: in the
tables of its own context, as the exporter grants them, or as another package's exporter does (R315). -/
def State.windowPlaces (s : State) (ls : List LocalRank) (rs : List RankIn) (i w : Nat) : List DWord → List (DWord × Except Halt Target) × State
  | [] => ([], s)
  | va :: rest =>
    let tab := (ls.headD default).tab
    let mine := ls.find? (fun r => grpRank r.cmd.line == w)
    let (_, peer, _) := rankEntry tab i
    let (t, s) := if peer.toNat ≠ s.pkg then
        (match mine with
          | none => none
          | some _ =>
            let code := (rankNo rs i).refuse.toNat
            if code = 0 then none else some (va, Except.error (if code = 8 then Halt.wait else .fault (pf 8 va code))), s)
      else match mine with
        | some r =>
          let (t, s) := if s.localEntry r i then s.agentPlace (r.cmd.agent r.hd) va else s.windowFabric r.hd r.tab i s.pkg va
          (some (va, t), s)
        | none =>
          let (_, from0, _) := rankEntry tab w
          let (t, s) := s.windowFabric (ls.headD default).hd tab i from0.toNat va
          (some (va, t), s)
    let (ts, s) := s.windowPlaces ls rs i w rest
    (t.toList ++ ts, s)
/-- The places of every write into a window, with the writer and the window. -/
def State.allPlaces (s : State) (ls : List LocalRank) (rs : List RankIn) (writes : Nat → Nat → List DWord) :
    List (Nat × Nat) → List (Nat × Nat × DWord × Except Halt Target) × State
  | [] => ([], s)
  | (i, w) :: rest =>
    let (ts, s) := s.windowPlaces ls rs i w (writes i w)
    let (us, s) := s.allPlaces ls rs writes rest
    (ts.map (fun t => (i, w, t)) ++ us, s)
/-- The places of every destination, rank by rank. -/
def State.destPlaces (s : State) : List RankPlan → List (RankPlan × List (Except Halt Target)) × State
  | [] => ([], s)
  | p :: rest =>
    let (ts, s) := s.fillPlaces (p.r.cmd.agent p.r.hd) p.dest
    let (us, s) := s.destPlaces rest
    ((p, ts) :: us, s)
/-- The destinations that lie in other packages: each rank's requests, answered one after another, and the rank that one stops. -/
def State.destTell (s : State) : List (RankPlan × List (Except Halt Target)) → Except (Halt × RankPlan) Unit × State
  | [] => (.ok (), s)
  | (p, ts) :: rest =>
    let g := p.r.cmd.agent p.r.hd
    match s.agentTell g (((placesOf ts).zip p.dest).zipIdx.filterMap (fun x => s.fillReq g (1 + x.2) x.1.1 x.1.2.2)) with
    | (.error h, s) => (.error (h, p), s)
    | (.ok _, s) => s.destTell rest
/-- What overlapping regions of a repartition hold in the end (R319). -/
def State.spoilBad (s : State) (op : Nat) (p : RankPlan) : State :=
  let s := if p.bad.1 then s.spoilDest p.r op else s
  let s := if p.bad.2.1 then s.spoilRegion (p.r.cmd.agent p.r.hd) (grpSbuf p.r.cmd.line) (p.r.destBytes op) else s
  if p.bad.2.2 then s.spoilWindow p.r op else s
/-- A rank that is stopped by a fault tells so; one that has stopped before keeps its cause. -/
def LocalRank.stopped (r : LocalRank) (cause : Nat) (at0 : DWord) : LocalRank :=
  if r.told.cause = 0 then { r with told := { r.told with cause := BitVec.ofNat 8 cause }, at0 } else r
/-- How a group's work ends: it waits; some ranks have stopped, here or elsewhere; or all is written. -/
inductive WorkEnd where
  | wait
  | stop (ls : List LocalRank) (rs : List RankIn)
  | done
  deriving DecidableEq, Repr
/-- The work of a group all of whose ranks are there: first every write is granted; then those of destinations in other packages are
made and answered; then, all at once, the others (R315). -/
def State.groupWork (s : State) (op : Nat) (ls : List LocalRank) (rs : List RankIn) (n : Nat) (pl : GroupPlan) : WorkEnd × State :=
  let pairs := (List.range n).flatMap (fun i => (List.range n).map (fun w => (i, w)))
  let (ws, s) := s.allPlaces ls rs pl.writes pairs
  let (ds, s) := s.destPlaces pl.plans
  let refused := fun (w : Nat) => (ws.filter (fun x => x.2.1 == w)).findSome? (fun x => match x.2.2.2 with
    | .error (.fault f) => some f
    | _ => none)
  let own := fun (r : LocalRank) => match pl.plans.find? (fun p => p.r == r), ds.find? (fun d => d.1.r == r) with
    | some { stop := some e, .. }, _ => some (e.cause, e.faddr)
    | _, d => match refused (grpRank r.cmd.line) with
      | some f => some (engCause f, f.addr)
      | none => (d.bind (fun x => firstFault x.2)).map (fun f => (engCause f, f.addr))
  let ls' := ls.map (fun r => match own r with
    | some (c, a) => r.stopped c a
    | none => r)
  let rs' := rs.map (fun r => if r.cause = 0 ∧ (refused r.rank).isSome then { r with cause := 6 } else r)
  if ls'.any (fun r => r.told.cause != 0) || rs'.any (fun r => r.cause != 0) then (.stop ls' rs', s)
  else if ws.any (fun x => Halt.waits x.2.2.2) || ds.any (fun x => x.2.any Halt.waits) then (.wait, s)
  else match s.destTell ds with
    | (.error (.wait, _), s) => (.wait, s)
    | (.error (.fault f, p), s) => (.stop (ls.map (fun r => if r == p.r then r.stopped (engCause f) f.addr else r)) rs, s)
    | (.ok _, s) =>
      let s := ds.foldl (fun s x => ((placesOf x.2).zip x.1.dest).foldl (fun s y => s.fillPut y.1 y.2.2) s) s
      let s := (List.range n).foldl (fun s i => (pl.holds i).foldl (fun s x =>
        match (ws.find? (fun y => y.1 == i && y.2.2.1 == x.1)).map (fun y => y.2.2.2) with
        | some (.ok t) => s.fillPut t x.2
        | _ => s) s) s
      let s := if pl.spoil then (ws.filterMap (fun y => match y.2.2.2 with
          | .ok (.mem pa _) => some (pa / 128)
          | _ => none)).eraseDups.foldl (fun s m => s.spoilPart (.ok (.mem (128 * m) 0)) 0 128) s
        else s
      (.done, pl.plans.foldl (fun s p => s.spoilBad op p) s)
/-- The ranks here that come to a group which has stopped without them (R315). -/
def GroupStop.late (x : GroupStop) (cs : List (Nat × Nat × EngCmd)) : List (Nat × Nat × EngCmd) :=
  cs.filter (fun c => !x.ranks.contains (grpRank c.2.2.line))
/-- The record of a group that has stopped, which the commands of a partition belong to. -/
def State.stopOf (s : State) (part gid epoch : Nat) (cs : List (Nat × Nat × EngCmd)) : Option GroupStop :=
  s.stops.find? (fun x => x.gid == gid && x.epoch == epoch && (x.part == part || cs.any (fun c => x.fasns.contains (s.ctx c.2.2.ctx).fasn)))
/-- Commands read as ranks, each with its kind. -/
def State.kindRanks (s : State) : List (Nat × Nat × EngCmd) → Except Halt (List (Nat × LocalRank)) × State
  | [] => (.ok [], s)
  | x :: r => match s.ranksRead x.1 [x.2] with
    | (.error h, s) => (.error h, s)
    | (.ok ls, s) => match s.kindRanks r with
      | (.ok ms, s) => (.ok (ls.map (x.1, ·) ++ ms), s)
      | e => e
/-- The ranks here of a group stop, and it is remembered for those that are still to come, unless all are here (R315). -/
def State.stopGroup (s back : State) (part gid epoch : Nat) (ls : List (Nat × LocalRank)) (others : List RankIn) (cause frank : Nat) : State :=
  let mine := ls.map (fun x => grpRank x.2.cmd.line)
  let note := fun (s : State) => if others.isEmpty && (List.range (grpNrank ((ls.map Prod.snd).headD default).cmd.line)).all mine.contains then s
    else s.noteStop part gid epoch cause frank (s.rankFasns (ls.map Prod.snd)) (mine ++ others.map (·.rank))
  note (s.stopRanks (note back) ls cause frank)
/-- A group's run (R315): ranks that come to a group which has stopped, stop; the others wait for every rank; they stop on a mismatch, a
command of the other kind that joins, or a rank's cause; else `plan` says what they do, and where one stops at that, all do. -/
def groupRun (op part : Nat) (gid epoch : BitVec 16) (remote : List RankIn) (s : State)
    (plan : State → List LocalRank → List RankIn → GroupPlan) : Host.Outcome State Fault Refusal :=
  if 8 ≤ part then .fault .noSuchUnit
  else
    let (gd, ep) := (gid.toNat, epoch.toNat)
    let cs := (s.groupCmds part op gd ep).map (op, ·) ++ (s.groupCmds part (7 - op) gd ep).map (7 - op, ·)
    if !cs.any (fun x => x.1 == op) then .next s
    else match s.stopOf part gd ep cs with
    | some x =>
      match s.kindRanks (x.late cs) with
      | (.error _, s) => .next s
      | (.ok [], s) => .next (s.forgetStop x.part gd ep)
      | (.ok ls, s1) =>
        .next ((s1.stopRanks s1 (ls.map (fun l => (l.1, { l.2 with told := { l.2.told with cause := if l.2.told.cause = 10 then 10 else 0 } })))
          x.cause x.frank).noteStop x.part gd ep x.cause x.frank (s1.rankFasns (ls.map Prod.snd)) (ls.map (fun l => grpRank l.2.cmd.line)))
    | none => match s.kindRanks cs with
      | (.error _, s) => .next s
      | (.ok all, s1) =>
        let ls := (all.filter (fun x => x.1 == op)).map Prod.snd
        let rs := ls.map (·.told) ++ remote
        let stop := fun (s : State) (all : List (Nat × LocalRank)) (rs : List RankIn) (p : RankIn → Bool) (cause : Nat) =>
          (.next (s.stopGroup s1 part gd ep all remote cause (firstRank rs p)) : Host.Outcome State Fault Refusal)
        if all.any (fun x => x.1 != op) then stop s1 all (all.map (·.2.told) ++ remote) (fun _ => true) 7
        else if mismatchedRanks (rs.filter (fun r => !(r.cause != 0 && r.table.isEmpty))) then stop s1 all rs (fun _ => true) 7
        else if rs.any (fun r => r.cause != 0) then stop s1 all rs (fun r => r.cause != 0) 8
        else if !allRanks rs (rs.headD default).nrank.toNat then .next s1
        else
          let pl := plan s1 ls rs
          match s1.groupWork op ls rs (rs.headD default).nrank.toNat pl with
          | (.wait, s) => .next s
          | (.stop ls rs, s) => stop s (ls.map (op, ·)) (ls.map (·.told) ++ rs.filter (fun r => !ls.any (fun l => l.told.rank == r.rank))) (fun r => r.cause != 0) 8
          | (.done, s) => .next (s.rankRecords s1 (pl.plans.map (fun p => { r := p.r, op, e := p.e, nf := p.nf })))

-- Collectives (R316 to R318) ------------------------------------------------------------------------------------------------------------

/-- The elements of a rank's input lines, decoded (R317). -/
def rankVals (fmt : Nat) (ls : List Line) : List Num := ls.flatMap (fun l => (lineBlks fmt l.data l.scales).flatMap (·.vals fmt))
/-- The sum over ranks in rank order, one rounding for each rank (R317). -/
def sumRanks : List (List Num) → List Word
  | [] => []
  | x :: r => r.foldl (fun a y => List.zipWith (fun w v => rneF32 (Num.add false (f32 w) v)) a y) (x.map rneF32)
/-- The sum in FMT (R317, R318). [DESIGN CHOICE, log 119] -/
def collLines (l : LineBits) (gid epoch : Nat) (ys : List Word) : List Line × Bool :=
  let f := collFmt l
  let g := fun (e : Nat) => (draw (collSeed l) (gid * 2 ^ 34 + epoch * 2 ^ 18 + 0x3FE) (2 ^ 31 + e)).toNat
  let bs := (cutEvery 32 ys).zipIdx.map (fun b =>
    toBlock f (collSel l) false (fun k => modeOf (if f = 9 then 0 else collMode l) (g (32 * b.2 + k))) (b.1.map f32))
  (blockLines f bs, ys.any wordNF || bs.any (blockNF f))
/-- What a rank here does in a collective, all inputs there (R317). [DESIGN CHOICE, log 119] -/
def collPlan (gid epoch : Nat) (rs : List RankIn) (r : LocalRank) : RankPlan :=
  let l := r.cmd.line
  let n := grpNrank l
  let byRank := (List.range n).map (fun i => (rankNo rs i).lines)
  let vals := byRank.map (rankVals (collFmt l))
  let (sum, nf) := collLines l gid epoch (sumRanks vals)
  let out := match collCop l with
    | 2 => byRank.flatten
    | 1 => (sum.drop (grpRank l * (collNl l / n))).take (collNl l / n)
    | _ => sum
  let stop := if collCop l = 2 ∧ grpDbuf l ≠ (rankEntry r.tab (grpRank l)).1 then some { result := 3, cause := 2, faddr := grpDbuf l } else none
  { r, stop, dest := fillLines (grpDbuf l) out, e := { cnt0 := out.length }, nf := collCop l ≠ 2 && (nf || vals.any (·.any Num.nonfin)) }
/-- COLLECTIVE_EXECUTE (R315, R317): every rank's engine writes every window, in an all-gather its own lines there. [DESIGN CHOICE, log 74] -/
def execCollectiveExecute (part : Nat) (gid epoch : BitVec 16) (remote : List RankIn) (s : State) : Host.Outcome State Fault Refusal :=
  groupRun 3 part gid epoch remote s fun _ ls rs =>
    let r := ls.headD default
    let l := r.cmd.line
    let nl := collNl l
    let all := collCop l = 2
    let buf := fun (i : Nat) => (rankEntry r.tab i).1
    { plans := ls.map (collPlan gid.toNat epoch.toNat rs), spoil := !all
      writes := fun i w => if all then linesFrom (buf i + BitVec.ofNat 64 (128 * nl * w)) nl else linesFrom (buf i) nl
      holds := fun i => if all then fillLines (buf i) (((List.range (grpNrank l)).map (fun j => (rankNo rs j).lines)).flatten) else [] }

-- Repartition (R319 to R323) ---------------------------------------------------------------------------------------------------------------

/-- A finite value as an integer over 2^(−300): exact for FP32 and for sums of few of them. -/
def Num.fixed : Num → Int
  | .fin s m e => (if s then -1 else 1) * (m * 2 ^ (e + 300).toNat : Nat)
  | _ => 0
/-- One axis of the key (R320). -/
def axisKey (c lo hi : Num) : Nat := match c with
  | .nan => 0
  | .inf s => if s then 0 else 2 ^ 21 - 1
  | c =>
    let q := (c.fixed - lo.fixed) * (2 ^ 21 : Nat) / (hi.fixed - lo.fixed)
    if q < 0 then 0 else min q.toNat (2 ^ 21 - 1)
/-- A 32-bit word at an offset of a record. -/
def recWord (r : List Byte) (o : Nat) : Word := BitVec.ofNat 32 (((r.drop o).take 4).foldr (fun b n => b.toNat + 256 * n) 0)
/-- The bucket of a record under its command (R320). -/
def recBucket (l : LineBits) (r : List Byte) : Nat :=
  let q := (List.range 3).map (fun i => axisKey (f32 (recWord r (repOff l i))) (repLo l i) (repHi l i))
  let key := ((List.range 21).map (fun b => ((List.range 3).map (fun i => if tst (q.getD i 0) b then 2 ^ (3 * b + i) else 0)).foldl (· + ·) 0)).foldl (· + ·) 0
  fld key 51 12
/-- The load of a record (R320). -/
def recLoad (l : LineBits) (r : List Byte) : Nat :=
  if !repWen l then 2 ^ 16
  else match f32 (recWord r (repOff l 3)) with
    | .nan => 0
    | .inf s => if s then 0 else 2 ^ 32
    | w => if w.fixed ≤ 0 then 0 else min (w.fixed.toNat * 2 ^ 16 / 2 ^ 300) (2 ^ 32)
/-- The group's total load in each bucket, in order (R321). -/
def histogram (rs : List RankIn) : List Nat :=
  let all := rs.flatMap (fun r => r.recs.map (fun x => (recBucket r.cmd x, recLoad r.cmd x)))
  (List.range 4096).map (fun b => ((all.filter (fun x => x.1 == b)).map Prod.snd).foldl (· + ·) 0)
/-- Running sums. -/
def runningSums (acc : Nat) : List Nat → List Nat
  | [] => []
  | x :: r => (acc + x) :: runningSums (acc + x) r
/-- First bucket past rank i's range: s_(i+1) + 1 (R321); rank 0 starts at 0. -/
def splitAfter (sums : List Nat) (total n i : Nat) : Nat :=
  if i + 1 = n then 4096 else ((sums.findIdx? (fun c => decide ((i + 1) * total ≤ n * c))).getD 4095) + 1
/-- The rank that owns a bucket. -/
def ownerOf (ends : List Nat) (b : Nat) : Nat := (ends.findIdx? (fun e => decide (b < e))).getD 0
/-- The list of receiver d: source rank, position there, bytes (R322). -/
def receiverList (rs : List RankIn) (n : Nat) (ends : List Nat) (d : Nat) : List (Nat × Nat × List Byte) :=
  (List.range n).flatMap (fun s =>
    let r := (rs.find? (·.rank == s)).getD default
    (r.recs.zipIdx.filter (fun x => ownerOf ends (recBucket r.cmd x.1) == d)).map (fun x => (s, x.2, x.1)))
/-- Byte ranges [a, a + n) and [b, b + m) of virtual addresses meet. -/
def meets (a b : DWord) (n m : Nat) : Bool :=
  n != 0 && m != 0 && decide (a.toNat < b.toNat + m) && decide (b.toNat < a.toNat + n)
/-- Which regions of a repartition overlap that should not: OBUF and SBUF, the window and OBUF, the window and SBUF (R319). -/
def State.overlaps (s : State) (r : LocalRank) : Bool × Bool × Bool :=
  let l := r.cmd.line
  let size := r.destBytes 4
  let buf := (rankEntry r.tab (grpRank l)).1
  let win := fun (a : DWord) => s.localEntry r (grpRank l) && meets buf a (r.windowBytes 4) size
  (grpDbuf l != grpSbuf l && meets (grpDbuf l) (grpSbuf l) size size, win (grpDbuf l), win (grpSbuf l))
/-- What a rank here does in a repartition (R322, R323). -/
def State.repPlan (s : State) (rs : List RankIn) (lists : List (List (Nat × Nat × List Byte))) (ends : List Nat) (total gkept : Nat)
    (r : LocalRank) : RankPlan :=
  let l := r.cmd.line
  let me := grpRank l
  let cap := fun (d : Nat) => (rankNo rs d).rcap.toNat
  let keptAt := (lists.zipIdx.flatMap (fun x => ((x.1.drop (cap x.2)).filter (fun y => y.1 == me)).map (fun y => (y.2.1, y.2.2))))
  let kept := ((List.range (repNrec l)).filterMap (fun i => (keptAt.find? (fun y => y.1 == i)).map Prod.snd))
  let away := (lists.zipIdx.map (fun x => if x.2 = me then 0 else ((x.1.take (cap x.2)).filter (fun y => y.1 == me)).length)).foldl (· + ·) 0
  let (outS, winO, winS) := s.overlaps r
  let first := if me = 0 then 0 else ends.getD (me - 1) 0
  let last := ends.getD me 4096
  { r, dest := fillBytes (grpDbuf l) kept.flatten, bad := (outS || winO, outS || winS, winO || winS)
    e := { result := if 0 < gkept then 2 else 1, cnt0 := ((lists.getD me []).take (repRcap l)).length, cnt1 := kept.length, cnt2 := away
           cnt3 := put first 16 (max first last), total, gkept } }
/-- The lines of a window that rank w writes: those of its records there, and the first line, for which each rank presents the pass
(R322, R446). -/
def recordLines (buf : DWord) (size w : Nat) (list : List (Nat × Nat × List Byte)) : List DWord :=
  (buf :: list.zipIdx.flatMap (fun x => if x.1.1 = w then
      (List.range (ceilDiv (size * x.2 % 128 + size) 128)).map (fun i => lineVa (buf + BitVec.ofNat 64 (size * x.2)) + BitVec.ofNat 64 (128 * i))
    else [])).eraseDups
/-- REPARTITION_EXECUTE (R315, R320 to R323). [DESIGN CHOICE, log 74] -/
def execRepartitionExecute (part : Nat) (gid epoch : BitVec 16) (remote : List RankIn) (s : State) : Host.Outcome State Fault Refusal :=
  groupRun 4 part gid epoch remote s fun s ls rs =>
    let n := (rs.headD default).nrank.toNat
    let h := histogram rs
    let sums := runningSums 0 h
    let total := h.foldl (· + ·) 0
    let ends := (List.range n).map (splitAfter sums total n)
    let lists := (List.range n).map (receiverList rs n ends)
    let cap := fun (d : Nat) => (rankNo rs d).rcap.toNat
    let gkept := (lists.zipIdx.map (fun x => x.1.length - cap x.2)).foldl (· + ·) 0
    let r := ls.headD default
    let accepted := fun (i : Nat) => (lists.getD i []).take (cap i)
    let buf := fun (i : Nat) => (rankEntry r.tab i).1
    { plans := ls.map (s.repPlan rs lists ends total gkept), spoil := false
      writes := fun i w => recordLines (buf i) (repSize r.cmd.line) w (accepted i)
      holds := fun i => fillBytes (buf i) ((accepted i).flatMap (fun y => y.2.2)) }

/-- RANK_STOP (R315): a rank of another package has stopped, and the ranks here stop with cause 8, those that are still to issue when
they do. -/
def execRankStop (part : Nat) (gid epoch : BitVec 16) (rank : BitVec 10) (s : State) : Host.Outcome State Fault Refusal :=
  if 8 ≤ part then .fault .noSuchUnit
  else
    let (gd, ep) := (gid.toNat, epoch.toNat)
    let cs := (s.groupCmds part 3 gd ep).map (3, ·) ++ (s.groupCmds part 4 gd ep).map (4, ·)
    match s.stopOf part gd ep cs with
    | some x => .next (s.noteStop x.part gd ep x.cause x.frank [] [rank.toNat])
    | none => match s.kindRanks cs with
      | (.error _, s) => .next (s.noteStop part gd ep 8 rank.toNat [] [rank.toNat])
      | (.ok ls, s) =>
        let back := s.noteStop part gd ep 8 rank.toNat [] [rank.toNat]
        .next ((s.stopRanks back (ls.map (fun x => (x.1, { x.2 with told := { x.2.told with cause := if x.2.told.cause = 10 then 10 else 0 } }))) 8 rank.toNat).noteStop
          part gd ep 8 rank.toNat (s.rankFasns (ls.map Prod.snd)) (rank.toNat :: ls.map (fun x => grpRank x.2.cmd.line)))

end Sys2Proof.Machine
end

