-- ==== Sys2Proof/Machine/Settle.lean ====
section
/-! DEFINITION. When waits end (R94, R95, R175, R185): the conditions of INTERLOCKED and WAITING threads, roll calls,
workgroups and matrix operations that go on with what has come (R179, R187, R276), and the landing of variable-latency
results (R81, R83, R143, R162). -/
namespace Sys2Proof.Machine

/-- Whether what a thread waits for is over: `some true` where the instruction has completed, so that the thread goes on after
it; `some false` where it issues again; `none` while the wait lasts, or where an event ends it. -/
def State.waitOver (s : State) (slot lane : Nat) (w : Why) : Option Bool :=
  let yes := fun (b : Bool) (r : Bool) => if b then some r else none
  let wg := (s.warp slot).wg
  match w with
  | .nothing => some false
  | .results ids => yes (ids.all (fun i => !s.pend.any (·.id == i))) false
  | .seq q => yes (seqAppeared (s.warp slot).rsltseq q) true
  | .roll r target => yes (phaseReached (s.rosterAt slot r).phase target) true
  | .fence _ => yes (!s.outstanding slot lane) false
  | .kvapp => yes (!(s.warp slot).liveLanes.any (s.outstanding slot)) false
  | .oprdy => yes (!s.tilePending slot) false
  | .redv => yes (decide ((s.pend.filter (fun p => p.slot == slot && p.rslt.isSome)).length < 4)) false
  | .tile n ops => yes (if ops then !s.tileBusy wg n else (s.pendTile wg n).isEmpty) false
  | .xrel k => yes (!s.slotPending slot k) false
  | .triple hd st peer => yes (decide ((s.unacked hd st peer).length < 256)) false
  | .moved bs => yes (bs.all (fun b => !(s.warp (b / 8)).xmoved.getLsbD (b % 8))) false
  | .channel n => yes (decide (((s.cluster (n / 16)).chans.get (n % 16)).queue.length < 8)) false
  | .engine hd kind => yes (decide (((s.half hd).queueOf kind).length < 16)) false
  | .mwait r => yes (!s.unfinished slot r) false
  | .release e => yes (!s.remotes.any (fun r => r.slot == slot && r.lane == lane && some r.peer != e)) false
  | .answers reads => yes (s.answersWhy slot lane reads).isNone false
  | .watch | .gather | .joint _ | .mconv _ | .extBlock _ _ | .heavy _ _ => none
/-- A thread whose wait is over becomes READY (R95). -/
def State.settleThread (s : State) (slot lane : Nat) (t : Thread) : Thread :=
  if t.st = .interlocked ∨ t.st = .waiting then
    match s.waitOver slot lane t.why with
    | some done => { t with st := .ready, why := .nothing, pc := if done then t.pc + 4 else t.pc }
    | none => t
  else t
/-- The rosters of every workgroup that meet a condition: workgroup and roster slot. -/
def State.rostersWith (s : State) (p : Roster → Bool) : List (Nat × Nat) :=
  List.flatMap (fun e => (List.filter (fun r => p r.2) e.2.rosters).map (fun r => (e.1, r.1))) s.wgs
/-- Every wait that is over ends (R95, R175); every roll call whose members have arrived completes (R185), every workgroup whose
warps have retired (R170), and every operation that all members have issued starts (R276). -/
def State.settle (s : State) : State :=
  let s := { s with warps := s.warps.map (fun k w => { w with threads := w.threads.map (s.settleThread k) }) }
  let s := (s.rostersWith (fun r => r.st == .calling)).foldl (fun s c => s.completionTest c.1 c.2) s
  let s := ((List.filter (fun e => e.2.ended) s.wgs).map Prod.fst).foldl State.completeWg s
  (s.rostersWith Roster.startable).foldl (fun s c => s.startOp c.1 c.2) s

-- Results land (R81, R83) ----------------------------------------------------------------------------------------------------------------

/-- A result may land: it waits for no other party, and results of its kind issued before it by its warp have landed (R143,
R162). [DEDUCED, log 24] -/
def State.landable (s : State) (p : Pending) : Bool :=
  !p.remote && !((s.pend.takeWhile (fun q => q.id != p.id)).any (fun q => q.slot == p.slot
    && ((p.rslt.isSome && q.rslt.isSome) || (p.blk && q.blk))))
/-- A result that lands is the later writer of its registers: an earlier fixed-latency result of one no longer keeps it from being
read (R82). -/
def Quad.later (q : Quad) (p : Pending) : Quad :=
  { q with sb := q.sb.filter (fun x => x.slot != p.slot || !((if x.unif then p.sregs else p.regs).any (fun e => e.1 == x.key))) }
/-- A pending result reaches the registers, RSLT, the shape slot or the tile of its warp. -/
def State.landResult (s : State) (p : Pending) : State :=
  let s := { s with pend := s.pend.filter (fun q => q.id != p.id) }
  let s := (s.modWarp p.slot (fun w => w.land p)).modQuad (quadOf p.slot) (fun q => q.later p)
  let s := match p.tile with
    | some (n, t) => s.landTile (s.warp p.slot).wg n p.id t
    | none => s
  s.spill (quadOf p.slot) 64
/-- RESULT_LANDS (R83). [DESIGN CHOICE, log 9] [DESIGN CHOICE, log 25] -/
def execResultLands (id : Nat) (s : State) : Host.Outcome State Fault Refusal :=
  match s.pend.find? (fun p => p.id == id) with
  | none => .next s
  | some p => if s.landable p then .next (s.landResult p) else .next s

end Sys2Proof.Machine
end

