-- ==== Sys2Proof/Machine/Arbiter.lean ====
section
/-! DEFINITION. Arbitration (R172 to R174): the end of a period, candidate bundles, ages and the winner; and workgroups of
aborted kernels, which stop at a period boundary (R374). -/
namespace Sys2Proof.Machine

/-- A thread as a round sees it: warp slot, lane, PC and AGE. -/
structure Cand where
  slot : Nat
  lane : Nat
  pc   : Nat
  age  : Nat
  deriving DecidableEq, Repr

/-- A workgroup begins no further period: its kernel is aborted (R374), or it is to be saved and a frame slot is free for it
(R171, R195, R392). -/
def State.stopped (s : State) (wg : Nat) : Bool :=
  let g := s.wgs.get wg
  g.doomed || (g.save.isSome && !(s.freeFrames (s.kernel g.kernel).ctx).isEmpty)
/-- The eligible threads of a quadrant (R172). -/
def State.eligible (s : State) (q : Nat) : List Cand :=
  (s.quadWarps q).flatMap (fun k =>
    let w := s.warp k
    if w.yheld || s.stopped w.wg then []
    else List.filterMap (fun e => if e.2.st = .ready then some ⟨k, e.1, e.2.pc.toNat, e.2.age⟩ else none) w.threads)
/-- The candidate bundle at a PC: per lane the thread of the lowest warp slot (R172). -/
def bundleAt (es : List Cand) (p : Nat) : List Cand :=
  (List.range 32).filterMap (fun l => es.find? (fun c => c.pc == p && c.lane == l))
/-- The winning PC: the oldest candidate where one has waited 64 rounds, else the lowest PC (R173). -/
def winner (es : List Cand) : Option Nat :=
  let ps := (es.map (·.pc)).eraseDups.map (fun p => (p, ((bundleAt es p).map (·.age)).foldl max 0))
  let old := ps.any (fun x => decide (64 ≤ x.2))
  ps.foldl (fun b x => match b with
    | none => some x
    | some y => if old then (if y.2 < x.2 ∨ (y.2 = x.2 ∧ x.1 < y.1) then some x else b) else (if x.1 < y.1 then some x else b)) none |>.map Prod.fst
/-- A bundle holds the quadrant's slot: it is ISSUING, and one of its threads is (R174). -/
def State.slotHeld (s : State) (q : Nat) : Bool := match (s.quad q).bundle with
  | some b => !b.closing && b.members.any (fun m => (s.thread m.2 m.1).st == .issuing)
  | none => false
/-- Threads of a workgroup are in a bundle that holds an issue slot (R171). -/
def State.wgInBundle (s : State) (wg : Nat) : Bool :=
  s.quads.any (fun e => match e.2.bundle with
    | some b => b.members.any (fun m => (s.warp m.2).wg == wg)
    | none => false)
/-- The warp slots of a workgroup's resident warps. -/
def State.wgSlots (s : State) (wg : Nat) : List Nat := (List.filter (fun e => e.2.wg == wg) s.warps).map Prod.fst
/-- A workgroup is discarded, and what it held is freed (R374, R401). -/
def State.discardWg (s : State) (wg : Nat) : State := ((s.wgSlots wg).foldl State.clearSlot s).freeWg wg
/-- Threads of a workgroup are ISSUING. -/
def State.wgIssuing (s : State) (wg : Nat) : Bool :=
  s.quads.any (fun e => match e.2.bundle with
    | some b => b.members.any (fun m => (s.warp m.2).wg == wg && (s.thread m.2 m.1).st == .issuing)
    | none => false)
/-- Workgroups of aborted kernels with threads on a quadrant stop at its period boundary (R374). -/
def State.reap (s : State) (q : Nat) : State :=
  ((s.quadWarps q).map (fun k => (s.warp k).wg)).eraseDups.foldl (fun s wg =>
    if (s.wgs.get wg).doomed && !s.wgIssuing wg then s.discardWg wg else s) s
/-- The slot of a closed bundle is released once the fixed-latency results issued in its period are readable (R174). -/
def Quad.release (q : Quad) : Quad := { q with bundle := none, cycle := max q.cycle q.due, sb := [], due := 0 }
/-- A round on a quadrant whose slot is free (R173). [DEDUCED, log 27] -/
def State.round (s : State) (q : Nat) : State :=
  let es := s.eligible q
  match winner es with
  | none => s.modQuad q (fun x => { x with cycle := x.cycle + 1 })
  | some p =>
    let b := bundleAt es p
    let s := es.foldl (fun s c => s.modThread c.slot c.lane (fun t =>
      if b.contains c then { t with st := .issuing, age := 0 } else { t with age := min (t.age + 1) 1023 })) s
    s.modQuad q (fun x => { x with bundle := some { members := b.map (fun c => (c.lane, c.slot)), closing := false, words := 0 } })
/-- ARBITRATION_ROUND (R18, R172 to R174): a throttled quadrant is held out of a round before each it takes part in. [DEDUCED, log 27] -/
def execArbitrationRound (q : Nat) (s : State) : Host.Outcome State Fault Refusal :=
  if 1536 ≤ q then .fault .noSuchUnit
  else if s.slotHeld q then .next s
  else
    let s := s.modQuad q Quad.release
    let s := s.reap q
    if s.throttle && !(s.quad q).held then .next (s.modQuad q (fun x => { x with held := true, cycle := x.cycle + 1 }))
    else .next ((s.modQuad q (fun x => { x with held := false })).round q)

end Sys2Proof.Machine
end

