-- ==== Sys2Proof/Machine/Frames.lean ====
section
/-! DEFINITION. Saved workgroups as memory shows them (R381, R393 to R397): the frame slot of the context's fault area. The
device's own record of a frame is `Frame`; what is written here is what software that maps the area can read. -/
namespace Sys2Proof.Machine

/-- n bytes of v written by the device into an area it keeps, across lines, whose check values are made anew. -/
def State.blit (s : State) (pa n v : Nat) : State :=
  if n = 0 then s
  else
    let s := { s with mem := s.mem.write pa n v }
    let first := pa / 128
    let s := (List.range ((pa + n - 1) / 128 - first + 1)).foldl (fun s i =>
      { s with side := s.side.write (16 * (first + i) + 4) 2 (check16 (s.line (first + i))).toNat }) s
    s.notify pa (pa + n)
/-- A sequence of fields: offset, bytes, value. -/
def State.blits (s : State) (base : Nat) (fs : List (Nat × Nat × Nat)) : State := fs.foldl (fun s f => s.blit (base + f.1) f.2.1 f.2.2) s

/-- STATE of a thread record (R395). -/
def threadCode : TState → Nat
  | .interlocked => 1
  | .waiting => 2
  | .halted => 3
  | .exited => 4
  | _ => 0
/-- A thread record (R395). -/
def threadRecord (t : Thread) : Nat :=
  let f := t.defer.headD ⟨0, 0, 0⟩
  let r := put (put (put (put t.pc.toNat 64 t.tepc.toNat) 128 t.taddr.toNat) 192 t.tinfo.toNat) 224 t.draw.toNat
  let r := put (put (put r 256 t.tcause.toNat) 264 (threadCode t.st)) 272 ((if t.tmode then 1 else 0) + (if t.defer.isEmpty then 0 else 2))
  put (put (put (put r 280 (t.wb / 16)) 288 f.addr.toNat) 352 f.cause.toNat) 384 f.info.toNat
/-- The parts of a warp record, by offset in it (R395). -/
def warpFields (w : Warp) : List (Nat × Nat × Nat) :=
  let valid := ((List.range 8).map (fun j => if (w.shapes.find j).isSome then 2 ^ j else 0)).foldl (· + ·) 0
  let st := put (put (put (put (put w.rsltv.toNat 32 w.rsltseq.toNat) 48 (if w.nf then 1 else 0)) 49 (if w.sbchk then 1 else 0))
    50 w.xheld.toNat) 58 valid
  (0, 128, st) :: (List.range 64).map (fun j => (0x80 + 4 * j, 4, (w.s j).toNat))
    ++ (List.range 32).map (fun i => (0x800 + 0x40 * i, 64, threadRecord (w.thread i)))
/-- A row as the row section holds it: header and payload, and its bytes (R396). [DEDUCED, log 55] -/
def rowRecord (w : Warp) (row : Nat) : Nat × Nat :=
  let xs := w.row row
  let c := rowClass xs
  let hd := put (put (w.tags.get row).toNat 4 c) 64 (w.shadows.get row).toNat
  let x0 := xs.headD 0
  let deltas := fun (n : Nat) => ((xs.drop 1).zipIdx.map (fun x => ((x.1 - x0).toNat % 2 ^ n) * 2 ^ (32 + n * x.2))).foldl (· + ·) 0
  let pay := match c with
    | 0 => x0.toNat
    | 1 => x0.toNat + deltas 8
    | 2 => x0.toNat + deltas 16
    | _ => (w.rowData row).toNat
  (16 + 16 * classGranules c, put hd 128 pay)
/-- The rows of a warp in a frame (R396). -/
def Warp.frameRows (w : Warp) : List Nat :=
  List.range 64 ++ (List.range 16).map (trapBase + ·)
    ++ ((List.range 8).filter (fun k => w.xheld.getLsbD k)).flatMap (fun k => (List.range 32).map (64 + 32 * k + ·))
/-- Records laid one after another: each with its offset; and the bytes in all. -/
def layOut (o : Nat) : List (Nat × Nat) → List (Nat × Nat × Nat) × Nat
  | [] => ([], o)
  | (n, v) :: r => let (fs, e) := layOut (o + n) r; ((o, n, v) :: fs, e)
/-- The code a STATE of a roster has, in the order R178 names them. -/
def rosterCode : RState → Nat
  | .unused => 0
  | .standing => 1
  | .calling => 2
/-- The word of a captured joint instruction, bits [27:0] without STALL (R272, R282, R286, R397). -/
def MIns.word (r : Nat) : MIns → Nat
  | .mldw t => put (put (put r 9 4) 14 t) 21 0x6E
  | .mma z t => put (put (put (if z then 64 else 0) 7 t) 14 r) 21 0x6A
  | .mmv q v t => put (put (put (put t 4 (v - 1)) 7 q) 14 r) 21 0x6B
  | .mdual zx zw x y => put (put (put (put y 7 x) 14 r) 18 ((if zx then 1 else 0) + (if zw then 2 else 0))) 21 0x6C
  | .drnT w t o => put (put (put (put o 4 (if w then 1 else 0)) 7 r) 14 t) 21 0x6D
  | .drnV w d o => put (put (put (put (put o 4 (if w then 1 else 0)) 5 1) 7 r) 14 d) 21 0x6D
  | .drnM w o => put (put (put (put o 4 (if w then 1 else 0)) 5 2) 7 r) 21 0x6D
/-- A roster record (R397); `sect` is the matrix section it uses. -/
def rosterFields (slot : Nat) (x : Roster) (sect : Nat) : List (Nat × Nat × Nat) :=
  let b := match x.bound with
    | none => 0
    | some m => m + 1
  let st := put (put (put (put (put (put (rosterCode x.st) 32 x.members.toNat) 64 x.phase.toNat) 80 b) 82 sect) 96 x.started) 128 x.dseq.toNat
  [(0, 128, x.pending.toNat), (0x100, 128, st)] ++ (List.range 32).map (fun w => (0x80 + 4 * w, 4, x.issued.get w))
    ++ (match x.gath with
      | [] => []
      | c :: _ => (0x180, 4, c.ins.word slot) :: c.vals.zipIdx.map (fun v => (0x184 + 4 * v.2, 4, v.1.toNat)))
/-- A failure record placed among some of one warp by its age. -/
def byAge (x : Nat × FailRec) : List (Nat × FailRec) → List (Nat × FailRec)
  | [] => [x]
  | y :: r => if y.2.age ≤ x.2.age then y :: byAge x r else x :: y :: r
/-- The failure records of a warp of a workgroup with their roster slots, oldest first (R394). -/
def Workgroup.warpFails (g : Workgroup) (w : Nat) : List (Nat × FailRec) :=
  (List.flatMap (fun (e : Nat × Roster) => (e.2.fails.get w).map (fun f => (e.1, f))) g.rosters).foldl (fun l x => byAge x l) []
/-- The failure records of a workgroup (R394): oldest first per warp. -/
def failRecords (g : Workgroup) : List Nat :=
  (List.range 32).flatMap (fun w => (g.warpFails w).map (fun e =>
    let f := e.2
    put (put (put (put f.code 8 w) 13 e.1) 17 (if f.code = 5 then f.cause.toNat else 0)) 25 (if f.code = 5 then f.info.toNat % 128 else 0)))
/-- The rosters of a workgroup bound to a context, ascending. -/
def Workgroup.bound (g : Workgroup) : List (Nat × Nat) :=
  List.filterMap (fun e => e.2.bound.map (fun m => (e.1, m))) g.rosters
/-- Extended blocks the warps of a frame held (R109, R394). -/
def Frame.xtotal (f : Frame) : Nat := (List.map (fun e => popcount e.2.xheld) f.warps).foldl (· + ·) 0

/-- A latch as numbers. -/
def latchList : Option Latch → List Nat
  | none => []
  | some l => l.fmt :: l.kb :: l.cols.length :: l.cols.flatMap (fun c => c.flatMap (fun b => [b.scale, b.bits]))
/-- The frame slot as memory holds it (R393 to R397). [DEDUCED, log 55] -/
def State.writeFrame (s : State) (f : Frame) : State :=
  let base := s.frameBase f.ctx f.slot
  let g := f.wg
  let k := s.kernel g.kernel
  let (rows, rowEnd) := layOut 0x1FC000 (List.flatMap (fun e => e.2.frameRows.map (rowRecord e.2)) f.warps)
  let (fails, _) := layOut rowEnd ((failRecords g).map (fun x => (8, x)))
  let bound := g.bound
  let hd := put (put (put (put (put (put f.seq 64 f.rva.toNat) 128 k.pidx.toNat) 160 k.queue) 168 g.idx) 192 (f.xtotal % 256)) 200 (g.nw - 1)
  let hd := put (put (put (put (put (put hd 208 g.prio) 212 f.reason) 214 bound.length) 216 g.retired.toNat) 256 0x1FC000) 288 (rowEnd - 0x1FC000)
  let hd := put (put (put (put hd 320 rowEnd) 352 (failRecords g).length) 368 g.held.toNat) 384 g.scr
  let s := s.blits base [(0, 128, hd)]
  let s := List.foldl (fun s e =>
    let s := s.blits (base + 0x1000 + 0x1000 * e.1) (warpFields e.2)
    s.blits (base + 0x21000 + 0x400 * e.1) (List.map (fun x => (0x80 * x.1, 128, x.2.toNat)) e.2.shapes)) s f.warps
  let s := List.foldl (fun s e => s.blits (base + 0x29000 + 0x200 * e.1) (rosterFields e.1 e.2 (bound.findIdx (fun x => x.1 == e.1) % 2))) s
    ((List.range (1 + g.nrost)).map (fun i => (i, g.rosters.get i)))
  let s := s.blits (base + 0x2B000) ((0x100, 4, g.top) :: g.allocs.zipIdx.map (fun a => (16 * a.2, 16, put (put a.1.base 32 a.1.size) 64 a.1.span)))
  let s := ((List.range 16).filter (fun n => g.held.getLsbD n)).foldl (fun s n =>
    s.blits (base + 0x2C000 + 0x9000 * n) ([(0, 128, (g.mshp.get n).toNat), (0x8880, 0x780, 0)] ++ (List.range 256).flatMap (fun j =>
      [(0x80 + 136 * j, 128, ((g.tiles.get n).get j).data.toNat), (0x80 + 136 * j + 128, 8, ((g.tiles.get n).get j).slots.toNat)]))) s
  let s := s.blits (base + 0xBC000) ((List.range (g.scr / 128)).map (fun i => (128 * i, 128, g.spad.read (128 * i) 128)))
  let s := bound.zipIdx.foldl (fun s b => s.blits (base + 0x13C000 + 0x60000 * b.2)
    ((List.range 1024).flatMap (fun i =>
      let word := fun (t : Table Word) => ((List.range 32).map (fun j => (t.get (32 * i + j)).toNat * 2 ^ (32 * j))).foldl (· + ·) 0
      [(128 * i, 128, word (f.banks.get b.1.1)), (0x20000 + 128 * i, 128, word (f.dws.get b.1.1)),
        (0x40000 + 128 * i, 128, fld (Config.latchImage (latchList (f.latches.find b.1.1))) (1024 * i) 1024)]))) s
  s.blits base (rows ++ fails)

end Sys2Proof.Machine
end

