-- ==== Sys2Proof/Machine/Workgroups.lean ====
section
/-! DEFINITION. Placement, save and restore of workgroups (R93, R109, R169 to R171, R191, R236, R264, R293, R364, R365, R368,
R370, R371, R392, R398, R399). -/
namespace Sys2Proof.Machine

-- What a core must offer (R109, R368, R370) -----------------------------------------------------------------------------------

/-- What a workgroup, new or saved, asks of a core. -/
structure Need where
  ctx   : Nat
  fuse  : Bool
  /-- The warps to be resident, each with the extended blocks it held at save. -/
  warps : List (Nat × Nat)
  /-- XB of a placement; none of a restore (R109). -/
  xb    : Option Nat
  scr   : Nat
  tiles : Nat
  nrost : Nat
  mctx  : Nat
  /-- Matrix contexts that must be free (R370). -/
  bound : Nat
  prio  : Nat
  deriving DecidableEq, Repr

/-- The bytes of a scratchpad region (R201). -/
def scrBytes (scratch : Nat) : Nat := roundUp scratch 512
/-- What a kernel's workgroups ask (R368). -/
def Kernel.need (k : Kernel) (prio : Nat) : Need :=
  { ctx := k.ctx, fuse := k.fuse, warps := (List.range k.nwarps).map (fun w => (w, 0)), xb := some k.xb, scr := scrBytes k.scratch
    tiles := popcount k.tiles, nrost := k.nrost, mctx := k.mctx, bound := 0, prio }
/-- What a saved workgroup asks (R370). -/
def State.frameNeed (s : State) (f : Frame) : Need :=
  { ctx := f.ctx, fuse := (s.kernel f.wg.kernel).fuse, warps := List.map (fun e => (e.1, popcount e.2.xheld)) f.warps, xb := none
    scr := f.wg.scr, tiles := popcount f.wg.held, nrost := f.wg.nrost, mctx := f.wg.mctx
    bound := max f.wg.bound.length f.wg.mctx, prio := f.wg.prio }

/-- The workgroups on a core, by number. -/
def State.coreWgs (s : State) (core : Nat) : List (Nat × Workgroup) := List.filter (fun e => e.2.core == core) s.wgs
/-- No workgroup is on any core of a cluster. -/
def State.clusterEmpty (s : State) (c : Nat) : Bool := !s.wgs.any (fun e => e.2.core / 8 == c)
/-- The register and warp-slot conditions on a core for a choice of q0 (R109, R169). -/
def State.rowsFit (s : State) (core : Nat) (n : Need) (q0 : Nat) : Bool :=
  (List.range 4).all (fun r =>
    let ws := n.warps.filter (fun w => (q0 + w.1) % 4 == r)
    let q := 4 * core + r
    let res := (s.quadWarps q).length
    let g := s.granted q
    let x := (ws.map Prod.snd).foldl (· + ·) 0
    ws.isEmpty || (decide (res + ws.length ≤ 16) && (match n.xb with
      | some xb => decide (80 * ws.length + 32 * xb + 80 * res + 32 * g ≤ s.capRows q)
      | none => decide (80 * ws.length + 32 * x + 80 * res + 32 * g ≤ s.capRows q) && decide (g + x ≤ 64))))
/-- q0 of R169. -/
def State.q0Of (s : State) (core : Nat) (n : Need) : Option Nat := (List.range 4).find? (s.rowsFit core n)
/-- The other conditions of R368 and R370. -/
def State.othersFit (s : State) (core : Nat) (n : Need) : Bool :=
  let gs := (s.coreWgs core).map Prod.snd
  let sum := fun (f : Workgroup → Nat) => (gs.map f).foldl (· + ·) 0
  gs.all (fun g => (s.kernel g.kernel).ctx == n.ctx)
    && ((s.cluster (core / 8)).fused == n.fuse || s.clusterEmpty (core / 8))
    && decide (sum (·.scr) + n.scr ≤ 524288) && decide (sum (fun g => popcount g.held) + n.tiles ≤ 16)
    && decide (sum (fun g => 1 + g.nrost) + 1 + n.nrost ≤ 16) && decide (sum (·.mctx) + n.mctx ≤ 2)
    && decide (n.bound ≤ ((List.range 2).filter (fun m => (s.matrix core m).roster.isNone)).length)
/-- A core qualifies (R368, R370). -/
def State.fits (s : State) (n : Need) (core : Nat) : Bool := (s.q0Of core n).isSome && s.othersFit core n
/-- The machine with every core empty, for the tests of R367. -/
def State.emptied (s : State) : State := { s with warps := [], wgs := [], cores := [] }

/-- The cores of a partition (R25). -/
def State.partCores (s : State) (p : Nat) : List Nat := (s.partHalves p).flatMap (fun h => (List.range 48).map (48 * h + ·))
/-- The lines of a context's pool in use: store areas of placed and saved workgroups, reduction areas of kernels that have
entered DISTRIBUTING and not ended (R381). -/
def State.poolUsed (s : State) (ctx : Nat) : Nat :=
  let stores := fun (g : Workgroup) =>
    let k := s.kernel g.kernel
    if k.ctx = ctx ∧ k.repeatable then k.rsl else 0
  ((List.map (fun e => stores e.2) s.wgs).foldl (· + ·) 0) + ((s.frames.map (fun f => stores f.wg)).foldl (· + ·) 0)
    + ((List.map (fun e => if e.2.ctx = ctx ∧ e.2.repeatable ∧ (e.2.st = .distributing ∨ e.2.st = .running ∨ e.2.st = .draining)
        then e.2.rrl else 0) s.kernels).foldl (· + ·) 0)
/-- The lines of a context's pool that are areas of its workgroups and kernels (R381). -/
def State.poolLines (s : State) (ctx : Nat) : List Nat :=
  let mine := fun (g : Workgroup) => if (s.kernel g.kernel).ctx = ctx then g.area else []
  List.flatMap (fun (e : Nat × Workgroup) => mine e.2) s.wgs ++ s.frames.flatMap (fun f => mine f.wg)
    ++ List.flatMap (fun (e : Nat × Kernel) => if e.2.ctx = ctx ∧ (e.2.st = .distributing ∨ e.2.st = .running ∨ e.2.st = .draining) then e.2.area else []) s.kernels
/-- n lines of a context's pool that are free, the lowest first (R381). -/
def State.poolTake (s : State) (ctx n : Nat) : List Nat :=
  let used := s.poolLines ctx
  ((List.range (s.ctx ctx).rplines).filter (fun i => !used.contains i)).take n
/-- A context whose workgroups may be placed or restored: none is while it is suspended or being suspended (R376, R400). [DEDUCED, log 57] -/
def Context.runs (c : Context) : Bool := (c.st == .active || c.st == .bound) && !c.suspending

-- Placement (R93, R169, R264, R364, R368) ---------------------------------------------------------------------------------------

/-- The lowest free warp slot of a quadrant (R169). -/
def State.freeSlot (s : State) (q : Nat) : Nat :=
  16 * q + (((List.range 16).find? (fun i => (s.warps.find (16 * q + i)).isNone)).getD 0)
/-- A core takes a workgroup: a cluster that was empty changes its mode, which invalidates its L1s (R191); the core's L1 is
acquired (R236, R364); and its last-page registers are cleared (R193). [DEDUCED, log 29] -/
def State.prepareCore (s : State) (core : Nat) (fuse : Bool) : State :=
  let c := core / 8
  let s := if (s.cluster c).fused == fuse then s
    else ((List.range 8).foldl (fun s i => s.modCore (8 * c + i) (fun x => { x with l1 := [], copies := [] })) s).modCluster c (fun x => { x with fused := fuse })
  let s := s.modL1 core (fun _ => [])
  (List.range 4).foldl (fun s r => s.modQuad (4 * core + r) (fun q => { q with lpr := [] })) s
/-- A thread as its warp is created (R93). -/
def newThread (entry : DWord) : Thread := { (default : Thread) with pc := entry, wb := 16, st := .ready }
/-- A warp as a launch creates it (R93, R364). -/
def Kernel.newWarp (k : Kernel) (wg w : Nat) : Warp :=
  { (default : Warp) with
    wg, wid := w, threads := (List.range 32).map (fun l => (l, newThread k.entry))
    sreg := (List.range 16).map (fun j => (j, k.line1.extractLsb' (32 * j) 32)) ++ [(16, k.dbase.extractLsb' 0 32), (17, k.dbase.extractLsb' 32 32)] }
/-- The homeroom at placement (R177). -/
def homeroom (nw : Nat) : Roster := { (default : Roster) with st := .standing, members := BitVec.ofNat 32 (2 ^ nw - 1) }
/-- A workgroup of a kernel as it is placed (R169, R177, R201, R264). -/
def Kernel.newWg (k : Kernel) (kn idx core q0 prio order : Nat) : Workgroup :=
  { (default : Workgroup) with
    kernel := kn, idx, core, q0, prio, nw := k.nwarps, scr := scrBytes k.scratch, held := k.tiles
    mshp := ((List.range 16).filter (fun n => k.tiles.getLsbD n)).map (fun n => (n, BitVec.ofNat 32 (k.shape n)))
    nrost := k.nrost, rosters := [(0, homeroom k.nwarps)], xb := k.xb, mctx := k.mctx, order }
/-- Warps take slots in ascending number (R169). -/
def State.seatWarps (s : State) (core q0 : Nat) (ws : List Warp) : State :=
  ws.foldl (fun s w => s.setWarp (s.freeSlot (4 * core + (q0 + w.wid) % 4)) w) s
/-- Workgroup idx of a kernel is placed on a core (R368). -/
def State.placeWg (s : State) (kn idx prio core q0 : Nat) : State :=
  let k := s.kernel kn
  let s := s.prepareCore core k.fuse
  let (id, s) := s.newId
  let area := if k.repeatable then s.poolTake k.ctx k.rsl else []
  let s := { s with wgs := s.wgs.put id { k.newWg kn idx core q0 prio id with area } }
  s.seatWarps core q0 ((List.range k.nwarps).map (k.newWarp id))

-- The choice between kernels (R357, R369) ---------------------------------------------------------------------------------------

/-- The number of a holder's round-robin position at a level. -/
def rrKey (h : Holder) (p level : Nat) : Nat := match h with
  | .chip => 16 * p + level
  | .die d => 1000 + 16 * (8 * d + p) + level
  | .cluster c => 10000 + 16 * (8 * c + p) + level
/-- The less of two by a measure, the first of equals. -/
def least {α : Type} (m : α → Nat) : List α → Option α
  | [] => none
  | a :: r => match least m r with
    | none => some a
    | some b => if m b < m a then some b else some a
/-- The least of two measures, the first before the second. -/
def leastBy {α : Type} (m n : α → Nat) (l : List α) : Option α := match least m l with
  | none => none
  | some b => least n (l.filter (fun a => m a == m b))
/-- The range a holder serves next among some (R357, R369): launched by time first, then the highest priority, then the queue
after the last one served there, and in it the oldest kernel. [DEDUCED, log 59] -/
def State.chooseRange (s : State) (h : Holder) (p : Nat) (rs : List Range) : Option Range :=
  let kn := fun (r : Range) => s.kernel r.kernel
  match leastBy (fun r => (kn r).time) (fun r => (kn r).queue) (rs.filter (fun r => (kn r).isTimed)) with
  | some r => some r
  | none =>
    let prio := fun (r : Range) => if h == .chip then (kn r).prio else r.prio
    let top := (rs.map prio).foldl max 0
    let last := s.rr.get (rrKey h p top)
    leastBy (fun r => ((kn r).queue + 256 - last) % 256) (·.kernel) (rs.filter (fun r => prio r == top))
/-- The position of a holder moves past the queue just served. [DEDUCED, log 59] -/
def State.served (s : State) (h : Holder) (r : Range) : State :=
  if (s.kernel r.kernel).isTimed then s
  else
    let level := if h == .chip then (s.kernel r.kernel).prio else r.prio
    { s with rr := s.rr.put (rrKey h r.part level) ((s.kernel r.kernel).queue + 1) }

-- Saves (R171, R236, R293, R392, R398) ------------------------------------------------------------------------------------------

/-- An engine command of the workgroup names its scratchpad, and has neither completed nor stopped (R302, R309). -/
def State.scratchBusy (s : State) (wg : Nat) : Bool :=
  s.clusters.any (fun c => c.2.chans.any (fun h => (h.2.queue.drop (if h.2.st = 2 then 1 else 0)).any (fun x => x.wg == wg && (cpySspace x.line || cpyDspace x.line))))
/-- Results of gathering operations that a save takes along (R293). -/
def Workgroup.gathPends (g : Workgroup) : List Nat := List.flatMap (fun e => e.2.gath.filterMap (·.pend)) g.rosters
/-- A workgroup may be saved now (R171, R236, R293, R302): no thread is in a bundle, every access and result is complete, and
no operation or command of it runs. [DEDUCED, log 54] -/
def State.saveable (s : State) (wg : Nat) : Bool :=
  let mine := fun (k : Nat) => (s.warps.find k).isSome && (s.warp k).wg == wg
  !s.wgInBundle wg
    && s.pend.all (fun p => !mine p.slot || (s.wgs.get wg).gathPends.contains p.id)
    && !s.kreqs.any (fun r => mine r.slot) && !s.remotes.any (fun r => r.wg == wg)
    && (s.opsOf wg).isEmpty && !s.scratchBusy wg
/-- A thread as a frame keeps it (R95). -/
def Thread.saved (t : Thread) : Thread := if t.st.alive then { t with st := .saved, why := .nothing } else t
/-- A thread as a restore leaves it (R95, R399). -/
def Thread.restored (t : Thread) : Thread := if t.st = .saved then { t with st := .ready, age := 0, ylast := 0 } else t
/-- The frame of a workgroup (R393 to R397). -/
def State.frameOf (s : State) (wg slot : Nat) (q : SaveReq) : Frame :=
  let g := s.wgs.get wg
  let ws : Table Warp := List.map (fun k => ((s.warp k).wid, { s.warp k with cmd := none })) (s.wgSlots wg)
  let ws : Table Warp := ws.foldl (fun (t : Table Warp) e => t.put e.1 e.2) []
  let ctx := fun (b : Nat × Nat) => s.matrix g.core b.2
  { ctx := (s.kernel g.kernel).ctx, slot, id := wg, wg := { g with save := none }, warps := ws
    banks := g.bound.map (fun b => (b.1, (ctx b).bank)), dws := g.bound.map (fun b => (b.1, (ctx b).dw))
    latches := g.bound.filterMap (fun b => (ctx b).latch.map (fun l => (b.1, l)))
    pends := s.pend.filter (fun p => g.gathPends.contains p.id)
    reason := q.reason, rva := if q.reason = 1 then q.rva else 0, pte := q.pte, seq := (s.part (s.kernel g.kernel).part).saveSeq + 1
    ready := q.reason == 2 || (q.reason == 1 && !s.heavies.any (fun h => h.pte == q.pte)), torn := false }
/-- What a resident thread still waits for, as a request to save its workgroup (R195). -/
def Thread.heavySave (t : Thread) : Option SaveReq := match t.why with
  | .heavy pte va => some { reason := 1, rva := va, pte }
  | _ => none
/-- A resident workgroup whose entries are resolved before it could be saved goes on: its threads issue again, and no save but
one for a suspension is asked for unless another entry is awaited (R392, R400). -/
def State.heavyOver (s : State) (wg : Nat) : State :=
  let ended := fun (t : Thread) => match t.why with
    | .heavy pte _ => !s.heavies.any (fun h => h.pte == pte)
    | _ => false
  let s := { s with warps := s.warps.map (fun _ (w : Warp) => if w.wg = wg then { w with threads := w.threads.map (fun _ (t : Thread) =>
    if t.st = TState.interlocked ∧ ended t then { t with st := .ready, why := .nothing } else t) } else w) }
  let left := (s.wgSlots wg).flatMap (fun k => List.filterMap (fun (e : Nat × Thread) => e.2.heavySave) (s.warp k).threads)
  s.modWg wg (fun g => { g with save := if g.save.any (·.reason == 3) then g.save else left.head? })
/-- The first byte of a context's repeatable pool (R381). [DESIGN CHOICE, log 97] -/
def State.poolBase (s : State) (ctx : Nat) : Nat := s.frameBase ctx (s.ctx ctx).nframe
/-- The store buffers of a workgroup go to its store area in its context's pool, one line there for each line buffered, in a form
the manual leaves open (R381, R398). [DESIGN CHOICE, log 97] -/
def State.storeArea (s : State) (wg : Nat) : State :=
  let g := s.wgs.get wg
  let ctx := (s.kernel g.kernel).ctx
  let n := ((List.range g.nw).map (fun w => (bufLines (s.bufOf wg w)).length)).foldl (· + ·) 0
  if n = 0 then s
  else
    let (v, s) := s.free
    ((freeLines v n).zip g.area).foldl (fun s l => s.putLine (s.poolBase ctx / 128 + l.2) l.1) s
/-- WORKGROUP_SAVE (R398); without a free slot a heavy fault waits and a pre-emption is not performed (R392). [DEDUCED, log 29] [DEDUCED, log 54] -/
def execWorkgroupSave (wg : Nat) (s : State) : Host.Outcome State Fault Refusal :=
  match s.wgs.find wg with
  | none => .next s
  | some g => match g.save, s.freeFrames (s.kernel g.kernel).ctx with
    | some _, [] => .next (s.heavyOver wg)
    | some q, slot :: _ =>
      if !s.saveable wg || g.doomed then .next s
      else
        let f := s.frameOf wg slot q
        let s := (s.writeFrame f).storeArea wg
        let f := { f with warps := f.warps.map (fun _ w => { w with threads := w.threads.map (fun _ t => t.saved) }) }
        let s := (List.range 4).foldl (fun s r => s.modQuad (4 * g.core + r) (fun x => { x with lpr := [] })) s
        let s := ((s.wgSlots wg).foldl State.clearSlot s).freeWg wg
        .next ({ s with frames := s.frames ++ [f] }.modPart (s.kernel g.kernel).part (fun p => { p with saveSeq := p.saveSeq + 1 }))
    | _, _ => .next s

-- Pre-emption (R371) --------------------------------------------------------------------------------------------------------------

/-- The machine without some workgroups. -/
def State.without (s : State) (gs : List Nat) : State :=
  { s with wgs := List.filter (fun e => !gs.contains e.1) s.wgs, warps := List.filter (fun e => !gs.contains e.2.wg) s.warps
           cores := s.cores.map (fun _ c => { c with mctx := c.mctx.map (fun _ m => match m.roster with
             | some (w, _) => if gs.contains w then default else m
             | none => m) }) }
/-- The workgroups of a list, those of the lowest priority first and the last placed first (R371). -/
def saveOrder (now : Nat) : Nat → List (Nat × Workgroup) → List Nat
  | 0, _ => []
  | n + 1, l => match leastBy (fun e => e.2.prio) (fun e => now - e.2.order) l with
    | none => []
    | some e => e.1 :: saveOrder now n (l.filter (fun x => x.1 != e.1))
/-- The workgroups of lower priority on a core, in the order of their saving (R371). -/
def State.victims (s : State) (core prio : Nat) : List Nat :=
  let vs := (s.coreWgs core).filter (fun e => decide (e.2.prio < prio))
  saveOrder s.nextId vs.length vs
/-- The first workgroups of a list whose saving makes room on a core (R371). -/
def State.roomBy (s : State) (n : Need) (core : Nat) (vs : List Nat) : Option (List Nat) :=
  ((List.range (vs.length + 1)).map (fun i => vs.take i)).find? (fun gs => (s.without gs).fits n core)
/-- The save of the victims on the lowest-numbered core where that makes room (R371), while a frame slot is free (R392). -/
def State.preempt (s : State) (p : Nat) (n : Need) : State :=
  match (s.partCores p).findSome? (fun c => s.roomBy n c (s.victims c n.prio)) with
  | none => s
  | some gs => gs.foldl (fun s g =>
      if (s.freeFrames (s.kernel (s.wgs.get g).kernel).ctx).isEmpty then s
      else s.modWg g (fun x => { x with save := match x.save with
        | some q => some q
        | none => some { reason := 2, rva := 0, pte := 0 } })) s

-- Restore (R370, R399) --------------------------------------------------------------------------------------------------------------

/-- The frames of a partition that may be restored, in the order of R370. -/
def State.readyFrames (s : State) (p : Nat) : List Frame :=
  s.frames.filter (fun f => f.ready && (s.kernel f.wg.kernel).part == p && (s.ctx f.ctx).runs)
/-- A core of the partition takes the frame (R370). -/
def State.frameCore (s : State) (f : Frame) : Option Nat :=
  (s.partCores (s.kernel f.wg.kernel).part).find? (s.fits (s.frameNeed f))
/-- The frame restored next (R370). -/
def State.nextFrame (s : State) (p : Nat) : Option Frame := leastBy (fun f => 8 - f.wg.prio) (·.seq) (s.readyFrames p)
/-- A restored warp (R399): its rows stand in the file. -/
def Warp.restored (w : Warp) : Warp :=
  { w with threads := w.threads.map (fun _ t => t.restored), xmoved := 0, xout := 0, xlast := [], yexp := 0, yheld := false }
/-- A thread record whose bytes software has changed (R381, R395). -/
def Thread.torn (t : Thread) (v : Nat) : Thread :=
  { t with
    pc := BitVec.ofNat 64 (fld v 0 64), tepc := BitVec.ofNat 64 (fld v 64 64), taddr := BitVec.ofNat 64 (fld v 128 64)
    tinfo := BitVec.ofNat 32 (fld v 192 32), draw := BitVec.ofNat 32 (fld v 224 32), tcause := BitVec.ofNat 8 (fld v 256 8)
    tmode := tst v 264, wb := 16 * (fld v 265 16 % 20) }
/-- A saved warp whose bytes software has changed: its registers and threads hold undefined values (R381, R395, R396). -/
def Warp.torn (w : Warp) (v : Nat) : Warp :=
  let rows := w.frameRows
  { w with
    threads := w.threads.map (fun l t => t.torn (fld v (300 * l) 300))
    vreg := rows.flatMap (fun r => (List.range 32).map (fun i => (32 * r + i, BitVec.ofNat 32 (fld v (10000 + 1100 * r + 32 * i) 32))))
    tags := rows.map (fun r => (r, BitVec.ofNat 4 (fld v (10000 + 1100 * r + 1024) 8 % 10)))
    shadows := rows.map (fun r => (r, BitVec.ofNat 64 (fld v (10000 + 1100 * r + 1032) 64)))
    sreg := (List.range 64).map (fun j => (j, BitVec.ofNat 32 (fld v (700000 + 32 * j) 32)))
    shapes := w.shapes.map (fun j _ => BitVec.ofNat 1024 (fld v (710000 + 1024 * j) 1024))
    rsltv := BitVec.ofNat 32 (fld v 720000 32), rsltseq := BitVec.ofNat 16 (fld v 720032 16), nf := tst v 720048, sbchk := tst v 720049 }
/-- A latch whose bytes software has changed (R293, R381). -/
def Latch.torn (l : Latch) (v : Nat) : Latch :=
  { l with fmt := 1 + fld v 0 8 % 9, cols := l.cols.zipIdx.map (fun c => c.1.zipIdx.map (fun b =>
    let i := 8 + 264 * (l.kb * c.2 + b.2)
    { scale := fld v i 8, bits := fld v (i + 8) 256 })) }
/-- What software's writes into a frame slot leave of the workgroup: undefined values in its own state (R381). -/
def Frame.undefined (f : Frame) (v : Nat) : Frame :=
  let at0 := fun (i : Nat) => fld v (i * 2 ^ 24) (2 ^ 24)
  let bank := fun (x : Nat) => ((List.range 32768).map (fun i => (i, BitVec.ofNat 32 (fld x (32 * i) 32))) : Table Word)
  { f with
    warps := f.warps.map (fun w x => x.torn (at0 w))
    banks := f.banks.map (fun r _ => bank (at0 (32 + r))), dws := f.dws.map (fun r _ => bank (at0 (48 + r)))
    latches := f.latches.map (fun r x => x.torn (at0 (100 + r)))
    wg := { f.wg with
      tiles := f.wg.tiles.map (fun n _ => freeTile (at0 (64 + n))), mshp := f.wg.mshp.map (fun n _ => BitVec.ofNat 32 (fld (at0 (80 + n)) 0 32))
      spad := f.wg.spad.write 0 f.wg.scr (at0 96), rosters := f.wg.rosters.map (fun r x => { x with phase := BitVec.ofNat 16 (fld (at0 97) (16 * r) 16) }) } }
/-- A bound roster takes a free context, which is loaded from the frame (R293). -/
def State.rebind (s : State) (f : Frame) (core : Nat) (b : Nat × Nat) : State := match s.freeMatrix core with
  | none => s
  | some m =>
    (s.modMatrix core m (fun _ => { (default : MCtx) with
      roster := some (f.id, b.1), bank := f.banks.get b.1, dw := f.dws.get b.1, latch := f.latches.find b.1 })).modRoster f.id b.1
        (fun x => { x with bound := some m })
/-- The frame is placed on a core (R399): its warps take slots, bound rosters contexts, and its frame slot is free. -/
def State.restoreFrame (s : State) (f : Frame) (core q0 : Nat) : State :=
  let k := s.kernel f.wg.kernel
  let (f, s) := if f.torn then (f.undefined s.free.1, s.free.2) else (f, s)
  let s := { s with frames := s.frames.filter (fun x => x.id != f.id) }
  let s := s.prepareCore core k.fuse
  let g := { f.wg with core, q0, order := s.nextId }
  let s := { s with wgs := s.wgs.put f.id g, nextId := s.nextId + 1 }
  let s := s.seatWarps core q0 (List.map (fun e => e.2.restored) f.warps)
  let s := f.wg.bound.foldl (fun s b => s.rebind f core b) s
  let s := { s with pend := s.pend ++ f.pends.filterMap (fun p =>
    match List.findSome? (fun e => (e.2.gath.find? (fun c => c.pend == some p.id)).map (·.wid)) f.wg.rosters with
    | none => none
    | some w => (s.slotOf f.id w).map (fun slot => { p with slot })) }
  (List.range 4).foldl (fun s r => s.spill (4 * core + r) 64) s
/-- New work of a higher priority waits that a core takes, or for which room is being made: no saved workgroup takes its place (R370,
R371). [DEDUCED, log 120] -/
def State.newFirst (s : State) (p prio : Nat) : Bool := s.ranges.any (fun r =>
  let k := s.kernel r.kernel
  let n := k.need (if r.holder == .chip then k.prio else r.prio)
  r.part == p && decide (r.lo < r.hi) && decide (prio < n.prio) && (s.ctx k.ctx).runs
    && (!k.repeatable || decide (s.poolUsed k.ctx + k.rsl ≤ (s.ctx k.ctx).rplines))
    && ((s.partCores p).any (s.fits n) || (s.partCores p).any (fun c => (s.roomBy n c (s.victims c n.prio)).isSome)))
/-- WORKGROUP_RESTORE (R399): the lowest core that qualifies takes the frame in its turn; where none does, room is made
(R371). [DEDUCED, log 120] -/
def execWorkgroupRestore (wg : Nat) (s : State) : Host.Outcome State Fault Refusal :=
  match s.frames.find? (fun f => f.id == wg) with
  | none => .next s
  | some f =>
    let p := (s.kernel f.wg.kernel).part
    if !f.ready || !(s.ctx f.ctx).runs || (s.nextFrame p).any (fun x => x.id != f.id) || s.newFirst p f.wg.prio then .next s
    else match s.frameCore f with
      | none => .next (s.preempt p (s.frameNeed f))
      | some core => .next (s.restoreFrame f core ((s.q0Of core (s.frameNeed f)).getD 0))

-- Placement by a cluster (R357, R368 to R371) -------------------------------------------------------------------------------------

/-- Saved workgroups ready for restore come before new ones of a priority not higher (R370). [DEDUCED, log 57] -/
def State.framesFirst (s : State) (p prio : Nat) : Bool := (s.readyFrames p).any (fun f => decide (prio ≤ f.wg.prio))
/-- The ranges a cluster can place: those of contexts that run. -/
def State.clusterRanges (s : State) (c : Nat) : List Range :=
  s.ranges.filter (fun r => r.holder == .cluster c && decide (r.lo < r.hi) && (s.ctx (s.kernel r.kernel).ctx).runs)
/-- Remove the first index of a range. -/
def State.takeIndex (s : State) (r : Range) : State :=
  { s with ranges := (s.ranges.map (fun x => if x == r then { x with lo := x.lo + 1 } else x)).filter (fun x => decide (x.lo < x.hi)) }
/-- The pool holds room for a workgroup's store area (R381). -/
def State.poolFits (s : State) (k : Kernel) : Bool :=
  !k.repeatable || decide (s.poolUsed k.ctx + k.rsl ≤ (s.ctx k.ctx).rplines)
/-- WORKGROUP_PLACEMENT (R368): the cluster distributor places the lowest index of the range it serves on the lowest core of
its cluster that qualifies; where no core of the partition does, room is made (R371). -/
def execWorkgroupPlacement (cluster : Nat) (s : State) : Host.Outcome State Fault Refusal :=
  if 48 ≤ cluster then .fault .noSuchUnit
  else
    let p := (s.half (cluster / 6)).part
    match s.chooseRange (.cluster cluster) p (s.clusterRanges cluster) with
    | none => .next s
    | some r =>
      let k := s.kernel r.kernel
      let n := k.need r.prio
      if s.framesFirst p r.prio || !s.poolFits k then .next s
      else match ((List.range 8).map (8 * cluster + ·)).find? (s.fits n) with
        | some core =>
          let q0 := (s.q0Of core n).getD 0
          .next (((s.served (.cluster cluster) r).takeIndex r).placeWg r.kernel r.lo r.prio core q0)
        | none => if (s.partCores p).any (s.fits n) then .next s else .next (s.preempt p n)

end Sys2Proof.Machine
end

