-- ==== Sys2Proof/Machine/Kernels.lean ====
section
/-! DEFINITION. Kernels from PENDING to their end (R356, R360, R365 to R367, R373, R374), and the passing of index ranges down
the distributor tree (R357, R369). -/
namespace Sys2Proof.Machine

-- Queue order (R356, R360, R373) ------------------------------------------------------------------------------------------------

/-- Every packet accepted before number k in a queue has passed (R356). -/
def State.turn (s : State) (p q k : Nat) : Bool :=
  List.all s.kernels (fun e => !(decide (e.1 < k) && e.2.part == p && e.2.queue == q && (e.2.st == .pending || e.2.st == .armed)))
    && List.all (s.queue p q).nops (fun e => decide (k ≤ e.1))
/-- Every kernel accepted before number k in a queue has ended and its word is written (R353, R373). -/
def State.serialFree (s : State) (p q k : Nat) : Bool :=
  List.all s.kernels (fun e => !(decide (e.1 < k) && e.2.part == p && e.2.queue == q) || e.2.written)
/-- A kernel's turn has come, with no SERIAL hold, and its context runs. -/
def State.mayPass (s : State) (k : Nat) : Bool :=
  let r := s.kernel k
  s.turn r.part r.queue k && (!r.serial || s.serialFree r.part r.queue k) && (s.ctx r.ctx).runs
/-- The queue in which number k is a NOP packet, with its header line (R356). -/
def State.nopOf (s : State) (k : Nat) : Option (Nat × LineBits) :=
  List.findSome? (fun e => (Table.find e.2.nops k).map (fun l => (e.1, l))) s.queues
/-- A NOP whose turn has come, with no SERIAL hold, and its TIME reached, passes (R356, R360). -/
def State.passNop (s : State) (k : Nat) (timed : Bool) : State := match s.nopOf k with
  | none => s
  | some (q, l) =>
    let time := bf l 64 64
    if l.getLsbD 36 == timed && s.turn (q / 256) (q % 256) k && (!l.getLsbD 38 || s.serialFree (q / 256) (q % 256) k)
        && (!timed || (s.locked && decide (time ≤ s.devtime)))
    then s.modQueue (q / 256) (q % 256) (fun x => { x with nops := x.nops.erase k }) else s

-- Armed kernels (R360) ------------------------------------------------------------------------------------------------------------

/-- The first evaluation of a timed kernel under a locked clock (R360); one whose TIME passed in a suspension of its context is
late already (R400). [DEDUCED, log 61] -/
def State.evaluate (s : State) (k : Nat) : State :=
  let r := s.kernel k
  if r.late then s.modKernel k (fun r => { r with st := .armed, timed := true, released := true })
  else if s.devtime < r.time then s.modKernel k (fun r => { r with st := .armed, timed := true })
  else if r.latep then s.abort k 9
  else s.modKernel k (fun r => { r with st := .armed, timed := true, late := true, released := true })
/-- KERNEL_ARM (R360, R366): while the clock is unlocked the kernel only arms. -/
def execKernelArm (k : Nat) (s : State) : Host.Outcome State Fault Refusal :=
  let r := s.kernel k
  if r.st = .pending && r.isTimed && s.mayPass k then
    if s.locked then .next (s.evaluate k) else .next (s.modKernel k (fun r => { r with st := .armed }))
  else .next s
/-- TIMED_RELEASE (R360): the time of an armed kernel, or of a timed NOP, has come. [DEDUCED, log 61] -/
def execTimedRelease (k : Nat) (s : State) : Host.Outcome State Fault Refusal :=
  let r := s.kernel k
  if r.st = .armed && s.locked && (s.ctx r.ctx).runs && !r.released then
    if !r.timed then .next (s.evaluate k)
    else if r.time ≤ s.devtime then .next (s.modKernel k (fun r => { r with released := true }))
    else .next s
  else .next (s.passNop k true)

-- Entering DISTRIBUTING (R365, R367) ----------------------------------------------------------------------------------------------

/-- A shape obeys R265. -/
def shapeOk (x : Nat) : Bool :=
  fld x 10 2 == 0 && decide (fld x 12 4 < 10) && decide ((fld x 0 8 + 1) * (fld x 8 2 + 1) ≤ 256)
/-- A resource record is good (R365). -/
def recordOk (d : LineBits) : Bool :=
  bf d 384 640 == 0 && bf d 50 78 == 0 && bf d 28 4 == 0 && decide (bf d 0 4 ≤ 8) && decide (bf d 8 20 ≤ 524288) && decide (bf d 48 2 ≤ 2)
    && (List.range 16).all (fun n => if d.getLsbD (32 + n) then shapeOk (bf d (128 + 16 * n) 16) else bf d (128 + 16 * n) 16 == 0)
/-- R367 finds a fault (R366). -/
def State.failKernel (s : State) (k cause : Nat) : State := s.modKernel k (fun r => { r with st := .faulted, cause })
/-- The agent of a partition's distribution: at its lowest half-die. -/
def State.distAgent (s : State) (k : Nat) : Agent :=
  let r := s.kernel k
  { hd := (s.partHalves r.part).headD 0, key := .work k 0, ctx := r.ctx, kernel := k, widx := 0, wid := 0 }
/-- The steps of R367, after which the kernel is DISTRIBUTING. -/
def State.distribute (s : State) (k : Nat) : State :=
  match s.agentRead (s.distAgent k) 0 (s.kernel k).rrec with
  | (.error .wait, s) => s
  | (.error (.fault _), s) => (s.dropWork k).failKernel k 3
  | (.ok l, s) =>
    if !recordOk l.data then (s.dropWork k).failKernel k 3
    else
      let s1 := s.modKernel k (fun r => { r with record := l.data })
      let r := s1.kernel k
      let n := r.need 0
      let cores := s1.partCores r.part
      if !cores.any (fun c => (s1.emptied.q0Of c n).isSome) then (s1.dropWork k).failKernel k 4
      else if !cores.any (s1.emptied.fits n) || (r.repeatable && decide ((s1.ctx r.ctx).rplines < r.rrl)) then (s1.dropWork k).failKernel k 5
      else if r.repeatable && decide ((s1.ctx r.ctx).rplines < s1.poolUsed r.ctx + r.rrl) then s
      else
        let prio := if r.isTimed then 8 else (s1.queue r.part r.queue).prio
        let seed := if r.seedov then r.line0.extractLsb' 896 64 else (s1.ctx r.ctx).seed
        let area := if r.repeatable then s1.poolTake r.ctx r.rrl else []
        let s1 := (s1.dropWork k).modKernel k (fun r => { r with st := .distributing, prio, seed, spent := 0, area })
        let s1 := s1.dropCode r.part (fun x => x.ctx == r.ctx && decide (128 * x.va < r.cbase + r.csize) && decide (r.cbase < 128 * x.va + 128))
        { s1 with ranges := s1.ranges ++ [{ holder := .chip, part := r.part, kernel := k, lo := r.wgFirst, hi := r.wgFirst + r.wgCount, prio }] }
/-- KERNEL_DISTRIBUTE (R367); an untimed NOP passes (R356). [DESIGN CHOICE, log 87] -/
def execKernelDistribute (k : Nat) (s : State) : Host.Outcome State Fault Refusal :=
  let r := s.kernel k
  if (r.st = .pending && !r.isTimed && s.mayPass k) || (r.st = .armed && r.released && (s.ctx r.ctx).runs) then .next (s.distribute k)
  else .next (s.passNop k false)

-- The end of a kernel (R261, R373, R374) --------------------------------------------------------------------------------------------

/-- An engine command of the kernel is queued or running; the failed one of a STOPPED channel has stopped, and of an aborted
kernel those behind it too (R302, R309, R373, R374). [DEDUCED, log 105] -/
def State.cmdsOf (s : State) (k : Nat) : Bool :=
  let mine := fun (q : List EngCmd) => q.any (fun c => c.kernel == k)
  let left := fun (h : Chan) => if h.st ≠ 2 then h.queue else if (s.kernel k).st = .aborted then [] else h.queue.drop 1
  s.clusters.any (fun c => c.2.chans.any (fun h => mine (left h.2))) || s.halves.any (fun h => mine h.2.gs || mine h.2.coll || mine h.2.rep)
/-- A partial applied to the bytes of its location, at its own width (R261). -/
def applyPartial (m : DWord) (p : Partial) : DWord :=
  let v := (kop p.op p.w64 (if p.w64 then m else BitVec.ofNat 64 (bf m 0 32)) p.val 0).getD m
  if p.w64 then v else m.extractLsb' 32 32 ++ v.extractLsb' 0 32
/-- The partials of one location folded into its bytes, in ascending workgroup index (R261). -/
def foldPartials (ps : List Partial) (m : DWord) : DWord := ps.foldl applyPartial m
/-- The partials of a kernel in ascending workgroup index. -/
def sortPartials : Nat → List Partial → List Partial
  | 0, _ => []
  | n + 1, ps => match least (·.wgidx) ps with
    | none => []
    | some p => ps.filter (fun x => x.wgidx == p.wgidx) ++ sortPartials n (ps.filter (fun x => x.wgidx != p.wgidx))
/-- A request of a kernel's own to another package, of no workgroup. -/
def State.kernelSend (s : State) (k : Nat) (leaf : DWord) (stamp : Nat) (req : Request) (w : Want) : RSend :=
  { wg := 2 ^ 64, commit := false, stamp, ctx := (s.kernel k).ctx, passix := leafPassix leaf, ro := false, req
    wants := [⟨3072 * (s.distAgent k).hd, 32, false, none, w, []⟩] }
/-- Partials for another package go as reductions, as long as their triple has room (R422); those left wait. -/
def State.sendPartials (s : State) (k : Nat) (va leaf : DWord) : List Partial → List Partial × State
  | [] => ([], s)
  | p :: r =>
    let x := s.kernelSend k leaf p.stamp (s.atomRequest (3072 * (s.distAgent k).hd) va leaf true (kopCode p.op) p.w64 p.val 0 false) .nothing
    if (s.fullTriples [x]).isEmpty then (s.sendRequest x).sendPartials k va leaf r else (p :: r, s)
/-- The partials of one location are applied, as one write (R261); those of another package go as reductions. [DEDUCED, log 40] -/
def State.applyPartials (s : State) (k : Nat) (t : Target) (ps : List Partial) : List Partial × State := match t with
  | .mem pa _ => match s.lineFault (pa / 128) with
    | some i => ([], s.reportMerge (s.kernel k).ctx i (pa / 128))
    | none =>
      let w := if ps.any (·.w64) then 8 else 4
      ([], ((s.takeCell (pa / 128)).pokeDev pa w (foldPartials ps (BitVec.ofNat 64 (s.mem.read pa w))).toNat).loosen s pa (pa + w))
  | .remote va leaf => s.sendPartials k va leaf ps
  | .io _ => ([], s)
/-- The partials of several locations, with those left. -/
def State.applyTargets (s : State) (k : Nat) (ps : List Partial) : List Target → List Partial × State
  | [] => ([], s)
  | t :: r =>
    let (left, s) := s.applyPartials k t (ps.filter (fun p => p.target == t))
    let (rest, s) := s.applyTargets k ps r
    (left ++ rest, s)
/-- Step 2 of R373 (R261) begins or goes on: nothing is applied of a launch whose reduction area was exhausted (R262). -/
def State.applyAll (s : State) (k : Nat) : State :=
  let ps := sortPartials (s.kernel k).partials.length (s.kernel k).partials
  let (left, s) := if (s.kernel k).exhausted then ([], s) else s.applyTargets k ps (ps.map (·.target)).eraseDups
  s.modKernel k (fun r => { r with partials := left, applying := true })
/-- The completion word (R373). -/
def Kernel.word (r : Kernel) (final : Nat) : DWord :=
  BitVec.ofNat 64 (put (put (put r.pidx.toNat 32 final) 35 (if r.late then 1 else 0)) 40 r.cause)
/-- The final state of a kernel that has none yet (R366, R373). [DEDUCED, log 60] -/
def Kernel.finish (r : Kernel) : Kernel := if r.st = .draining then { r with st := if r.cause = 0 then .complete else .faulted } else r
/-- The code of a final state in the completion word (R373). -/
def Kernel.final (r : Kernel) : Nat := match r.st with
  | .complete => 5
  | .faulted => 6
  | _ => 7
/-- The completion word is written: the kernel has ended (R366, R373). -/
def State.wordDone (s : State) (k : Nat) : State := s.modKernel k (fun r => { r.finish with written := true })
/-- The completion word cannot be written: the final state is reported (R373, R455). -/
def State.wordReport (s : State) (k : Nat) : State :=
  let r := s.kernel k
  (s.report 5 (r.finish.word r.finish.final).toNat r.csig.toNat r.ctx 0 (some r.part)).wordDone k
/-- The completion word goes to another package, if its triple has room; its answer ends the kernel (R373, R422, R427). [DEDUCED, log 106] -/
def State.sendWord (s : State) (k : Nat) (va leaf w : DWord) : State :=
  let r := s.kernel k
  let hd := (s.distAgent k).hd
  let q := s.storeRequest (3072 * hd) va leaf 8 w true
  let x := s.kernelSend k leaf (s.part r.part).recess q (.word k)
  if r.sent || !(s.fullTriples [x]).isEmpty then s
  else if q.dpeer.toNat ≠ s.pkg && (s.choosePath hd q.stream.toNat q.dpeer.toNat q.va).isNone then s.wordReport k
  else (s.modKernel k (fun r => { r with sent := true })).sendRequest x
/-- The completion word is written, or the final state is reported (R373, R455); a page not present is waited for. [DEDUCED, log 60] -/
def State.writeWord (s : State) (k : Nat) (w : DWord) : State :=
  let r := s.kernel k
  let done := fun (s : State) => s.wordDone k
  let report := fun (s : State) => s.wordReport k
  let g := s.distAgent k
  if r.csig = 0 then report s
  else match s.agentAccess r.ctx 8 r.csig (storeKind .z64) with
    | (.ok ⟨_, .mem pa _, _⟩, s) => match s.poke pa 8 w.toNat with
      | some t => done (t.loosen s pa (pa + 8))
      | none => report (s.reportMerge r.ctx ((s.lineBad (pa / 128)).getD 1) (pa / 128))
    | (.ok ⟨_, .io pa, _⟩, s) => done (s.ioWrite pa 8 w.toNat)
    | (.ok ⟨_, .remote va leaf, _⟩, s) => s.sendWord k va leaf w
    | (.heavy p, s) => s.agentHeavy g p r.csig
    | (_, s) => report s
/-- Accesses of warps that have retired, or of partials, are still to be answered by other packages. -/
def State.unanswered (s : State) (ctx : Nat) : Bool := s.remotes.any (fun r => r.ctx == ctx && r.lane == 32 && (match r.want with
  | .agent _ | .word _ => false
  | _ => true))
/-- Step 2 of R373 has ended: an abort that has come meanwhile takes effect, or the word is written (R373, R374). -/
def State.drained (s : State) (k : Nat) : State :=
  let s := s.modKernel k (fun r => { r with applying := false })
  match (s.kernel k).aborting with
  | some c => (s.modKernel k (fun r => { r with aborting := none })).abort k c
  | none =>
    let x := (s.kernel k).finish
    s.writeWord k (x.word x.final)
/-- KERNEL_DRAIN (R373, R374). -/
def execKernelDrain (k : Nat) (s : State) : Host.Outcome State Fault Refusal :=
  let r := s.kernel k
  if r.written || s.cmdsOf k then .next s
  else match r.st with
    | .draining =>
      let s := if r.sent then s else s.applyAll k
      if !(s.kernel k).partials.isEmpty || s.unanswered r.ctx then .next s else .next (s.drained k)
    | .faulted | .aborted =>
      if s.wgs.any (fun e => e.2.kernel == k) || s.unanswered r.ctx then .next s else .next (s.writeWord k (r.word r.final))
    | _ => .next s

-- Ranges (R357, R369) ----------------------------------------------------------------------------------------------------------------

/-- The number of a kernel's workgroups a core would take now, at most `n` (R369). -/
def State.admitCore (s : State) (kn core : Nat) : Nat → Nat
  | 0 => 0
  | n + 1 =>
    let need := (s.kernel kn).need 0
    if s.fits need core then 1 + (s.placeWg kn 0 0 core ((s.q0Of core need).getD 0)).admitCore kn core n else 0
/-- The same for several cores. -/
def State.admitted (s : State) (kn : Nat) (cores : List Nat) : Nat := (cores.map (fun c => s.admitCore kn c 64)).foldl (· + ·) 0
/-- The clusters of a die in a partition (R24). -/
def State.dieClusters (s : State) (p d : Nat) : List Nat :=
  ((List.range 12).map (12 * d + ·)).filter (fun c => (s.half (c / 6)).member && (s.half (c / 6)).part == p)
def clusterCores (c : Nat) : List Nat := (List.range 8).map (8 * c + ·)
def State.dieCores (s : State) (p d : Nat) : List Nat := (s.dieClusters p d).flatMap clusterCores
/-- The cores below a holder. -/
def State.holderCores (s : State) (p : Nat) : Holder → List Nat
  | .chip => s.partCores p
  | .die d => s.dieCores p d
  | .cluster c => clusterCores c
/-- The ranges a holder has for a partition. -/
def State.held (s : State) (h : Holder) (p : Nat) : List Range := s.ranges.filter (fun r => r.holder == h && r.part == p && decide (r.lo < r.hi))
/-- The distributors a holder hands ranges to, ascending (R369). -/
def State.children (s : State) (p : Nat) : Holder → List Holder
  | .chip => ((List.range 4).filter (fun d => !(s.dieClusters p d).isEmpty)).map .die
  | .die d => (s.dieClusters p d).map .cluster
  | .cluster _ => []
/-- The distributors that qualify for a handout of a kernel's indices, each with its F (R369). -/
def State.qualify (s : State) (p kn : Nat) (h : Holder) : List (Holder × Nat) :=
  (s.children p h).filterMap (fun c =>
    if !(s.held c p).isEmpty then none
    else
      let f := s.admitted kn (s.holderCores p c)
      if f = 0 then none else some (c, f))
/-- A kernel whose last index the chip distributor has handed out runs (R366). -/
def State.handedOut (s : State) (p kn : Nat) : State :=
  if (s.kernel kn).st = .distributing && !(s.held .chip p).any (fun r => r.kernel == kn) then
    (s.modKernel kn (fun r => { r with st := .running })).kernelProgress kn
  else s
/-- The number of a holder's round for a kernel. -/
def roundKey (h : Holder) (p kn : Nat) : Nat := kn * 2 ^ 20 + rrKey h p 0
/-- Those still to be served in the round under way, with their F now; or, with none, those that qualify now, a new round (R369). -/
def State.roundNow (s : State) (p : Nat) (h : Holder) (kn : Nat) : List (Holder × Nat) :=
  let now := s.qualify p kn h
  match now.filter (fun c => (s.rounds.get (roundKey h p kn)).contains c.1) with
  | [] => now
  | l => l
/-- The priority at which a holder places a range (R369, R372). -/
def State.rangePrio (s : State) (h : Holder) (r : Range) : Nat := if h == .chip then (s.kernel r.kernel).prio else r.prio
/-- A range of a holder for which no distributor below has capacity: where no core of the partition takes a workgroup of it,
room is made (R371), unless a saved workgroup comes first (R370). -/
def State.makeRoom (s : State) (p : Nat) (h : Holder) (r : Range) : State :=
  let n := (s.kernel r.kernel).need (s.rangePrio h r)
  if !(s.ctx (s.kernel r.kernel).ctx).runs || s.framesFirst p n.prio || (s.partCores p).any (s.fits n) then s else s.preempt p n
/-- A handout of a range to the distributors of a round, if the one named comes first among them (R369). -/
def State.handOut (s : State) (p : Nat) (h dst : Holder) (r : Range) : State :=
  match s.roundNow p h r.kernel with
  | [] => s.makeRoom p h r
  | (c, f) :: rest =>
    if c != dst then s
    else
      let sum := f + (rest.map Prod.snd).foldl (· + ·) 0
      let n := min (r.hi - r.lo) (max 1 (ceilDiv ((r.hi - r.lo) * f) sum))
      let prio := s.rangePrio h r
      let left := if r.lo + n = r.hi then [] else rest.map Prod.fst
      let s1 := { s.served h r with
        rounds := if left.isEmpty then s.rounds.erase (roundKey h p r.kernel) else s.rounds.put (roundKey h p r.kernel) left
        ranges := ((s.ranges.map (fun x => if x == r then { x with lo := x.lo + n } else x)).filter (fun x => decide (x.lo < x.hi)))
          ++ [{ r with holder := dst, hi := r.lo + n, prio }] }
      if h == .chip then s1.handedOut p r.kernel else s1
/-- The parent of a distributor. -/
def Holder.parent : Holder → Holder
  | .cluster c => .die (c / 12)
  | _ => .chip
/-- RANGE_HANDOUT (R369): the chip distributor hands to a die, or the die to one of its clusters. -/
def execRangeHandout (part die : Nat) (cluster : Option Nat) (s : State) : Host.Outcome State Fault Refusal :=
  if 8 ≤ part || 4 ≤ die || cluster.any (fun c => decide (c / 12 ≠ die)) then .fault .noSuchUnit
  else
    let dst := match cluster with
      | none => Holder.die die
      | some c => .cluster c
    let h := dst.parent
    let rs := (s.held h part).filter (fun r => h != .chip || (s.ctx (s.kernel r.kernel).ctx).runs)
    match s.chooseRange h part rs with
    | none => .next s
    | some r => .next (s.handOut part h dst r)

/-- The sibling with the most unplaced indices of a kernel, ties to the lowest (R369). [DEDUCED, log 58] -/
def State.richest (s : State) (p kn : Nat) (sibs : List Holder) : Option Range :=
  let rs := sibs.filterMap (fun c => (s.held c p).find? (fun r => r.kernel == kn))
  let most := (rs.map (fun r => r.hi - r.lo)).foldl max 0
  least (fun r => most - (r.hi - r.lo)) rs
/-- RANGE_STEAL (R369): a distributor without an index of the kernel takes the upper half of a sibling's. [DEDUCED, log 58] -/
def execRangeSteal (part die : Nat) (cluster : Option Nat) (s : State) : Host.Outcome State Fault Refusal :=
  if 8 ≤ part || 4 ≤ die || cluster.any (fun c => decide (c / 12 ≠ die)) then .fault .noSuchUnit
  else
    let dst := match cluster with
      | none => Holder.die die
      | some c => .cluster c
    let kids := s.children part dst.parent
    let sibs := kids.filter (fun c => c != dst)
    let rs := (sibs.flatMap (fun c => s.held c part)).filter (fun r =>
      decide (2 ≤ r.hi - r.lo) && !(s.held dst part).any (fun x => x.kernel == r.kernel) && decide (0 < s.admitted r.kernel (s.holderCores part dst)))
    match (if kids.contains dst then s.chooseRange dst part rs else none) with
    | none => .next s
    | some r => match s.richest part r.kernel sibs with
      | none => .next s
      | some x =>
        let mid := x.lo + ceilDiv (x.hi - x.lo) 2
        .next { s with ranges := s.ranges.map (fun y => if y == x then { y with hi := mid } else y) ++ [{ x with holder := dst, lo := mid }] }

end Sys2Proof.Machine
end

