-- ==== Sys2Proof/Machine/Partitions.lean ====
section
/-! DEFINITION. Partitions: their reset (R309, R362, R401, R402, R428), links between dies that fail (R406), half-dies held in
reset and partitions made by a layout (R27, R28, R247, R308, R333, R418, R426). -/
namespace Sys2Proof.Machine

/-- The partition exists: some half-die names it. -/
def State.partExists (s : State) (p : Nat) : Bool := decide (p < 8) && !(s.partHalves p).isEmpty
/-- Put a half-die's clusters, cores and quadrants back to their state at reset: nothing held (R401). Repaired rows stay
lost. -/
def State.clearHalf (s : State) (h : Nat) : State :=
  { s with
    quads := s.quads.map (fun q x => if q / 192 = h then { (default : Quad) with lost := x.lost } else x)
    cores := List.filter (fun e => e.1 / 48 != h) s.cores
    clusters := List.filter (fun e => e.1 / 6 != h) s.clusters }
/-- The channel records of a half-die take the values of the Reset column (R308). -/
def State.clearChans (s : State) (h : Nat) : State :=
  (List.range 6).foldl (fun s c => (List.range 16).foldl (fun s n => s.modChan (6 * h + c) n (fun _ => default)) s) s

-- Partition reset (R401, R428) -----------------------------------------------------------------------------------------------------

/-- An outstanding reduction completes, or performs nothing: which is undefined (R401). [DEDUCED, log 94] -/
def State.endRed (s : State) (r : KReq) : State :=
  let (v, s) := s.free
  if v % 2 = 1 then s.kettleStep r.id else { s with kreqs := s.kreqs.filter (fun q => q.id != r.id) }
/-- The source triples of a half-die start anew: their requests end, and the next carries a restart mark (R401, R428). -/
def State.dropTriples (s : State) (hs : List Nat) : State :=
  let mine := fun (key : Nat) => hs.contains (key / 1024 / 16)
  { s with
    remotes := s.remotes.filter (fun r => !hs.contains r.hd)
    answers := s.answers.filter (fun a => !hs.contains a.hd)
    sseqs := List.filter (fun e => !mine e.1) s.sseqs
    begun := s.begun.filter (fun k => !mine k)
    triples := s.triples.map (fun t => if t.speer == s.pkg && hs.contains t.shd then { t with first := none } else t)
    loop := s.loop.filter (fun e => match e.2 with
      | .req q => !hs.contains q.shd.toNat
      | .rsp _ => true) }
/-- The kernels of a partition are aborted with cause 11 and write no completion word (R374, R401). -/
def State.abortPart (s : State) (p : Nat) : State :=
  let ks := s.kernels.keys.filter (fun k => (s.kernel k).part == p)
  ks.foldl (fun s k => ((s.modKernel k (fun r => { r with sent := false, applying := false })).abort k 11).modKernel k (fun r => { r with written := true })) s
/-- The reset of a partition begins (R401, steps 1 to 3): kernels are aborted, issue stops at once, outstanding requests
end; its queues fetch nothing. One already running goes on (R402). [DEDUCED, log 68] -/
def State.beginReset (s : State) (p : Nat) : State :=
  if (s.part p).resetting then s
  else
    let hs := s.partHalves p
    let s := s.modPart p (fun x => { x with resetting := true })
    let s := s.abortPart p
    let s := (s.kreqs.filter (fun r => r.part == p)).foldl State.endRed s
    let s := ((List.filter (fun e => hs.contains (coreHalf e.2.core)) s.wgs).map Prod.fst).foldl State.discardWg s
    s.dropTriples hs
/-- Frames in quarantine go to the return queues (R401). -/
def State.emptyQuarantine (s : State) (p : Nat) : State :=
  ((s.part p).quar).foldl (fun s f => s.modHalf f.hd (fun h => { h with returns := h.returns ++ [f.item] })) s
/-- Sealed pages in a half-die's frames are pages no longer, once what mapped them has gone. -/
def State.forgetSealed (s : State) (h : Nat) : State := { s with sealedKv := s.sealedKv.filter (fun e => e.2 / 2 ^ 20 != h) }
/-- The places of round-robin positions a partition's distributors hold, those of one half-die's clusters and its die, or all
(R357, R369). -/
def State.dropRounds (s : State) (p : Nat) (half : Option Nat) : State :=
  { s with rr := List.filter (fun e =>
    let (unit, q) := if e.1 < 1000 then (none, e.1 / 16) else if e.1 < 10000 then (some ((e.1 - 1000) / 128, false), (e.1 - 1000) / 16 % 8)
      else (some ((e.1 - 10000) / 128, true), (e.1 - 10000) / 16 % 8)
    !(q == p && (match half, unit with
      | none, _ => true
      | some _, none => false
      | some h, some (d, false) => d == h / 2
      | some h, some (c, true) => c / 6 == h))) s.rr }
/-- A partition keeps no LOW and no response of a source; sources of this package that sent to it begin anew, as those of other
packages do once they have been refused with code 10 (R428). -/
def State.dropDest (s : State) (p : Nat) : State :=
  let mine := s.triples.filter (fun t => t.part == p)
  { s with
    triples := s.triples.filter (fun t => t.part != p)
    begun := s.begun.filter (fun k => !mine.any (fun t => t.speer == s.pkg && k == tripleKey t.shd t.stream s.pkg)) }
/-- The reset of a partition ends (R401, steps 4 and 5; R362, R376, R428). [DEDUCED, log 68] -/
def State.endReset (s : State) (p : Nat) : State :=
  let hs := s.partHalves p
  let s := s.emptyQuarantine p
  let s := hs.foldl (fun s h => (s.clearHalf h).clearChans h) s
  let s := hs.foldl (fun s h => s.modHalf h (fun x => { x with
    gs := [], coll := [], rep := [], migrations := [], l2 := [], msc := [], cells := [], spilled := [], copies := []
    steeper := x.steeper.map (fun e => { e with staging := false, image := [] }) })) s
  let s := { s with
    queues := List.filter (fun e => e.1 / 256 != p) s.queues
    frames := s.frames.filter (fun f => (s.kernel f.wg.kernel).part != p)
    heavies := s.heavies.filter (fun w => w.part != p)
    stops := s.stops.filter (fun x => x.part != p)
    ctxs := s.ctxs.map (fun _ (c : Context) => if c.part = p ∧ (c.st = CState.active ∨ c.st = CState.suspended) then { c with st := .bound } else c) }
  ((s.dropDest p).dropRounds p none).modPart p (fun x => { x with recess := 1, quar := [], resetting := false })

-- The setup window's end of a command (R377, R378) -------------------------------------------------------------------------------------

/-- The running command completes with a STATUS. -/
def State.setupDone (s : State) (status : Nat) : State :=
  { s with setup := { s.setup with busy := false, begun := false, status := BitVec.ofNat 8 status, done := s.setup.done + 1 } }
/-- The command of an OP runs and has begun. -/
def State.setupRuns (s : State) (op : Nat) : Bool := s.setup.busy && s.setup.begun && s.setup.op == op

/-- PARTITION_RESET_COMPLETE (R401); a PRESET of the partition completes with it. -/
def execPartitionResetComplete (part : Nat) (s : State) : Host.Outcome State Fault Refusal :=
  if 8 ≤ part then .fault .noSuchUnit
  else if !(s.part part).resetting then .next s
  else
    let s := s.endReset part
    .next (if s.setupRuns 8 && bf s.setup.line 0 3 == part then s.setupDone 0 else s)
/-- OUT_OF_BAND_RESET (R402). -/
def execOutOfBandReset (part : Nat) (s : State) : Host.Outcome State Fault Refusal :=
  if !s.partExists part then .fault .noSuchUnit else .next (s.beginReset part)

-- A failed link between dies (R406) -------------------------------------------------------------------------------------------------------

/-- Half-dies of a partition lie on a die. -/
def State.partOn (s : State) (p d : Nat) : Bool := (s.partHalves p).any (fun h => h / 2 == d)
/-- D2D_LINK_FAILURE (R406): affected partitions are reset, those whose path to die 0 crosses the link stay out of service. -/
def execD2dLinkFailure (die1 die2 : Nat) (s : State) : Host.Outcome State Fault Refusal :=
  let (a, b) := (min die1 die2, max die1 die2)
  if 4 ≤ b || a == b then .fault .noSuchUnit
  else if s.d2dDown.contains (4 * a + b) then .next s
  else
    let s := { s with d2dDown := s.d2dDown ++ [4 * a + b] }
    let s := (List.range 8).foldl (fun s p =>
      if (a == 0 && s.partOn p b) || (s.partOn p a && s.partOn p b) then s.beginReset p else s) s
    .next (s.report 9 (Config.errDetail 9 [a, b]) 0 0 a none)

-- Layout (R25, R27, R28) --------------------------------------------------------------------------------------------------------------------

/-- MEMBER and PART of half-die h in an argument line of LAYOUT (R28). -/
def layMember (l : LineBits) (h : Nat) : Bool := l.getLsbD (8 * h + 7)
def layPart (l : LineBits) (h : Nat) : Nat := bf l (8 * h) 3
/-- The half-dies an argument line gives a partition. -/
def layHalves (l : LineBits) (p : Nat) : List Nat := (List.range 8).filter (fun h => layMember l h && layPart l h == p)
/-- The shapes of R25. -/
def layShape (hs : List Nat) : Bool :=
  let dies := (hs.map (· / 2)).eraseDups
  match hs.length with
  | 1 => true
  | 2 => dies.length == 1
  | 4 => dies.length == 2
  | 8 => true
  | _ => false
/-- A layout is valid (R28). -/
def layValid (l : LineBits) : Bool :=
  bf l 64 960 == 0 && (List.range 8).all (fun h => bf l (8 * h + 3) 4 == 0 && (layMember l h || layPart l h == 0))
    && (List.range 8).all (fun p => let hs := layHalves l p; hs.isEmpty || (hs.headD 8 == p && layShape hs))
/-- The half-dies a layout changes. -/
def State.layChanged (s : State) (l : LineBits) : List Nat :=
  (List.range 8).filter (fun h => (s.half h).member != layMember l h || ((s.half h).member && (s.half h).part != layPart l h))
/-- A half-die has a bound context. -/
def State.halfBound (s : State) (h : Nat) : Bool :=
  (s.half h).member && s.ctxs.any (fun c => c.2.boundTo (s.half h).part)
/-- A half-die that leaves its partition is held in reset, its memory processor with its watches, and memory stays, with the marks
of converted pages (R27); its ports are disabled (R426). [DESIGN CHOICE, log 108] -/
def State.holdHalf (s : State) (h : Nat) : State :=
  let s := { (s.dropRounds (s.half h).part (some h)).forgetSealed h with
    heavies := s.heavies.filter (fun w => homeHalf w.pte != h)
    parts := s.parts.map (fun _ x => { x with quar := x.quar.filter (fun f => f.hd != h) }) }
  let s := (s.clearHalf h).modHalf h (fun x => { (default : HalfDie) with converted := x.converted })
  let s := (((List.filter (fun e => coreHalf e.2.core == h) s.wgs).map Prod.fst).foldl State.discardWg s).dropTriples [h]
  { s with ports := s.ports.map (fun n x => if n / 2 = h then { (default : Port) with st := .disabled } else x) }
/-- The descriptor of an empty work queue of CAPLOG 11 (R258, R333). -/
def emptyQueueLine : Line := { data := BitVec.ofNat 1024 (0xB0 * 2 ^ 96), tag := 0, scales := 0 }
/-- A half-die joins a partition: its areas are laid out, and its ports train (R28, R308, R333, R418, R426). [DEDUCED, log 69] -/
def State.joinHalf (s : State) (h p : Nat) : State :=
  let s := s.modHalf h (fun x => { x with member := true, part := p })
  let s := [0xC90401000, 0xC90406000, 0xC9040B000].foldl (fun s o => s.putLine ((2 ^ 36 * h + o) / 128) emptyQueueLine) s
  let s := (List.range 32).foldl (fun s i => s.putLine ((2 ^ 36 * h + 0xC90400000) / 128 + i) { data := 0, tag := 0, scales := 0 }) s
  { s with ports := (List.range 2).foldl (fun (t : Table Port) i => t.put (2 * h + i) { (default : Port) with st := .training }) s.ports }
/-- LAYOUT_COMPLETE (R28): a partition none of whose half-dies stays as it was is new: registers as at reset, RECESS 1 (R240);
one that keeps half-dies gains the others and is as it was. [DEDUCED, log 90] -/
def execLayoutComplete (s : State) : Host.Outcome State Fault Refusal :=
  if !s.setupRuns 10 then .next s
  else
    let l := s.setup.line
    let hs := (List.range 8).filter (fun h => layMember l h && !(s.half h).member)
    let new := ((hs.map (layPart l)).eraseDups).filter (fun p => (s.partHalves p).isEmpty)
    let s := hs.foldl (fun s h => s.joinHalf h (layPart l h)) s
    let s := new.foldl (fun s p =>
      let s := { s with queues := List.filter (fun e => e.1 / 256 != p) s.queues }
      ((s.dropDest p).dropRounds p none).modPart p (fun _ => { (default : Partition) with recess := 1 })) s
    .next (s.setupDone 0)

end Sys2Proof.Machine
end

