-- ==== Sys2Proof/Machine/Fetch.lean ====
section
/-! DEFINITION. Queues: doorbells and commands, the fetch of packets and what a packet must hold (R352 to R356, R362, R363), the
watchdog (R361), kernel commands (R372, R374), and the device clock (R358, R359). -/
namespace Sys2Proof.Machine

/-- A partition and a queue exist. [DESIGN CHOICE, log 9] -/
def onQueue (part q : Nat) (s : State) (f : State → State) : Host.Outcome State Fault Refusal :=
  if 8 ≤ part || 256 ≤ q then .fault .noSuchUnit else .next (f s)
/-- QDOORBELL_WRITE (R354). -/
def execQdoorbellWrite (part q : Nat) (w : BitVec 32) (s : State) : Host.Outcome State Fault Refusal := onQueue part q s (·.doorbell part q w)
/-- ENABLE (R362). -/
def execEnable (part q : Nat) (s : State) : Host.Outcome State Fault Refusal := onQueue part q s (·.queueEnable part q)
/-- DISABLE (R362). -/
def execDisable (part q : Nat) (s : State) : Host.Outcome State Fault Refusal := onQueue part q s (·.queueDisable part q)
/-- QUEUE_RESUME (R352, R362). -/
def execQueueResume (part q : Nat) (s : State) : Host.Outcome State Fault Refusal := onQueue part q s (·.queueResume part q)
/-- SKIP (R352, R362). -/
def execSkip (part q : Nat) (s : State) : Host.Outcome State Fault Refusal := onQueue part q s (·.queueSkip part q)
/-- KCMD_ABORT (R374). -/
def execKcmdAbort (part q : Nat) (pidx : BitVec 32) (s : State) : Host.Outcome State Fault Refusal := onQueue part q s (·.kcmdAbort part q pidx)
/-- KCMD_SET_PRIORITY (R372, R374). -/
def execKcmdSetPriority (part q : Nat) (pidx : BitVec 32) (prio : BitVec 3) (s : State) : Host.Outcome State Fault Refusal :=
  onQueue part q s (·.kcmdPrio part q pidx prio.toNat)

-- Packets (R353, R356, R363) ----------------------------------------------------------------------------------------------------------

/-- TYPE (R353). -/
def pktType (l0 : LineBits) : Nat := bf l0 32 4
/-- Both stamps of a slot are those of packet n (R353, R355). -/
def pktStamped (l0 l1 : LineBits) (n : Word) : Bool := l0.extractLsb' 0 32 == n && l1.extractLsb' 992 32 == n
/-- The reserved bits of a LAUNCH packet are 0 (R353, R363). -/
def launchRsv (l0 l1 : LineBits) : Bool :=
  bf l0 39 25 == 0 && bf l0 611 5 == 0 && bf l0 581 27 == 0 && bf l0 536 15 == 0 && bf l0 192 320 == 0 && bf l1 512 480 == 0
/-- A LAUNCH packet's body is good (R363). -/
def launchOk (l0 l1 : LineBits) : Bool :=
  let k : Kernel := { (default : Kernel) with line0 := l0, line1 := l1 }
  launchRsv l0 l1 && decide (1 ≤ k.wgCount) && decide (k.wgFirst + k.wgCount ≤ 2 ^ 24)
    && bf k.csig 0 3 == 0 && bf k.rrec 0 7 == 0 && decide (k.cbase % 128 = 0) && decide (k.csize % 128 = 0) && decide (128 ≤ k.csize)
    && decide (k.csize ≤ 2 ^ 30) && bf k.entry 0 2 == 0 && decide (k.cbase ≤ k.entry.toNat) && decide (k.entry.toNat < k.cbase + k.csize)
    && (k.dbase == 0 || (canonical k.dbase && bf k.dbase 0 7 == 0))
/-- A NOP packet holds nothing outside its header (R356). -/
def nopOk (l0 l1 : LineBits) : Bool := bf l0 39 25 == 0 && bf l0 128 896 == 0 && bf l1 0 992 == 0
/-- A LAUNCH packet creates a kernel in PENDING, which makes its context ACTIVE (R356, R366, R376). -/
def State.launch (s : State) (p q : Nat) (n : Word) (l0 l1 : LineBits) : State :=
  let ctx := (s.queue p q).ctx
  let s := { s with
    kernels := s.kernels.put s.nextId { (default : Kernel) with ctx, part := p, queue := q, pidx := n, line0 := l0, line1 := l1, st := .pending }
    nextId := s.nextId + 1 }
  s.modCtx ctx (fun c => { c with st := if c.st = .bound then .active else c.st })
/-- A packet whose stamps match is accepted, or the queue enters ERROR (R355, R356). -/
def State.accept (s : State) (p q : Nat) (n : Word) (l0 l1 : LineBits) : State :=
  let s := s.modQueue p q (fun x => { x with retries := 0, st := 1 })
  let take := fun (s : State) => s.modQueue p q (fun x => { x with ridx := n + 1 })
  if pktType l0 = 1 && launchOk l0 l1 then (take s).launch p q n l0 l1
  else if pktType l0 = 2 && nopOk l0 l1 then
    let s := take s
    { s.modQueue p q (fun x => { x with nops := x.nops.put s.nextId l0 }) with nextId := s.nextId + 1 }
  else s.queueError p q 3 n

-- The fetch (R355) ------------------------------------------------------------------------------------------------------------------------

/-- The head of a queue is published (R354). -/
def Queue.published (x : Queue) : Bool := x.widx != x.ridx
/-- The VA of packet n's slot (R353). -/
def Queue.slotVa (x : Queue) (n : Word) : DWord := x.base + BitVec.ofNat 64 (256 * (n.toNat % 2 ^ x.logsz))
/-- The cause a read of a slot that failed gives the queue; one that failed its check at its own package among them (R355, R413). [DEDUCED, log 63] -/
def fetchCause (f : PFault) : Nat := if f.cause = 7 ∨ (f.cause = 8 ∧ f.info = 9) then 4 else 5
/-- A line of a slot, through a page of any type but those R196 refuses; through an I/O page, from the host's memory, whose
bytes come with the event, or from the queue window (R353). [PRESUMED, log 102] -/
def State.slotLine (s : State) (g : Agent) (host : Option LineBits) (va : DWord) : Except Halt Line × State :=
  match s.agentAccess g.ctx 128 va { lineLoadKind with io := true } with
  | (.ok ⟨_, .io pa, _⟩, s) =>
    if ioHost pa then match host with
      | some d => (.ok { data := d, tag := 0, scales := 0 }, s)
      | none => (.error .wait, s)
    else (.ok { data := BitVec.ofNat 1024 (((List.range 16).map (fun i => s.ioRead (pa + 8 * i) 8 * 2 ^ (64 * i))).foldl (· + ·) 0), tag := 0, scales := 0 }, s)
  | (.ok ⟨_, .mem pa 3, _⟩, s) => match s.lineFault (pa / 128) with
    | some i => (.error (.fault (pf 7 va i)), s.reportLine g.ctx i (pa / 128))
    | none => (.ok (s.line (pa / 128)), s)
  | _ => s.agentRead g 0 va
/-- A read of the head slot; `j` counts the re-reads made (R355). -/
def State.readSlot (s : State) (p q j : Nat) (host : Option (LineBits × LineBits)) : State :=
  let x := s.queue p q
  let g : Agent := { hd := (s.partHalves p).headD 0, key := .slot p q x.ridx j, ctx := x.ctx, kernel := 0, widx := 0, wid := 0 }
  let (a, s) := s.slotLine g (host.map Prod.fst) (x.slotVa x.ridx)
  let (b, s) := s.slotLine g (host.map Prod.snd) (x.slotVa x.ridx + 128)
  let read := fun (s : State) => (s.dropSlot p q).modQueue p q (fun x => { x with retries := j, readAt := s.devtime })
  match a, b with
  | .error .wait, _ | _, .error .wait => s
  | .error (.fault f), _ | _, .error (.fault f) => (read s).queueError p q (fetchCause f) x.ridx
  | .ok l0, .ok l1 =>
    let (l0, l1) := (l0.data, l1.data)
    let s := read s
    if pktStamped l0 l1 x.ridx then s.accept p q x.ridx l0 l1
    else if 64 ≤ j then s.queueError p q 1 x.ridx
    else s.modQueue p q (fun x => { x with st := 2 })
/-- A queue of a partition that fetches: its context is bound and not faulted, and no reset runs (R376, R401). -/
def State.fetches (s : State) (p q : Nat) : Bool :=
  let c := s.ctx (s.queue p q).ctx
  c.boundTo p && c.st != .faulted && !(s.part p).resetting
/-- PACKET_FETCH (R355). -/
def execPacketFetch (part q : Nat) (host : Option (LineBits × LineBits)) (s : State) : Host.Outcome State Fault Refusal :=
  onQueue part q s (fun s =>
    let x := s.queue part q
    if x.st = 1 && x.published && s.fetches part q then s.readSlot part q 0 host else s)
/-- Nanoseconds between a reading of the head and the re-reading after it (R355). -/
def Queue.pause (x : Queue) : Nat := 100 * 2 ^ min (x.retries + 1) 8
/-- PACKET_REREAD (R355), once its pause is over: a head withdrawn meanwhile is read no more (R354). [DEDUCED, log 63] -/
def execPacketReread (part q : Nat) (host : Option (LineBits × LineBits)) (s : State) : Host.Outcome State Fault Refusal :=
  onQueue part q s (fun s =>
    let x := s.queue part q
    if x.st = 2 && s.fetches part q then
      if !x.published then (s.dropSlot part q).modQueue part q (fun x => { x with st := 1, retries := 0 })
      else if x.readAt + x.pause ≤ s.devtime then s.readSlot part q (x.retries + 1) host else s
    else s)

-- The watchdog (R361) --------------------------------------------------------------------------------------------------------------------

/-- The oldest incomplete kernel of a queue. -/
def State.oldest (s : State) (p q : Nat) : Option Nat :=
  s.kernels.keys.find? (fun k => let r := s.kernel k; r.part == p && r.queue == q && r.st.live)
/-- Its time has run out: it has been incomplete for WDT ms since it entered DISTRIBUTING, whatever the clock's steps; its completion
word is not on its way, and no abort waits for its partials. -/
def State.overdue (s : State) (p q k : Nat) : Bool :=
  let r := s.kernel k
  (r.st == .distributing || r.st == .running || r.st == .draining) && (s.queue p q).wdt != 0
    && decide (1000000 * (s.queue p q).wdt ≤ r.spent) && !r.sent && r.aborting.isNone
/-- What the watchdog does to a queue over a kernel (R361). -/
def State.watchdog (s : State) (p q k : Nat) : State :=
  let n := (s.kernel k).pidx
  let s := s.abort k 8
  let s := s.modQueue p q (fun x => { x with erridx := n, st := if x.wdact = 1 ∧ (x.st = 1 ∨ x.st = 2) then 3 else x.st })
  let s := s.queueCause p q 6
  if (s.queue p q).wdact = 2 then s.beginReset p else s
/-- WATCHDOG_EXPIRY (R361). -/
def execWatchdogExpiry (part q : Nat) (s : State) : Host.Outcome State Fault Refusal :=
  onQueue part q s (fun s => match s.oldest part q with
    | none => s
    | some k => if s.overdue part q k then s.watchdog part q k else s)

-- The clock (R358, R359) -------------------------------------------------------------------------------------------------------------------

/-- The distance of two times. -/
def apart (a b : Nat) : Nat := if a ≤ b then b - a else a - b
/-- CLOCK_CORRECTION (R358, R359): the first lock, and a correction larger than 1 µs, step the clock; a smaller one slews it. [DESIGN CHOICE, log 64] -/
def execClockCorrection (time : DWord) (locked : Bool) (s : State) : Host.Outcome State Fault Refusal :=
  let t := time.toNat
  let step := (locked && !s.everLocked) || (s.everLocked && decide (1000 < apart t s.devtime))
  .next { s with
    devtime := if step then t else s.devtime
    slew := if step then 0 else if s.everLocked then (t : Int) - s.devtime else s.slew
    locked, everLocked := s.everLocked || locked }

/-- A nanosecond passes: while it is slewed the clock runs at twice its rate, or stands (R358). [DESIGN CHOICE, log 64] -/
def State.tick (s : State) : State :=
  if s.slew = 0 then { s with devtime := s.devtime + 1 }
  else if 0 < s.slew then { s with devtime := s.devtime + 2, slew := s.slew - 1 }
  else { s with slew := s.slew + 1 }

end Sys2Proof.Machine
end

