-- ==== Sys2Proof/Machine/Setup.lean ====
section
/-! DEFINITION. The setup path (R376 to R379, R381, R400 to R403, R309, R28): SETCMD's commands, each an event that takes the
argument line as DMA read it. A command waits in the window from the write of SETCMD until its event. -/
namespace Sys2Proof.Machine

-- The control block (R379) ------------------------------------------------------------------------------------------------------------

/-- The reserved fields of the control-block layout above bit 63 are 0 (R378, R379). -/
def cbRsv (l : LineBits) : Bool := bf l 640 384 == 0 && bf l 416 32 == 0 && bf l 272 16 == 0
/-- TVEC is canonical and 4-aligned. -/
def tvecOk (l : LineBits) : Bool := canonical (l.extractLsb' 64 64) && bf l 64 2 == 0
/-- A control block whose fields are in range and aligned (R379). -/
def cbOk (l : LineBits) : Bool :=
  cbRsv l && tvecOk l && bf l 0 17 == 0 && bf l 48 16 == 0 && bf l 192 20 == 0 && bf l 240 16 == 0 && bf l 368 16 != 0 && bf l 448 7 == 0
    && bf l 576 11 == 0
/-- SETCB's line put over a control block (R378): mask bits 0 TVEC, 1 SEED, 2 KVAGE, 3 MIGTH. -/
def setCb (cb l : LineBits) : LineBits :=
  let one := fun (d : LineBits) (f : Nat × Nat × Nat) => if l.getLsbD f.1 then setFld d f.2.1 f.2.2 (bf l f.2.1 f.2.2) else d
  [(0, 64, 64), (1, 128, 64), (2, 320, 32), (3, 352, 16)].foldl one cb

-- The course of a command (R377, R378) ----------------------------------------------------------------------------------------------------

/-- A write of SETCMD starts a command; a reserved OP or a CTX out of range completes at once with STATUS 1 (R377, R378). [DEDUCED, log 65] -/
def State.setcmd (s : State) (v : DWord) : State :=
  if s.setup.busy then s
  else
    let op := bf v 56 8
    let ctx := bf v 0 16
    let ok := decide (1 ≤ op) && decide (op ≤ 10) && (if op ≤ 7 then decide (1 ≤ ctx) && decide (ctx ≤ 4095) else ctx == 0)
    let s := { s with setup := { s.setup with busy := true, begun := false, op, ctx } }
    if ok then s else s.setupDone 1
/-- A command waits in the window: its event may come. -/
def State.setupWaits (s : State) (op : Nat) (ctx : BitVec 16) : Bool :=
  s.setup.busy && !s.setup.begun && s.setup.op == op && s.setup.ctx == ctx.toNat
/-- A command with an argument line: an unreadable line gives STATUS 7; then `check` gives the STATUS, 0 for none, and the
effect follows (R378). -/
def setupArg (op : Nat) (ctx : BitVec 16) (arg : Option LineBits) (s : State) (check : LineBits → Nat) (eff : LineBits → State) :
    Host.Outcome State Fault Refusal :=
  if !s.setupWaits op ctx then .next s
  else match arg with
    | none => .next (s.setupDone 7)
    | some l => if check l ≠ 0 then .next (s.setupDone (check l)) else .next (eff l)
/-- A command without one. [DEDUCED, log 65] -/
def setupPlain (op : Nat) (ctx : BitVec 16) (s : State) (ok : Bool) (eff : State) : Host.Outcome State Fault Refusal :=
  if !s.setupWaits op ctx then .next s else if ok then .next eff else .next (s.setupDone 3)
/-- The command has begun; its completion is an event of its own. -/
def State.setupBegin (s : State) (l : LineBits) : State := { s with setup := { s.setup with begun := true, line := l } }

/-- CREATED to SUSPENDED (R378). -/
def CState.settable : CState → Bool
  | .created | .bound | .active | .suspended => true
  | _ => false
/-- The number is unused or TORN DOWN (R376). -/
def CState.vacant : CState → Bool
  | .unused | .tornDown => true
  | _ => false

-- CREATE, BIND (R376, R378, R381) --------------------------------------------------------------------------------------------------------------

/-- CREATE (R378). -/
def execCreate (ctx : BitVec 16) (arg : Option LineBits) (s : State) : Host.Outcome State Fault Refusal :=
  let c := ctx.toNat
  setupArg 1 ctx arg s
    (fun l =>
      if !cbOk l then 2
      else if !(s.ctx c).st.vacant then 4
      else if s.ctxs.any (fun e => e.1 != c && !e.2.st.vacant && e.2.fasn == bf l 256 16) then 5 else 0)
    (fun l => (((List.range 8).foldl (fun s p => s.dropCode p (fun _ => true)) s).modCtx c
      (fun _ => { (default : Context) with st := .created, cb := l })).setupDone 0)
/-- MiB of a fault area's parts (R381). -/
def State.faultArea (s : State) (cb : LineBits) (p : Nat) : Nat :=
  1 + 48 * (s.partHalves p).length + 4 * bf cb 368 16 + ceilDiv (bf cb 384 32 * 128) (2 ^ 20)
/-- A fault area lies in the partition's populated HBM, outside the reserved areas (R28, R381). -/
def State.faultPlace (s : State) (cb : LineBits) (p : Nat) : Bool :=
  let a := bf cb 192 64
  let n := bf cb 288 32 * 2 ^ 20
  let o := a % 2 ^ 36
  let meets := fun (lo hi : Nat) => decide (o < hi) && decide (lo < o + n)
  n == 0 || (s.inPart p a n && !meets 0xC80000000 (0xC80000000 + 28 * 2 ^ 20) && !meets 0xC90400000 0xC90401000
    && !meets 0xC90401000 (0xC90401000 + 128 + 8 * 2048) && !meets 0xC90406000 (0xC90406000 + 128 + 8 * 2048)
    && !meets 0xC9040B000 (0xC9040B000 + 128 + 8 * 2048))
/-- BIND (R378, R381). -/
def execBind (ctx : BitVec 16) (arg : Option LineBits) (s : State) : Host.Outcome State Fault Refusal :=
  let c := ctx.toNat
  setupArg 2 ctx arg s
    (fun l =>
      let p := bf l 0 3
      if bf l 3 1021 != 0 || !s.partExists p then 2
      else if (s.ctx c).st != .created then 3
      else if !s.faultPlace (s.ctx c).cb p then 2
      else if bf (s.ctx c).cb 288 32 < s.faultArea (s.ctx c).cb p then 6 else 0)
    (fun l => (s.modCtx c (fun x => { x with st := .bound, part := bf l 0 3 })).setupDone 0)

-- SUSPEND, RESUME (R376, R400) -------------------------------------------------------------------------------------------------------------------

/-- A workgroup of the context. -/
def State.wgOfCtx (s : State) (g : Workgroup) (c : Nat) : Bool := (s.kernel g.kernel).ctx == c
/-- SUSPEND begins (R400): each resident workgroup is to be saved with REASON 3, whatever it was to be saved for before. -/
def execSuspend (ctx : BitVec 16) (s : State) : Host.Outcome State Fault Refusal :=
  let c := ctx.toNat
  let st := (s.ctx c).st
  setupPlain 3 ctx s (st == .bound || st == .active)
    (let s := (s.setupBegin 0).modCtx c (fun x => { x with suspending := true, suspAt := s.devtime })
     { s with wgs := s.wgs.map (fun _ g => if s.wgOfCtx g c then { g with save := some { reason := 3, rva := 0, pte := 0 } } else g) })
/-- SUSPEND_COMPLETE (R400). -/
def execSuspendComplete (ctx : BitVec 16) (s : State) : Host.Outcome State Fault Refusal :=
  let c := ctx.toNat
  if (s.ctx c).suspending && s.setupRuns 3 && s.setup.ctx == c && !s.wgs.any (fun e => s.wgOfCtx e.2 c) then
    .next ((s.modCtx c (fun x => { x with suspending := false, st := if x.st = .bound ∨ x.st = .active then .suspended else x.st })).setupDone 0)
  else .next s
/-- Timed kernels of a context whose TIME passed while it was suspended are late, and those armed are released (R400). -/
def State.releaseLate (s : State) (c : Nat) : State :=
  { s with kernels := s.kernels.map (fun _ (k : Kernel) =>
      if k.ctx = c ∧ k.isTimed ∧ !k.released ∧ s.locked ∧ (s.ctx c).suspAt < k.time ∧ k.time ≤ s.devtime then
        (if k.st = .armed then { k with timed := true, late := true, released := true }
         else if k.st = .pending then { k with late := true } else k)
      else k) }
/-- RESUME (R376, R398, R400). -/
def execResume (ctx : BitVec 16) (s : State) : Host.Outcome State Fault Refusal :=
  let c := ctx.toNat
  setupPlain 4 ctx s ((s.ctx c).st == .suspended)
    (let live := s.kernels.any (fun e => e.2.ctx == c && e.2.st.live)
     let s := s.modCtx c (fun x => { x with st := if live then .active else .bound })
     let s := { s with frames := s.frames.map (fun (f : Frame) => if f.ctx = c ∧ f.reason = 3 then { f with ready := true } else f) }
     (s.releaseLate c).setupDone 0)

-- TEARDOWN (R334, R362, R403) --------------------------------------------------------------------------------------------------------------------

/-- The queues bound to a context (R352, R362). -/
def State.disableQueues (s : State) (c : Nat) : State :=
  { s with queues := s.queues.map (fun _ (x : Queue) => if x.ctx = c ∧ x.st ≠ 0 then { x with st := 0, nops := [] } else x) }
/-- A sweep of a context's range on every half-die of its partition (R334): translations, and lines of pages cached read
only. -/
def State.sweepRange (s : State) (c lo hi : Nat) : State := s.dropRange (s.partHalves (s.ctx c).part) c lo hi
/-- The memory processor's watches end for a context: those for its heavy faults, and for packages refused by it (R335, R403,
R420). -/
def State.dropWatches (s : State) (c : Nat) : State :=
  { s with heavies := s.heavies.filterMap (fun h =>
    let x := { h with
      noted := h.noted.filter (fun n => n.ctx != c)
      tell := if h.part = (s.ctx c).part then h.tell.filter (fun t => t.2.2.toNat != (s.ctx c).fasn) else h.tell }
    if x.noted.isEmpty && x.tell.isEmpty then none else some x) }
/-- TEARDOWN begins (R403). -/
def execTeardown (ctx : BitVec 16) (s : State) : Host.Outcome State Fault Refusal :=
  let c := ctx.toNat
  let st := (s.ctx c).st
  setupPlain 5 ctx s (!st.vacant)
    (let s := ((s.setupBegin 0).abortCtx c 11).disableQueues c
     let s := { s.dropWatches c with frames := s.frames.filter (fun f => f.ctx != c) }
     (s.sweepRange c 0 (2 ^ 64)).modCtx c (fun x => { x with keys := [], tearing := true }))
/-- Work of a context is left: workgroups, commands, words to be written, accesses to be answered (R403). [DEDUCED, log 67] -/
def State.ctxBusy (s : State) (c : Nat) : Bool :=
  let mine := fun (q : List EngCmd) => q.any (fun x => x.ctx == c)
  s.wgs.any (fun e => s.wgOfCtx e.2 c) || s.remotes.any (fun r => r.ctx == c)
    || s.kernels.any (fun e => e.2.ctx == c && e.2.st != .none && !e.2.written)
    || s.clusters.any (fun e => e.2.chans.any (fun h => h.2.st != 2 && mine h.2.queue))
    || s.halves.any (fun e => mine e.2.gs || mine e.2.coll || mine e.2.rep)
/-- TEARDOWN_COMPLETE (R376, R403): what its last threads translated after the first sweep goes too. [DEDUCED, log 67] -/
def execTeardownComplete (ctx : BitVec 16) (s : State) : Host.Outcome State Fault Refusal :=
  let c := ctx.toNat
  if (s.ctx c).tearing && s.setupRuns 5 && s.setup.ctx == c && !s.ctxBusy c then
    .next (((s.sweepRange c 0 (2 ^ 64)).modCtx c (fun x => { x with st := .tornDown, tearing := false, suspending := false })).setupDone 0)
  else .next s

-- SETKEY, SETCB (R378, R419) -----------------------------------------------------------------------------------------------------------------------

/-- SETKEY (R378, R419). [DEDUCED, log 66] -/
def execSetkey (ctx : BitVec 16) (arg : Option LineBits) (s : State) : Host.Outcome State Fault Refusal :=
  let c := ctx.toNat
  setupArg 6 ctx arg s
    (fun l => if bf l 4 124 != 0 || bf l 256 768 != 0 then 2 else if !(s.ctx c).st.settable then 3 else 0)
    (fun l => (s.modCtx c (fun x => { x with keys := x.keys.put (bf l 0 4) (l.extractLsb' 128 128) })).setupDone 0)
/-- SETCB (R378). -/
def execSetcb (ctx : BitVec 16) (arg : Option LineBits) (s : State) : Host.Outcome State Fault Refusal :=
  let c := ctx.toNat
  setupArg 7 ctx arg s
    (fun l =>
      if bf l 4 60 != 0 || !cbRsv l || (l.getLsbD 0 && !tvecOk l) then 2 else if !(s.ctx c).st.settable then 3 else 0)
    (fun l => ((if l.getLsbD 0 then s.dropCode (s.ctx c).part (fun _ => true) else s).modCtx c (fun x => { x with cb := setCb x.cb l })).setupDone 0)

-- PRESET, CHRESET, LAYOUT (R28, R309, R378, R402) ------------------------------------------------------------------------------------------------------

/-- PRESET (R402): it completes with the reset. -/
def execPreset (ctx : BitVec 16) (arg : Option LineBits) (s : State) : Host.Outcome State Fault Refusal :=
  setupArg 8 ctx arg s (fun l => if bf l 3 1021 != 0 || !s.partExists (bf l 0 3) then 2 else 0)
    (fun l => (s.setupBegin l).beginReset (bf l 0 3))
/-- CHRESET (R309): a channel that is not STOPPED is left as it is. [DESIGN CHOICE, log 121] -/
def execChreset (ctx : BitVec 16) (arg : Option LineBits) (s : State) : Host.Outcome State Fault Refusal :=
  setupArg 9 ctx arg s (fun l => if bf l 9 7 != 0 || bf l 20 1004 != 0 || 384 ≤ bf l 0 9 then 2 else 0)
    (fun l =>
      let cl := bf l 0 9 / 8
      let n := bf l 16 4
      (if ((s.cluster cl).chans.get n).st = 2 then
        s.modChan cl n (fun h => { h with st := 0, cause := 0, faddr := 0, queue := [] }) else s).setupDone 0)
/-- LAYOUT (R27, R28): half-dies that leave a partition are held in reset; LAYOUT_COMPLETE makes the new partitions. -/
def execLayout (ctx : BitVec 16) (arg : Option LineBits) (s : State) : Host.Outcome State Fault Refusal :=
  setupArg 10 ctx arg s
    (fun l => if !layValid l then 2 else if (s.layChanged l).any s.halfBound then 8 else 0)
    (fun l => ((s.layChanged l).filter (fun h => (s.half h).member)).foldl State.holdHalf (s.setupBegin l))

end Sys2Proof.Machine
end

