-- ==== Sys2Proof/Machine/Services.lean ====
section
/-! DEFINITION. Device services: the register window as the host reads and writes it (R7, R454, R467), the error window (R455),
monitors (R456, R457), the aperture and host accesses to memory (R235, R453, R461 to R463), configuration requests (R464). -/
namespace Sys2Proof.Machine

/-- The module answers the host: all of it once an image is accepted, the mailbox alone where none was (R459). -/
def State.responds (s : State) (o : Nat) : Bool := s.up && (s.accepted.isSome || (decide (0x1002000 ≤ o) && decide (o < 0x1003000)))

-- Monitors (R456, R457) ------------------------------------------------------------------------------------------------------------------

def Monitor.enabled (m : Monitor) : Bool := m.cfg.getLsbD 23
def Monitor.frozen (m : Monitor) : Bool := m.cfg.getLsbD 25
def Monitor.log (m : Monitor) : Bool := m.cfg.getLsbD 26
def Monitor.lo (m : Monitor) : Nat := bf m.cfg 32 32
def Monitor.shift (m : Monitor) : Nat := bf m.cfg 27 5
def Monitor.src (m : Monitor) : Nat := bf m.cfg 8 8
/-- Add 1, saturating at w bits (R456). -/
def satInc {w : Nat} (x : BitVec w) : BitVec w := if x.toNat + 1 = 2 ^ w then x else x + 1
/-- The bin of a sample (R457). -/
def Monitor.bin (m : Monitor) (v : Nat) : Nat :=
  if m.log then (if v = 0 ∨ Nat.log2 v < m.lo then 0 else Nat.min 15 (Nat.log2 v - m.lo + 1))
  else if v < m.lo then 0 else Nat.min 15 ((v - m.lo) / 2 ^ m.shift)
/-- A sample taken (R457). -/
def Monitor.sample (m : Monitor) (v : Word) : Monitor :=
  if m.enabled && !m.frozen && decide (1 ≤ m.src) && decide (m.src ≤ 8) then
    { m with
      min := if v.toNat < m.min.toNat then v else m.min, max := if m.max.toNat < v.toNat then v else m.max
      cnt := satInc m.cnt, bins := m.bins.put (m.bin v.toNat) (satInc (m.bins.get (m.bin v.toNat))) }
  else m
/-- The bits MONCFG keeps: CLEAR is write-only, [22:16] reserved (R456). -/
def moncfgMask : DWord := 0xFFFFFFFFFE80FFFF
/-- A write of MONCFG; with CLEAR the statistics start anew (R456). [DESIGN CHOICE, log 84] -/
def Monitor.configure (m : Monitor) (v : DWord) : Monitor :=
  let m := { m with cfg := v &&& moncfgMask }
  if v.getLsbD 24 then { m with min := 0xFFFFFFFF, max := 0, cnt := 0, bins := [] } else m
/-- The register at an 8-aligned offset of a monitor (R456). -/
def Monitor.read (m : Monitor) (off : Nat) : DWord :=
  if off = 0 then m.cfg else if off = 8 then m.max ++ m.min else if off = 16 then m.cnt
  else if 0x40 ≤ off then m.bins.get ((off - 0x40) / 4 + 1) ++ m.bins.get ((off - 0x40) / 4) else 0
def State.mon (s : State) (die k : Nat) : Monitor := s.mons.get (64 * die + k)
def State.modMon (s : State) (die k : Nat) (f : Monitor → Monitor) : State := { s with mons := s.mons.put (64 * die + k) (f (s.mon die k)) }
/-- MONITOR_SAMPLE (R457). -/
def execMonitorSample (die k : Nat) (v : BitVec 32) (s : State) : Host.Outcome State Fault Refusal :=
  if 4 ≤ die || 64 ≤ k then .fault .noSuchUnit else .next (s.modMon die k (fun m => m.sample v))
/-- MONITOR_CLEAR (R456): a write of MONCFG with CLEAR set. -/
def execMonitorClear (die k : Nat) (v : DWord) (s : State) : Host.Outcome State Fault Refusal :=
  if 4 ≤ die || 64 ≤ k then .fault .noSuchUnit
  else .next (if s.responds 0x1100000 then s.modMon die k (fun m => m.configure (v ||| 0x1000000)) else s)

-- The aperture control page (R463) -----------------------------------------------------------------------------------------------------------

/-- A write of APBASE or APMODE (R463). -/
def State.apertureWrite (s : State) (off : Nat) (v : DWord) : State :=
  if off = 0 then { s with ap := { s.ap with base := v &&& 0xFFFFC0000000, applied := false, wrote := true } }
  else if off = 8 then { s with ap := { s.ap with line := v.getLsbD 0, applied := false, wrote := true } }
  else s
/-- APERTURE_CONFIG_WRITE (R463). -/
def execApertureConfigWrite (off : Nat) (v : DWord) (s : State) : Host.Outcome State Fault Refusal :=
  .next (if s.responds 0x1003000 then s.apertureWrite off v else s)
/-- APERTURE_APPLIED (R463): a write of APBASE or APMODE governs from now on. -/
def execApertureApplied (s : State) : Host.Outcome State Fault Refusal :=
  .next (if s.ap.wrote then { s with ap := { s.ap with nowBase := s.ap.base, nowLine := s.ap.line, applied := true, wrote := false } } else s)

-- The register window (R7, R377, R454, R455, R460, R463, R467) --------------------------------------------------------------------------------

/-- BUSY, STATUS and DONE as SETSTAT and MBSTAT show them. -/
def statWord (busy : Bool) (status : Byte) (done : Word) : DWord := BitVec.ofNat 64 (put (put done.toNat 32 status.toNat) 40 (if busy then 1 else 0))
/-- The registers of the error window (R455). -/
def ErrWin.read (e : ErrWin) (off : Nat) : DWord := match off with
  | 0x00 => e.base
  | 0x08 => e.cfg
  | 0x10 => e.widx.setWidth 64
  | 0x18 => e.ridx.setWidth 64
  | 0x20 => e.drops.setWidth 64
  | 0x28 => e.cecnt.setWidth 64
  | _ => 0
/-- A write of one (R455): CECNT is cleared bit by bit; of ERRCFG the bits no table names are reserved (R7). [DEDUCED, log 89] -/
def ErrWin.write (e : ErrWin) (off : Nat) (v : DWord) : ErrWin := match off with
  | 0x00 => { e with base := v &&& 0xFFFFFFFFFFFFFF80 }
  | 0x08 => { e with cfg := v &&& 0x11F }
  | 0x18 => { e with ridx := v.setWidth 32 }
  | 0x28 => { e with cecnt := e.cecnt &&& ~~~(v.setWidth 32) }
  | _ => e
/-- The mailbox command completes (R460). -/
def State.mboxDone (s : State) (status : Nat) : State :=
  { s with mbox := { s.mbox with busy := false, status := BitVec.ofNat 8 status, done := s.mbox.done + 1 } }
/-- A write of MBCMD (R460). -/
def State.mbcmd (s : State) (v : DWord) : State :=
  if s.mbox.busy then s
  else
    let op := bf v 56 8
    let s := { s with mbox := { s.mbox with busy := true, op } }
    if 1 ≤ op ∧ op ≤ 5 then s else s.mboxDone 1
/-- The die, monitor and offset in it of an offset in the monitor windows (R454). -/
def monAt (o : Nat) : Option (Nat × Nat × Nat) :=
  if o < 0x40000 ∧ o % 0x10000 < 0x2000 then some (o / 0x10000, o % 0x10000 / 0x80, o % 0x80) else none
/-- The value of the register at an 8-aligned offset of the device register window (R454). -/
def State.devReg (s : State) (o : Nat) : DWord :=
  if o < 0x1000000 then s.queueWindow (o / 0x200000) (o % 0x200000)
  else if o < 0x1001000 then (match o - 0x1000000 with
    | 0x00 => s.setup.arg
    | 0x10 => statWord s.setup.busy s.setup.status s.setup.done
    | _ => 0)
  else if o < 0x1002000 then s.err.read (o - 0x1001000)
  else if o < 0x1003000 then (match o - 0x1002000 with
    | 0x00 => s.mbox.buf
    | 0x10 => statWord s.mbox.busy s.mbox.status s.mbox.done
    | _ => 0)
  else if o < 0x1004000 then (match o - 0x1003000 with
    | 0x00 => s.ap.base
    | 0x08 => if s.ap.line then 1 else 0
    | 0x10 => if s.ap.applied then 1 else 0
    | _ => 0)
  else if o < 0x1100000 then 0
  else match monAt (o - 0x1100000) with
    | some (d, k, i) => (s.mon d k).read i
    | none => 0
/-- A write of the whole register there. -/
def State.devWrite (s : State) (o : Nat) (v : DWord) : State :=
  if o < 0x1000000 then s.queueWindowWrite (o / 0x200000) (o % 0x200000) v
  else if o < 0x1001000 then (match o - 0x1000000 with
    | 0x00 => { s with setup := { s.setup with arg := v &&& 0xFFFFFFFFFFFFFF80 } }
    | 0x08 => s.setcmd v
    | _ => s)
  else if o < 0x1002000 then { s with err := s.err.write (o - 0x1001000) v }
  else if o < 0x1003000 then (match o - 0x1002000 with
    | 0x00 => { s with mbox := { s.mbox with buf := v &&& 0xFFFFFFFFFFFFF000 } }
    | 0x08 => s.mbcmd v
    | _ => s)
  else if o < 0x1004000 then s.apertureWrite (o - 0x1003000) v
  else if o < 0x1100000 then s
  else match monAt (o - 0x1100000) with
    | some (d, k, 0) => s.modMon d k (fun m => m.configure v)
    | _ => s
/-- An access the register window accepts (R467). -/
def devAccess (pa len : Nat) : Bool := (len == 1 || len == 2 || len == 4 || len == 8) && pa % len == 0 && decide (0x8000000000 ≤ pa)
/-- A host's write of up to 8 bytes at a physical address of the window (R467). -/
def State.regWrite (s : State) (pa len v : Nat) : State :=
  let o := pa - 0x8000000000
  if devAccess pa len && s.responds o then s.devWrite (o / 8 * 8) (regMerge (s.devReg (o / 8 * 8)) (o % 8) len v) else s
/-- A wider one: successive writes of 8 bytes in ascending order (R467). -/
def State.regWrites (s : State) (pa v : Nat) : Nat → State
  | 0 => s
  | n + 1 => (s.regWrite pa 8 (v % 2 ^ 64)).regWrites (pa + 8) (v / 2 ^ 64) n
/-- REGISTER_WRITE (R7, R467): a host's write of `len` bytes of `v` at a physical address of the window. [DEDUCED, log 116] -/
def execRegisterWrite (pa len : Nat) (v : Nat) (s : State) : Host.Outcome State Fault Refusal :=
  .next (if len ≤ 8 then s.regWrite pa len v else if len % 8 = 0 then s.regWrites pa v (len / 8) else s)
/-- The bytes a host's read of the register window returns (R467). -/
def State.regRead (s : State) (o len : Nat) : List Byte :=
  (List.range len).map (fun i => BitVec.ofNat 8 (regBytes (s.devReg ((o + i) / 8 * 8)) ((o + i) % 8) 1))

-- Host accesses to memory (R235, R450, R453, R462, R463) -----------------------------------------------------------------------------------------

def State.tellHost (s : State) (m : HostMsg) : State := { s with hostOut := s.hostOut ++ [m] }
/-- A host may reach an address (R463). -/
def State.hostReach (s : State) (pa : Nat) : Bool := populated pa && (s.half (homeHalf pa)).member
/-- The lines from one byte to another. -/
def linesOf (pa n : Nat) : List Nat := if n = 0 then [] else (List.range ((pa + n - 1) / 128 - pa / 128 + 1)).map (pa / 128 + ·)
/-- The error record of a line the host met with its check failing (R453). -/
def State.hostBad (s : State) (n i detail : Nat) : State :=
  let p := (s.half (homeHalf (128 * n))).part
  if i = 2 then s.report 2 (Config.errDetail 2 [128 * n]) (128 * n) 0 (homeHalf (128 * n) / 2) (some p)
  else s.report 3 detail (128 * n) 0 (homeHalf (128 * n) / 2) (some p)
/-- A byte of the 256-byte view of a line (R462); padding is undefined. -/
def viewByte (l : Line) (free i : Nat) : Byte :=
  if i < 128 then dataByte l.data i else if i < 132 then 0 else if i < 144 then BitVec.ofNat 8 (sideBytes l / 2 ^ (8 * (i - 132)))
  else BitVec.ofNat 8 (free / 2 ^ (8 * i))
/-- HOST_READ of the register window: 1, 2, 4 or 8 aligned bytes, or successive reads of 8 (R467). -/
def State.hostRegs (s : State) (o len : Nat) : State :=
  if !s.responds o then s
  else if devAccess (0x8000000000 + o) len || (o % 8 == 0 && len % 8 == 0) then s.tellHost (.data (s.regRead o len))
  else s.tellHost .unsupported
/-- HOST_READ (R453, R462, R463, R467): of the register window, or through the aperture. [DEDUCED, log 116] -/
def execHostRead (reg : Bool) (off len : Nat) (s : State) : Host.Outcome State Fault Refusal :=
  let base := s.ap.nowBase.toNat
  let lines := if s.ap.nowLine then (if len = 0 then [] else (List.range ((off + len - 1) / 256 - off / 256 + 1)).map (base / 128 + off / 256 + ·))
    else linesOf (base + off) len
  if reg then .next (s.hostRegs off len)
  else if !s.responds 0 then .next s
  else if !lines.all (fun n => s.hostReach (128 * n)) || 2 ^ 36 < off + len then .next (s.tellHost .unsupported)
  else match lines.find? (fun n => (s.lineBad n).isSome) with
    | some n => .next ((s.hostBad n ((s.lineBad n).getD 1) 1).tellHost .completerAbort)
    | none =>
      if s.ap.nowLine then
        let (v, s) := s.free
        .next (s.tellHost (.data ((List.range len).map (fun i => viewByte (s.line (base / 128 + (off + i) / 256)) v ((off + i) % 256)))))
      else .next (s.tellHost (.data (s.mem.bytes (base + off) len)))
/-- What a host's write of [lo, hi), from the state `old`, leaves there: entries are definite, but for those of a context that has work resident (R331). -/
def State.hostWrote (s old : State) (lo hi : Nat) : State :=
  let ts := old.tablesOf (fun n _ => s.kernels.any (fun k => k.2.ctx == n && k.2.st.live) || s.frames.any (fun f => f.ctx == n))
  let (busy, idle) := (wordsOf lo hi).partition (inTables ts)
  ((s.settleWords idle).unsettle ts busy).spoilKept lo hi
/-- Bytes stored into one line, merged as at a merge unit (R331, R451, R462). -/
def State.hostMerge (s : State) (pa : Nat) (bs : List Byte) : State :=
  if bs.isEmpty || !s.hostReach pa then s
  else match s.poke pa bs.length (bs.foldr (fun b r => b.toNat + 256 * r) 0) with
    | some t => t.hostWrote s pa (pa + bs.length)
    | none => s.hostBad (pa / 128) ((s.lineBad (pa / 128)).getD 1) 2
/-- Bytes of a write, line by line; the first number bounds the lines. -/
def State.hostStore (s : State) (pa : Nat) : Nat → List Byte → State
  | 0, _ => s
  | n + 1, bs =>
    let k := 128 - pa % 128
    (s.hostMerge pa (bs.take k)).hostStore (pa + k) n (bs.drop k)
/-- HOST_DATA_WRITE (R462): in line mode it is a write that is not accepted. [DEDUCED, log 82] -/
def execHostDataWrite (off : Nat) (bytes : List (BitVec 8)) (s : State) : Host.Outcome State Fault Refusal :=
  if !s.responds 0 then .next s
  else if s.ap.nowLine then .next (s.report 3 3 (s.ap.nowBase.toNat + 128 * (off / 256)) 0 0 none)
  else if 2 ^ 36 < off + bytes.length then .next s
  else .next (s.hostStore (s.ap.nowBase.toNat + off) (bytes.length / 128 + 2) bytes)
/-- The line a 256-byte write carries, and whether its CHK is right for the data and the sideband bytes as they were written; the
reserved bits of byte 6 are not stored (R7, R37, R40, R462). -/
def viewLine (bs : List Byte) : Line × Bool :=
  let b := fun i => (bs.getD i 0).toNat
  let l : Line := {
    data := lineOfBytes ((bs.take 128).map BitVec.toNat), tag := BitVec.ofNat 4 (b 134)
    scales := BitVec.ofNat 64 (((List.range 8).map (fun i => b (135 + i) * 2 ^ (8 * i))).foldl (· + ·) 0) }
  (l, BitVec.ofNat 16 (crcBytes (crcByte (crcBytes 0 l.data.toNat 128) (b 134)) l.scales.toNat 8) == BitVec.ofNat 16 (b 132 + 256 * b 133))
/-- HOST_LINE_WRITE (R331, R462); in data mode it is a data write of its bytes. [DEDUCED, log 82] -/
def execHostLineWrite (off : Nat) (bytes : List (BitVec 8)) (s : State) : Host.Outcome State Fault Refusal :=
  if !s.ap.nowLine then execHostDataWrite off bytes s
  else if !s.responds 0 then .next s
  else
    let n := s.ap.nowBase.toNat / 128 + off / 256
    let (l, ok) := viewLine bytes
    if off % 256 != 0 || bytes.length != 256 || !ok then .next (s.report 3 3 (128 * n) 0 (homeHalf (128 * n) / 2) none)
    else if !s.hostReach (128 * n) || 2 ^ 36 < off + 256 then .next s
    else .next ((s.putLine n l).hostWrote s (128 * n) (128 * n + 128))
/-- CONFIGURATION_REQUEST (R464): before bring-up has ended it is told to retry. -/
def execConfigurationRequest (s : State) : Host.Outcome State Fault Refusal :=
  .next (s.tellHost (if s.up then .configured else .retryStatus))

end Sys2Proof.Machine
end

