-- ==== Sys2Proof/Machine/Power.lean ====
section
/-! DEFINITION. The management mailbox (R460), images and identity (R459), power and bring-up (R29 to R31, R461, R464). -/
namespace Sys2Proof.Machine

-- The mailbox (R460) ---------------------------------------------------------------------------------------------------------------------

/-- n bytes of a number, byte 0 first. -/
def leBytes (n x : Nat) : List Byte := (List.range n).map (fun i => BitVec.ofNat 8 (x / 2 ^ (8 * i)))
/-- n bytes of a number, the highest first. -/
def beBytes (n x : Nat) : List Byte := (leBytes n x).reverse
/-- A little-endian field of the buffer. -/
def leField (b : List Byte) (o n : Nat) : Nat := (((b.drop o).take n).zipIdx.map (fun x => x.1.toNat * 2 ^ (8 * x.2))).foldl (· + ·) 0
/-- The layout in force as bytes 0 to 7 of LAYOUT's argument (R28). -/
def State.layoutBytes (s : State) : List Byte :=
  (List.range 8).map (fun h => if (s.half h).member then BitVec.ofNat 8 (128 + (s.half h).part) else 0)
/-- The accepted image. -/
def State.image (s : State) : Option Image := s.accepted.map s.images.get
def State.imageVersion (s : State) : BitVec 32 := (s.image.map (fun i => Config.imageVersion i.bytes)).getD 0
def State.imageDigest (s : State) : BitVec 256 := (s.image.map (fun i => Config.imageDigest i.bytes)).getD 0
/-- The package number IDENT reports: 0 where no image was accepted. -/
def State.packageNumber (s : State) : Nat := if s.accepted.isSome then s.pkg else 0
/-- A mailbox command waits: its event may come. An unreadable buffer gives STATUS 5. -/
def mboxOp (op : Nat) (buf : Option (List Byte)) (s : State) (run : List Byte → State) : Host.Outcome State Fault Refusal :=
  if !(s.mbox.busy && s.mbox.op == op) then .next s
  else match buf with
    | none => .next (s.mboxDone 5)
    | some b => .next (run b)
/-- Bytes written into the buffer. -/
def State.toBuffer (s : State) (o : Nat) (bs : List Byte) : State := s.tellHost (.dmaBytes (s.mbox.buf + BitVec.ofNat 64 o) bs)
/-- IDENT (R460). -/
def execIdent (buf : Option (List (BitVec 8))) (s : State) : Host.Outcome State Fault Refusal :=
  mboxOp 1 buf s (fun _ =>
    let s := (s.toBuffer 0 (leBytes 2 s.packageNumber)).toBuffer 4 (leBytes 4 s.imageVersion.toNat ++ leBytes 32 s.imageDigest.toNat
      ++ beBytes 32 Config.identityX.toNat ++ beBytes 32 Config.identityY.toNat ++ s.layoutBytes)
    s.mboxDone 0)
/-- ATTEST (R459, R460). -/
def execAttest (buf : Option (List (BitVec 8))) (s : State) : Host.Outcome State Fault Refusal :=
  mboxOp 2 buf s (fun b =>
    if s.accepted.isNone then s.mboxDone 3
    else
      let m := (List.range 32).map (fun i => b.getD i 0) ++ leBytes 32 s.imageDigest.toNat ++ leBytes 4 s.imageVersion.toNat
        ++ leBytes 2 s.packageNumber ++ s.layoutBytes
      let n := s.fresh
      let s := { s with fresh := n + 1 }
      (((s.toBuffer 0x200 m).toBuffer 0x250 (beBytes 32 (Config.signR m n).toNat)).toBuffer 0x270 (beBytes 32 (Config.signS m n).toNat)).mboxDone 0)
/-- CERT (R460). -/
def execCert (buf : Option (List (BitVec 8))) (s : State) : Host.Outcome State Fault Refusal :=
  mboxOp 3 buf s (fun _ => (s.toBuffer 0 (leBytes 4 Config.certificate.length ++ Config.certificate)).mboxDone 0)
/-- IMGSTAT (R460). -/
def execImgstat (buf : Option (List (BitVec 8))) (s : State) : Host.Outcome State Fault Refusal :=
  mboxOp 4 buf s (fun _ =>
    let one := fun (j : Nat) =>
      let i := s.images.get j
      let v := if i.st = 0 then 0 else (Config.imageVersion i.bytes).toNat
      [(16 * j, leBytes 1 i.st), (16 * j + 4, leBytes 4 v)]
    ((one 0 ++ one 1 ++ [(32, leBytes 4 s.floor.toNat)]).foldl (fun (s : State) (x : Nat × List Byte) => s.toBuffer x.1 x.2) s).mboxDone 0)
/-- IMGWR (R460). [DESIGN CHOICE, log 85] -/
def execImgwr (buf : Option (List (BitVec 8))) (s : State) : Host.Outcome State Fault Refusal :=
  mboxOp 5 buf s (fun b =>
    let slot := leField b 0 1
    let o := leField b 4 4
    let n := leField b 8 4
    if 2 ≤ slot || o % 256 != 0 || n == 0 || 3840 < n then s.mboxDone 2
    else if s.accepted == some slot then s.mboxDone 3
    else if Config.flashFails s.fresh then { s with fresh := s.fresh + 1 }.mboxDone 4
    else
      let i := s.images.get slot
      { s with
        fresh := s.fresh + 1
        images := s.images.put slot { bytes := i.bytes.writeBytes o ((List.range n).map (fun j => b.getD (0x100 + j) 0)), st := 3 } }.mboxDone 0)

-- Bring-up (R459, R464) ---------------------------------------------------------------------------------------------------------------------

/-- Power is gone from all dies: what flash holds, repaired rows and the record of what was sent remain. [DEDUCED, log 83] -/
def State.powerOff (s : State) (i : Input) : State :=
  { State.reset with
    images := s.images, floor := s.floor, input := i, fresh := s.fresh, nextId := s.nextId, agenda := s.agenda, upsets := s.upsets
    hostOut := s.hostOut, fabricOut := s.fabricOut
    quads := List.filterMap (fun e => if e.2.lost = 0 then none else some (e.1, { (default : Quad) with lost := e.2.lost })) s.quads }
/-- The step at which an image is rejected: 1 its digest or signature, 2 its version; none where it is accepted (R459). -/
def State.imageStep (s : State) (j : Nat) : Option Nat :=
  let b := (s.images.get j).bytes
  if !Config.imageVerified b then some 1 else if (Config.imageVersion b).toNat < s.floor.toNat then some 2 else none
/-- The ROM verifies a slot; the first image accepted configures the module (R459). [DEDUCED, log 81] -/
def State.verifySlot (s : State) (j : Nat) : State :=
  if (s.images.get j).st = 0 then s
  else
    let set := fun (s : State) (st : Nat) => { s with images := s.images.put j { s.images.get j with st } }
    match s.imageStep j with
    | some k => (set s 2).report 0xB (Config.errDetail 0xB [j, k]) 0 0 0 none
    | none =>
      let b := (s.images.get j).bytes
      let f := Config.raisedFloor s.floor (Config.imageVersion b)
      let s := set s 1
      if s.accepted.isSome then s
      else { s with accepted := some j, pkg := (Config.imagePackage b).toNat, floor := if f.toNat < s.floor.toNat then s.floor else f }
/-- BRING_UP (R464): image, memory written zero, endpoint ready; no partition exists yet (R28). [DEDUCED, log 81] -/
def execBringUp (s : State) : Host.Outcome State Fault Refusal :=
  if s.input ≠ .valid || s.up then .next s
  else
    let s := (s.powerOff .valid).verifySlot 0 |>.verifySlot 1
    .next { s with up := true }

-- The input, and power that ends (R29 to R31, R461) --------------------------------------------------------------------------------------------

/-- INPUT_UNDERVOLTAGE (R29). -/
def execInputUndervoltage (s : State) : Host.Outcome State Fault Refusal := .next (s.powerOff .low)
/-- INPUT_OVERVOLTAGE (R29). -/
def execInputOvervoltage (s : State) : Host.Outcome State Fault Refusal :=
  .next ((s.report 0xA (Config.errDetail 0xA [0]) 0 0 0 none).powerOff .high)
/-- INPUT_RESTORED (R29, R464): the input has been in range for 1 s. -/
def execInputRestored (s : State) : Host.Outcome State Fault Refusal :=
  .next (if s.up then s else { s with input := .valid })
/-- POWER_LIMIT_THROTTLE (R18, R461). -/
def execPowerLimitThrottle (on : Bool) (s : State) : Host.Outcome State Fault Refusal := .next { s with throttle := on }
/-- Power ends with a class 0x0A record; the module starts again with its input (R461). [DEDUCED, log 83] -/
def State.shutdown (s : State) (source value die : Nat) : State :=
  if s.up then (s.report 0xA (Config.errDetail 0xA [source, value]) 0 0 die none).powerOff .off else s
/-- CEILING_SHUTDOWN (R30, R461). -/
def execCeilingShutdown (source : BitVec 32) (value : BitVec 32) (s : State) : Host.Outcome State Fault Refusal :=
  .next (s.shutdown source.toNat value.toNat 0)
/-- THERMAL_SHUTDOWN (R31). -/
def execThermalShutdown (die : Nat) (value : BitVec 32) (s : State) : Host.Outcome State Fault Refusal :=
  if 4 ≤ die then .fault .noSuchUnit else .next (s.shutdown (0x100 + die) value.toNat die)

end Sys2Proof.Machine
end

