-- ==== Sys2Proof/Machine/Fabric.lean ====
section
/-! DEFINITION. The destination's side of the fabric (R407 to R425, R428): the ingress checker, translation in the exporter's
tables, the access at its home, sequence and ordered packets, responses; and packets dropped at ingress. -/
namespace Sys2Proof.Machine

-- Source triples (R422, R424, R428) ------------------------------------------------------------------------------------------------------

/-- The record is of a request's source triple, as the partition keeps it (R422). -/
def Triple.of (t : Triple) (p : Nat) (q : Request) : Bool :=
  t.part == p && t.speer == q.speer.toNat && t.shd == q.shd.toNat && t.stream == q.stream.toNat
def newTriple (p : Nat) (q : Request) : Triple :=
  { (default : Triple) with part := p, speer := q.speer.toNat, shd := q.shd.toNat, stream := q.stream.toNat }
def State.triple (s : State) (p : Nat) (q : Request) : Triple := (s.triples.find? (fun t => t.of p q)).getD (newTriple p q)
def State.setTriple (s : State) (p : Nat) (q : Request) (t : Triple) : State :=
  { s with triples := t :: s.triples.filter (fun x => !x.of p q) }
/-- The response kept of a sequence number performed (R422). -/
def Triple.cached (t : Triple) (n : BitVec 16) : Option Response := (t.cache.find? (fun e => e.1 == n)).map Prod.snd
/-- A sequence number with no response kept is not served: it lies behind LOW of a triple that has begun, so that it has been
performed, or it waits for its turn (R422, R424). [DEDUCED, log 76] -/
def Triple.has (t : Triple) (n : BitVec 16) : Bool := (t.first.isSome && decide (2 ^ 15 ≤ (n - t.low).toNat)) || t.held.any (fun e => e.req.sseq == n)
/-- LOW advances past sequence numbers performed; at most 256 lie ahead (R422, R424). -/
def Triple.advance : Nat → Triple → Triple
  | 0, t => t
  | n + 1, t => if t.ahead.contains t.low then Triple.advance n { t with ahead := t.ahead.filter (· != t.low), low := t.low + 1 } else t
/-- A sequence number is performed, with its response (R422). -/
def Triple.record (t : Triple) (n : BitVec 16) (r : Response) : Triple :=
  let t := Triple.advance 257 { t with asked := t.asked.filter (fun e => e.1 != n), ahead := if t.ahead.contains n then t.ahead else t.ahead ++ [n], cache := (t.cache.filter (fun e => e.1 != n)) ++ [(n, r)] }
  { t with cache := t.cache.filter (fun e => decide ((e.1 - t.low + 256).toNat < 2 ^ 15)) }
/-- A packet performed is counted for its path, up to 15 (R412). [DEDUCED, log 77] -/
def Triple.count (t : Triple) (path : Nat) : Triple :=
  { t with cnt := (List.range 4).map (fun j => min 15 (t.cnt.getD j 0 + (if j = path then 1 else 0))) }
/-- PCNT (R412). [DEDUCED, log 77] -/
def Triple.pcnt (t : Triple) : Nat := ((List.range 4).map (fun j => t.cnt.getD j 0 * 16 ^ j)).foldl (· + ·) 0

-- Responses (R407, R412) --------------------------------------------------------------------------------------------------------------------

/-- R0 of an answer to a request (R412). -/
def State.reply (s : State) (q : Request) (opc : Nat) : Response :=
  { (default : Response) with
    va := q.va, rpeer := BitVec.ofNat 10 s.pkg, dpeer := q.speer, shd := q.shd, stream := q.stream, sseq := q.sseq, opc := BitVec.ofNat 5 opc }
/-- A response goes out by the path the request came, or back into this package (R407). [DEDUCED, log 78] -/
def State.putReply (s : State) (hd path : Nat) (r : Response) : State :=
  if r.dpeer.toNat = s.pkg then { s with loop := s.loop ++ [(r.shd.toNat, .rsp r)] }
  else { s with fabricOut := s.fabricOut ++ [(4 * (hd / 2) + path, .rsp r)] }
/-- An answer that performs or refuses for good: recorded, with the path counts of an answer that carries them (R412, R422,
R424). -/
def State.answer (s : State) (hd p : Nat) (q : Request) (r : Response) (performed : Bool) : State :=
  let t := s.triple p q
  let t := if performed then t.count q.path.toNat else t
  let r := if r.opc = 0x13 then r else { r with code := BitVec.ofNat 8 (t.pcnt / 256), pcnt := BitVec.ofNat 16 t.pcnt }
  let s := s.setTriple p q ({ t with cnt := [] }.record q.sseq r)
  s.putReply hd q.path.toNat r
/-- A refusal with a code other than 8 and 10 (R413, R424). -/
def State.refuseReq (s : State) (hd p : Nat) (q : Request) (code : Nat) : State :=
  s.answer hd p q { s.reply q 0x13 with code := BitVec.ofNat 8 code } false
/-- A refusal that is recorded neither as performed nor in the cache: codes 8 and 10 (R424, R428). -/
def State.holdReq (s : State) (hd : Nat) (q : Request) (code : Nat) : State :=
  s.putReply hd q.path.toNat { s.reply q 0x13 with code := BitVec.ofNat 8 code }

-- The access at its home (R420, R451, R244) ----------------------------------------------------------------------------------------------------------

/-- The operation of a code (R77). [DEDUCED, log 79] -/
def kopOf (n : Nat) : KOp :=
  [KOp.add, .sub, .minS32, .minZ32, .maxS32, .maxZ32, .and, .or, .xor, .swap, .cas, .incw, .decw, .fadd, .fmax, .addZ64].getD n .add
/-- A line a request of a memory type reads or merges into at its home, in a cell where the page is a synchronisation page and in
its L2 slice otherwise; or the state with the failure recorded (R245, R420, R450, R451). -/
def State.homeRead (s : State) (c pa mt : Nat) (merge : Bool) : Except State (Line × State) := match s.mergeBad pa mt with
  | some i => .error (if merge then s.reportMerge c i (pa / 128) else s.reportLine c i (pa / 128))
  | none => .ok (s.line (pa / 128), if mt = 1 then s.takeCell (pa / 128) else s.useL2 (pa / 128) false)
/-- A line another package writes (R331). -/
def State.homeWrite (s : State) (pa : Nat) (l : Line) : State := (s.putLine (pa / 128) l).loosen s (128 * (pa / 128)) (128 * (pa / 128) + 128)
/-- What a granted request does: its answer and the state, or a failed check, code 9 (R420, R450 to R452). [DEDUCED, log 79] -/
def State.perform (s : State) (c pa mt : Nat) (q : Request) : Except State (Response × State) := match q.opc.toNat with
  | 1 => (s.homeRead c pa mt false).map (fun x => ({ s.reply q 0x11 with data := x.1.data, side := sideBeat x.1 }, x.2))
  | 2 => .ok (s.reply q 0x10, (if mt = 1 then s.takeCell (pa / 128) else s).homeWrite pa (beatLine q.data q.side).1)
  | 3 => (s.homeRead c pa mt true).map (fun x =>
      (s.reply q 0x10, x.2.homeWrite pa { x.1 with data := mergeMasked x.1.data q.data q.mask }))
  | 4 => match s.atomic pa (kopOf q.kop.toNat) q.w64 q.opnd q.cmp with
    | .error i => .error (s.reportMerge c i (pa / 128))
    | .ok (old, s) => .ok ({ s.reply q 0x12 with val := old }, s)
  | 5 => match s.atomic pa (kopOf q.kop.toNat) q.w64 q.opnd q.cmp with
    | .error i => .error (s.reportMerge c i (pa / 128))
    | .ok (_, s) => .ok (s.reply q 0x10, s)
  | _ => .ok (s.reply q 0x10, if mt = 0 then s.cleanLine (pa / 128) else s)

/-- A packet of the triple must wait: it is flagged and LOW has not reached it, or an earlier packet to its line waits, or was
refused with code 8 and its copy has not come (R231, R424). [DEDUCED, log 117] -/
def Triple.waits (t : Triple) (q : Request) : Bool :=
  (q.ofl && t.low != q.sseq)
    || (t.held.map (fun e => (e.req.sseq, lineVa e.req.va)) ++ t.asked).any (fun e =>
      e.2 == lineVa q.va && e.1 != q.sseq && decide ((q.sseq - e.1).toNat < 2 ^ 15))
/-- A request with a line that fails its check leaves a record (R411, R455). [DESIGN CHOICE, log 118] -/
def State.reportPacket (s : State) (hd ctx opc : Nat) (va : DWord) : State :=
  s.report 3 (Config.errDetail 3 [hd, opc]) va.toNat ctx (hd / 2) (some (s.half hd).part)
/-- A request that has passed the checks of R416 and R420 is performed and answered (R424). -/
def State.complete (s : State) (hd p c pa mt : Nat) (q : Request) : State := match s.perform c pa mt q with
  | .error s => s.refuseReq hd p q 9
  | .ok (r, s) => s.answer hd p q r true
/-- A request past the duplicate test: checked, translated, and performed, refused or held for its turn (R231, R416, R420,
R424). [DEDUCED, log 117] -/
def State.serve (s : State) (hd p : Nat) (q : Request) : State := match s.ingress p q with
  | .error code => (if code = 9 then s.reportPacket hd ((s.ctxOfFasn p q.fasn).getD 0) q.opc.toNat q.va else s).refuseReq hd p q code
  | .ok c => match s.fabricWalk c q with
    | (.error (8, pte), s) => let t := s.triple p q
      let t := if t.asked.contains (q.sseq, lineVa q.va) then t else { t with asked := t.asked ++ [(q.sseq, lineVa q.va)] }
      ((s.watchFor p c pte q).setTriple p q t).holdReq hd q 8
    | (.error (code, _), s) => s.refuseReq hd p q code
    | (.ok (pa, mt), s) =>
      let t := s.triple p q
      if t.waits q then
        s.setTriple p q { t with held := t.held ++ [{ hd, req := q, ctx := c, pa, mtype := mt, stamp := (s.part p).recess }] }
      else s.complete hd p c pa mt q
/-- Held packets that need wait no longer are performed, one after another; they are not checked again (R231, R419, R424). -/
def State.serveHeld (s : State) (p : Nat) (q : Request) : Nat → State
  | 0 => s
  | n + 1 =>
    let t := s.triple p q
    match t.held.find? (fun e => !t.waits e.req) with
    | none => s
    | some e => ((s.setTriple p q { t with held := t.held.filter (fun x => x.req.sseq != e.req.sseq) }).complete e.hd p e.ctx e.pa e.mtype e.req).serveHeld p q n
/-- A request arrives at a half-die (R416, R420, R422, R424, R428): its own number performed before is answered from the
cache, and one held for its turn is answered when it is performed; a restart mark begins its triple anew, unless it is a copy
of the packet that did, which its source can send only while LOW is within 256 of it. [DEDUCED, log 76] -/
def State.reqArrive (s : State) (hd : Nat) (q : Request) : State :=
  let p := (s.half hd).part
  if (s.part p).resetting then s.holdReq hd q 10
  else
    let t := s.triple p q
    let copy := t.first == some { q with path := 0 } && decide ((t.low - q.sseq).toNat ≤ 256)
    let s := if q.restart && !copy then s.setTriple p q { newTriple p q with low := q.sseq, first := some { q with path := 0 } } else s
    match (s.triple p q).cached q.sseq with
    | some r => s.putReply hd q.path.toNat r
    | none => if (s.triple p q).has q.sseq then s else (s.serve hd p q).serveHeld p q 257
/-- A packet is dropped at ingress: no answer, a class 0x08 record (R411). [DESIGN CHOICE, log 118] -/
def State.dropPacket (s : State) (port : Nat) : State := s.report 8 (Config.errDetail 8 [port]) 0 0 (port / 4) none

/-- A request of an opcode reaches a half-die, dropped with a bit set that must be 0 (R411); a half-die of no partition accepts no traffic (R27). [DESIGN CHOICE, log 86] -/
def arrival (opc hd : Nat) (q : Request) (s : State) : Host.Outcome State Fault Refusal :=
  if 8 ≤ hd then .fault .noSuchUnit
  else if !(s.half hd).member then .next s
  else
    let q := { q with opc := BitVec.ofNat 5 opc }
    .next (if reqClean q then s.reqArrive hd q else s.dropPacket (4 * (hd / 2) + q.path.toNat))
/-- RD (R420). [DESIGN CHOICE, log 86] -/
def execRd (hd : Nat) (p : Request) (s : State) : Host.Outcome State Fault Refusal := arrival 1 hd p s
/-- WRL (R420). -/
def execWrl (hd : Nat) (p : Request) (s : State) : Host.Outcome State Fault Refusal := arrival 2 hd p s
/-- WRM (R197, R420, R451). -/
def execWrm (hd : Nat) (p : Request) (s : State) : Host.Outcome State Fault Refusal := arrival 3 hd p s
/-- REMOTE_ATM (R248, R420). [DEDUCED, log 109] -/
def execRemoteAtm (hd : Nat) (p : Request) (s : State) : Host.Outcome State Fault Refusal := arrival 4 hd p s
/-- REMOTE_RED (R248, R420). -/
def execRemoteRed (hd : Nat) (p : Request) (s : State) : Host.Outcome State Fault Refusal := arrival 5 hd p s
/-- REMOTE_CWB (R210, R420). -/
def execRemoteCwb (hd : Nat) (p : Request) (s : State) : Host.Outcome State Fault Refusal := arrival 6 hd p s
/-- FABRIC_PACKET_DROPPED_AT_INGRESS (R411): no answer, a class 0x08 record. -/
def execFabricPacketDroppedAtIngress (port : Nat) (s : State) : Host.Outcome State Fault Refusal :=
  if 16 ≤ port then .fault .noSuchUnit
  else .next (s.dropPacket port)

end Sys2Proof.Machine
end

