-- ==== Sys2Proof/Machine/KettleOps.lean ====
section
/-! DEFINITION. The Kettle's instructions (R248 to R260): ATM, ATM.64, RED, WAITGE, WAITEQ, QPUSH and QPOP; and the step in which
a Kettle performs accepted reductions (R253). -/
namespace Sys2Proof.Machine

/-- Memory an atomic or reduction acts on (R248). -/
def atomKind : AccKind := { atom := true, sync := true }
/-- Memory a wait reads (R255), and that a work queue lies in (R260). -/
def waitKind : AccKind := { sync := true }
def queueKind : AccKind := { atom := true, normal := false, sync := true }
/-- Registers of an atomic: its operand, and for cas the new value after the compare value (R249). -/
def State.atomElems (s : State) (t : Nat × Nat) (d : VReg) (w64 cas : Bool) : List Elem :=
  s.fieldElems t d.toNat w64 ++ if cas then s.fieldElems t (d.toNat + (if w64 then 2 else 1)) w64 else []
/-- The operand and the compare value from an atomic's registers: x and cmp of R250. -/
def State.atomOperands (s : State) (g : Grp) (t : Nat × Nat) (d : VReg) (w64 cas : Bool) : DWord × DWord × State :=
  let (v, s) := s.readElems g (s.fieldElems t d.toNat w64)
  if cas then
    let (x, s) := s.readElems g (s.fieldElems t (d.toNat + (if w64 then 2 else 1)) w64)
    (x, v, s)
  else (v, 0, s)
/-- The access of a thread at the Kettle. -/
def State.atomAccess (s : State) (a : Nat × Nat) (w : Nat) (va x y : DWord) (k : AccKind) : Ck MAcc :=
  (s.access (.lane a.1 a.2) (s.ctxOf a.1) w va k).bind (fun e => .ok (.atom e x y))
/-- An access that must stay in the package (R255, R260). -/
def Ck.local (c : Ck MAcc) : Ck MAcc := match c with
  | .ok m => match m.access with
    | some ⟨va, .remote _ _, _⟩ => .fault (pf 6 va)
    | _ => .ok m
  | c => c
/-- A failure the Kettle reports after the group (R251, R253, R466). -/
def State.lateCheck (s : State) (a : Nat × Nat) (i : Nat) (va : DWord) : State :=
  (s.reportCheck a.1 i 2 va).deferFault a.1 a.2 (pf 7 va i)
/-- NF in a warp (R57). -/
def State.setNF (s : State) (slot : Nat) (b : Bool) : State := if b then s.modWarp slot (fun w => { w with nf := true }) else s

/-- An ATM at its home (R251). -/
def State.atmAt (s : State) (a : Nat × Nat) (op : KOp) (w64 : Bool) (o : OrdSc) (va : DWord) (pa : Nat) (x cmp : DWord) : Did × State :=
  match s.atomic pa op w64 x cmp with
  | .error i => (.done, s.lateCheck a i va)
  | .ok (old, s) =>
    let w := if w64 then 8 else 4
    let s := (((s.dropL1 (coreOf a.1) (pa / 128)).acquire (coreOf a.1) o).observe a.1 false pa w o).publishAs a.1 false true pa w o
    (.val old, s.setNF a.1 (kopNF op [x, old, (kop op w64 old x cmp).getD old]))
/-- ATM and ATM.64 (R249, R251). -/
def atmOp (c : Ctl) (op : KOp) (w64 : Bool) (o : OrdSc) (d a : VReg) (s : State) : Host.Outcome State Fault Refusal :=
  let cas := op == .cas
  memOp c s {
    els := fun _ s t => s.fieldElems t a.toNat true ++ s.atomElems t d w64 cas
    plan := fun g s t => s.operands g (s.fieldElems t a.toNat true) (s.atomElems t d w64 cas) fun va early s =>
      let (x, cmp, s) := s.atomOperands g t d w64 cas
      if early then s.freeLoad else (s.atomAccess t (if w64 then 8 else 4) va x cmp atomKind, s)
    addr := fun s t => s.pairAddr t a
    rel := fun _ _ => o
    acq := o != .plain
    send := fun s t m => match m with
      | .atom ⟨va, .remote _ leaf, _⟩ x cmp =>
        some (leaf, s.atomRequest t.1 va leaf false (kopCode op) w64 x cmp (OrdScFabric o), .atm w64 (keyOf (s.fieldElems t d.toNat w64)))
      | _ => none
    perform := fun s t m => match m with
      | .atom ⟨va, .mem pa _, _⟩ x cmp => s.atmAt t op w64 o va pa x cmp
      | .skip v => (.val v, s)
      | _ => (.done, s)
    dest := fun s t => s.fieldElems t d.toNat w64 }
def execAtm (c : Ctl) (op : KOp) (o : OrdSc) (d a : VReg) (s : State) := atmOp c op false o d a s
def execAtm64 (c : Ctl) (op : KOp) (o : OrdSc) (d a : VReg) (s : State) := atmOp c op true o d a s

/-- A RED that has passed its checks: held in the warp's buffer in repeatable mode (R261), else accepted (R253). -/
def State.redAt (s : State) (a : Nat × Nat) (op : KOp) (o : OrdSc) (x : DWord) (e : Acc) : Did × State :=
  if s.repeatableOf a.1 then
    if s.bufRoom a.1 e.t then (.done, (s.buffer a.1 (.red a.2 op (redWide op) x) e.t e.va).setNF a.1 (kopNF op [x]))
    else (.fault (pf 5 e.va), s)
  else match e.t with
    | .mem pa _ =>
      let k := s.kernelOf a.1
      let r : KReq := { id := s.nextId, slot := a.1, lane := a.2, pa, op, w64 := redWide op, x, va := e.va,
                        stamp := (s.part k.part).recess, part := k.part, rel := o != .plain }
      (.done, ({ s with kreqs := s.kreqs ++ [r], nextId := s.nextId + 1 }.setNF a.1 (kopNF op [x])))
    | _ => (.done, s)
/-- RED (R253). [DEDUCED, log 109] -/
def execRed (c : Ctl) (op : KOp) (o : OrdSc) (d a : VReg) (s : State) : Host.Outcome State Fault Refusal :=
  let w := redWide op
  memOp c s {
    els := fun _ s t => s.fieldElems t a.toNat true ++ s.fieldElems t d.toNat w
    plan := fun g s t => s.operands g (s.fieldElems t a.toNat true) (s.fieldElems t d.toNat w) fun va early s =>
      let (x, s) := s.readElems g (s.fieldElems t d.toNat w)
      (softCk early (s.atomAccess t (if w then 8 else 4) va x 0 atomKind), s)
    addr := fun s t => s.pairAddr t a
    rel := fun s t => s.storeRel o t
    drain := false
    send := fun s t m => match m with
      | .atom ⟨va, .remote _ leaf, _⟩ x _ =>
        if s.repeatableOf t.1 then none
        else some (leaf, s.atomRequest t.1 va leaf true (kopCode op) w x 0 (OrdScFabric o), .nothing)
      | _ => none
    sendNF := fun m => match m with
      | .atom _ x _ => kopNF op [x]
      | _ => false
    perform := fun s t m => match m with
      | .atom e x _ => s.redAt t op o x e
      | _ => (.done, s)
    dest := fun _ _ => [] }

/-- A wait at its home, its line in a cell: the first read and the arming of its watch are one step (R245, R255). -/
def State.waitAt (s : State) (a : Nat × Nat) (eq : Bool) (o : OrdSc) (va : DWord) (pa : Nat) (v : Word) : Did × State :=
  match s.lineFault (pa / 128) with
  | some i => (.fault (pf 7 va i), s)
  | none =>
    let s := s.takeCell (pa / 128)
    if waitOk eq (BitVec.ofNat 32 (s.mem.read pa 4)) v then
      (.done, ((s.dropL1 (coreOf a.1) (pa / 128)).acquire (coreOf a.1) o).observe a.1 false pa 4 o)
    else (.wait .watch, { s with watches := s.watches ++ [⟨a.1, a.2, pa, eq, v, o, (s.part (s.kernelOf a.1).part).recess⟩] })
/-- WAITGE and WAITEQ (R254, R255). -/
def waitOp (c : Ctl) (eq : Bool) (o : OrdSc) (d a : VReg) (s : State) : Host.Outcome State Fault Refusal :=
  memOp c s {
    els := fun _ s t => s.fieldElems t a.toNat true ++ s.fieldElems t d.toNat false
    plan := fun g s t => s.operands g (s.fieldElems t a.toNat true) (s.fieldElems t d.toNat false) fun va early s =>
      let (v, s) := s.readElems g (s.fieldElems t d.toNat false)
      (softCk early (s.accessOf t 4 va v waitKind).local, s)
    addr := fun s t => s.pairAddr t a
    rel := fun _ _ => .plain
    wr := false
    send := fun _ _ _ => none
    perform := fun s t m => match m with
      | .acc ⟨va, .mem pa _, _⟩ v => s.waitAt t eq o va pa (v.setWidth 32)
      | _ => (.done, s)
    dest := fun _ _ => [] }
def execWaitge (c : Ctl) (o : OrdSc) (d a : VReg) (s : State) := waitOp c false o d a s
def execWaiteq (c : Ctl) (o : OrdSc) (d a : VReg) (s : State) := waitOp c true o d a s

/-- The checks of a queue operation at its home: the descriptor's line, its validity, the item's place and line (R22, R245,
R258, R260). [DEDUCED, log 39] -/
def State.queueFault (s : State) (d pend : Nat) (va : DWord) (item : Option Nat) : Option PFault :=
  match s.lineFault (d / 128) with
  | some i => some (pf 7 va i)
  | none =>
    if !qValid s d pend then some (pf 5 va)
    else match item with
      | none => none
      | some j => if !populated (qItem s d j) then some (pf 5 va) else (s.lineFault (qItem s d j / 128)).map (fun i => pf 7 va i)
/-- A queue operation of threads (R259, R260): `pop`, or a push of the pair D. One through an undefined address is not made. [DEDUCED, log 39] -/
def queueOp (c : Ctl) (pop : Bool) (o : OrdSc) (d a : VReg) (s : State) : Host.Outcome State Fault Refusal :=
  memOp c s {
    els := fun _ s t => s.fieldElems t a.toNat true ++ s.fieldElems t d.toNat true
    plan := fun g s t => (if pop then s.operandsTo else s.operands) g (s.fieldElems t a.toNat true) (s.fieldElems t d.toNat true) fun va early s =>
      let (x, s) := if pop then (0, s) else s.readElems g (s.fieldElems t d.toNat true)
      if early && pop then s.freeLoad else (softCk early (s.atomAccess t 128 va x 0 queueKind).local, s)
    addr := fun s t => s.pairAddr t a
    rel := fun _ _ => if pop then .plain else o
    send := fun _ _ _ => none
    perform := fun s t m => match m with
      | .atom ⟨va, .mem pa _, tr⟩ x _ =>
        let pend := pa + (tr.base + tr.size - va.toNat)
        let ring := if pop then qCount s pa != 0 else !(qIsClosed s pa || x == qEmpty || x == qClosed || qCount s pa == qCap s pa)
        let item := if ring then some (if pop then qHead s pa else qTail s pa) else none
        match s.queueFault pa pend va item with
        | some f => (.fault f, s)
        | none =>
          let s := s.qCells pa item
          let fresh := fun (r : State) => (r.dropL1 (coreOf t.1) (pa / 128)).dropL1 (coreOf t.1) (qItem s pa (qTail s pa) / 128)
          if pop then
            let at0 := qItem s pa (qHead s pa)
            let (v, s) := s.qpop pa
            let s := (fresh s).acquire (coreOf t.1) o
            (.val v, if ring then s.observe t.1 false at0 8 o else s)
          else
            let s1 := fresh (s.qpush pa x)
            (.done, if ring then s1.publish t.1 false (qItem s pa (qTail s pa)) 8 o else s1)
      | .skip v => (if pop then .val v else .done, s)
      | _ => (.done, s)
    dest := fun s t => if pop then s.fieldElems t d.toNat true else [] }
def execQpush (c : Ctl) (o : OrdSc) (d a : VReg) (s : State) := queueOp c false o d a s
def execQpop (c : Ctl) (o : OrdSc) (d a : VReg) (s : State) := queueOp c true o d a s

/-- KETTLE_OPERATION (R244, R248, R253): accepted reductions on the line of one of them are performed. [DEDUCED, log 38] -/
def execKettleOperation (id : Nat) (s : State) : Host.Outcome State Fault Refusal := .next (s.kettleStep id)

end Sys2Proof.Machine
end

