-- ==== Sys2Proof/Machine/Answers.lean ====
section
/-! DEFINITION. The source's side of the fabric: answers (R412, R413, R420, R425, R466), packets sent again and given up (R423,
R427), and the states of the scale-up ports (R426). -/
namespace Sys2Proof.Machine

-- Packets outstanding ------------------------------------------------------------------------------------------------------------------

/-- Two records wait for one packet (R422). -/
def Remote.same (a b : Remote) : Bool := a.hd == b.hd && a.stream == b.stream && a.peer == b.peer && a.req.sseq == b.req.sseq
/-- A record waits for an answer (R412). -/
def Remote.awaits (r : Remote) (a : Response) : Bool :=
  r.hd == a.shd.toNat && r.stream == a.stream.toNat && r.peer == a.rpeer.toNat && r.req.sseq == a.sseq && !r.held
/-- The opcode of the answer a request that is performed gets (R411). -/
def answerOpc (opc : BitVec 5) : BitVec 5 := if opc = 1 then 0x11 else if opc = 4 then 0x12 else 0x10
/-- The records an answer of an opcode ends. -/
def State.awaiting (s : State) (a : Response) (opc : BitVec 5) : List Remote :=
  if a.dpeer.toNat = s.pkg then s.remotes.filter (fun r => r.awaits a && answerOpc r.req.opc == opc) else []
/-- The records are gone. -/
def State.dropRemotes (s : State) (rs : List Remote) : State := { s with remotes := s.remotes.filter (fun r => !rs.any (fun x => x.id == r.id)) }

-- Failures and values delivered (R413, R466) -----------------------------------------------------------------------------------------------

/-- An access that failed: its registers keep their old values, and its thread takes the fault later (R466); a kernel's completion
word is reported instead (R373); an agent's work learns it (R300, R413); a commit's later releases are not performed (R233). [DEDUCED, log 35] -/
def State.failRemote (s : State) (r : Remote) (f : PFault) : State :=
  let s := match r.pend with
    | some id => s.dropPend id
    | none => s
  match r.want with
  | .word k => s.wordReport k
  | .agent key => s.answerAgent r.hd key r.req.va (some { f with addr := r.req.va }) none
  | _ => (if r.lane < 32 then s.deferFault r.slot r.lane { f with addr := r.want.va r.req.va } else s).noteCommit r.wg r.want
/-- Change the pending result a record fills. -/
def State.modPend (s : State) (id : Nat) (f : Pending → Pending) : State := { s with pend := s.pend.map (fun p => if p.id = id then f p else p) }
/-- A pending result whose last answer has come may land. -/
def State.ripen (s : State) (id : Nat) : State :=
  if s.remotes.any (fun r => r.pend == some id) then s else s.modPend id (fun p => { p with remote := false })
/-- Some of a result's elements take values. -/
def Pending.setRegs (p : Pending) (vs : List (Nat × Word)) : Pending :=
  { p with regs := p.regs.map (fun e => match vs.find? (fun v => v.1 == e.1) with
    | some v => v
    | none => e) }
/-- A line reaches what waits for it: a value, a row, uniform registers, a shape record, a tile line; or the fault it gives
(R39, R200, R205, R207, R269, R296, R466). [DESIGN CHOICE, log 37] -/
def State.takeLine (s : State) (r : Remote) (l : Line) : Except PFault State :=
  let id := r.pend.getD 0
  let l := overlay r.patch l
  match r.want with
  | .load off w key =>
    let v := extendTo w (lineField l off (widthBytes w))
    .ok (s.modPend id (fun p => p.setRegs [(key, v.setWidth 32), (key + 32, (v >>> 32).setWidth 32)]))
  | .line row => .ok (s.modPend id (fun p =>
      { p.setRegs ((List.range 32).map (fun i => (elemKey row i, lineWord l.data i))) with rowMeta := [(row, l.tag, l.scales)] }))
  | .unif off w64 d => .ok (s.modPend id (fun p => { p with sregs := sldRegs d w64 (lineField l off (if w64 then 8 else 4)) }))
  | .shape k => if shapeValid l.data then .ok (s.modPend id (fun p => { p with shape := some (k, l.data) })) else .error (pf 5 0)
  | .tile n j =>
    let tag := shTag (s.tileShape r.slot n)
    if tag ≠ 0 ∧ l.tag.toNat ≠ tag then .error (pf 7 0 4)
    else .ok (s.modPend id (fun p => { p with tile := p.tile.map (fun t => (t.1, t.2.put j (tileLineOf l))) }))
  | .agent key => .ok (s.answerAgent r.hd key r.req.va none (some l))
  | .cmd => .ok (if r.lane < 32 then s.modWarp r.slot (fun w => { w with cmd := some (r.req.va, l) }) else s)
  | _ => .ok s
/-- The line of a page in remote-cached-read-only mode is held by its reader (R234). -/
def State.holdRead (s : State) (r : Remote) (l : Line) : State := if r.ro && decide (r.lane < 32) then s.holdCopy r.slot (r.copy l) else s
/-- Each record of an answered packet takes the line (R466); a reserved tag gives its thread a data-integrity fault, and an agent
judges the tag itself (R39). -/
def State.takeLines (s : State) (l : Line) : List Remote → State
  | [] => s
  | r :: rest =>
    let bad := decide (10 ≤ l.tag.toNat) && (match r.want with
      | .agent _ => false
      | _ => true)
    let s := match (if bad then .error (pf 7 0 3) else s.takeLine r l) with
      | .ok s => s.holdRead r l
      | .error f => s.failRemote r f
    s.takeLines l rest
/-- The pending results of several records. -/
def pendsOf (rs : List Remote) : List Nat := (rs.filterMap (·.pend)).eraseDups
/-- Results whose last answer was this one may land. -/
def State.ripenAll (s : State) (rs : List Remote) : State := (pendsOf rs).foldl State.ripen s
/-- An answer brings a core what another package made visible: its L1 keeps nothing older (R218). -/
def State.refresh (s : State) (rs : List Remote) : State :=
  ((rs.filter (fun r => r.lane < 32)).map (fun r => coreOf r.slot)).eraseDups.foldl (fun s c => s.modL1 c (fun _ => [])) s

/-- A write is acknowledged: one of a kernel's completion word ends the kernel (R373), one of an agent's work lets it go on. -/
def State.ackWord (s : State) (r : Remote) : State := match r.want with
  | .word k => s.wordDone k
  | .agent key => s.answerAgent r.hd key r.req.va none none
  | _ => s
/-- What ACK brings (R373, R425): the access is complete at .fabric. -/
def State.takeAck (s : State) (r : Response) : State :=
  let rs := s.awaiting r 0x10
  rs.foldl State.ackWord (s.dropRemotes rs)
/-- What DATA brings its readers: the line, or the data-integrity fault of one that fails its check, which is recorded (R411, R450,
R455). -/
def State.takeData (s : State) (r : Response) : State :=
  let rs := s.awaiting r 0x11
  let s := (s.dropRemotes rs).refresh rs
  let (l, ok) := beatLine r.data r.side
  (if ok then s.takeLines l rs
    else rs.foldl (fun s x => s.failRemote x (pf 7 0 1))
      (s.reportPacket r.shd.toNat ((rs.head?.map (·.ctx)).getD 0) 0x11 r.va)).ripenAll rs
/-- The bits of a response that must be 0 (R411, R412). -/
def rspClean (r : Response) : Bool := match r.opc.toNat with
  | 0x11 => r.side.extractLsb' 0 32 == 0
  | 0x13 => r.pcnt.extractLsb' 0 8 == 0
  | 0x14 => r.code == 0 && r.pcnt.extractLsb' 0 8 == 0
  | _ => true
/-- A response reaches its source; one with a bit set that must be 0 is dropped at ingress, with a class 0x08 record, as if it had
not come (R411). -/
def answerArrives (r : Response) (opc : BitVec 5) (f : Response → State → State) (s : State) : Host.Outcome State Fault Refusal :=
  let r := { r with opc := opc }
  .next (if r.dpeer.toNat != s.pkg then s else if rspClean r then f r s
    else s.report 8 (Config.errDetail 8 [16 + r.shd.toNat]) 0 0 (r.shd.toNat / 2) none)
/-- DATA (R411, R466). [DESIGN CHOICE, log 37] -/
def execData (r : Response) (s : State) : Host.Outcome State Fault Refusal := answerArrives r 0x11 (fun r s => s.takeData r) s
/-- The old value of an ATM reaches D, and NF is set in its warp (R57, R251). -/
def State.takeOld (s : State) (old : DWord) (r : Remote) : State :=
  match r.want with
  | .atm w64 key =>
    let op := kopOf r.req.kop.toNat
    let s := s.modPend (r.pend.getD 0) (fun p => p.setRegs ((key, old.setWidth 32) :: if w64 then [(key + 32, (old >>> 32).setWidth 32)] else []))
    if r.lane < 32 then s.setNF r.slot (kopNF op [r.req.opnd, old, (kop op r.req.w64 old r.req.opnd r.req.cmp).getD old]) else s
  | _ => s
/-- What ATMR brings (R251, R466). -/
def State.takeAtmr (s : State) (r : Response) : State :=
  let rs := s.awaiting r 0x12
  let s := (s.dropRemotes rs).refresh rs
  (rs.foldl (fun s x => s.takeOld r.val x) s).ripenAll rs
/-- ACK (R425). -/
def execAck (r : Response) (s : State) : Host.Outcome State Fault Refusal := answerArrives r 0x10 (fun r s => s.takeAck r) s
/-- ATMR (R251, R466). -/
def execAtmr (r : Response) (s : State) : Host.Outcome State Fault Refusal := answerArrives r 0x12 (fun r s => s.takeAtmr r) s
/-- The source's own packets an answer with a refusal names. -/
def State.refused (s : State) (a : Response) : List Remote := if a.dpeer.toNat = s.pkg then s.remotes.filter (fun r => r.awaits a) else []
/-- Accesses refused for good (R413, R466). -/
def State.failAll (s : State) (rs : List Remote) (code : Nat) : State := rs.foldl (fun s x => s.failRemote x (pf 8 0 code)) (s.dropRemotes rs)
/-- What NACK brings (R335, R413, R466): code 8 holds the access; after code 10 the triple begins anew (R428). -/
def State.takeNack (s : State) (r : Response) : State :=
  let rs := s.refused r
  if r.code = 8 then
    { s with remotes := s.remotes.map (fun x => if rs.any (fun y => y.id == x.id) then { x with held := true } else x) }
  else
    let s := s.failAll rs r.code.toNat
    if r.code = 10 then { s with begun := s.begun.filter (· != tripleKey r.shd.toNat r.stream.toNat r.rpeer.toNat) } else s
/-- NACK (R413). -/
def execNack (r : Response) (s : State) : Host.Outcome State Fault Refusal := answerArrives r 0x13 (fun r s => s.takeNack r) s

-- Sending again (R420, R423, R427, R466) -----------------------------------------------------------------------------------------------------------

/-- The path for a packet sent again (R423): that of an earlier unacknowledged packet of its stream on the same line, else the
least loaded UP path other than `avoid`, or `avoid` itself where no other is UP. -/
def State.newPath (s : State) (r : Remote) (avoid : Option Nat) : Option Nat :=
  let ups := s.upPaths r.hd
  let mates := s.remotes.filter (fun x => x.hd == r.hd && x.stream == r.stream && x.peer == r.peer && !x.same r
    && lineVa x.req.va == lineVa r.req.va && decide ((r.req.sseq - x.req.sseq).toNat < 2 ^ 15) && some x.req.path.toNat != avoid)
  match mates.reverse with
  | m :: _ => some m.req.path.toNat
  | [] => match s.leastLoaded (r.hd / 2) (ups.filter (fun p => some p != avoid)) with
    | some p => some p
    | none => s.leastLoaded (r.hd / 2) ups
/-- A packet is sent again by a path, with its number and flags (R427); the time of its last sending is now, and of its first
too after RESOLVED (R466). -/
def State.sendAgain (s : State) (r : Remote) (avoid : Option Nat) (afresh : Bool) : State :=
  let loop := r.peer == s.pkg
  match (if loop then some 0 else s.newPath r avoid) with
  | none => s.failAll (s.remotes.filter (fun x => x.same r)) 11
  | some p =>
    let q := { r.req with path := BitVec.ofNat 2 p }
    let s := { s with remotes := s.remotes.map (fun (x : Remote) => if x.same r then { x with
      req := q, last := s.devtime, held := false, first := if afresh then s.devtime else x.first } else x) }
    s.putRequest r.hd q
/-- One record for each packet of a list. -/
def packets : List Remote → List Remote
  | [] => []
  | r :: rest => r :: (packets rest).filter (fun x => !x.same r)
/-- Packets unacknowledged on a path of a stream or a die, in order, are sent again (R427). -/
def State.sendAllAgain (s : State) (rs : List Remote) (avoid : Nat) : State :=
  (packets rs).foldl (fun s r => if s.remotes.any (fun x => x.same r) then s.sendAgain r (some avoid) false else s) s
/-- What RESOLVED brings (R420, R466): every access held for the page is sent again. -/
def State.takeResolved (s : State) (r : Response) : State :=
  let rs := s.remotes.filter (fun x => x.held && x.peer == r.rpeer.toNat && x.req.fasn == r.sseq && pageVa x.req.va == pageVa r.va)
  (packets rs).foldl (fun s x => s.sendAgain x none true) s
/-- RESOLVED (R420, R466). [DEDUCED, log 78] -/
def execResolved (r : Response) (s : State) : Host.Outcome State Fault Refusal := answerArrives r 0x14 (fun r s => s.takeResolved r) s
/-- PACKET_RESEND (R427): a packet without an answer for 4 ms, and those of its stream and path. -/
def execPacketResend (id : Nat) (s : State) : Host.Outcome State Fault Refusal := match s.remotes.find? (fun r => r.id == id) with
  | none => .next s
  | some r =>
    if r.held || s.devtime < r.last + 4000000 then .next s
    else .next (s.sendAllAgain (s.remotes.filter (fun x =>
      x.hd == r.hd && x.stream == r.stream && x.peer == r.peer && x.req.path == r.req.path && !x.held)) r.req.path.toNat)
/-- UNREACHABLE (R427): no answer for 64 ms, or no path UP. -/
def execUnreachable (id : Nat) (s : State) : Host.Outcome State Fault Refusal := match s.remotes.find? (fun r => r.id == id) with
  | none => .next s
  | some r =>
    if r.held || (decide (s.devtime < r.first + 64000000) && !((s.upPaths r.hd).isEmpty && r.peer != s.pkg)) then .next s
    else .next (s.failAll (s.remotes.filter (fun x => x.same r)) 11)

-- Ports (R426) -----------------------------------------------------------------------------------------------------------------------------------

def State.port (s : State) (n : Nat) : Port := s.ports.get n
/-- A port moves from some states to another. -/
def portMove (port : Nat) (s : State) (from0 : List PState) (dst : PState) : Host.Outcome State Fault Refusal :=
  if 16 ≤ port then .fault .noSuchUnit
  else if from0.contains (s.port port).st then .next { s with ports := s.ports.put port { s.port port with st := dst } }
  else .next s
/-- PORT_TRAINED (R426). -/
def execPortTrained (port : Nat) (s : State) : Host.Outcome State Fault Refusal := portMove port s [.training] .up
/-- PORT_REPLAY (R426). -/
def execPortReplay (port : Nat) (s : State) : Host.Outcome State Fault Refusal := portMove port s [.up] .replay
/-- REPLAY_COMPLETE (R426). -/
def execReplayComplete (port : Nat) (s : State) : Host.Outcome State Fault Refusal := portMove port s [.replay] .up
/-- PORT_DOWN (R426, R427): a class 0x09 record; the port's unacknowledged packets are sent again at once. -/
def execPortDown (port : Nat) (s : State) : Host.Outcome State Fault Refusal :=
  if 16 ≤ port then .fault .noSuchUnit
  else if (s.port port).st = .up ∨ (s.port port).st = .replay then
    let s := { s with ports := s.ports.put port { st := .down, since := s.devtime } }
    let h := s.half (port / 2)
    let s := s.report 9 (Config.errDetail 9 [port]) 0 0 (port / 4) (if h.member then some h.part else none)
    .next (s.sendAllAgain (s.remotes.filter (fun x => x.hd / 2 == port / 4 && x.req.path.toNat == port % 4 && !x.held && x.peer != s.pkg)) (port % 4))
  else .next s
/-- PORT_RETRAIN (R426): after 100 ms DOWN. -/
def execPortRetrain (port : Nat) (s : State) : Host.Outcome State Fault Refusal :=
  if (s.port port).since + 100000000 ≤ s.devtime ∨ 16 ≤ port then portMove port s [.down] .training else .next s

end Sys2Proof.Machine
end

