-- ==== Sys2Proof/Machine/Lanes.lean ====
section
/-! DEFINITION. Cross-lane instructions (R139 to R143): SHFL, VOTE and POPX over the bundle set, REDV over the warp. -/
namespace Sys2Proof.Machine

/-- SHFL (R139): the value lane zx(b) offers, or the lane's own offered value. -/
def execShfl (c : Ctl) (p : Option Pfx) (d a b : VReg) (s : State) : Host.Outcome State Fault Refusal :=
  crossOp c (groupWords p) [own b] [] (srcA p a) { n := d.toNat } s
    (fun g t vs =>
      let j := bf (vs.getD 0 0) 0 32
      if j < 32 && (g.inLane j).isSome then [j] else [t.2])
    (fun _ _ os => match os with
      | [(_, some v)] => { val := v.setWidth 64 }
      | _ => { fault := some (pf 2 0) })

/-- The lanes of the bundle set. -/
def Grp.lanes (g : Grp) : List Nat := g.set.map Prod.snd
/-- The values offered, by lane. -/
def offered (os : List (Nat × Option Word)) : List (Nat × Word) := os.filterMap (fun o => o.2.map (fun v => (o.1, v)))
/-- VOTE (R140): every contributor's value goes to each thread. -/
def voteOp (c : Ctl) (d a : VReg) (s : State) (f : List (Nat × Word) → Word) : Host.Outcome State Fault Refusal :=
  crossOp c 1 [] [own a] (own a) { n := d.toNat } s (fun g _ _ => g.lanes) (fun _ _ os => { val := (f (offered os)).setWidth 64 })
/-- 1 or 0 (R119). -/
def bit (b : Bool) : Word := if b then 1 else 0

def execVoteAll (c : Ctl) (d a : VReg) (s : State) := voteOp c d a s fun vs => bit (vs.all (fun v => v.2 != 0))
def execVoteAny (c : Ctl) (d a : VReg) (s : State) := voteOp c d a s fun vs => bit (vs.any (fun v => v.2 != 0))
/-- VOTE.ballot: bit i is lane i's (R140). -/
def execVoteBallot (c : Ctl) (d a : VReg) (s : State) := voteOp c d a s fun vs =>
  BitVec.ofNat 32 ((vs.map (fun v => if v.2 = 0 then 0 else 2 ^ v.1)).foldl (· + ·) 0)
def execVoteEq (c : Ctl) (d a : VReg) (s : State) := voteOp c d a s fun vs => bit (vs.all (fun v => v.2 == (vs.headD (0, 0)).2))

/-- POPX (R141): a prefix sum of population counts over the bundle set. -/
def popxOp (c : Ctl) (d a : VReg) (s : State) (incl : Bool) : Host.Outcome State Fault Refusal :=
  crossOp c 1 [] [own a] (own a) { n := d.toNat } s
    (fun g t _ => g.lanes.filter (fun j => decide (j < t.2) || (incl && j == t.2)))
    (fun _ _ os => { val := BitVec.ofNat 64 (((offered os).map (fun v => popcount v.2)).foldl (· + ·) 0) })
def execPopxIncl (c : Ctl) (d a : VReg) (s : State) := popxOp c d a s true
def execPopxExcl (c : Ctl) (d a : VReg) (s : State) := popxOp c d a s false

-- REDV (R142, R143) ------------------------------------------------------------------------------------------------------------

/-- comb of two present values (R142). -/
def combVal (op : RedOp) (x y : Word) : Word := match op with
  | .add => x + y
  | .minS32 => if y.toInt < x.toInt then y else x
  | .minZ32 => if y.toNat < x.toNat then y else x
  | .maxS32 => if x.toInt < y.toInt then y else x
  | .maxZ32 => if x.toNat < y.toNat then y else x
  | .and => x &&& y
  | .or => x ||| y
  | .xor => x ^^^ y
  | .fadd => faddW x y
  | .fmin => fminW x y
  | .fmax => fmaxW x y
/-- comb (R142). -/
def comb (op : RedOp) (x y : Option Word) : Option Word := match x, y with
  | some x, some y => some (combVal op x y)
  | some x, none => some x
  | none, y => y
/-- One level of the tree. -/
def combLevel (op : RedOp) : List (Option Word) → List (Option Word)
  | x :: y :: r => comb op x y :: combLevel op r
  | r => r
/-- The levels of the tree: every list of values from the inputs to the result (R142). -/
def combTree (op : RedOp) (xs : List (Option Word)) : Nat → List (List (Option Word))
  | 0 => [xs]
  | n + 1 => xs :: combTree op (combLevel op xs) n
/-- The operation is one of the float forms (R142). -/
def redFloat : RedOp → Bool
  | .fadd | .fmin | .fmax => true
  | _ => false

/-- REDVs of a warp in flight (R143). -/
def State.redvs (s : State) (slot : Nat) : Nat := (s.pend.filter (fun p => p.slot == slot && p.rslt.isSome)).length
/-- The row element REDV reads in a lane. [DEDUCED, log 22] -/
def State.redvElem (s : State) (slot : Nat) (a : VReg) (lane : Nat) : Elem := (slot, rowOf (s.thread slot lane) a.toNat, lane)
/-- REDV (R142): warp-whole; the result lands in RSLT later, undefined where a lane was read early, NF then as it was (R84). -/
def execRedv (c : Ctl) (op : RedOp) (a : VReg) (s : State) : Host.Outcome State Fault Refusal :=
  wholeOp c 1 s
    (fun g s k lanes =>
      let es := lanes.map (s.redvElem k a)
      if !es.all s.elemHeld then .fault (pf 2 0) g.pc
      else match s.elemsWhy es with
        | some w => .lock w
        | none =>
          if 4 ≤ s.redvs k then .lock .redv
          else if es.any (s.elemTraps g) then .fault (pf 3 0) g.pc else .done g.next)
    (fun g s k lanes =>
      let es := lanes.map (s.redvElem k a)
      let early := es.any (s.elemEarly g)
      let (xs, s) := (List.range 32).foldl (fun (r : List (Option Word) × State) l =>
        if lanes.contains l then (let (v, s) := r.2.readElem g (s.redvElem k a l); (r.1 ++ [some v], s)) else (r.1 ++ [none], r.2)) ([], s)
      let tree := combTree op xs 5
      let v := ((tree.getLastD []).headD none).getD 0
      let nf := redFloat op && !early && tree.flatten.any (fun x => x.any wordNF)
      let s := (s.addPend { Pending.empty k with rslt := some v }).settleRows g es
      (if nf then s.modWarp k (fun w => { w with nf := true }) else s, none))

end Sys2Proof.Machine
end

