-- ==== Sys2Proof/Machine/Pages.lean ====
section
/-! DEFINITION. The memory processors: light and heavy faults of page-table entries (R330, R335), the service and return queues
(R333, R334, R337), quarantine (R240), migration (R336), and the minting of hall passes (R414, R418). -/
namespace Sys2Proof.Machine

-- The queues of a half-die (R258, R333, R418) ---------------------------------------------------------------------------------------------

/-- Bytes of a work queue of CAPLOG 11. -/
def queueBytes : Nat := 128 + 8 * 2048
/-- PA of a half-die's service, return and mint queues. [DEDUCED, log 69] -/
def serviceQueue (hd : Nat) : Nat := 2 ^ 36 * hd + 0xC90401000
def returnQueue (hd : Nat) : Nat := 2 ^ 36 * hd + 0xC90406000
def mintQueue (hd : Nat) : Nat := 2 ^ 36 * hd + 0xC9040B000
/-- A half-die's memory processor works: its half-die belongs to a partition that is not in a reset. -/
def State.processorUp (s : State) (hd : Nat) : Bool := (s.half hd).member && !(s.part (s.half hd).part).resetting
/-- Item j of a queue, or the queue's own line, cannot be reached, or fails its check (R22, R245). -/
def State.itemBad (s : State) (d j : Nat) : Bool :=
  (s.lineFault (d / 128)).isSome || !populated (qItem s d j) || (s.lineFault (qItem s d j / 128)).isSome
/-- The item at the head of a queue is popped, its lines in cells (R245, R260). -/
def State.popItem (s : State) (d : Nat) : DWord × State := (s.qCells d (some (qHead s d))).qpop d
/-- An item is pushed to a queue, its lines in cells (R245, R260). -/
def State.pushItem (s : State) (d : Nat) (x : DWord) : State := (s.qCells d (some (qTail s d))).qpush d x
/-- The item at the head of a queue the memory processor serves, if one can be popped (R259, R260). [DEDUCED, log 49] -/
def State.headItem (s : State) (d : Nat) : Option DWord :=
  if !qValid s d (d + queueBytes) || qCount s d == 0 || s.itemBad d (qHead s d) then none
  else some (s.qpop d).1
/-- KIND and ADDR of an item (R333). -/
def itemKind (x : DWord) : Nat := bf x 0 4
def itemAddr (x : DWord) : Nat := bf x 7 41 * 128
/-- Its bits that must be 0. [DEDUCED, log 49] -/
def itemClean (x : DWord) : Bool := bf x 48 16 == 0 && bf x 4 3 == 0
/-- Bytes of what an item of a kind names: a line, or a frame. -/
def kindBytes : Nat → Nat
  | 2 => 2 ^ 16
  | 3 => 2 ^ 21
  | 4 => 2 ^ 29
  | 5 => 2 ^ 15
  | _ => 128
/-- An item names something of the partition, aligned to its size (R333). -/
def State.itemOk (s : State) (p : Nat) (x : DWord) : Bool :=
  itemClean x && itemAddr x % kindBytes (itemKind x) == 0 && s.inPart p (itemAddr x) (kindBytes (itemKind x))
/-- An item is dropped and reported (R333, R455). -/
def State.dropItem (s : State) (hd ctx : Nat) (x : DWord) : State :=
  s.report 6 x.toNat (itemAddr x) ctx (hd / 2) (some (s.half hd).part)
/-- A word the memory processor writes; a line whose check fails keeps its bytes, and is reported (R451, R455). -/
def State.serviceWrite (s : State) (ctx pa w v : Nat) : State := match s.poke pa w v with
  | some t => t.loosen s pa (pa + w)
  | none => s.reportMerge ctx ((s.lineBad (pa / 128)).getD 1) (pa / 128)

-- Sweeps (R334) ----------------------------------------------------------------------------------------------------------------------------------

/-- A sweep request line passes its checks (R334). -/
def State.sweepOk (s : State) (p : Nat) (l : LineBits) : Bool :=
  let cpa := bf l 128 48
  bf l 224 800 == 0 && bf l 176 16 == 0 && bf l 16 16 == 0 && bf l 64 64 % 2 ^ 16 == 0
    && cpa % 4 == 0 && s.inPart p cpa 4 && (s.ctx (bf l 0 16)).boundTo p
/-- The sweep of a request line, then its completion word (R334). -/
def State.sweepLine (s : State) (l : LineBits) : State :=
  let c := bf l 0 16
  let lo := bf l 64 64
  let n := bf l 32 32
  let s := if n = 0 then s.sweepRange c 0 (2 ^ 64) else s.sweepRange c lo (lo + n * 2 ^ 16)
  s.serviceWrite c (bf l 128 48) 4 (bf l 192 32)
/-- SWEEP (R333, R334): the head item of the service queue, where it is no FREE; a reserved KIND is dropped. -/
def execSweep (hd : Nat) (s : State) : Host.Outcome State Fault Refusal :=
  if 8 ≤ hd then .fault .noSuchUnit
  else if !s.processorUp hd then .next s
  else match s.headItem (serviceQueue hd) with
    | none => .next s
    | some x =>
      if 2 ≤ itemKind x ∧ itemKind x ≤ 4 then .next s
      else
        let s := (s.popItem (serviceQueue hd)).2
        let p := (s.half hd).part
        let n := itemAddr x / 128
        if itemKind x ≠ 1 ∨ !s.itemOk p x then .next (s.dropItem hd 0 x)
        else match s.lineBad n with
          | some i => .next ((s.reportLine 0 i n).dropItem hd 0 x)
          | none =>
            let l := (s.line n).data
            if s.sweepOk p l then .next (s.sweepLine l) else .next (s.dropItem hd (bf l 0 16) x)

-- Freeing (R240, R337) ---------------------------------------------------------------------------------------------------------------------------

/-- Frames of 64 KiB within a frame an item names leave the Steeper lists, with the marks and seals they had (R337, R343). [DEDUCED, log 50] -/
def State.unsteep (s : State) (x : DWord) : State :=
  let lo := itemAddr x / 2 ^ 16
  let hi := (itemAddr x + kindBytes (itemKind x)) / 2 ^ 16
  let frees := fun (f : Nat) => decide (lo ≤ f) && decide (f < hi)
  let s := s.modHalf (homeHalf (itemAddr x)) (fun h => { h with
    steeper := h.steeper.filter (fun e => !(frees e.frame || frees (e.hdr / 2 ^ 16))), converted := h.converted.filter (fun f => !frees f) })
  { s with sealedKv := s.sealedKv.filter (fun e => !(frees e.2 || frees (e.1 / 512))) }
/-- FREE (R333, R337): the frame is stamped and enters quarantine; of a converted KV frame only the lower half does. [DEDUCED, log 50] -/
def execFree (hd : Nat) (s : State) : Host.Outcome State Fault Refusal :=
  if 8 ≤ hd then .fault .noSuchUnit
  else if !s.processorUp hd then .next s
  else match s.headItem (serviceQueue hd) with
    | none => .next s
    | some x =>
      if itemKind x < 2 ∨ 4 < itemKind x then .next s
      else
        let s := (s.popItem (serviceQueue hd)).2
        let p := (s.half hd).part
        let half := itemKind x == 2 && (s.half (homeHalf (itemAddr x))).converted.contains (itemAddr x / 2 ^ 16)
        if !s.itemOk p x then .next (s.dropItem hd 0 x)
        else .next ((s.unsteep x).quarantine p hd (if half then BitVec.ofNat 64 (itemAddr x + 5) else x))
/-- The recess stamps of the stores and reductions a workgroup's own record still holds. -/
def Workgroup.stamps (g : Workgroup) : List Nat :=
  List.flatMap (fun (e : Nat × List BufOp) => e.2.map (·.stamp)) g.done ++ g.commits.map (fun e => e.2.stamp)
/-- Those of some warps. -/
def warpStamps (ws : Table Warp) : List Nat := List.flatMap (fun (e : Nat × Warp) => e.2.buf.map (·.stamp)) ws
/-- The recess stamps of stores and reductions of a partition that store buffers and partials hold (R186, R240, R261). -/
def State.heldStamps (s : State) (p : Nat) : List Nat :=
  warpStamps (List.filter (fun (e : Nat × Warp) => (s.kernelOf e.1).part == p) s.warps)
    ++ List.flatMap (fun (e : Nat × Workgroup) => if (s.kernel e.2.kernel).part = p then e.2.stamps else []) s.wgs
    ++ s.frames.flatMap (fun f => if (s.ctx f.ctx).part = p then f.wg.stamps ++ warpStamps f.warps else [])
    ++ List.flatMap (fun (e : Nat × Kernel) => if e.2.part = p then e.2.partials.map (·.stamp) else []) s.kernels
/-- The recess stamps of accesses of a partition's agents not yet performed (R240). -/
def State.stamps (s : State) (p : Nat) : List Nat :=
  (s.kreqs.filter (fun r => r.part == p)).map (·.stamp)
    ++ (s.remotes.filter (fun r => (s.half r.hd).part == p)).map (·.stamp)
    ++ (s.watches.filter (fun w => (s.kernelOf w.slot).part == p)).map (·.stamp)
    ++ (s.triples.filter (fun t => t.part == p)).flatMap (fun t => t.held.map (·.stamp)) ++ s.heldStamps p
/-- QUARANTINE_RELEASE (R27, R240, R337): the oldest frame is released once every agent reports a later stamp, by the memory
processor of its half-die. -/
def execQuarantineRelease (part : Nat) (s : State) : Host.Outcome State Fault Refusal :=
  if 8 ≤ part then .fault .noSuchUnit
  else match (s.part part).quar with
    | [] => .next s
    | f :: rest =>
      if s.processorUp f.hd && (s.half f.hd).part == part && (s.stamps part).all (fun x => decide (f.stamp < x)) then
        .next ((s.modPart part (fun x => { x with quar := rest })).modHalf f.hd (fun h => { h with returns := h.returns ++ [f.item] }))
      else .next s
/-- RETURN_ITEM_PUSH (R337): the oldest released item goes to the return queue when there is room. -/
def execReturnItemPush (hd : Nat) (s : State) : Host.Outcome State Fault Refusal :=
  if 8 ≤ hd then .fault .noSuchUnit
  else match (s.half hd).returns with
    | [] => .next s
    | x :: rest =>
      let d := returnQueue hd
      if !s.processorUp hd || !qValid s d (d + queueBytes) || qIsClosed s d || qCount s d == qCap s d
        || s.itemBad d (qTail s d) then .next s
      else .next ((s.pushItem d x).modHalf hd (fun h => { h with returns := rest }))

-- Light and heavy faults (R195, R330, R335, R420) ------------------------------------------------------------------------------------------

/-- Light faults on an entry are served: the bits are set where the entry still grants the accesses, and held translations of
it are discarded (R330). -/
def State.serveLights (s : State) (pte : Nat) (ls : List LightFault) : State := (ls.foldl State.setBits s).dropEntry pte
/-- LIGHT_FAULT (R195, R330): the accesses that wait for bits of an entry are served, and their groups go on. -/
def execLightFault (pte : Nat) (dirty : Bool) (s : State) : Host.Outcome State Fault Refusal :=
  let on := fun (l : LightFault) => l.pte == pte && l.dirty == dirty
  match (List.flatMap (fun (e : Nat × Quad) => e.2.stall) s.quads).filter on with
  | [] => .next s
  | ls =>
    let s := s.serveLights pte ls
    .next { s with quads := s.quads.map (fun _ (q : Quad) => { q with stall := q.stall.filter (fun l => !on l) }) }
/-- An entry is resolved: V = 1, or V = 0 with HOLD = 0 (R335). -/
def State.resolved (s : State) (pte : Nat) : Bool := let e := s.entry pte; tst e 0 || !tst e 3
/-- RESOLVED goes to a package refused with code 8 for a page (R412, R420). [DEDUCED, log 53] -/
def State.sendResolved (s : State) (hd : Nat) (e : BitVec 10 × DWord × BitVec 16) : State :=
  let r : Response := { (default : Response) with
    va := e.2.1, rpeer := BitVec.ofNat 10 s.pkg, dpeer := e.1, shd := BitVec.ofNat 3 hd, sseq := e.2.2, opc := 0x14 }
  s.putReply hd ((s.leastLoaded (hd / 2) (s.upPaths hd)).getD 0) r
/-- HEAVY_FAULT_RESOLVED (R335, R392, R420): the watch ends; saved workgroups become ready, the packages refused are told, and a
workgroup that found no frame slot goes on. -/
def execHeavyFaultResolved (pte : Nat) (s : State) : Host.Outcome State Fault Refusal :=
  match s.heavies.find? (fun h => h.pte == pte) with
  | none => .next s
  | some h =>
    if !s.resolved pte || !s.processorUp (homeHalf pte) then .next s
    else
      let s := { s with
        heavies := s.heavies.filter (fun x => x.pte != pte)
        frames := s.frames.map (fun (f : Frame) => if f.reason = 1 ∧ f.pte = pte then { f with ready := true } else f) }
      let s := h.tell.foldl (fun s e => s.sendResolved (homeHalf pte) e) s
      .next ((List.filter (fun (e : Nat × Workgroup) => e.2.save.isSome && (s.freeFrames (s.kernel e.2.kernel).ctx).isEmpty) s.wgs).foldl (fun s e => s.heavyOver e.1) s)

-- Migration (R336) -------------------------------------------------------------------------------------------------------------------------------

/-- The migration queue of a context: the PA of its descriptor, and the end of its page (R258, R336, R379). -/
def State.migrationQueue (s : State) (c : Nat) : Option (Nat × Nat) × State :=
  let va := (s.ctx c).migq
  if va = 0 then (none, s)
  else match s.agentAccess c 128 va queueKind with
    | (.ok ⟨_, .mem pa _, tr⟩, s) =>
      let pend := pa + (tr.base + tr.size - va.toNat)
      (if qValid s pa pend then some (pa, pend) else none, s)
    | (_, s) => (none, s)
/-- A frame is pushed back (R336). -/
def State.pushFrame (s : State) (c frame : Nat) : State := match s.migrationQueue c with
  | (some (d, _), s) => if s.itemBad d (qTail s d) then s else s.pushItem d (BitVec.ofNat 64 (frame * 2 ^ 16))
  | (none, s) => s
/-- The cas of an entry (R332, R336). -/
def State.casEntry (s : State) (pte : Nat) (old new : DWord) : Option State :=
  if (s.lineFault (pte / 128)).isSome || s.entry pte != old.toNat then none
  else ((s.takeCell (pte / 128)).poke pte 8 new.toNat).map (·.settleWords [pte / 8])
/-- A leaf with V = 0 and HOLD = 1, all else kept. -/
def holdLeaf (l : DWord) : DWord := (l &&& ~~~1#64) ||| 8#64
/-- A migrated leaf: V = 1, MODE 0, FRAME the new frame, A = 1, D = 0. -/
def migratedLeaf (l : DWord) (frame : Nat) : DWord :=
  (l &&& ~~~(BitVec.ofNat 64 (0xFFFFFFFF * 2 ^ 16 + 0x1838))) ||| BitVec.ofNat 64 (frame * 2 ^ 16 + 0x801)
/-- A cluster's TLB sends its request: the leaf's count has reached MIGTH (R336). -/
def Trans.migrates (t : Trans) (th : Nat) : Bool := leafMode t.leaf == 3 && decide (0 < th) && decide (th ≤ t.count) && !t.asked
/-- MIGRATION_REQUEST (R336): a frame is popped, and the leaf is held: steps 1 and 2. [DEDUCED, log 51] -/
def execMigrationRequest (cluster : Nat) (ctx : BitVec 16) (va : DWord) (s : State) : Host.Outcome State Fault Refusal :=
  let c := ctx.toNat
  let hd := cluster / 6
  if 48 ≤ cluster then .fault .noSuchUnit
  else match (s.cluster cluster).tlb.find? (fun t => t.hits c va && t.migrates (s.ctx c).migth) with
    | none => .next s
    | some t =>
      let s := s.modCluster cluster (fun x => { x with tlb := x.tlb.map (fun (y : Trans) =>
        if y.ctx = t.ctx ∧ y.base = t.base then { y with asked := true } else y) })
      match s.migrationQueue c with
      | (none, s) => .next s
      | (some (d, _), s) =>
        if qCount s d = 0 || s.itemBad d (qHead s d) then .next s
        else
          let (x, s) := s.popItem d
          if x = qEmpty ∨ x = qClosed then .next s
          else if bf x 0 16 != 0 || bf x 48 16 != 0 || !s.inPart (s.half hd).part (bf x 16 32 * 2 ^ 16) (2 ^ 16) then .next (s.dropItem hd c x)
          else
            let frame := bf x 16 32
            match s.walk c va with
            | .leaf l =>
              if leafMode l.leaf != 3 then .next (s.pushFrame c frame)
              else match s.casEntry l.pte l.leaf (holdLeaf l.leaf) with
                | none => .next (s.pushFrame c frame)
                | some s =>
                  let (id, s) := s.newId
                  .next (s.modHalf hd (fun h => { h with migrations := h.migrations ++ [{ id, ctx := c, va := BitVec.ofNat 64 l.base, pte := l.pte, old := l.leaf, frame }] }))
            | _ => .next (s.pushFrame c frame)
/-- The first n lines of a page that is migrated, as its package answers, one after another (R336, R407): whatever their TAG. -/
def State.migrated (s : State) (g : Agent) (m : Migration) : Nat → Except Halt (List Line) × State
  | 0 => (.ok [], s)
  | n + 1 => match s.migrated g m n with
    | (.error h, s) => (.error h, s)
    | (.ok ls, s) => match s.agentAsk g n m.old (s.requestFor (3072 * g.hd) (m.va + BitVec.ofNat 64 (128 * n)) m.old 1 false) with
      | (.error h, s) => (.error h, s)
      | (.ok l, s) => (.ok (ls ++ [l.getD default]), s)
/-- MIGRATION (R336): the page is swept and read from its package; steps 3 and 4. [DEDUCED, log 51] -/
def execMigration (hd : Nat) (s : State) : Host.Outcome State Fault Refusal :=
  if 8 ≤ hd then .fault .noSuchUnit
  else match (s.half hd).migrations with
    | [] => .next s
    | m :: rest =>
      let s := s.sweepRange m.ctx m.va.toNat (m.va.toNat + 2 ^ 16)
      let done := fun (s : State) => (s.dropWork m.id).modHalf hd (fun h => { h with migrations := rest })
      let g : Agent := { hd, key := .work m.id 0, ctx := m.ctx, kernel := 0, widx := 0, wid := 0 }
      match s.migrated g m 512 with
      | (.error .wait, s) => .next s
      | (.error (.fault _), s) =>
        let s := done s
        .next (((s.casEntry m.pte (holdLeaf m.old) m.old).getD s).pushFrame m.ctx m.frame)
      | (.ok ls, s) =>
        let s := done s
        let s := (ls.zipIdx.foldl (fun s l => s.putLine (m.frame * 512 + l.2) l.1) s).loosen s (m.frame * 2 ^ 16) (m.frame * 2 ^ 16 + 2 ^ 16)
        match s.casEntry m.pte (holdLeaf m.old) (migratedLeaf m.old m.frame) with
        | none => .next (s.pushFrame m.ctx m.frame)
        | some s => .next (s.faultRecord m.ctx 5 0 0 0 m.va 0 0 0 0 0 0)

-- Minting (R414, R415, R418) ---------------------------------------------------------------------------------------------------------------------

/-- A mint request line is valid (R418). -/
def State.mintOk (s : State) (p : Nat) (l : LineBits) : Bool :=
  let base := bf l 64 64
  let n := bf l 0 64
  let c := s.ctx (bf l 176 16)
  c.boundTo p && (c.keys.find (bf l 136 4)).isSome
    && bf l 140 12 != 0 && base % 2 ^ 27 == 0 && n % 2 ^ 27 == 0 && 2 ^ 27 ≤ n && n ≤ 2 ^ 35 && base + n ≤ 2 ^ 39
/-- The result address of a mint request can be written: 16-aligned, in the partition (R418). -/
def State.mintAt (s : State) (p : Nat) (l : LineBits) : Option Nat :=
  let d := bf l 192 48
  if d % 16 = 0 && s.inPart p d 16 then some d else none
/-- The pass of a valid request (R414, R415, R416, R418). -/
def State.mintPass (s : State) (l : LineBits) : Nat :=
  let c := s.ctx (bf l 176 16)
  let slot := bf l 136 4
  let exp := (s.millis + bf l 140 12) % 2 ^ 13
  let low := bf l 0 64 / 2 ^ 27 - 1 + 2 ^ 8 * (bf l 64 64 / 2 ^ 27) + 2 ^ 20 * exp + 2 ^ 33 * bf l 133 3 + 2 ^ 36 * slot
  low + 2 ^ 40 * passMac ((c.keys.find slot).getD 0) low (bf l 152 10) c.fasn
/-- MINT_REQUEST (R359, R418). -/
def execMintRequest (hd : Nat) (s : State) : Host.Outcome State Fault Refusal :=
  if 8 ≤ hd then .fault .noSuchUnit
  else if !s.processorUp hd || !s.everLocked then .next s
  else match s.headItem (mintQueue hd) with
    | none => .next s
    | some x =>
      let s := (s.popItem (mintQueue hd)).2
      let p := (s.half hd).part
      let n := itemAddr x / 128
      if itemKind x ≠ 6 ∨ !s.itemOk p x then .next (s.dropItem hd 0 x)
      else match s.lineBad n with
        | some i => .next ((s.reportLine 0 i n).dropItem hd 0 x)
        | none =>
          let l := (s.line n).data
          let c := bf l 176 16
          match s.mintAt p l with
          | none => .next (s.dropItem hd c x)
          | some d =>
            if s.mintOk p l then .next ((s.serviceWrite c d 8 (s.mintPass l)).serviceWrite c (d + 8) 4 1)
            else .next (s.serviceWrite c (d + 8) 4 2)

end Sys2Proof.Machine
end

