-- ==== Sys2Proof/Machine/Dispatch.lean ====
section
/-! DEFINITION. The meaning of every instruction and of every step of another agent: one arm per constructor of `Instr`, each
one direct call of its definition. -/
namespace Sys2Proof.Machine

/-- What an instruction or an agent step does to the state. -/
def exec (i : Instr) (s : State) : Host.Outcome State Fault Refusal :=
  match i with
  -- three-register integer instructions (R120 to R123)
  | .add c p d a b => Sys2Proof.Machine.execAdd c p d a b s
  | .sub c p d a b => Sys2Proof.Machine.execSub c p d a b s
  | .mul c p d a b => Sys2Proof.Machine.execMul c p d a b s
  | .mulhS32 c p d a b => Sys2Proof.Machine.execMulhS32 c p d a b s
  | .mulhZ32 c p d a b => Sys2Proof.Machine.execMulhZ32 c p d a b s
  | .mad c p d a b => Sys2Proof.Machine.execMad c p d a b s
  | .andn c p d a b => Sys2Proof.Machine.execAndn c p d a b s
  | .and c p d a b => Sys2Proof.Machine.execAnd c p d a b s
  | .or c p d a b => Sys2Proof.Machine.execOr c p d a b s
  | .xor c p d a b => Sys2Proof.Machine.execXor c p d a b s
  | .shl c p d a b => Sys2Proof.Machine.execShl c p d a b s
  | .shr c p d a b => Sys2Proof.Machine.execShr c p d a b s
  | .sar c p d a b => Sys2Proof.Machine.execSar c p d a b s
  | .rotl c p d a b => Sys2Proof.Machine.execRotl c p d a b s
  | .sel c p d a b => Sys2Proof.Machine.execSel c p d a b s
  | .minS32 c p d a b => Sys2Proof.Machine.execMinS32 c p d a b s
  | .minZ32 c p d a b => Sys2Proof.Machine.execMinZ32 c p d a b s
  | .maxS32 c p d a b => Sys2Proof.Machine.execMaxS32 c p d a b s
  | .maxZ32 c p d a b => Sys2Proof.Machine.execMaxZ32 c p d a b s
  | .cmpS32 c p d a b => Sys2Proof.Machine.execCmpS32 c p d a b s
  | .cmpZ32 c p d a b => Sys2Proof.Machine.execCmpZ32 c p d a b s
  | .bfxS32 c p d a b => Sys2Proof.Machine.execBfxS32 c p d a b s
  | .bfxZ32 c p d a b => Sys2Proof.Machine.execBfxZ32 c p d a b s
  | .bfi c p d a b => Sys2Proof.Machine.execBfi c p d a b s
  | .lea c d a b => Sys2Proof.Machine.execLea c d a b s
  -- unary forms (R126)
  | .mov c d a => Sys2Proof.Machine.execMov c d a s
  | .not c d a => Sys2Proof.Machine.execNot c d a s
  | .neg c d a => Sys2Proof.Machine.execNeg c d a s
  | .abs c d a => Sys2Proof.Machine.execAbs c d a s
  | .clz c d a => Sys2Proof.Machine.execClz c d a s
  | .ctz c d a => Sys2Proof.Machine.execCtz c d a s
  | .popc c d a => Sys2Proof.Machine.execPopc c d a s
  | .brev c d a => Sys2Proof.Machine.execBrev c d a s
  | .movZ64 c d a => Sys2Proof.Machine.execMovZ64 c d a s
  | .notZ64 c d a => Sys2Proof.Machine.execNotZ64 c d a s
  | .negS64 c d a => Sys2Proof.Machine.execNegS64 c d a s
  | .absS64 c d a => Sys2Proof.Machine.execAbsS64 c d a s
  -- 64-bit forms (R127)
  | .addS64 c d a b => Sys2Proof.Machine.execAddS64 c d a b s
  | .subS64 c d a b => Sys2Proof.Machine.execSubS64 c d a b s
  | .mulS64 c d a b => Sys2Proof.Machine.execMulS64 c d a b s
  | .shlZ64 c d a b => Sys2Proof.Machine.execShlZ64 c d a b s
  | .shrZ64 c d a b => Sys2Proof.Machine.execShrZ64 c d a b s
  | .sarS64 c d a b => Sys2Proof.Machine.execSarS64 c d a b s
  | .minS64 c d a b => Sys2Proof.Machine.execMinS64 c d a b s
  | .minZ64 c d a b => Sys2Proof.Machine.execMinZ64 c d a b s
  | .maxS64 c d a b => Sys2Proof.Machine.execMaxS64 c d a b s
  | .maxZ64 c d a b => Sys2Proof.Machine.execMaxZ64 c d a b s
  | .cmpS64 c d a b => Sys2Proof.Machine.execCmpS64 c d a b s
  | .cmpZ64 c d a b => Sys2Proof.Machine.execCmpZ64 c d a b s
  | .andZ64 c d a b => Sys2Proof.Machine.execAndZ64 c d a b s
  | .orZ64 c d a b => Sys2Proof.Machine.execOrZ64 c d a b s
  | .xorZ64 c d a b => Sys2Proof.Machine.execXorZ64 c d a b s
  -- immediate and constant forms (R124, R125)
  | .addi c d a imm => Sys2Proof.Machine.execAddi c d a imm s
  | .addiLong c d a imm => Sys2Proof.Machine.execAddiLong c d a imm s
  | .andi c d a imm => Sys2Proof.Machine.execAndi c d a imm s
  | .andiLong c d a imm => Sys2Proof.Machine.execAndiLong c d a imm s
  | .ori c d a imm => Sys2Proof.Machine.execOri c d a imm s
  | .oriLong c d a imm => Sys2Proof.Machine.execOriLong c d a imm s
  | .xori c d a imm => Sys2Proof.Machine.execXori c d a imm s
  | .xoriLong c d a imm => Sys2Proof.Machine.execXoriLong c d a imm s
  | .shli c d a n => Sys2Proof.Machine.execShli c d a n s
  | .shri c d a n => Sys2Proof.Machine.execShri c d a n s
  | .sari c d a n => Sys2Proof.Machine.execSari c d a n s
  | .movi c d imm => Sys2Proof.Machine.execMovi c d imm s
  | .moviLong c d imm => Sys2Proof.Machine.execMoviLong c d imm s
  | .movh c d imm => Sys2Proof.Machine.execMovh c d imm s
  -- cross-lane instructions (R139 to R142)
  | .shfl c p d a b => Sys2Proof.Machine.execShfl c p d a b s
  | .voteAll c d a => Sys2Proof.Machine.execVoteAll c d a s
  | .voteAny c d a => Sys2Proof.Machine.execVoteAny c d a s
  | .voteBallot c d a => Sys2Proof.Machine.execVoteBallot c d a s
  | .voteEq c d a => Sys2Proof.Machine.execVoteEq c d a s
  | .popxIncl c d a => Sys2Proof.Machine.execPopxIncl c d a s
  | .popxExcl c d a => Sys2Proof.Machine.execPopxExcl c d a s
  | .redv c op a => Sys2Proof.Machine.execRedv c op a s
  -- uniform instructions (R128 to R132)
  | .sadd c d a b => Sys2Proof.Machine.execSadd c d a b s
  | .ssub c d a b => Sys2Proof.Machine.execSsub c d a b s
  | .sand c d a b => Sys2Proof.Machine.execSand c d a b s
  | .sor c d a b => Sys2Proof.Machine.execSor c d a b s
  | .sxor c d a b => Sys2Proof.Machine.execSxor c d a b s
  | .sshl c d a b => Sys2Proof.Machine.execSshl c d a b s
  | .sshr c d a b => Sys2Proof.Machine.execSshr c d a b s
  | .scmp c d a b => Sys2Proof.Machine.execScmp c d a b s
  | .smov c d a => Sys2Proof.Machine.execSmov c d a s
  | .bcast c d a => Sys2Proof.Machine.execBcast c d a s
  | .vtos c d a => Sys2Proof.Machine.execVtos c d a s
  | .swaitq c a => Sys2Proof.Machine.execSwaitq c a s
  | .smovi c d imm => Sys2Proof.Machine.execSmovi c d imm s
  | .smoviLong c d imm => Sys2Proof.Machine.execSmoviLong c d imm s
  | .sld c w64 o d a => Sys2Proof.Machine.execSld c w64 o d a s
  -- control transfer (R133 to R138)
  | .bra c off => Sys2Proof.Machine.execBra c off s
  | .brc c a cond off => Sys2Proof.Machine.execBrc c a cond off s
  | .bru c a cond off => Sys2Proof.Machine.execBru c a cond off s
  | .call c d imm => Sys2Proof.Machine.execCall c d imm s
  | .callLong c d imm => Sys2Proof.Machine.execCallLong c d imm s
  | .jmpi c a => Sys2Proof.Machine.execJmpi c a s
  | .ret c a => Sys2Proof.Machine.execRet c a s
  | .exit c => Sys2Proof.Machine.execExit c s
  | .nop c => Sys2Proof.Machine.execNop c s
  -- FP32 arithmetic (R148 to R151)
  | .fadd c p d a b => Sys2Proof.Machine.execFadd c p d a b s
  | .fsub c p d a b => Sys2Proof.Machine.execFsub c p d a b s
  | .fmul c p d a b => Sys2Proof.Machine.execFmul c p d a b s
  | .ffma c p d a b => Sys2Proof.Machine.execFfma c p d a b s
  | .fmin c p d a b => Sys2Proof.Machine.execFmin c p d a b s
  | .fmax c p d a b => Sys2Proof.Machine.execFmax c p d a b s
  | .fcmp c p d a b => Sys2Proof.Machine.execFcmp c p d a b s
  | .fscl c p d a b => Sys2Proof.Machine.execFscl c p d a b s
  -- one-source functions and conversion (R152 to R157)
  | .fabs c p d a => Sys2Proof.Machine.execFabs c p d a s
  | .fneg c p d a => Sys2Proof.Machine.execFneg c p d a s
  | .frnd c p d a => Sys2Proof.Machine.execFrnd c p d a s
  | .frcp c p d a => Sys2Proof.Machine.execFrcp c p d a s
  | .frsq c p d a => Sys2Proof.Machine.execFrsq c p d a s
  | .fsqrt c p d a => Sys2Proof.Machine.execFsqrt c p d a s
  | .fexp2 c p d a => Sys2Proof.Machine.execFexp2 c p d a s
  | .flog2 c p d a => Sys2Proof.Machine.execFlog2 c p d a s
  | .fclass c p d a => Sys2Proof.Machine.execFclass c p d a s
  | .fcvtToFormat c p f k d a => Sys2Proof.Machine.execFcvtToFormat c p f k d a s
  | .fcvtToF32 c p f k d a => Sys2Proof.Machine.execFcvtToF32 c p f k d a s
  -- packed halves and four-element dots (R158, R159)
  | .hadd2F16 c p d a b => Sys2Proof.Machine.execHadd2F16 c p d a b s
  | .hadd2Bf16 c p d a b => Sys2Proof.Machine.execHadd2Bf16 c p d a b s
  | .hmul2F16 c p d a b => Sys2Proof.Machine.execHmul2F16 c p d a b s
  | .hmul2Bf16 c p d a b => Sys2Proof.Machine.execHmul2Bf16 c p d a b s
  | .hfma2F16 c p d a b => Sys2Proof.Machine.execHfma2F16 c p d a b s
  | .hfma2Bf16 c p d a b => Sys2Proof.Machine.execHfma2Bf16 c p d a b s
  | .dot4E4m3 c p d a b => Sys2Proof.Machine.execDot4E4m3 c p d a b s
  | .dot4E5m2 c p d a b => Sys2Proof.Machine.execDot4E5m2 c p d a b s
  | .dot4S8 c p d a b => Sys2Proof.Machine.execDot4S8 c p d a b s
  -- block instructions (R161 to R167)
  | .bamax c d a => Sys2Proof.Machine.execBamax c d a s
  | .scget c d a => Sys2Proof.Machine.execScget c d a s
  | .scset c d a => Sys2Proof.Machine.execScset c d a s
  | .srdraw c d => Sys2Proof.Machine.execSrdraw c d s
  | .scsel c f e d a => Sys2Proof.Machine.execScsel c f e d a s
  | .qpack c f e m d a => Sys2Proof.Machine.execQpack c f e m d a s
  | .qunpk c part d a => Sys2Proof.Machine.execQunpk c part d a s
  | .topk c k d a => Sys2Proof.Machine.execTopk c k d a s
  -- memory access (R199 to R210)
  | .ldg c w o strm d a => Sys2Proof.Machine.execLdg c w o strm d a s
  | .stg c w o strm d a => Sys2Proof.Machine.execStg c w o strm d a s
  | .lds c w acq d a => Sys2Proof.Machine.execLds c w acq d a s
  | .sts c w rel d a => Sys2Proof.Machine.execSts c w rel d a s
  | .ldt c slot o strm d a => Sys2Proof.Machine.execLdt c slot o strm d a s
  | .stt c slot o strm d a => Sys2Proof.Machine.execStt c slot o strm d a s
  | .ldl c o strm d a => Sys2Proof.Machine.execLdl c o strm d a s
  | .stl c o strm d a => Sys2Proof.Machine.execStl c o strm d a s
  | .ldsr c slot a => Sys2Proof.Machine.execLdsr c slot a s
  | .salloc c span d a => Sys2Proof.Machine.execSalloc c span d a s
  | .pref c l a => Sys2Proof.Machine.execPref c l a s
  | .cinv c sc a => Sys2Proof.Machine.execCinv c sc a s
  | .cwb c sc a => Sys2Proof.Machine.execCwb c sc a s
  -- the Kettle (R248 to R260) and ordering (R224 to R226)
  | .atm c op o d a => Sys2Proof.Machine.execAtm c op o d a s
  | .atm64 c op o d a => Sys2Proof.Machine.execAtm64 c op o d a s
  | .red c op o d a => Sys2Proof.Machine.execRed c op o d a s
  | .waitge c o d a => Sys2Proof.Machine.execWaitge c o d a s
  | .waiteq c o d a => Sys2Proof.Machine.execWaiteq c o d a s
  | .qpush c o d a => Sys2Proof.Machine.execQpush c o d a s
  | .qpop c o d a => Sys2Proof.Machine.execQpop c o d a s
  | .fence c sc => Sys2Proof.Machine.execFence c sc s
  | .oprdy c => Sys2Proof.Machine.execOprdy c s
  | .yield c d => Sys2Proof.Machine.execYield c d s
  | .cpwp c d n => Sys2Proof.Machine.execCpwp c d n s
  -- rosters (R181 to R183)
  | .rjoin c slot => Sys2Proof.Machine.execRjoin c slot s
  | .rleave c slot => Sys2Proof.Machine.execRleave c slot s
  | .roll c slot => Sys2Proof.Machine.execRoll c slot s
  | .rolla c d slot => Sys2Proof.Machine.execRolla c d slot s
  | .rollw c a slot => Sys2Proof.Machine.execRollw c a slot s
  -- window, extended blocks and the flag (R99 to R103, R160)
  | .winb c w => Sys2Proof.Machine.execWinb c w s
  | .xacq c d k => Sys2Proof.Machine.execXacq c d k s
  | .xtry c d k => Sys2Proof.Machine.execXtry c d k s
  | .xrel c k => Sys2Proof.Machine.execXrel c k s
  | .fstat c clr d => Sys2Proof.Machine.execFstat c clr d s
  -- tiles and the matrix unit (R266 to R288)
  | .mld c spad o strm t a => Sys2Proof.Machine.execMld c spad o strm t a s
  | .mst c spad o strm t a => Sys2Proof.Machine.execMst c spad o strm t a s
  | .mma c z slot t => Sys2Proof.Machine.execMma c z slot t s
  | .mmv c slot q v t => Sys2Proof.Machine.execMmv c slot q v t s
  | .mdual c zx zw slot x y => Sys2Proof.Machine.execMdual c zx zw slot x y s
  | .mdrnT c w t slot o => Sys2Proof.Machine.execMdrnT c w t slot o s
  | .mdrnV c w d slot o => Sys2Proof.Machine.execMdrnV c w d slot o s
  | .mdrnM c w slot o => Sys2Proof.Machine.execMdrnM c w slot o s
  | .mshp c d n => Sys2Proof.Machine.execMshp c d n s
  | .mzero c n => Sys2Proof.Machine.execMzero c n s
  | .mconv c slot => Sys2Proof.Machine.execMconv c slot s
  | .mdiss c slot => Sys2Proof.Machine.execMdiss c slot s
  | .mldw c t slot => Sys2Proof.Machine.execMldw c t slot s
  | .mwait c slot => Sys2Proof.Machine.execMwait c slot s
  | .mstat c d slot => Sys2Proof.Machine.execMstat c d slot s
  -- engines and KV pages (R296, R344)
  | .cpy c ch d a => Sys2Proof.Machine.execCpy c ch d a s
  | .gath c a => Sys2Proof.Machine.execGath c a s
  | .scat c a => Sys2Proof.Machine.execScat c a s
  | .coll c a => Sys2Proof.Machine.execColl c a s
  | .repart c a => Sys2Proof.Machine.execRepart c a s
  | .kvld c strm t a => Sys2Proof.Machine.execKvld c strm t a s
  | .kvapp c d a => Sys2Proof.Machine.execKvapp c d a s
  | .kvevict c d a => Sys2Proof.Machine.execKvevict c d a s
  | .kvseal c a => Sys2Proof.Machine.execKvseal c a s
  | .kvhdr c d a => Sys2Proof.Machine.execKvhdr c d a s
  -- control registers and the system (R388 to R391)
  | .crd c d r => Sys2Proof.Machine.execCrd c d r s
  | .cwr c a r => Sys2Proof.Machine.execCwr c a r s
  | .trap c code => Sys2Proof.Machine.execTrap c code s
  | .eret c => Sys2Proof.Machine.execEret c s
  | .brk c code => Sys2Proof.Machine.execBrk c code s
  -- steps of a quadrant and of its warps
  | .illegalInstruction => Sys2Proof.Machine.execIllegalInstruction s
  | .arbitrationRound q => Sys2Proof.Machine.execArbitrationRound q s
  | .resultLands id => Sys2Proof.Machine.execResultLands id s
  | .yieldBackoffExpiry slot => Sys2Proof.Machine.execYieldBackoffExpiry slot s
  | .extendedBlockGrant q => Sys2Proof.Machine.execExtendedBlockGrant q s
  | .registerBlockReturn slot k => Sys2Proof.Machine.execRegisterBlockReturn slot k s
  -- workgroups and kernels
  | .workgroupSave wg => Sys2Proof.Machine.execWorkgroupSave wg s
  | .workgroupRestore wg => Sys2Proof.Machine.execWorkgroupRestore wg s
  | .workgroupPlacement cluster => Sys2Proof.Machine.execWorkgroupPlacement cluster s
  | .rangeHandout part die cluster => Sys2Proof.Machine.execRangeHandout part die cluster s
  | .rangeSteal part die cluster => Sys2Proof.Machine.execRangeSteal part die cluster s
  | .kernelArm k => Sys2Proof.Machine.execKernelArm k s
  | .timedRelease k => Sys2Proof.Machine.execTimedRelease k s
  | .kernelDistribute k => Sys2Proof.Machine.execKernelDistribute k s
  | .kernelDrain k => Sys2Proof.Machine.execKernelDrain k s
  -- queues
  | .qdoorbellWrite part q w => Sys2Proof.Machine.execQdoorbellWrite part q w s
  | .enable part q => Sys2Proof.Machine.execEnable part q s
  | .disable part q => Sys2Proof.Machine.execDisable part q s
  | .queueResume part q => Sys2Proof.Machine.execQueueResume part q s
  | .skip part q => Sys2Proof.Machine.execSkip part q s
  | .packetFetch part q host => Sys2Proof.Machine.execPacketFetch part q host s
  | .packetReread part q host => Sys2Proof.Machine.execPacketReread part q host s
  | .watchdogExpiry part q => Sys2Proof.Machine.execWatchdogExpiry part q s
  | .kcmdAbort part q pidx => Sys2Proof.Machine.execKcmdAbort part q pidx s
  | .kcmdSetPriority part q pidx prio => Sys2Proof.Machine.execKcmdSetPriority part q pidx prio s
  | .clockCorrection time locked => Sys2Proof.Machine.execClockCorrection time locked s
  -- the setup window: `arg` is the argument line DMA read, none when it is unreadable
  | .create ctx arg => Sys2Proof.Machine.execCreate ctx arg s
  | .bind ctx arg => Sys2Proof.Machine.execBind ctx arg s
  | .suspend ctx => Sys2Proof.Machine.execSuspend ctx s
  | .suspendComplete ctx => Sys2Proof.Machine.execSuspendComplete ctx s
  | .resume ctx => Sys2Proof.Machine.execResume ctx s
  | .teardown ctx => Sys2Proof.Machine.execTeardown ctx s
  | .teardownComplete ctx => Sys2Proof.Machine.execTeardownComplete ctx s
  | .setkey ctx arg => Sys2Proof.Machine.execSetkey ctx arg s
  | .setcb ctx arg => Sys2Proof.Machine.execSetcb ctx arg s
  | .preset ctx arg => Sys2Proof.Machine.execPreset ctx arg s
  | .partitionResetComplete part => Sys2Proof.Machine.execPartitionResetComplete part s
  | .outOfBandReset part => Sys2Proof.Machine.execOutOfBandReset part s
  | .chreset ctx arg => Sys2Proof.Machine.execChreset ctx arg s
  | .layout ctx arg => Sys2Proof.Machine.execLayout ctx arg s
  | .layoutComplete => Sys2Proof.Machine.execLayoutComplete s
  -- the management mailbox: `buf` is the 4 KiB buffer DMA read, none when it is unreadable
  | .ident buf => Sys2Proof.Machine.execIdent buf s
  | .attest buf => Sys2Proof.Machine.execAttest buf s
  | .cert buf => Sys2Proof.Machine.execCert buf s
  | .imgstat buf => Sys2Proof.Machine.execImgstat buf s
  | .imgwr buf => Sys2Proof.Machine.execImgwr buf s
  -- device registers, monitors and the host's aperture
  | .registerWrite pa len v => Sys2Proof.Machine.execRegisterWrite pa len v s
  | .monitorSample die k v => Sys2Proof.Machine.execMonitorSample die k v s
  | .monitorClear die k v => Sys2Proof.Machine.execMonitorClear die k v s
  | .apertureConfigWrite off v => Sys2Proof.Machine.execApertureConfigWrite off v s
  | .apertureApplied => Sys2Proof.Machine.execApertureApplied s
  | .hostRead reg off len => Sys2Proof.Machine.execHostRead reg off len s
  | .hostDataWrite off bytes => Sys2Proof.Machine.execHostDataWrite off bytes s
  | .hostLineWrite off bytes => Sys2Proof.Machine.execHostLineWrite off bytes s
  -- power, bring-up and links
  | .bringUp => Sys2Proof.Machine.execBringUp s
  | .inputUndervoltage => Sys2Proof.Machine.execInputUndervoltage s
  | .inputOvervoltage => Sys2Proof.Machine.execInputOvervoltage s
  | .inputRestored => Sys2Proof.Machine.execInputRestored s
  | .powerLimitThrottle on => Sys2Proof.Machine.execPowerLimitThrottle on s
  | .ceilingShutdown source value => Sys2Proof.Machine.execCeilingShutdown source value s
  | .thermalShutdown die value => Sys2Proof.Machine.execThermalShutdown die value s
  | .portTrained port => Sys2Proof.Machine.execPortTrained port s
  | .portReplay port => Sys2Proof.Machine.execPortReplay port s
  | .replayComplete port => Sys2Proof.Machine.execReplayComplete port s
  | .portDown port => Sys2Proof.Machine.execPortDown port s
  | .portRetrain port => Sys2Proof.Machine.execPortRetrain port s
  | .d2dLinkFailure die1 die2 => Sys2Proof.Machine.execD2dLinkFailure die1 die2 s
  -- fabric requests arriving at half-die hd, and responses arriving at the source
  | .rd hd p => Sys2Proof.Machine.execRd hd p s
  | .wrl hd p => Sys2Proof.Machine.execWrl hd p s
  | .wrm hd p => Sys2Proof.Machine.execWrm hd p s
  | .remoteAtm hd p => Sys2Proof.Machine.execRemoteAtm hd p s
  | .remoteRed hd p => Sys2Proof.Machine.execRemoteRed hd p s
  | .remoteCwb hd p => Sys2Proof.Machine.execRemoteCwb hd p s
  | .ack r => Sys2Proof.Machine.execAck r s
  | .data r => Sys2Proof.Machine.execData r s
  | .atmr r => Sys2Proof.Machine.execAtmr r s
  | .nack r => Sys2Proof.Machine.execNack r s
  | .resolved r => Sys2Proof.Machine.execResolved r s
  | .packetResend id => Sys2Proof.Machine.execPacketResend id s
  | .unreachable id => Sys2Proof.Machine.execUnreachable id s
  | .mintRequest hd => Sys2Proof.Machine.execMintRequest hd s
  -- pages and frames
  | .lightFault pte dirty => Sys2Proof.Machine.execLightFault pte dirty s
  | .heavyFaultResolved pte => Sys2Proof.Machine.execHeavyFaultResolved pte s
  | .sweep hd => Sys2Proof.Machine.execSweep hd s
  | .free hd => Sys2Proof.Machine.execFree hd s
  | .quarantineRelease part => Sys2Proof.Machine.execQuarantineRelease part s
  | .returnItemPush hd => Sys2Proof.Machine.execReturnItemPush hd s
  | .migrationRequest cluster ctx va => Sys2Proof.Machine.execMigrationRequest cluster ctx va s
  | .migration hd => Sys2Proof.Machine.execMigration hd s
  | .steeperStage hd frame => Sys2Proof.Machine.execSteeperStage hd frame s
  | .steeperCommit hd frame => Sys2Proof.Machine.execSteeperCommit hd frame s
  -- engines, the Kettle and the matrix unit
  | .kettleOperation id => Sys2Proof.Machine.execKettleOperation id s
  | .cpyExecute cluster ch => Sys2Proof.Machine.execCpyExecute cluster ch s
  | .gatherExecute hd => Sys2Proof.Machine.execGatherExecute hd s
  | .scatterExecute hd => Sys2Proof.Machine.execScatterExecute hd s
  | .collectiveExecute part gid epoch remote => Sys2Proof.Machine.execCollectiveExecute part gid epoch remote s
  | .repartitionExecute part gid epoch remote => Sys2Proof.Machine.execRepartitionExecute part gid epoch remote s
  | .rankStop part gid epoch rank => Sys2Proof.Machine.execRankStop part gid epoch rank s
  | .matrixOperationStart wg slot => Sys2Proof.Machine.execMatrixOperationStart wg slot s
  | .matrixOperationFinish core ctx => Sys2Proof.Machine.execMatrixOperationFinish core ctx s
  | .mconvGrant core => Sys2Proof.Machine.execMconvGrant core s
  | .fabricPacketDroppedAtIngress port => Sys2Proof.Machine.execFabricPacketDroppedAtIngress port s
  | .configurationRequest => Sys2Proof.Machine.execConfigurationRequest s

end Sys2Proof.Machine
end

