-- ==== Sys2Proof/Decode.lean ====
section
/-! DEFINITION. Instruction words (R59 to R79): the groups of words the core decodes, the fields of each instruction,
the decoder of a group, which rejects by name, and the encoder written from the same tables. An instruction is read from
its fields by `Group.read`, and it is accepted only when encoding it gives back every bit of the group: so each reserved
and unused bit is checked to be 0 (R64, R70, R79) by the one comparison in `decodeGroup`. -/
namespace Sys2Proof

/-- Why a group of words is not an instruction (R60, R68, R79). -/
inductive Bad where
  /-- The bytes end before the word the group needs (R60). -/
  | truncated
  /-- Major 0x00, or another unassigned major (R69). -/
  | unassignedMajor
  /-- Major 0x7F where no word takes an extension (R60, R68). -/
  | strayExtension
  /-- A prefix followed by a prefix or an extension (R79). -/
  | prefixedNonInstruction
  /-- BELL or STALL set before the last word of the group (R60). -/
  | earlyBellOrStall
  /-- A reserved function, operation, format, mode, width, scope, condition or level code (R79). -/
  | reservedCode
  /-- A reserved value in the operand-modifier word (R66). -/
  | reservedModifier
  /-- A prefix before an instruction that accepts none (R67). -/
  | prefixNotAccepted
  /-- A set reserved or unused bit (R64, R70). -/
  | unusedBits
  /-- An operand outside its limit (R64, R67, and the instruction's own table). -/
  | operandLimit
  deriving DecidableEq, Repr

/-- A group taken apart (R60, R63): its prefix's 21 bits, BELL and STALL of its last word, the major, the operand bits
[20:14], [13:7] and [6:0] of its instruction word, and its extension's 21 bits. -/
structure Group where
  pre   : Option (BitVec 21)
  ctl   : Ctl
  major : BitVec 7
  d     : BitVec 7
  a     : BitVec 7
  b     : BitVec 7
  ext   : Option (BitVec 21)
  deriving DecidableEq, Repr

-- Code tables -------------------------------------------------------------------------------------------------

/-- A Bool as one bit. -/
def bit (x : Bool) : BitVec 1 := BitVec.ofBool x
/-- One bit of a field as a Bool. -/
def bitAt {n : Nat} (x : BitVec n) (i : Nat) : Bool := x.getLsbD i
/-- The field `x[lo + n - 1 : lo]`. -/
def bits {w : Nat} (x : BitVec w) (lo n : Nat) : BitVec n := x.extractLsb' lo n
/-- The number in bits `lo + n - 1 : lo`. -/
def num {w : Nat} (x : BitVec w) (lo n : Nat) : Nat := (x.extractLsb' lo n).toNat

/-- Code of a neighbour choice (R66). -/
def Neigh.code : Neigh → BitVec 2
  | .own => 0
  | .left => 1
  | .right => 2
/-- A neighbour choice (R66) with a code, if the code is assigned. -/
def Neigh.ofCode (n : Nat) : Option Neigh := match n with
  | 0 => some .own
  | 1 => some .left
  | 2 => some .right
  | _ => none

/-- Code of an edge value (R66). -/
def Edge.code : Edge → BitVec 2
  | .zero => 0
  | .clamp => 1
  | .wrap => 2
/-- An edge value (R66) with a code, if the code is assigned. -/
def Edge.ofCode (n : Nat) : Option Edge := match n with
  | 0 => some .zero
  | 1 => some .clamp
  | 2 => some .wrap
  | _ => none

/-- Code of a rounding mode (R66, R75). -/
def Rnd.code : Rnd → BitVec 3
  | .rne => 0
  | .rtz => 1
  | .rdn => 2
  | .rup => 3
  | .sr => 4
/-- A rounding mode (R66, R75) with a code, if the code is assigned. -/
def Rnd.ofCode (n : Nat) : Option Rnd := match n with
  | 0 => some .rne
  | 1 => some .rtz
  | 2 => some .rdn
  | 3 => some .rup
  | 4 => some .sr
  | _ => none

/-- Code of an access width (R76). -/
def Width.code : Width → BitVec 3
  | .z8 => 0
  | .s8 => 1
  | .z16 => 2
  | .s16 => 3
  | .z32 => 4
  | .z64 => 5
/-- An access width (R76) with a code, if the code is assigned. -/
def Width.ofCode (n : Nat) : Option Width := match n with
  | 0 => some .z8
  | 1 => some .s8
  | 2 => some .z16
  | 3 => some .s16
  | 4 => some .z32
  | 5 => some .z64
  | _ => none

/-- Code of an ordering and scope (R76). -/
def OrdSc.code : OrdSc → BitVec 3
  | .plain => 0
  | .core => 1
  | .cluster => 2
  | .die => 3
  | .pkg => 4
  | .fabric => 5
/-- An ordering and scope (R76) with a code, if the code is assigned. -/
def OrdSc.ofCode (n : Nat) : Option OrdSc := match n with
  | 0 => some .plain
  | 1 => some .core
  | 2 => some .cluster
  | 3 => some .die
  | 4 => some .pkg
  | 5 => some .fabric
  | _ => none

/-- Code of a scope (R76). -/
def Scope.code : Scope → BitVec 3
  | .core => 1
  | .cluster => 2
  | .die => 3
  | .pkg => 4
  | .fabric => 5
/-- A scope (R76) with a code, if the code is assigned. -/
def Scope.ofCode (n : Nat) : Option Scope := match n with
  | 1 => some .core
  | 2 => some .cluster
  | 3 => some .die
  | 4 => some .pkg
  | 5 => some .fabric
  | _ => none

/-- Code of a condition (R73). -/
def Cond.code : Cond → BitVec 3
  | .z => 0
  | .nz => 1
  | .lt => 2
  | .gt => 3
  | .le => 4
  | .ge => 5
  | .un => 6
  | .neg => 7
/-- A condition (R73) with a code, if the code is assigned. -/
def Cond.ofCode (n : Nat) : Option Cond := match n with
  | 0 => some .z
  | 1 => some .nz
  | 2 => some .lt
  | 3 => some .gt
  | 4 => some .le
  | 5 => some .ge
  | 6 => some .un
  | 7 => some .neg
  | _ => none

/-- Code of a reduction of REDV, less 0x10 (R72). -/
def RedOp.code : RedOp → BitVec 4
  | .add => 0
  | .minS32 => 1
  | .minZ32 => 2
  | .maxS32 => 3
  | .maxZ32 => 4
  | .and => 5
  | .or => 6
  | .xor => 7
  | .fadd => 8
  | .fmin => 9
  | .fmax => 10
/-- A reduction of REDV, less 0x10 (R72) with a code, if the code is assigned. -/
def RedOp.ofCode (n : Nat) : Option RedOp := match n with
  | 0 => some .add
  | 1 => some .minS32
  | 2 => some .minZ32
  | 3 => some .maxS32
  | 4 => some .maxZ32
  | 5 => some .and
  | 6 => some .or
  | 7 => some .xor
  | 8 => some .fadd
  | 9 => some .fmin
  | 10 => some .fmax
  | _ => none

/-- Code of a Kettle operation (R77). -/
def KOp.code : KOp → BitVec 4
  | .add => 0
  | .sub => 1
  | .minS32 => 2
  | .minZ32 => 3
  | .maxS32 => 4
  | .maxZ32 => 5
  | .and => 6
  | .or => 7
  | .xor => 8
  | .swap => 9
  | .cas => 10
  | .incw => 11
  | .decw => 12
  | .fadd => 13
  | .fmax => 14
  | .addZ64 => 15
/-- A Kettle operation (R77) with a code, if the code is assigned. -/
def KOp.ofCode (n : Nat) : Option KOp := match n with
  | 0 => some .add
  | 1 => some .sub
  | 2 => some .minS32
  | 3 => some .minZ32
  | 4 => some .maxS32
  | 5 => some .maxZ32
  | 6 => some .and
  | 7 => some .or
  | 8 => some .xor
  | 9 => some .swap
  | 10 => some .cas
  | 11 => some .incw
  | 12 => some .decw
  | 13 => some .fadd
  | 14 => some .fmax
  | 15 => some .addZ64
  | _ => none

/-- Code of a format of FCVT (R74). -/
def CvtFmt.code : CvtFmt → BitVec 4
  | .e4m3 => 1
  | .e5m2 => 2
  | .e3m2 => 3
  | .e2m3 => 4
  | .e2m1 => 5
  | .mxi8 => 6
  | .bf16 => 7
  | .f16 => 8
  | .s32 => 10
  | .z32 => 11
/-- A format of FCVT (R74) with a code, if the code is assigned. -/
def CvtFmt.ofCode (n : Nat) : Option CvtFmt := match n with
  | 1 => some .e4m3
  | 2 => some .e5m2
  | 3 => some .e3m2
  | 4 => some .e2m3
  | 5 => some .e2m1
  | 6 => some .mxi8
  | 7 => some .bf16
  | 8 => some .f16
  | 10 => some .s32
  | 11 => some .z32
  | _ => none

/-- Code of an MX format (R75). -/
def MxFmt.code : MxFmt → BitVec 3
  | .e4m3 => 1
  | .e5m2 => 2
  | .e3m2 => 3
  | .e2m3 => 4
  | .e2m1 => 5
  | .mxi8 => 6
/-- An MX format (R75) with a code, if the code is assigned. -/
def MxFmt.ofCode (n : Nat) : Option MxFmt := match n with
  | 1 => some .e4m3
  | 2 => some .e5m2
  | 3 => some .e3m2
  | 4 => some .e2m3
  | 5 => some .e2m1
  | 6 => some .mxi8
  | _ => none

/-- Code of a scale choice (R75). -/
def Sel.code : Sel → BitVec 1
  | .floor => 0
  | .fit => 1
/-- A scale choice (R75) with a code, if the code is assigned. -/
def Sel.ofCode (n : Nat) : Option Sel := match n with
  | 0 => some .floor
  | 1 => some .fit
  | _ => none

/-- Code of a cache level (R76). -/
def CacheLevel.code : CacheLevel → BitVec 3
  | .l1 => 1
  | .l2 => 2
  | .msc => 3
/-- A cache level (R76) with a code, if the code is assigned. -/
def CacheLevel.ofCode (n : Nat) : Option CacheLevel := match n with
  | 1 => some .l1
  | 2 => some .l2
  | 3 => some .msc
  | _ => none

/-- The 21 operand bits of the operand-modifier word (R66). -/
def Pfx.code (p : Pfx) : BitVec 21 :=
  p.na.code ++ p.ea.code ++ p.nb.code ++ p.eb.code ++ bit p.nega ++ bit p.negb ++ bit p.negd ++ bit p.absa ++ bit p.absb
    ++ bit p.absd ++ p.rnd.code ++ bit p.sat ++ (0 : BitVec 3)

/-- The operand-modifier word's fields; `none` where a code is reserved (R66, R79). -/
def Pfx.ofCode (x : BitVec 21) : Option Pfx :=
  match Neigh.ofCode (num x 19 2), Edge.ofCode (num x 17 2), Neigh.ofCode (num x 15 2), Edge.ofCode (num x 13 2),
      Rnd.ofCode (num x 4 3) with
  | some na, some ea, some nb, some eb, some rnd =>
    if num x 0 3 = 0 then
      some { na, ea, nb, eb, nega := bitAt x 12, negb := bitAt x 11, negd := bitAt x 10, absa := bitAt x 9,
             absb := bitAt x 8, absd := bitAt x 7, rnd, sat := bitAt x 3 }
    else none
  | _, _, _, _, _ => none

-- Building groups ---------------------------------------------------------------------------------------------

/-- A group of one word with these operand fields. -/
def Group.one (c : Ctl) (major d a b : BitVec 7) : Group := ⟨none, c, major, d, a, b, none⟩
/-- A group of one word, or of a prefix and a word. -/
def Group.pfx (c : Ctl) (p : Option Pfx) (major d a b : BitVec 7) : Group := ⟨p.map Pfx.code, c, major, d, a, b, none⟩
/-- A format L group of one word: d and a 14-bit field (R63). -/
def Group.l (c : Ctl) (major d : BitVec 7) (imm : BitVec 14) : Group := ⟨none, c, major, d, bits imm 7 7, bits imm 0 7, none⟩
/-- A format L group with an extension: the low 14 bits in the word, the rest in ext[17:0] (R65). -/
def Group.ll (c : Ctl) (major d : BitVec 7) (imm : BitVec 32) : Group :=
  ⟨none, c, major, d, bits imm 7 7, bits imm 0 7, some ((0 : BitVec 3) ++ bits imm 14 18)⟩
/-- A format I group with an extension: the low 7 bits in the word, the rest in ext[20:0] (R65). -/
def Group.il (c : Ctl) (major d a : BitVec 7) (imm : BitVec 28) : Group := ⟨none, c, major, d, a, bits imm 0 7, some (bits imm 7 21)⟩
/-- A format C group: d, FN and ARG (R63, R78). -/
def Group.c (c : Ctl) (major d : BitVec 7) (fn : BitVec 5) (arg : BitVec 9) : Group :=
  ⟨none, c, major, d, fn ++ bits arg 7 2, bits arg 0 7, none⟩
/-- A uniform register in its 7-bit field (R64). -/
def sfield (s : SReg) : BitVec 7 := (0 : BitVec 1) ++ s
/-- A tile register in its 7-bit field (R64). -/
def mfield (m : MReg) : BitVec 7 := (0 : BitVec 3) ++ m
/-- A pair register of I64A and I64B, whose field carries one bit of the function (R71). -/
def pairF (v : VReg) (f : BitVec 1) : BitVec 7 := bits v 1 6 ++ f
/-- A uniform register of SALU, whose field carries one bit of the function (R72). -/
def saluF (f : BitVec 1) (s : SReg) : BitVec 7 := f ++ s
/-- An I64A or I64B group with function F (R71). -/
def Group.i64 (c : Ctl) (major d a b : BitVec 7) (f : BitVec 3) : Group :=
  .one c major (pairF d (bits f 2 1)) (pairF a (bits f 1 1)) (pairF b (bits f 0 1))
/-- A SALU group with function F (R72). -/
def Group.salu (c : Ctl) (d a b : SReg) (f : BitVec 3) : Group :=
  .one c 0x28 (saluF (bits f 2 1) d) (saluF (bits f 1 1) a) (saluF (bits f 0 1) b)
/-- FCVT's FN (R74). -/
def cvtFn (f : CvtFmt) (dir : BitVec 1) (k : BitVec 2) : BitVec 7 := f.code ++ dir ++ k

/-- The group an instruction is encoded in (R63 to R78); events have none. -/
def Instr.group : Instr → Option Group
  | .add c p d a b => some (.pfx c p 0x01 d a b)
  | .sub c p d a b => some (.pfx c p 0x02 d a b)
  | .mul c p d a b => some (.pfx c p 0x03 d a b)
  | .mulhS32 c p d a b => some (.pfx c p 0x04 d a b)
  | .mulhZ32 c p d a b => some (.pfx c p 0x05 d a b)
  | .mad c p d a b => some (.pfx c p 0x06 d a b)
  | .andn c p d a b => some (.pfx c p 0x07 d a b)
  | .and c p d a b => some (.pfx c p 0x08 d a b)
  | .or c p d a b => some (.pfx c p 0x09 d a b)
  | .xor c p d a b => some (.pfx c p 0x0A d a b)
  | .shl c p d a b => some (.pfx c p 0x0B d a b)
  | .shr c p d a b => some (.pfx c p 0x0C d a b)
  | .sar c p d a b => some (.pfx c p 0x0D d a b)
  | .rotl c p d a b => some (.pfx c p 0x0E d a b)
  | .sel c p d a b => some (.pfx c p 0x0F d a b)
  | .minS32 c p d a b => some (.pfx c p 0x10 d a b)
  | .minZ32 c p d a b => some (.pfx c p 0x11 d a b)
  | .maxS32 c p d a b => some (.pfx c p 0x12 d a b)
  | .maxZ32 c p d a b => some (.pfx c p 0x13 d a b)
  | .cmpS32 c p d a b => some (.pfx c p 0x14 d a b)
  | .cmpZ32 c p d a b => some (.pfx c p 0x15 d a b)
  | .bfxS32 c p d a b => some (.pfx c p 0x16 d a b)
  | .bfxZ32 c p d a b => some (.pfx c p 0x17 d a b)
  | .bfi c p d a b => some (.pfx c p 0x18 d a b)
  | .shfl c p d a b => some (.pfx c p 0x24 d a b)
  | .fadd c p d a b => some (.pfx c p 0x38 d a b)
  | .fsub c p d a b => some (.pfx c p 0x39 d a b)
  | .fmul c p d a b => some (.pfx c p 0x3A d a b)
  | .ffma c p d a b => some (.pfx c p 0x3B d a b)
  | .fmin c p d a b => some (.pfx c p 0x3C d a b)
  | .fmax c p d a b => some (.pfx c p 0x3D d a b)
  | .fcmp c p d a b => some (.pfx c p 0x3E d a b)
  | .fscl c p d a b => some (.pfx c p 0x3F d a b)
  | .hadd2F16 c p d a b => some (.pfx c p 0x42 d a b)
  | .hadd2Bf16 c p d a b => some (.pfx c p 0x43 d a b)
  | .hmul2F16 c p d a b => some (.pfx c p 0x44 d a b)
  | .hmul2Bf16 c p d a b => some (.pfx c p 0x45 d a b)
  | .hfma2F16 c p d a b => some (.pfx c p 0x46 d a b)
  | .hfma2Bf16 c p d a b => some (.pfx c p 0x47 d a b)
  | .dot4E4m3 c p d a b => some (.pfx c p 0x48 d a b)
  | .dot4E5m2 c p d a b => some (.pfx c p 0x49 d a b)
  | .dot4S8 c p d a b => some (.pfx c p 0x4A d a b)
  | .lea c d a b => some (.one c 0x19 d a b)
  | .mov c d a => some (.one c 0x1A d a 0x00)
  | .not c d a => some (.one c 0x1A d a 0x01)
  | .neg c d a => some (.one c 0x1A d a 0x02)
  | .abs c d a => some (.one c 0x1A d a 0x03)
  | .clz c d a => some (.one c 0x1A d a 0x04)
  | .ctz c d a => some (.one c 0x1A d a 0x05)
  | .popc c d a => some (.one c 0x1A d a 0x06)
  | .brev c d a => some (.one c 0x1A d a 0x07)
  | .movZ64 c d a => some (.one c 0x1A d a 0x08)
  | .notZ64 c d a => some (.one c 0x1A d a 0x09)
  | .negS64 c d a => some (.one c 0x1A d a 0x0A)
  | .absS64 c d a => some (.one c 0x1A d a 0x0B)
  | .addS64 c d a b => some (.i64 c 0x1B d a b 0)
  | .subS64 c d a b => some (.i64 c 0x1B d a b 1)
  | .mulS64 c d a b => some (.i64 c 0x1B d a b 2)
  | .shlZ64 c d a b => some (.i64 c 0x1B d a b 3)
  | .shrZ64 c d a b => some (.i64 c 0x1B d a b 4)
  | .sarS64 c d a b => some (.i64 c 0x1B d a b 5)
  | .minS64 c d a b => some (.i64 c 0x1B d a b 6)
  | .minZ64 c d a b => some (.i64 c 0x1B d a b 7)
  | .maxS64 c d a b => some (.i64 c 0x1C d a b 0)
  | .maxZ64 c d a b => some (.i64 c 0x1C d a b 1)
  | .cmpS64 c d a b => some (.i64 c 0x1C d a b 2)
  | .cmpZ64 c d a b => some (.i64 c 0x1C d a b 3)
  | .andZ64 c d a b => some (.i64 c 0x1C d a b 4)
  | .orZ64 c d a b => some (.i64 c 0x1C d a b 5)
  | .xorZ64 c d a b => some (.i64 c 0x1C d a b 6)
  | .addi c d a imm => some (.one c 0x1D d a imm)
  | .addiLong c d a imm => some (.il c 0x1D d a imm)
  | .andi c d a imm => some (.one c 0x1E d a imm)
  | .andiLong c d a imm => some (.il c 0x1E d a imm)
  | .ori c d a imm => some (.one c 0x1F d a imm)
  | .oriLong c d a imm => some (.il c 0x1F d a imm)
  | .xori c d a imm => some (.one c 0x20 d a imm)
  | .xoriLong c d a imm => some (.il c 0x20 d a imm)
  | .shli c d a n => some (.one c 0x21 d a ((0 : BitVec 2) ++ n))
  | .shri c d a n => some (.one c 0x21 d a ((1 : BitVec 2) ++ n))
  | .sari c d a n => some (.one c 0x21 d a ((2 : BitVec 2) ++ n))
  | .movi c d imm => some (.l c 0x22 d imm)
  | .moviLong c d imm => some (.ll c 0x22 d imm)
  | .movh c d imm => some (.l c 0x23 d imm)
  | .voteAll c d a => some (.one c 0x25 d a 0x00)
  | .voteAny c d a => some (.one c 0x25 d a 0x01)
  | .voteBallot c d a => some (.one c 0x25 d a 0x02)
  | .voteEq c d a => some (.one c 0x25 d a 0x03)
  | .popxIncl c d a => some (.one c 0x25 d a 0x08)
  | .popxExcl c d a => some (.one c 0x25 d a 0x09)
  | .redv c op a => some (.one c 0x25 0 a ((1 : BitVec 3) ++ op.code))
  | .sadd c d a b => some (.salu c d a b 0)
  | .ssub c d a b => some (.salu c d a b 1)
  | .sand c d a b => some (.salu c d a b 2)
  | .sor c d a b => some (.salu c d a b 3)
  | .sxor c d a b => some (.salu c d a b 4)
  | .sshl c d a b => some (.salu c d a b 5)
  | .sshr c d a b => some (.salu c d a b 6)
  | .scmp c d a b => some (.salu c d a b 7)
  | .smov c d a => some (.one c 0x29 (sfield d) (sfield a) 0x00)
  | .bcast c d a => some (.one c 0x29 d (sfield a) 0x01)
  | .vtos c d a => some (.one c 0x29 (sfield d) a 0x02)
  | .swaitq c a => some (.one c 0x29 0 (sfield a) 0x03)
  | .smovi c d imm => some (.l c 0x2A (sfield d) imm)
  | .smoviLong c d imm => some (.ll c 0x2A (sfield d) imm)
  | .sld c w64 o d a => some (.one c 0x2B (sfield d) (sfield a) ((2 : BitVec 2) ++ bit w64 ++ o.code ++ (0 : BitVec 1)))
  | .bra c off => some (.one c 0x30 (bits off 14 7) (bits off 7 7) (bits off 0 7))
  | .brc c a cond off => some (.one c 0x31 a (cond.code ++ bits off 7 4) (bits off 0 7))
  | .bru c a cond off => some (.one c 0x32 (sfield a) (cond.code ++ bits off 7 4) (bits off 0 7))
  | .call c d imm => some (.l c 0x33 d imm)
  | .callLong c d imm => some (.ll c 0x33 d imm)
  | .jmpi c a => some (.one c 0x34 0 a 0x00)
  | .ret c a => some (.one c 0x34 0 a 0x01)
  | .exit c => some (.one c 0x34 0 0 0x02)
  | .nop c => some (.one c 0x34 0 0 0x03)
  | .fabs c p d a => some (.pfx c p 0x40 d a 0x00)
  | .fneg c p d a => some (.pfx c p 0x40 d a 0x01)
  | .frnd c p d a => some (.pfx c p 0x40 d a 0x02)
  | .frcp c p d a => some (.pfx c p 0x40 d a 0x03)
  | .frsq c p d a => some (.pfx c p 0x40 d a 0x04)
  | .fsqrt c p d a => some (.pfx c p 0x40 d a 0x05)
  | .fexp2 c p d a => some (.pfx c p 0x40 d a 0x06)
  | .flog2 c p d a => some (.pfx c p 0x40 d a 0x07)
  | .fclass c p d a => some (.pfx c p 0x40 d a 0x08)
  | .fcvtToFormat c p f k d a => some (.pfx c p 0x41 d a (cvtFn f 0 k))
  | .fcvtToF32 c p f k d a => some (.pfx c p 0x41 d a (cvtFn f 1 k))
  | .bamax c d a => some (.one c 0x4B d a 0x00)
  | .scget c d a => some (.one c 0x4B d a 0x01)
  | .scset c d a => some (.one c 0x4B d a 0x02)
  | .srdraw c d => some (.one c 0x4B d 0 0x03)
  | .scsel c f e d a => some (.one c 0x4C d a (f.code ++ e.code ++ (0 : BitVec 3)))
  | .qpack c f e m d a => some (.one c 0x4D d a (f.code ++ e.code ++ m.code))
  | .qunpk c part d a => some (.one c 0x4E d a ((0 : BitVec 4) ++ part))
  | .topk c k d a => some (.one c 0x4F d a ((0 : BitVec 3) ++ k))
  | .ldg c w o strm d a => some (.one c 0x50 d a (w.code ++ o.code ++ bit strm))
  | .stg c w o strm d a => some (.one c 0x51 d a (w.code ++ o.code ++ bit strm))
  | .lds c w o d a => some (.one c 0x52 d a (w.code ++ (0 : BitVec 2) ++ bit o ++ (0 : BitVec 1)))
  | .sts c w o d a => some (.one c 0x53 d a (w.code ++ (0 : BitVec 2) ++ bit o ++ (0 : BitVec 1)))
  | .ldt c slot o strm d a => some (.one c 0x54 d a (slot ++ o.code ++ bit strm))
  | .stt c slot o strm d a => some (.one c 0x55 d a (slot ++ o.code ++ bit strm))
  | .ldl c o strm d a => some (.one c 0x56 d a ((0 : BitVec 3) ++ o.code ++ bit strm))
  | .stl c o strm d a => some (.one c 0x57 d a ((0 : BitVec 3) ++ o.code ++ bit strm))
  | .ldsr c slot a => some (.one c 0x58 ((0 : BitVec 4) ++ slot) (sfield a) 0)
  | .salloc c span d a => some (.one c 0x59 d a ((0 : BitVec 4) ++ span))
  | .pref c l a => some (.one c 0x5A 0 a ((0 : BitVec 2) ++ l.code ++ (0 : BitVec 2)))
  | .cinv c sc a => some (.one c 0x5A 0 a ((1 : BitVec 2) ++ sc.code ++ (0 : BitVec 2)))
  | .cwb c sc a => some (.one c 0x5A 0 a ((2 : BitVec 2) ++ sc.code ++ (0 : BitVec 2)))
  | .atm c op o d a => some (.one c 0x60 d a (op.code ++ o.code))
  | .atm64 c op o d a => some (.one c 0x61 d a (op.code ++ o.code))
  | .red c op o d a => some (.one c 0x62 d a (op.code ++ o.code))
  | .waitge c o d a => some (.one c 0x63 d a (o.code ++ (0 : BitVec 1) ++ (0 : BitVec 3)))
  | .waiteq c o d a => some (.one c 0x63 d a (o.code ++ (1 : BitVec 1) ++ (0 : BitVec 3)))
  | .qpush c o d a => some (.one c 0x64 d a (o.code ++ (0 : BitVec 1) ++ (0 : BitVec 3)))
  | .qpop c o d a => some (.one c 0x64 d a (o.code ++ (1 : BitVec 1) ++ (0 : BitVec 3)))
  | .fence c sc => some (.c c 0x65 0 0x00 ((0 : BitVec 6) ++ sc.code))
  | .oprdy c => some (.c c 0x65 0 0x01 0)
  | .yield c d => some (.c c 0x65 d 0x02 0)
  | .cpwp c d n => some (.c c 0x65 d 0x03 ((0 : BitVec 5) ++ n))
  | .rjoin c slot => some (.c c 0x66 0 0x00 ((0 : BitVec 5) ++ slot))
  | .rleave c slot => some (.c c 0x66 0 0x01 ((0 : BitVec 5) ++ slot))
  | .roll c slot => some (.c c 0x66 0 0x02 ((0 : BitVec 5) ++ slot))
  | .rolla c d slot => some (.c c 0x66 d 0x03 ((0 : BitVec 5) ++ slot))
  | .rollw c a slot => some (.c c 0x66 a 0x04 ((0 : BitVec 5) ++ slot))
  | .winb c w => some (.c c 0x67 0 0x00 ((0 : BitVec 4) ++ w))
  | .xacq c d k => some (.c c 0x67 d 0x01 ((0 : BitVec 6) ++ k))
  | .xtry c d k => some (.c c 0x67 d 0x02 ((0 : BitVec 6) ++ k))
  | .xrel c k => some (.c c 0x67 0 0x03 ((0 : BitVec 6) ++ k))
  | .fstat c clr d => some (.c c 0x67 d 0x04 ((0 : BitVec 8) ++ bit clr))
  | .mld c spad o strm t a => some (.one c 0x68 (mfield t) a (bit spad ++ (0 : BitVec 2) ++ o.code ++ bit strm))
  | .mst c spad o strm t a => some (.one c 0x69 (mfield t) a (bit spad ++ (0 : BitVec 2) ++ o.code ++ bit strm))
  | .mma c z slot t => some (.one c 0x6A (mfield slot) (mfield t) (bit z ++ (0 : BitVec 6)))
  | .mmv c slot q v t => some (.one c 0x6B (mfield slot) (sfield q) (v ++ t))
  | .mdual c zx zw slot x y => some (.one c 0x6C ((0 : BitVec 1) ++ bit zw ++ bit zx ++ slot) (mfield x) (mfield y))
  | .mdrnT c w t slot o => some (.one c 0x6D (mfield t) (mfield slot) ((0 : BitVec 2) ++ bit w ++ (0 : BitVec 1) ++ o))
  | .mdrnV c w d slot o => some (.one c 0x6D d (mfield slot) ((1 : BitVec 2) ++ bit w ++ (0 : BitVec 1) ++ o))
  | .mdrnM c w slot o => some (.one c 0x6D 0 (mfield slot) ((2 : BitVec 2) ++ bit w ++ (0 : BitVec 1) ++ o))
  | .mshp c d n => some (.c c 0x6E (sfield d) 0x00 ((0 : BitVec 5) ++ n))
  | .mzero c n => some (.c c 0x6E (mfield n) 0x01 0)
  | .mconv c slot => some (.c c 0x6E 0 0x02 ((0 : BitVec 5) ++ slot))
  | .mdiss c slot => some (.c c 0x6E 0 0x03 ((0 : BitVec 5) ++ slot))
  | .mldw c t slot => some (.c c 0x6E (mfield t) 0x04 ((0 : BitVec 5) ++ slot))
  | .mwait c slot => some (.c c 0x6E 0 0x05 ((0 : BitVec 5) ++ slot))
  | .mstat c d slot => some (.c c 0x6E d 0x06 ((0 : BitVec 5) ++ slot))
  | .cpy c ch d a => some (.one c 0x70 (sfield d) (sfield a) ((0 : BitVec 3) ++ ch))
  | .gath c a => some (.one c 0x70 0 (sfield a) ((1 : BitVec 3) ++ (0 : BitVec 4)))
  | .scat c a => some (.one c 0x70 0 (sfield a) ((2 : BitVec 3) ++ (0 : BitVec 4)))
  | .coll c a => some (.one c 0x70 0 (sfield a) ((3 : BitVec 3) ++ (0 : BitVec 4)))
  | .repart c a => some (.one c 0x70 0 (sfield a) ((4 : BitVec 3) ++ (0 : BitVec 4)))
  | .kvld c strm t a => some (.one c 0x71 (mfield t) (sfield a) ((0 : BitVec 6) ++ bit strm))
  | .kvapp c d a => some (.one c 0x72 d (sfield a) 0x00)
  | .kvevict c d a => some (.one c 0x72 d (sfield a) 0x20)
  | .kvseal c a => some (.one c 0x72 0 (sfield a) 0x40)
  | .kvhdr c d a => some (.one c 0x72 d (sfield a) 0x60)
  | .crd c d r => some (.l c 0x78 d r)
  | .cwr c a r => some (.l c 0x79 a r)
  | .trap c code => some (.c c 0x7A 0 0x00 code)
  | .eret c => some (.c c 0x7A 0 0x01 0)
  | .brk c code => some (.c c 0x7A 0 0x02 code)
  | .illegalInstruction | .arbitrationRound _ | .resultLands _ | .yieldBackoffExpiry _ | .extendedBlockGrant _
  | .registerBlockReturn _ _ | .workgroupSave _ | .workgroupRestore _ | .workgroupPlacement _
  | .rangeHandout _ _ _ | .rangeSteal _ _ _ | .kernelArm _ | .timedRelease _ | .kernelDistribute _
  | .kernelDrain _ | .qdoorbellWrite _ _ _ | .enable _ _ | .disable _ _ | .queueResume _ _ | .skip _ _
  | .packetFetch _ _ _ | .packetReread _ _ _ | .watchdogExpiry _ _ | .kcmdAbort _ _ _
  | .kcmdSetPriority _ _ _ _ | .clockCorrection _ _ | .create _ _ | .bind _ _ | .suspend _ | .suspendComplete _
  | .resume _ | .teardown _ | .teardownComplete _ | .setkey _ _ | .setcb _ _ | .preset _ _
  | .partitionResetComplete _ | .outOfBandReset _ | .chreset _ _ | .layout _ _ | .layoutComplete | .ident _
  | .attest _ | .cert _ | .imgstat _ | .imgwr _ | .registerWrite _ _ _ | .monitorSample _ _ _
  | .monitorClear _ _ _ | .apertureConfigWrite _ _ | .apertureApplied | .hostRead _ _ _ | .hostDataWrite _ _
  | .hostLineWrite _ _ | .bringUp | .inputUndervoltage | .inputOvervoltage | .inputRestored
  | .powerLimitThrottle _ | .ceilingShutdown _ _ | .thermalShutdown _ _ | .portTrained _ | .portReplay _
  | .replayComplete _ | .portDown _ | .portRetrain _ | .d2dLinkFailure _ _ | .rd _ _ | .wrl _ _ | .wrm _ _
  | .remoteAtm _ _ | .remoteRed _ _ | .remoteCwb _ _ | .ack _ | .data _ | .atmr _ | .nack _ | .resolved _
  | .packetResend _ | .unreachable _ | .mintRequest _ | .lightFault _ _ | .heavyFaultResolved _ | .sweep _
  | .free _ | .quarantineRelease _ | .returnItemPush _ | .migrationRequest _ _ _ | .migration _
  | .steeperStage _ _ | .steeperCommit _ _ | .kettleOperation _ | .cpyExecute _ _ | .gatherExecute _
  | .scatterExecute _ | .collectiveExecute _ _ _ _ | .repartitionExecute _ _ _ _ | .rankStop _ _ _ _
  | .matrixOperationStart _ _ | .matrixOperationFinish _ _ | .mconvGrant _ | .fabricPacketDroppedAtIngress _
  | .configurationRequest => none

-- Reading groups ----------------------------------------------------------------------------------------------

/-- An instruction whose code was found in its table, or the name of its absence. -/
def orReserved (x : Option Instr) : Except Bad Instr := match x with
  | some i => .ok i
  | none => .error .reservedCode

/-- Functions of IUN (R71). -/
def readIun (c : Ctl) (d a : BitVec 7) (n : Nat) : Option Instr := match n with
  | 0x00 => some (.mov c d a)
  | 0x01 => some (.not c d a)
  | 0x02 => some (.neg c d a)
  | 0x03 => some (.abs c d a)
  | 0x04 => some (.clz c d a)
  | 0x05 => some (.ctz c d a)
  | 0x06 => some (.popc c d a)
  | 0x07 => some (.brev c d a)
  | 0x08 => some (.movZ64 c d a)
  | 0x09 => some (.notZ64 c d a)
  | 0x0A => some (.negS64 c d a)
  | 0x0B => some (.absS64 c d a)
  | _ => none

/-- Functions of I64A (R71). -/
def readI64a (c : Ctl) (d a b : BitVec 7) (n : Nat) : Option Instr := match n with
  | 0 => some (.addS64 c d a b)
  | 1 => some (.subS64 c d a b)
  | 2 => some (.mulS64 c d a b)
  | 3 => some (.shlZ64 c d a b)
  | 4 => some (.shrZ64 c d a b)
  | 5 => some (.sarS64 c d a b)
  | 6 => some (.minS64 c d a b)
  | 7 => some (.minZ64 c d a b)
  | _ => none

/-- Functions of I64B (R71). -/
def readI64b (c : Ctl) (d a b : BitVec 7) (n : Nat) : Option Instr := match n with
  | 0 => some (.maxS64 c d a b)
  | 1 => some (.maxZ64 c d a b)
  | 2 => some (.cmpS64 c d a b)
  | 3 => some (.cmpZ64 c d a b)
  | 4 => some (.andZ64 c d a b)
  | 5 => some (.orZ64 c d a b)
  | 6 => some (.xorZ64 c d a b)
  | _ => none

/-- Operations of SHI (R71). -/
def readShi (c : Ctl) (d a : BitVec 7) (k : BitVec 5) (n : Nat) : Option Instr := match n with
  | 0 => some (.shli c d a k)
  | 1 => some (.shri c d a k)
  | 2 => some (.sari c d a k)
  | _ => none

/-- Functions of XLANE below 0x10 (R72). -/
def readXlane (c : Ctl) (d a : BitVec 7) (n : Nat) : Option Instr := match n with
  | 0x00 => some (.voteAll c d a)
  | 0x01 => some (.voteAny c d a)
  | 0x02 => some (.voteBallot c d a)
  | 0x03 => some (.voteEq c d a)
  | 0x08 => some (.popxIncl c d a)
  | 0x09 => some (.popxExcl c d a)
  | _ => none

/-- Functions of SALU (R72). -/
def readSalu (c : Ctl) (d a b : SReg) (n : Nat) : Option Instr := match n with
  | 0 => some (.sadd c d a b)
  | 1 => some (.ssub c d a b)
  | 2 => some (.sand c d a b)
  | 3 => some (.sor c d a b)
  | 4 => some (.sxor c d a b)
  | 5 => some (.sshl c d a b)
  | 6 => some (.sshr c d a b)
  | 7 => some (.scmp c d a b)
  | _ => none

/-- Functions of SXFER (R72). -/
def readSxfer (c : Ctl) (d a : BitVec 7) (n : Nat) : Option Instr := match n with
  | 0x00 => some (.smov c (bits d 0 6) (bits a 0 6))
  | 0x01 => some (.bcast c d (bits a 0 6))
  | 0x02 => some (.vtos c (bits d 0 6) a)
  | 0x03 => some (.swaitq c (bits a 0 6))
  | _ => none

/-- Functions of CTL (R73). -/
def readCtl (c : Ctl) (a : BitVec 7) (n : Nat) : Option Instr := match n with
  | 0x00 => some (.jmpi c a)
  | 0x01 => some (.ret c a)
  | 0x02 => some (.exit c)
  | 0x03 => some (.nop c)
  | _ => none

/-- Functions of FUN (R74). -/
def readFun (c : Ctl) (p : Option Pfx) (d a : BitVec 7) (n : Nat) : Option Instr := match n with
  | 0x00 => some (.fabs c p d a)
  | 0x01 => some (.fneg c p d a)
  | 0x02 => some (.frnd c p d a)
  | 0x03 => some (.frcp c p d a)
  | 0x04 => some (.frsq c p d a)
  | 0x05 => some (.fsqrt c p d a)
  | 0x06 => some (.fexp2 c p d a)
  | 0x07 => some (.flog2 c p d a)
  | 0x08 => some (.fclass c p d a)
  | _ => none

/-- Functions of BLK (R75). -/
def readBlk (c : Ctl) (d a : BitVec 7) (n : Nat) : Option Instr := match n with
  | 0x00 => some (.bamax c d a)
  | 0x01 => some (.scget c d a)
  | 0x02 => some (.scset c d a)
  | 0x03 => some (.srdraw c d)
  | _ => none

/-- Operations of ENG (R76). -/
def readEng (c : Ctl) (ch : BitVec 4) (d a : SReg) (n : Nat) : Option Instr := match n with
  | 0 => some (.cpy c ch d a)
  | 1 => some (.gath c a)
  | 2 => some (.scat c a)
  | 3 => some (.coll c a)
  | 4 => some (.repart c a)
  | _ => none

/-- Operations of KVOP (R76, R344). -/
def readKvop (c : Ctl) (d : BitVec 7) (a : SReg) (n : Nat) : Option Instr := match n with
  | 0 => some (.kvapp c d a)
  | 1 => some (.kvevict c d a)
  | 2 => some (.kvseal c a)
  | 3 => some (.kvhdr c d a)
  | _ => none

/-- Destinations of MDRN (R286). -/
def readMdrn (c : Ctl) (w : Bool) (d : BitVec 7) (slot : BitVec 4) (o : BitVec 3) (n : Nat) : Option Instr := match n with
  | 0 => some (.mdrnT c w (bits d 0 4) slot o)
  | 1 => some (.mdrnV c w d slot o)
  | 2 => some (.mdrnM c w slot o)
  | _ => none

/-- Functions of GSYNC (R78, R224). -/
def readGsync (c : Ctl) (d : BitVec 7) (arg : BitVec 9) (n : Nat) : Option Instr := match n with
  | 0x00 => (Scope.ofCode (num arg 0 3)).map (.fence c)
  | 0x01 => some (.oprdy c)
  | 0x02 => some (.yield c d)
  | 0x03 => some (.cpwp c d (bits arg 0 4))
  | _ => none

/-- Functions of GROS (R181). -/
def readGros (c : Ctl) (d : BitVec 7) (slot : BitVec 4) (n : Nat) : Option Instr := match n with
  | 0x00 => some (.rjoin c slot)
  | 0x01 => some (.rleave c slot)
  | 0x02 => some (.roll c slot)
  | 0x03 => some (.rolla c d slot)
  | 0x04 => some (.rollw c d slot)
  | _ => none

/-- Functions of GTHR (R78, R99). -/
def readGthr (c : Ctl) (d : BitVec 7) (arg : BitVec 9) (n : Nat) : Option Instr := match n with
  | 0x00 => some (.winb c (bits arg 0 5))
  | 0x01 => some (.xacq c d (bits arg 0 3))
  | 0x02 => some (.xtry c d (bits arg 0 3))
  | 0x03 => some (.xrel c (bits arg 0 3))
  | 0x04 => some (.fstat c (bitAt arg 0) d)
  | _ => none

/-- Functions of GMAT (R78, R272). -/
def readGmat (c : Ctl) (d : BitVec 7) (arg : BitVec 4) (n : Nat) : Option Instr := match n with
  | 0x00 => some (.mshp c (bits d 0 6) arg)
  | 0x01 => some (.mzero c (bits d 0 4))
  | 0x02 => some (.mconv c arg)
  | 0x03 => some (.mdiss c arg)
  | 0x04 => some (.mldw c (bits d 0 4) arg)
  | 0x05 => some (.mwait c arg)
  | 0x06 => some (.mstat c d arg)
  | _ => none

/-- Functions of GSYS (R78, R388, R389). -/
def readGsys (c : Ctl) (code : BitVec 9) (n : Nat) : Option Instr := match n with
  | 0x00 => some (.trap c code)
  | 0x01 => some (.eret c)
  | 0x02 => some (.brk c code)
  | _ => none

/-- Operations of CMO (R76, R209). -/
def readCmo (c : Ctl) (a : BitVec 7) (lev n : Nat) : Option Instr := match n with
  | 0 => (CacheLevel.ofCode lev).map (.pref c · a)
  | 1 => (Scope.ofCode lev).map (.cinv c · a)
  | 2 => (Scope.ofCode lev).map (.cwb c · a)
  | _ => none

/-- The instruction of a major that accepts a prefix (R67, R69). -/
def readPrefixable (c : Ctl) (p : Option Pfx) (major : Nat) (d a b : BitVec 7) : Option (Option Instr) := match major with
  | 0x01 => some (some (.add c p d a b))
  | 0x02 => some (some (.sub c p d a b))
  | 0x03 => some (some (.mul c p d a b))
  | 0x04 => some (some (.mulhS32 c p d a b))
  | 0x05 => some (some (.mulhZ32 c p d a b))
  | 0x06 => some (some (.mad c p d a b))
  | 0x07 => some (some (.andn c p d a b))
  | 0x08 => some (some (.and c p d a b))
  | 0x09 => some (some (.or c p d a b))
  | 0x0A => some (some (.xor c p d a b))
  | 0x0B => some (some (.shl c p d a b))
  | 0x0C => some (some (.shr c p d a b))
  | 0x0D => some (some (.sar c p d a b))
  | 0x0E => some (some (.rotl c p d a b))
  | 0x0F => some (some (.sel c p d a b))
  | 0x10 => some (some (.minS32 c p d a b))
  | 0x11 => some (some (.minZ32 c p d a b))
  | 0x12 => some (some (.maxS32 c p d a b))
  | 0x13 => some (some (.maxZ32 c p d a b))
  | 0x14 => some (some (.cmpS32 c p d a b))
  | 0x15 => some (some (.cmpZ32 c p d a b))
  | 0x16 => some (some (.bfxS32 c p d a b))
  | 0x17 => some (some (.bfxZ32 c p d a b))
  | 0x18 => some (some (.bfi c p d a b))
  | 0x24 => some (some (.shfl c p d a b))
  | 0x38 => some (some (.fadd c p d a b))
  | 0x39 => some (some (.fsub c p d a b))
  | 0x3A => some (some (.fmul c p d a b))
  | 0x3B => some (some (.ffma c p d a b))
  | 0x3C => some (some (.fmin c p d a b))
  | 0x3D => some (some (.fmax c p d a b))
  | 0x3E => some (some (.fcmp c p d a b))
  | 0x3F => some (some (.fscl c p d a b))
  | 0x42 => some (some (.hadd2F16 c p d a b))
  | 0x43 => some (some (.hadd2Bf16 c p d a b))
  | 0x44 => some (some (.hmul2F16 c p d a b))
  | 0x45 => some (some (.hmul2Bf16 c p d a b))
  | 0x46 => some (some (.hfma2F16 c p d a b))
  | 0x47 => some (some (.hfma2Bf16 c p d a b))
  | 0x48 => some (some (.dot4E4m3 c p d a b))
  | 0x49 => some (some (.dot4E5m2 c p d a b))
  | 0x4A => some (some (.dot4S8 c p d a b))
  | 0x40 => some (readFun c p d a b.toNat)
  | 0x41 => some ((CvtFmt.ofCode (num b 3 4)).map (fun f =>
      if bitAt b 2 then .fcvtToF32 c p f (bits b 0 2) d a else .fcvtToFormat c p f (bits b 0 2) d a))
  | _ => none

/-- The instruction of a major that accepts neither a prefix nor an extension, or that stands without its extension
(R63, R69 to R78): the outer `none` is an unassigned major, the inner one a reserved code. -/
def readPlain (c : Ctl) (major : Nat) (d a b : BitVec 7) : Option (Option Instr) := match major with
  | 0x19 => some (some (.lea c d a b))
  | 0x1A => some (readIun c d a b.toNat)
  | 0x1B => some (readI64a c (pairF d 0) (pairF a 0) (pairF b 0) (num d 0 1 * 4 + num a 0 1 * 2 + num b 0 1))
  | 0x1C => some (readI64b c (pairF d 0) (pairF a 0) (pairF b 0) (num d 0 1 * 4 + num a 0 1 * 2 + num b 0 1))
  | 0x1D => some (some (.addi c d a b))
  | 0x1E => some (some (.andi c d a b))
  | 0x1F => some (some (.ori c d a b))
  | 0x20 => some (some (.xori c d a b))
  | 0x21 => some (readShi c d a (bits b 0 5) (num b 5 2))
  | 0x22 => some (some (.movi c d (a ++ b)))
  | 0x23 => some (some (.movh c d (a ++ b)))
  | 0x25 => some (if num b 4 3 = 1 then (RedOp.ofCode (num b 0 4)).map (.redv c · a) else readXlane c d a b.toNat)
  | 0x28 => some (readSalu c (bits d 0 6) (bits a 0 6) (bits b 0 6) (num d 6 1 * 4 + num a 6 1 * 2 + num b 6 1))
  | 0x29 => some (readSxfer c d a b.toNat)
  | 0x2A => some (some (.smovi c (bits d 0 6) (a ++ b)))
  | 0x2B => some ((OrdSc.ofCode (num b 1 3)).map (.sld c (bitAt b 4) · (bits d 0 6) (bits a 0 6)))
  | 0x30 => some (some (.bra c (d ++ a ++ b)))
  | 0x31 => some ((Cond.ofCode (num a 4 3)).map (.brc c d · (bits a 0 4 ++ b)))
  | 0x32 => some ((Cond.ofCode (num a 4 3)).map (.bru c (bits d 0 6) · (bits a 0 4 ++ b)))
  | 0x33 => some (some (.call c d (a ++ b)))
  | 0x34 => some (readCtl c a b.toNat)
  | 0x4B => some (readBlk c d a b.toNat)
  | 0x4C => some ((MxFmt.ofCode (num b 4 3)).bind fun f => (Sel.ofCode (num b 3 1)).map (.scsel c f · d a))
  | 0x4D => some ((MxFmt.ofCode (num b 4 3)).bind fun f => (Sel.ofCode (num b 3 1)).bind fun e =>
      (Rnd.ofCode (num b 0 3)).map (.qpack c f e · d a))
  | 0x4E => some (some (.qunpk c (bits b 0 3) d a))
  | 0x4F => some (some (.topk c (bits b 0 4) d a))
  | 0x50 => some ((Width.ofCode (num b 4 3)).bind fun w => (OrdSc.ofCode (num b 1 3)).map (.ldg c w · (bitAt b 0) d a))
  | 0x51 => some ((Width.ofCode (num b 4 3)).bind fun w => (OrdSc.ofCode (num b 1 3)).map (.stg c w · (bitAt b 0) d a))
  | 0x52 => some ((Width.ofCode (num b 4 3)).map (.lds c · (bitAt b 1) d a))
  | 0x53 => some ((Width.ofCode (num b 4 3)).map (.sts c · (bitAt b 1) d a))
  | 0x54 => some ((OrdSc.ofCode (num b 1 3)).map (.ldt c (bits b 4 3) · (bitAt b 0) d a))
  | 0x55 => some ((OrdSc.ofCode (num b 1 3)).map (.stt c (bits b 4 3) · (bitAt b 0) d a))
  | 0x56 => some ((OrdSc.ofCode (num b 1 3)).map (.ldl c · (bitAt b 0) d a))
  | 0x57 => some ((OrdSc.ofCode (num b 1 3)).map (.stl c · (bitAt b 0) d a))
  | 0x58 => some (some (.ldsr c (bits d 0 3) (bits a 0 6)))
  | 0x59 => some (some (.salloc c (bits b 0 3) d a))
  | 0x5A => some (readCmo c a (num b 2 3) (num b 5 2))
  | 0x60 => some ((KOp.ofCode (num b 3 4)).bind fun op => (OrdSc.ofCode (num b 0 3)).map (.atm c op · d a))
  | 0x61 => some ((KOp.ofCode (num b 3 4)).bind fun op => (OrdSc.ofCode (num b 0 3)).map (.atm64 c op · d a))
  | 0x62 => some ((KOp.ofCode (num b 3 4)).bind fun op => (OrdSc.ofCode (num b 0 3)).map (.red c op · d a))
  | 0x63 => some ((OrdSc.ofCode (num b 4 3)).map (fun o => if bitAt b 3 then .waiteq c o d a else .waitge c o d a))
  | 0x64 => some ((OrdSc.ofCode (num b 4 3)).map (fun o => if bitAt b 3 then .qpop c o d a else .qpush c o d a))
  | 0x65 => some (readGsync c d (bits a 0 2 ++ b) (num a 2 5))
  | 0x66 => some (readGros c d (bits b 0 4) (num a 2 5))
  | 0x67 => some (readGthr c d (bits a 0 2 ++ b) (num a 2 5))
  | 0x68 => some ((OrdSc.ofCode (num b 1 3)).map (.mld c (bitAt b 6) · (bitAt b 0) (bits d 0 4) a))
  | 0x69 => some ((OrdSc.ofCode (num b 1 3)).map (.mst c (bitAt b 6) · (bitAt b 0) (bits d 0 4) a))
  | 0x6A => some (some (.mma c (bitAt b 6) (bits d 0 4) (bits a 0 4)))
  | 0x6B => some (some (.mmv c (bits d 0 4) (bits a 0 6) (bits b 4 3) (bits b 0 4)))
  | 0x6C => some (some (.mdual c (bitAt d 4) (bitAt d 5) (bits d 0 4) (bits a 0 4) (bits b 0 4)))
  | 0x6D => some (readMdrn c (bitAt b 4) d (bits a 0 4) (bits b 0 3) (num b 5 2))
  | 0x6E => some (readGmat c d (bits b 0 4) (num a 2 5))
  | 0x70 => some (readEng c (bits b 0 4) (bits d 0 6) (bits a 0 6) (num b 4 3))
  | 0x71 => some (some (.kvld c (bitAt b 0) (bits d 0 4) (bits a 0 6)))
  | 0x72 => some (readKvop c d (bits a 0 6) (num b 5 2))
  | 0x78 => some (some (.crd c d (a ++ b)))
  | 0x79 => some (some (.cwr c d (a ++ b)))
  | 0x7A => some (readGsys c (bits a 0 2 ++ b) (num a 2 5))
  | _ => none

/-- The instruction of a major whose group ends in an extension (R65, R68). -/
def readExtended (c : Ctl) (major : Nat) (d a b : BitVec 7) (x : BitVec 21) : Option Instr := match major with
  | 0x1D => some (.addiLong c d a (x ++ b))
  | 0x1E => some (.andiLong c d a (x ++ b))
  | 0x1F => some (.oriLong c d a (x ++ b))
  | 0x20 => some (.xoriLong c d a (x ++ b))
  | 0x22 => some (.moviLong c d (bits x 0 18 ++ (a ++ b)))
  | 0x2A => some (.smoviLong c (bits d 0 6) (bits x 0 18 ++ (a ++ b)))
  | 0x33 => some (.callLong c d (bits x 0 18 ++ (a ++ b)))
  | _ => none

/-- Whether an instruction word of this major accepts an extension (R68). -/
def acceptsExtension (major : BitVec 7) : Bool := [0x1D, 0x1E, 0x1F, 0x20, 0x22, 0x2A, 0x33].contains major.toNat

/-- What an unprefixed word with no extension reads as. -/
def readWord (c : Ctl) (p : Option Pfx) (major : Nat) (d a b : BitVec 7) : Except Bad Instr :=
  match readPrefixable c p major d a b with
  | some i => orReserved i
  | none =>
    match readPlain c major d a b with
    | some i => if p.isSome then .error .prefixNotAccepted else orReserved i
    | none => .error .unassignedMajor

/-- The instruction a group's fields name, its unused bits not yet looked at. -/
def Group.read (g : Group) : Except Bad Instr :=
  match g.ext, g.pre with
  | some x, none => match readExtended g.ctl g.major.toNat g.d g.a g.b x with
    | some i => .ok i
    | none => .error .strayExtension
  | some _, some _ => .error .strayExtension
  | none, none => readWord g.ctl none g.major.toNat g.d g.a g.b
  | none, some x => match Pfx.ofCode x with
    | some p => readWord g.ctl (some p) g.major.toNat g.d g.a g.b
    | none => .error .reservedModifier

/-- The instruction of a group: the one its fields name, if its operands keep their limits and encoding it gives every bit
of the group back (R79). -/
def decodeGroup (g : Group) : Except Bad Instr :=
  match g.read with
  | .error e => .error e
  | .ok i =>
    if i.group = some g then (if wellFormed i then .ok i else .error .operandLimit) else .error .unusedBits

-- Words and bytes ---------------------------------------------------------------------------------------------

/-- MAJOR of a word (R59). -/
def majorOf (w : Word) : BitVec 7 := bits w 21 7
/-- BELL and STALL of a word (R59). -/
def ctlOf (w : Word) : Ctl := ⟨bitAt w 31, bits w 28 3⟩
/-- BELL and STALL of every word but the last of its group (R60). -/
def Ctl.none : Ctl := ⟨false, 0⟩
/-- A word from its parts (R59). -/
def mkWord (c : Ctl) (major : BitVec 7) (operands : BitVec 21) : Word := bit c.bell ++ c.stall ++ major ++ operands

/-- Whether the shape of a group cannot be known from its first word alone (R60). -/
def needsSecondWord (w : Word) : Bool := majorOf w == 0x7E || acceptsExtension (majorOf w)

/-- The group that begins with `w`, given the word after it, and how many words it takes (R60). -/
def splitGroup (w : Word) (next : Option Word) : Except Bad (Group × Nat) :=
  if majorOf w = 0x7F then .error .strayExtension
  else if majorOf w = 0x7E then
    match next with
    | none => .error .truncated
    | some v =>
      if ctlOf w ≠ .none then .error .earlyBellOrStall
      else if majorOf v = 0x7E || majorOf v = 0x7F then .error .prefixedNonInstruction
      else .ok (⟨some (bits w 0 21), ctlOf v, majorOf v, bits v 14 7, bits v 7 7, bits v 0 7, none⟩, 2)
  else if acceptsExtension (majorOf w) then
    match next with
    | none => .error .truncated
    | some v =>
      if majorOf v = 0x7F then
        if ctlOf w ≠ .none then .error .earlyBellOrStall
        else .ok (⟨none, ctlOf v, majorOf w, bits w 14 7, bits w 7 7, bits w 0 7, some (bits v 0 21)⟩, 2)
      else .ok (⟨none, ctlOf w, majorOf w, bits w 14 7, bits w 7 7, bits w 0 7, none⟩, 1)
  else .ok (⟨none, ctlOf w, majorOf w, bits w 14 7, bits w 7 7, bits w 0 7, none⟩, 1)

/-- The instruction that begins with word `w`, given the word after it, and how many words it takes. -/
def decodeWords (w : Word) (next : Option Word) : Except Bad (Instr × Nat) :=
  match splitGroup w next with
  | .error e => .error e
  | .ok (g, n) =>
    match decodeGroup g with
    | .error e => .error e
    | .ok i => .ok (i, n)

/-- The little-endian word of four bytes (R59). -/
def wordOfBytes (b0 b1 b2 b3 : Byte) : Word := b3 ++ b2 ++ b1 ++ b0

/-- The first instruction of a list of bytes, and the number of its words. -/
def decodeBytes (bs : List Byte) : Except Bad (Instr × Nat) :=
  match bs with
  | b0 :: b1 :: b2 :: b3 :: c0 :: c1 :: c2 :: c3 :: _ => decodeWords (wordOfBytes b0 b1 b2 b3) (some (wordOfBytes c0 c1 c2 c3))
  | b0 :: b1 :: b2 :: b3 :: _ => decodeWords (wordOfBytes b0 b1 b2 b3) none
  | _ => .error .truncated

/-- The words of a group (R60): a prefix and an extension stand in words of their own, and BELL and STALL in the last. -/
def Group.words (g : Group) : List Word :=
  let op := g.d ++ g.a ++ g.b
  match g.pre, g.ext with
  | some p, _ => [mkWord .none 0x7E p, mkWord g.ctl g.major op]
  | none, some x => [mkWord .none g.major op, mkWord g.ctl 0x7F x]
  | none, none => [mkWord g.ctl g.major op]

/-- The words of an instruction; none for an event, which no word encodes. -/
def encode (i : Instr) : List Word := match i.group with
  | some g => g.words
  | none => []

/-- Word `k` of a group whose bits are numbered from the first word's bit 0 upward. -/
def tableWord (w k : Nat) : Word := BitVec.ofNat 32 (w / 2 ^ (32 * k))

/-- The instruction read from a group whose first `nbits` bits are `w` and whose further bits are 0. -/
def decodeTableWord (nbits w : Nat) : Option Instr :=
  let v := w % 2 ^ nbits
  match decodeWords (tableWord v 0) (some (tableWord v 1)) with
  | .ok (i, _) => some i
  | .error _ => none

end Sys2Proof
end

