-- ==== Sys2Proof/Machine/Issue.lean ====
section
/-! DEFINITION. Fetching the group a bundle issues (R60, R62, R136, R195, R329, R330, R450): the words each thread fetches, and
what becomes of threads that cannot fetch them. -/
namespace Sys2Proof.Machine

/-- A code word as it is fetched: its address, its physical line, and the translation used. -/
structure Fetched where
  word : Word
  va   : DWord
  n    : Nat
  tr   : Trans
  deriving DecidableEq, Repr
/-- The line of code a core's instruction cache holds for an address of a context (R190, R239). -/
def State.ownCode (s : State) (core ctx : Nat) (va : DWord) (n : Nat) : Option LineBits :=
  ((s.core core).icache.find? (fun x => x.ctx == ctx && x.va == va.toNat / 128 && x.n == n)).map (·.data)
/-- The half-dies a fetch agent's work serves with one: the whole die where both belong to one partition (R23). -/
def State.fetchHalves (s : State) (h : Nat) : List Nat :=
  let o := h / 2 * 2 + (1 - h % 2)
  if (s.half o).member && (s.half o).part == (s.half h).part then [h, o] else [h]
/-- The line of code a core has at hand: its own cache's, or what the fetch agent has read for another core it serves, so that
code is read from memory once (R23). -/
def State.codeAt (s : State) (core ctx : Nat) (va : DWord) (n : Nat) : Option LineBits :=
  (s.ownCode core ctx va n).or (((s.cores.keys).filter (fun c => (s.fetchHalves (coreHalf core)).contains (coreHalf c))).findSome? (fun c => s.ownCode c ctx va n))
/-- One code word through the cluster's TLB and the core's instruction cache (R136, R190): executable, MODE 0, MTYPE 0, and a
line read from memory passes its check. [DEDUCED, log 13] -/
def State.fetchWord (s : State) (slot : Nat) (va : DWord) : Ck Fetched :=
  (s.translate (.fetch (clusterOf slot)) (s.ctxOf slot) va).bind fun t =>
    if leafMode t.leaf ≠ 0 then .fault (pf 6 va)
    else (s.grant t va { ex := true }).bind fun x => match x with
      | .mem pa _ =>
        let word := fun (d : LineBits) => (BitVec.ofNat 32 (dataField d (pa % 128) 4) : Word)
        match s.codeAt (coreOf slot) (s.ctxOf slot) va (pa / 128) with
        | some d => .ok ⟨word d, va, pa / 128, t⟩
        | none => match s.lineBad (pa / 128) with
          | some i => .fault (pf 7 va i)
          | none => .ok ⟨word (s.line (pa / 128)).data, va, pa / 128, t⟩
      | _ => .fault (pf 6 va)
/-- A group's first word, and the word after it where the shape may need it (R60). [DEDUCED, log 13] -/
def State.fetchGroup (s : State) (slot : Nat) (pc : DWord) : Ck (Fetched × Option Fetched) :=
  (s.fetchWord slot pc).bind fun w =>
    if needsSecondWord w.word then (s.fetchWord slot (pc + 4)).bind fun v => .ok (w, some v) else .ok (w, none)
/-- The words of a group. -/
def fetchedWords (x : Fetched × Option Fetched) : Word × Option Word := (x.1.word, x.2.map (·.word))
/-- The cluster's TLB takes a translation it does not hold (R329). -/
def State.fillTlb (s : State) (cluster : Nat) (t : Trans) : State :=
  if (s.cluster cluster).tlb.any (fun x => x.ctx == t.ctx && x.base == t.base) then s
  else s.modCluster cluster (fun c => { c with tlb := t :: c.tlb })
/-- Lines an instruction cache has room for: 64 KiB (R16). [DESIGN CHOICE, log 11] -/
def icacheLines : Nat := 512
/-- The fetch agent fills the instruction caches of the cores that run a warp's kernel with a line of code, by multicast (R23,
R239). [DESIGN CHOICE, log 11] -/
def State.fillCode (s : State) (slot : Nat) (x : Fetched) : State :=
  let ctx := s.ctxOf slot
  if (s.ownCode (coreOf slot) ctx x.va x.n).isSome then s
  else
    let hs := s.fetchHalves (halfOf slot)
    let k := (s.wgOf slot).kernel
    let cores := coreOf slot :: ((List.filter (fun (e : Nat × Workgroup) => e.2.kernel == k && hs.contains (coreHalf e.2.core)) s.wgs).map (·.2.core)).eraseDups
    let e : Code := { ctx, va := x.va.toNat / 128, n := x.n, data := (s.codeAt (coreOf slot) ctx x.va x.n).getD (s.line x.n).data }
    cores.foldl (fun s c => if (s.ownCode c ctx x.va x.n).isSome then s
      else s.modCore c (fun y => { y with icache := (e :: y.icache.filter (fun z => !(z.ctx == ctx && z.va == e.va))).take icacheLines })) s
/-- What a warp fetched is held from then on. -/
def State.fillFetched (s : State) (slot : Nat) (x : Fetched × Option Fetched) : State :=
  (x.1 :: x.2.toList).foldl (fun s w => (s.fillTlb (clusterOf slot) w.tr).fillCode slot w) s
/-- The group as its first active thread fetches it, with its warp slot. -/
def State.leading (s : State) (g : Grp) : Option (Nat × (Fetched × Option Fetched)) :=
  g.acts.findSome? (fun a => match s.fetchGroup a.1 g.pc with
    | .ok x => some (a.1, x)
    | _ => none)
/-- The words of the focused bundle's next group, where every active thread fetches the same ones; and the state with what was
fetched held. -/
def State.fetched (s : State) : Option ((Word × Option Word) × State) :=
  match s.group ⟨false, 0⟩ 1 with
  | none => none
  | some g => match s.leading g with
    | none => none
    | some (k, w) =>
      if g.acts.all (fun a => match s.fetchGroup a.1 g.pc with
        | .ok x => fetchedWords x == fetchedWords w
        | _ => false) then some (fetchedWords w, s.fillFetched k w)
      else none
/-- What becomes of a thread that does not fetch the bundle's words: a fault at the group, a wait for its page, or, where its
context holds other words there, another period. [DEDUCED, log 12] -/
def State.fetchFate (s : State) (g : Grp) (ws : Option (Word × Option Word)) (a : Nat × Nat) : Option Fate :=
  match s.fetchGroup a.1 g.pc with
  | .ok x => if ws = some (fetchedWords x) then none else some .retry
  | .fault f => some (.fault f g.pc)
  | .light l => some (.stall l)
  | .heavy p => some (.lock (.heavy p g.pc))
  | .lock w => some (.lock w)
/-- Threads of the focused bundle that do not fetch its words leave it, or the bundle waits for bits of an entry; no word issues
(R60, R136, R195, R330). [DEDUCED, log 12] -/
def fetchCut (s : State) : Host.Outcome State Fault Refusal :=
  issue ⟨false, 0⟩ 0 s fun g s =>
    let ws := (s.leading g).map (fun x => fetchedWords x.2)
    let fs := g.acts.filterMap (fun a => (s.fetchFate g ws a).map (a, ·))
    (s.keptBack g fs).getD (s, fs)
/-- A group of n words would break R62: it passes word 24 of its period, or ends there without BELL. [DEDUCED, log 14] -/
def State.overruns (s : State) (n : Nat) (bell : Bool) : Bool :=
  match (s.quad s.focus).bundle with
  | none => false
  | some b => decide (24 < b.words + n) || (b.words + n == 24 && !bell)
/-- BELL of a group of n words: its last word's. -/
def groupBell (w : Word × Option Word) (n : Nat) : Bool := (ctlOf (if n = 2 then w.2.getD w.1 else w.1)).bell
/-- The quadrant whose bundle issues next: the first after the focus, in a circle, with an ISSUING bundle that waits for no entry
(R174, R195). -/
def State.nextQuad (s : State) : Option Nat :=
  let qs := s.quads.keys.filter (fun q => s.slotHeld q && (s.quad q).stall.isEmpty)
  match qs.find? (fun q => decide (s.focus < q)) with
  | some q => some q
  | none => qs.head?

-- Between steps ----------------------------------------------------------------------------------------------------------------------------

/-- A context with neither a live kernel nor a saved workgroup is BOUND again (R376). [DEDUCED, log 62] -/
def State.idleCtxs (s : State) : State :=
  { s with ctxs := s.ctxs.map (fun n (c : Context) =>
      if c.st = .active ∧ !(s.kernels.any (fun e => e.2.ctx == n && e.2.st.live)) ∧ !(s.frames.any (fun f => f.ctx == n))
      then { c with st := .bound } else c) }
/-- A corrected storage error is counted, and recorded where it is the first or every 1024th (R455). [DESIGN CHOICE, log 103] -/
def State.corrected (s : State) (n : Nat) : State :=
  let c := if s.err.cecnt = 0xFFFFFFFF then s.err.cecnt else s.err.cecnt + 1
  let s := { s with err := { s.err with cecnt := c } }
  if c = 1 ∨ c.toNat % 1024 = 0 then
    s.report 1 c.toNat (128 * n) 0 (homeHalf (128 * n) / 2) (if (s.half (homeHalf (128 * n))).member then some (s.half (homeHalf (128 * n))).part else none)
  else s
/-- The storage error that comes next: one that cannot be corrected leaves its line in error until it is written whole (R41). [DESIGN CHOICE, log 103] -/
def State.upset (s : State) : State := match s.upsets with
  | [] => s
  | (n, hard) :: rest =>
    let s := { s with upsets := rest }
    if !populated (128 * n) then s
    else if !hard then s.corrected n
    else if s.badLines.contains n then s else { s with badLines := n :: s.badLines }
/-- A nanosecond is counted for every kernel whose work is being done (R361). -/
def State.spend (s : State) : State :=
  { s with kernels := s.kernels.map (fun _ (k : Kernel) => match k.st with
      | .distributing | .running | .draining => { k with spent := k.spent + 1 }
      | _ => k) }
/-- After each step: waits that are over end (R95), blocks that left the register file are in the overflow area (R108), a storage
error may come (R41), and a nanosecond has passed. [DESIGN CHOICE, log 2] -/
def State.after (s : State) : State := s.settle.idleCtxs.storeMoved.upset.spend.tick
/-- The same of an outcome. [DESIGN CHOICE, log 2] -/
def finished (o : Host.Outcome State Fault Refusal) : Host.Outcome State Fault Refusal := match o with
  | .next s => .next s.after
  | o => o

-- A group placed for the next step ---------------------------------------------------------------------------------------------------------

/-- The leaf of an executable page of frame 1: V, SIZE 1, W, X, A, D. -/
def placedLeaf : DWord := 0x118C3
/-- The translation of the placed page. -/
def placedTrans : Trans := { ctx := 1, base := 0x10000, size := 0x10000, leaf := placedLeaf, pte := 0, count := 0 }
/-- Two code words in the first line of frame 1, with the line's check value. -/
def State.placeWords (s : State) (w0 w1 : Word) : State :=
  let l := s.line 512
  s.putLine 512 { l with data := BitVec.ofNat 1024 (l.data.toNat / 2 ^ 64 * 2 ^ 64 + w1.toNat * 2 ^ 32 + w0.toNat) }
/-- One thread in lane 0 of warp slot 0, ISSUING at the placed page, with the partition, context, kernel and workgroup it
belongs to. [DESIGN CHOICE, log 8] -/
def State.placeThread (s : State) : State :=
  { s with
    agenda := [], focus := 1535
    halves := s.halves.modify 0 (fun h => { h with member := true, part := 0 })
    ctxs := s.ctxs.modify 1 (fun c => { c with st := .active, part := 0 })
    kernels := s.kernels.put 0 { (default : Kernel) with ctx := 1, part := 0, st := .running }
    wgs := s.wgs.put 0 { (default : Workgroup) with kernel := 0, core := 0, nw := 1 }
    warps := s.warps.put 0 { (default : Warp) with wg := 0, threads := [(0, { (default : Thread) with pc := 0x10000, wb := 16, st := .issuing })] }
    quads := s.quads.modify 0 (fun q => { q with stall := [], bundle := some { members := [(0, 0)], closing := false, words := 0 } })
    cores := s.cores.modify 0 (fun c => { c with icache := [] })
    clusters := s.clusters.modify 0 (fun c => { c with tlb := placedTrans :: c.tlb }) }

end Sys2Proof.Machine
end

