-- ==== Sys2Proof/Machine/Gather.lean ====
section
/-! DEFINITION. Doing the group a bundle issues; and the execution of a warp-whole instruction whose warp has gathered with no
thread of it issuing, because a live thread left or a joint operation started (R118, R275). -/
namespace Sys2Proof.Machine

/-- The focused bundle's next group: fetched, decoded and done; a group that R62 or R79 forbids is an illegal instruction. [DEDUCED, log 14] -/
def issueStep (s : State) : Host.Outcome State Fault Refusal :=
  match s.fetched with
  | none => fetchCut s
  | some (ws, t) => match decodeWords ws.1 ws.2 with
    | .error _ => execIllegalInstruction t
    | .ok (i, n) => if t.overruns n (groupBell ws n) then execIllegalInstruction t else exec i t

/-- Every live thread of the warp waits in the gathering of the group at a PC (R118, R275). -/
def Warp.waitsAt (w : Warp) (pc : DWord) : Bool :=
  w.liveLanes.all (fun l => (w.thread l).st == .waiting && (w.thread l).why.gathers && (w.thread l).pc == pc)
/-- The PC at which a warp has gathered, no thread of it issuing. -/
def Warp.gatheredAt (w : Warp) : Option DWord :=
  match w.liveLanes with
  | [] => none
  | l :: _ => if w.waitsAt (w.thread l).pc then some (w.thread l).pc else none
/-- The live threads of a gathered warp hold their quadrant's slot, as one bundle; failures reported while they waited are taken
after the group (R466). A period that has ended is released first (R174). -/
def State.seatGathered (s : State) (k : Nat) : State :=
  let lanes := (s.warp k).liveLanes
  let held := s.slotHeld (quadOf k)
  let s := { s with focus := quadOf k }.modWarp k (fun w => lanes.foldl (fun (w : Warp) l =>
    w.modThread l (fun t => { t with st := .issuing, why := .nothing, defer := [] })) w)
  s.modQuad (quadOf k) (fun q => { (if held then q else q.release) with
    stall := [], bundle := some { members := lanes.map (fun l => (l, k)), closing := false, words := 0 } })
/-- A thread of a gathered warp has neither completed the group nor faulted at it. -/
def Thread.stuckAt (t : Thread) (pc : DWord) : Bool :=
  t.pc == pc && !t.tmode && (t.st == .ready || t.st == .issuing || t.st == .interlocked || t.st == .waiting)
/-- A gathered thread after its group: READY, unless it has stopped; the failures reported before it are first (R95, R466). -/
def Thread.unseat (old t : Thread) : Thread :=
  { t with st := if t.st = .issuing then .ready else t.st, defer := old.defer ++ t.defer }
/-- The quadrant of a gathered warp after the group: a bundle that held the slot holds it again. -/
def Quad.unseat (old q : Quad) (held : Bool) : Quad :=
  if held then { q with bundle := old.bundle, stall := old.stall, cycle := old.cycle } else { q with bundle := none, stall := [] }
/-- What a gathered warp's group leaves: its threads go on after it, or, where it could not be performed, wait on as they did,
bits of entries it needs being set (R95, R175, R195, R330). -/
def State.unseatGathered (old t : State) (k : Nat) (pc : DWord) : State :=
  let lanes := (old.warp k).liveLanes
  if lanes.any (fun l => (t.thread k l).stuckAt pc) then
    let r := { t with quads := old.quads, warps := old.warps, focus := old.focus }
    (t.quad (quadOf k)).stall.foldl (fun s l => s.serveLights l.pte [l]) r
  else
    let r := { t with focus := old.focus }.modQuad (quadOf k) (fun q => (old.quad (quadOf k)).unseat q (old.slotHeld (quadOf k)))
    if (r.warps.find k).isNone then r
    else r.modWarp k (fun w => lanes.foldl (fun (w : Warp) l => w.modThread l (Thread.unseat (old.thread k l))) w)
/-- A gathered warp executes its group once (R118, R275). -/
def gatherRun (k : Nat) (s : State) : Host.Outcome State Fault Refusal :=
  match (s.warp k).gatheredAt with
  | none => .next s
  | some pc => match issueStep (s.seatGathered k) with
    | .next t => .next (s.unseatGathered t k pc)
    | o => o

end Sys2Proof.Machine
end

