-- ==== Sys2Proof/Machine/Schedule.lean ====
section
/-! DEFINITION. Which agent of the device moves when no bundle issues: the moves that stand open, in a fixed order, of which the
first that changes anything is made. An order is the model's choice; any other order of moves is a run of some agenda. -/
namespace Sys2Proof.Machine

/-- A move of an agent. -/
abbrev Move := State → Host.Outcome State Fault Refusal
/-- The first move that changes the state; none does, nothing happens. -/
def firstMove : List Move → Move
  | [], s => .next s
  | m :: r, s => match m s with
    | .next t => if t = s then firstMove r s else .next t
    | o => o

/-- A packet of this package arrives: a request at its half-die, a response at its source (R407, R411). -/
def packetArrives (hd : Nat) (p : Packet) : Move := match p with
  | .req q => match q.opc.toNat with
    | 1 => execRd hd q
    | 2 => execWrl hd q
    | 3 => execWrm hd q
    | 4 => execRemoteAtm hd q
    | 5 => execRemoteRed hd q
    | 6 => execRemoteCwb hd q
    | _ => .next
  | .rsp r => match r.opc.toNat with
    | 0x10 => execAck r
    | 0x11 => execData r
    | 0x12 => execAtmr r
    | 0x13 => execNack r
    | 0x14 => execResolved r
    | _ => .next
/-- Packets arrive one after another. -/
def packetsArrive : List (Nat × Packet) → Move
  | [], s => .next s
  | (hd, p) :: rest, s => match packetArrives hd p s with
    | .next t => packetsArrive rest t
    | o => o
/-- The ATMs and REDs of one source that stand together in a line of packets, at one location: those of a group among them (R248,
R407). -/
def Packet.joins (p q : Packet) : Bool := match p, q with
  | .req a, .req b => (a.opc == 4 || a.opc == 5) && b.opc == a.opc && a.shd == b.shd && a.stream == b.stream && a.va == b.va
  | _, _ => false
/-- The oldest packet looped back; with an ATM or RED, those of its group, which act one after another with nothing between
(R248). -/
def State.loopMoves (s : State) : List Move := match s.loop with
  | [] => []
  | (hd, p) :: rest => [fun s => packetsArrive ((hd, p) :: rest.takeWhile (fun x => p.joins x.2))
      { s with loop := rest.dropWhile (fun x => p.joins x.2) }]
/-- Results, reductions, gathered groups, blocks and back-offs of warps. -/
def State.warpMoves (s : State) : List Move :=
  s.pend.map (fun p => execResultLands p.id) ++ s.kreqs.map (fun r => execKettleOperation r.id)
    ++ List.filterMap (fun (e : Nat × Warp) => e.2.gatheredAt.map (fun _ => gatherRun e.1)) s.warps
    ++ List.flatMap (fun (e : Nat × Warp) => (if e.2.xmoved = 0 then [] else (List.range 8).map (fun k => execRegisterBlockReturn e.1 k))
      ++ (if e.2.yheld then [execYieldBackoffExpiry e.1] else [])) s.warps
    ++ List.filterMap (fun (e : Nat × Quad) => if e.2.xq.isEmpty then none else some (execExtendedBlockGrant e.1)) s.quads
/-- Matrix contexts: grants, starts, ends. -/
def State.matrixMoves (s : State) : List Move :=
  List.flatMap (fun (e : Nat × Core) => (if e.2.mconvQ.isEmpty then [] else [execMconvGrant e.1])
      ++ List.filterMap (fun (m : Nat × MCtx) => if m.2.ops.isEmpty then none else some (execMatrixOperationFinish e.1 m.1)) e.2.mctx) s.cores
    ++ List.flatMap (fun (e : Nat × Workgroup) => List.filterMap (fun (r : Nat × Roster) =>
      if r.2.gath.isEmpty then none else some (execMatrixOperationStart e.1 r.1)) e.2.rosters) s.wgs
/-- Copy channels and the engines of half-dies. -/
def State.engineMoves (s : State) : List Move :=
  List.flatMap (fun (e : Nat × Cluster) => List.filterMap (fun (h : Nat × Chan) =>
      if h.2.queue.isEmpty then none else some (execCpyExecute e.1 h.1)) e.2.chans) s.clusters
    ++ List.flatMap (fun (e : Nat × HalfDie) => (if e.2.gs.isEmpty then [] else [execGatherExecute e.1, execScatterExecute e.1])
      ++ e.2.coll.map (fun c => execCollectiveExecute e.2.part (BitVec.ofNat 16 (grpGid c.line)) (BitVec.ofNat 16 (grpEpoch c.line)) [])
      ++ e.2.rep.map (fun c => execRepartitionExecute e.2.part (BitVec.ofNat 16 (grpGid c.line)) (BitVec.ofNat 16 (grpEpoch c.line)) []))
      s.halves
/-- The partitions that have a half-die, each with its dies. -/
def State.partDies (s : State) : List (Nat × Nat) :=
  (List.filterMap (fun (e : Nat × HalfDie) => if e.2.member then some (e.2.part, e.1 / 2) else none) s.halves).eraseDups
/-- Kernels, held NOP packets, ranges, workgroups and frames. -/
def State.kernelMoves (s : State) : List Move :=
  List.filterMap (fun (e : Nat × Workgroup) => e.2.save.map (fun _ => execWorkgroupSave e.1)) s.wgs
    ++ s.frames.filterMap (fun f => if f.ready then some (execWorkgroupRestore f.id) else none)
    ++ (if s.ranges.isEmpty then [] else (List.range 48).map execWorkgroupPlacement
      ++ s.partDies.flatMap (fun p => execRangeHandout p.1 p.2 none :: (List.range 12).map (fun c => execRangeHandout p.1 p.2 (some (12 * p.2 + c))))
      ++ s.partDies.flatMap (fun p => execRangeSteal p.1 p.2 none :: (List.range 12).map (fun c => execRangeSteal p.1 p.2 (some (12 * p.2 + c)))))
    ++ List.flatMap (fun (e : Nat × Kernel) => if e.2.st = .none ∨ (e.2.st.live = false ∧ e.2.written) then []
      else [execKernelArm e.1, execTimedRelease e.1, execKernelDistribute e.1, execKernelDrain e.1]) s.kernels
    ++ List.flatMap (fun (e : Nat × Queue) => (e.2.nops.keys).flatMap (fun k => [execTimedRelease k, execKernelDistribute k])) s.queues
/-- Queues with packets published. -/
def State.queueMoves (s : State) : List Move :=
  List.flatMap (fun (e : Nat × Queue) => if e.2.st = 1 then [execPacketFetch (e.1 / 256) (e.1 % 256) none] else []) s.queues
/-- Memory processors: page faults, services, quarantine, migration, the Steeper, passes. -/
def State.pageMoves (s : State) : List Move :=
  List.flatMap (fun (e : Nat × Quad) => e.2.stall.map (fun l => execLightFault l.pte l.dirty)) s.quads
    ++ s.heavies.map (fun h => execHeavyFaultResolved h.pte)
    ++ List.flatMap (fun (e : Nat × HalfDie) => if !e.2.member then [] else [execSweep e.1, execFree e.1, execReturnItemPush e.1, execMintRequest e.1]
      ++ (if e.2.migrations.isEmpty then [] else [execMigration e.1])
      ++ e.2.steeper.map (fun x => if x.staging then execSteeperCommit e.1 x.frame else execSteeperStage e.1 x.frame)) s.halves
    ++ List.filterMap (fun (e : Nat × Partition) => if e.2.quar.isEmpty then none else some (execQuarantineRelease e.1)) s.parts
    ++ List.flatMap (fun (e : Nat × Cluster) => e.2.tlb.filterMap (fun t =>
      if t.migrates (s.ctx t.ctx).migth then some (execMigrationRequest e.1 (BitVec.ofNat 16 t.ctx) (BitVec.ofNat 64 t.base)) else none)) s.clusters
/-- The management processor: setup commands that need no line of the host, and what completes them. -/
def State.setupMoves (s : State) : List Move :=
  let c := BitVec.ofNat 16 s.setup.ctx
  (if s.setup.busy then [execSuspend c, execResume c, execTeardown c, execSuspendComplete c, execTeardownComplete c, execLayoutComplete] else [])
    ++ List.filterMap (fun (e : Nat × Partition) => if e.2.resetting then some (execPartitionResetComplete e.1) else none) s.parts
    ++ (if s.ap.wrote then [execApertureApplied] else []) ++ (if s.up then [] else [execBringUp])
/-- What waits for time to pass: re-reads, watchdogs, packets without an answer, ports. [DESIGN CHOICE, log 3] -/
def State.slowMoves (s : State) : List Move :=
  List.flatMap (fun (e : Nat × Queue) => (if e.2.st = 2 then [execPacketReread (e.1 / 256) (e.1 % 256) none] else [])
      ++ (if e.2.wdt = 0 then [] else [execWatchdogExpiry (e.1 / 256) (e.1 % 256)])) s.queues
    ++ s.remotes.flatMap (fun r => [execUnreachable r.id, execPacketResend r.id])
    ++ List.filterMap (fun (e : Nat × Port) => if e.2.st = .down then some (execPortRetrain e.1) else none) s.ports
/-- A round on a quadrant has something to do: threads to choose from, a period to close, or a workgroup to discard. -/
def State.roundDue (s : State) (q : Nat) : Bool :=
  !(s.eligible q).isEmpty || (s.quad q).bundle.isSome || (s.quadWarps q).any (fun k => (s.wgs.get (s.warp k).wg).doomed)
/-- Rounds of quadrants whose slot is free or closing (R173, R174), the quadrants after the focused one first. -/
def State.roundMoves (s : State) : List Move :=
  let qs := ((s.warps.keys).map quadOf).eraseDups.filter s.roundDue
  (qs.filter (fun q => decide (s.focus < q)) ++ qs.filter (fun q => decide (q ≤ s.focus))).map (fun q (s : State) => execArbitrationRound q { s with focus := q })
/-- One move of an agent. [DESIGN CHOICE, log 1] [DESIGN CHOICE, log 3] -/
def State.agentMove (s : State) : Host.Outcome State Fault Refusal :=
  firstMove (s.slowMoves ++ s.loopMoves ++ s.setupMoves ++ s.warpMoves ++ s.matrixMoves
    ++ s.engineMoves ++ s.pageMoves ++ s.kernelMoves ++ s.queueMoves ++ s.roundMoves) s

end Sys2Proof.Machine
end

