-- ==== Sys2Proof/Machine/Step.lean ====
section
/-! DEFINITION. One step of the machine: the next outside event of the agenda; else a group of a bundle that holds its issue slot;
else a move of one of the device's agents. -/
namespace Sys2Proof.Machine

/-- One step. [DESIGN CHOICE, log 1] -/
def step (s : State) : Host.Outcome State Fault Refusal :=
  match s.agenda with
  | i :: rest => finished (exec i { s with agenda := rest })
  | [] => match s.nextQuad with
    | some q => finished (issueStep { s with focus := q })
    | none => finished s.agentMove

/-- The state with a group of the given bits where the next step fetches: one thread, alone in its bundle, whose program lies in a
page its cluster's TLB holds. [DESIGN CHOICE, log 8] -/
def State.withFetchWord (s : State) (nbits w : Nat) : State :=
  s.placeThread.placeWords (tableWord (w % 2 ^ nbits) 0) (tableWord (w % 2 ^ nbits) 1)

end Sys2Proof.Machine
end

