-- ==== Sys2Proof/Safety.lean ====
section
/-! DEFINITION. What claims call a good state and a safe run: the canonical forms of memory, the state of contexts, and a step
that goes on. -/
namespace Sys2Proof.Machine

/-- The two memories are in their canonical form. -/
def State.canonical (s : State) : Bool := s.mem.wf && s.side.wf
/-- An ACTIVE context has a live kernel or a saved workgroup (R376). -/
def State.ctxsOk (s : State) : Prop :=
  ∀ e ∈ s.ctxs, e.2.st = .active → (∃ k ∈ s.kernels, k.2.ctx = e.1 ∧ k.2.st.live = true) ∨ (∃ f ∈ s.frames, f.ctx = e.1)
/-- A step that ends neither in a fault nor in a refusal. -/
def State.goesOn (s : State) : Prop := ∃ t, step s = .next t
/-- Every number of steps from a state goes on. -/
def State.safeRun (s : State) : Nat → Prop
  | 0 => True
  | n + 1 => ∃ t, step s = .next t ∧ t.safeRun n

-- Groups that complete ----------------------------------------------------------------------------------------------------

/-- The focused quadrant's bundle issues the group g (R61, R172): one thread a lane, none of which has a failure reported
earlier to take (R466). -/
def State.issues (s : State) (c : Ctl) (n : Nat) (g : Grp) : Prop :=
  s.group c n = some g ∧ (g.acts.map Prod.snd).Nodup ∧ ∀ a ∈ g.acts, a.2 < 32 ∧ (s.thread a.1 a.2).defer = []
/-- Elements a group may name without waiting: nothing is pending into them (R83) and their rows are in the register file (R108). -/
def State.calm (s : State) (es : List Elem) : Prop :=
  ∀ e ∈ es, s.pendElem e.1 e.2.1 e.2.2 = [] ∧ (s.warp e.1).movedOf [e.2.1] = []
/-- No element is read before its fixed-latency result is readable (R82). -/
def State.ripe (s : State) (g : Grp) (rs : List Elem) : Prop := ∀ e ∈ rs, s.elemEarly g e = false
/-- Elements a group may read (rs) and write (ws) without waiting or trapping: their rows are held (R98). -/
def State.open (s : State) (g : Grp) (rs ws : List Elem) : Prop :=
  s.calm (rs ++ ws) ∧ s.ripe g rs ∧ ∀ e ∈ rs ++ ws, s.elemHeld e = true
/-- Uniform registers a group may read (rs) and write (ws) without waiting, in every warp with an active thread (R82, R83, R110). -/
def State.uniOpen (s : State) (g : Grp) (rs ws : List SReg) : Prop :=
  ∀ k ∈ g.acts.map Prod.fst, (∀ n ∈ rs ++ ws, s.pendS k n.toNat = [])
    ∧ ∀ n ∈ rs, (s.quad g.q).sb.any (fun x => x.slot == k && x.unif && x.key == n.toNat && decide (g.cycle < x.ready)) = false
/-- The value of elements, low word first (R64). -/
def State.elemsVal (s : State) : List Elem → DWord
  | [] => 0
  | e :: r => ((s.warp e.1).elem e.2.1 e.2.2).setWidth 64 ||| (s.elemsVal r <<< 32)
/-- The value of a source for a thread: its own, a neighbour's or an edge's (R66, R114). -/
def State.source (s : State) (g : Grp) (a : Nat × Nat) (r : Rd) : DWord := s.elemsVal (s.rdElems g a r)

/-- All but the warps and quadrants. -/
def State.rest (s : State) : State := { s with warps := [], quads := [] }
/-- A warp without what register instructions may change: rows and their tags, threads, NF, and the order and place of extended
blocks. -/
def Warp.rest (w : Warp) : Warp := { w with vreg := [], tags := [], threads := [], nf := false, xlast := [], xmoved := 0 }
/-- A quadrant without its bundle, cycle and results in flight, with the cycle they are due. -/
def Quad.rest (q : Quad) : Quad := { q with cycle := 0, bundle := none, sb := [], due := 0 }
/-- A thread without its PC, state and draw counter. -/
def Thread.rest (t : Thread) : Thread := { t with pc := 0, st := .absent, draw := 0 }
/-- The frame of register instructions: memory, rosters, tiles, kernels, contexts and every other part of the machine are
unchanged; of warps and quadrants, what their `rest` keeps. -/
def State.frame (s t : State) : Prop :=
  t.rest = s.rest ∧ (∀ q, (t.quad q).rest = (s.quad q).rest)
    ∧ ∀ k, (t.warp k).rest = (s.warp k).rest ∧ ∀ l, (t.thread k l).rest = (s.thread k l).rest
/-- A warp without its threads. -/
def Warp.still (w : Warp) : Warp := { w with threads := [] }
/-- A thread without its PC and state. -/
def Thread.still (t : Thread) : Thread := { t with pc := 0, st := .absent }
/-- Nothing changes but the PCs and states of threads and the cycle, bundle and results in flight of quadrants. -/
def State.still (s t : State) : Prop :=
  t.rest = s.rest ∧ (∀ q, (t.quad q).rest = (s.quad q).rest)
    ∧ ∀ k, (t.warp k).still = (s.warp k).still ∧ ∀ l, (t.thread k l).still = (s.thread k l).still
/-- Every active thread has done the group: it stands after it and is not in a trap; every other thread is as before. -/
def State.passed (s t : State) (g : Grp) (pc : Nat × Nat → DWord) : Prop :=
  (∀ a ∈ g.acts, (t.thread a.1 a.2).pc = pc a ∧ ((t.thread a.1 a.2).st = .issuing ∨ (t.thread a.1 a.2).st = .ready))
    ∧ ∀ k l, (k, l) ∉ g.acts → t.thread k l = s.thread k l
/-- Elements outside a list hold what they held. -/
def State.elemsKept (s t : State) (es : List Elem) : Prop :=
  ∀ k row lane, lane < 32 → (k, row, lane) ∉ es → (t.warp k).elem row lane = (s.warp k).elem row lane
/-- Of warps and threads, `f` and `h` see no change; the rest of the machine but a quadrant's bundle, cycle and results in flight is
as it was. -/
def State.keeps (f : Warp → Warp) (h : Thread → Thread) (s t : State) : Prop :=
  t.rest = s.rest ∧ (∀ q, (t.quad q).rest = (s.quad q).rest)
    ∧ ∀ k, f (t.warp k) = f (s.warp k) ∧ ∀ l, h (t.thread k l) = h (s.thread k l)
/-- Uniform registers aside, nothing changes but the PCs and states of threads and what a quadrant's `rest` leaves out. -/
def State.sFrame (s t : State) : Prop := State.keeps (fun w => { w.still with sreg := [] }) Thread.still s t
/-- The warps with an active thread write `val` to uniform register d (R110). -/
def State.sWrites (s t : State) (g : Grp) (d : SReg) (val : Nat → Word) : Prop :=
  s.sFrame t ∧ ∀ k n, (t.warp k).s n = if k ∈ g.acts.map Prod.fst ∧ n = d.toNat then val k else (s.warp k).s n
/-- The warp flag NF is set by the threads `nf` names and by no other, and the threads that did the group took `draws` draws
(R50, R57, R116). -/
def State.flagsAre (s t : State) (acts : List (Nat × Nat)) (nf : Nat × Nat → Bool) (draws : Nat) : Prop :=
  ∀ k, (t.warp k).nf = ((s.warp k).nf || acts.any (fun a => a.1 == k && nf a))
    ∧ ∀ l, (t.thread k l).draw = if (k, l) ∈ acts ∧ draws ≠ 0 then advance (s.thread k l).draw draws else (s.thread k l).draw
/-- A row with an element of a list has tag 0; every other row keeps its tag (R43). -/
def State.tagsAre (s t : State) (es : List Elem) : Prop :=
  ∀ k row, (t.warp k).tags.get row = if es.any (fun e => e.1 == k && e.2.1 == row) then 0 else (s.warp k).tags.get row
/-- What a register instruction changes beside threads and rows: the rows written, NF and draws; the rest is its frame. -/
def State.settles (s t : State) (g : Grp) (es : List Elem) (nf : Nat × Nat → Bool) (draws : Nat) : Prop :=
  s.frame t ∧ s.elemsKept t es ∧ s.tagsAre t es ∧ s.flagsAre t g.acts nf draws
/-- A fixed-latency register instruction completes: every active thread writes `val` to d, a word or a pair, and goes on; no other
element of a register row changes, and the rest of the machine is its frame (R81, R116). -/
def State.writes (s t : State) (g : Grp) (d : Wr) (val : Nat × Nat → DWord) (nf : Nat × Nat → Bool) (draws : Nat) : Prop :=
  s.settles t g (g.acts.flatMap (fun a => s.wrElems a (some d))) nf draws ∧ s.passed t g (fun _ => g.next)
    ∧ ∀ a ∈ g.acts, t.elemsVal (s.wrElems a (some d)) = if d.pair then val a else ((val a).setWidth 32).setWidth 64
/-- The frame of instructions whose results land later: results become pending, under fresh numbers; rows, tags, NF and draws are
as they were, and of warps and quadrants what their `rest` keeps. -/
def State.lateFrame (s t : State) : Prop :=
  { t.rest with pend := [], nextId := 0 } = { s.rest with pend := [], nextId := 0 }
    ∧ (∃ ps, t.pend = s.pend ++ ps ∧ ∀ p ∈ ps, s.nextId ≤ p.id)
    ∧ (∀ q, (t.quad q).rest = (s.quad q).rest) ∧ (∀ k, (t.warp k).rest = (s.warp k).rest ∧ ∀ l, (t.thread k l).rest = (s.thread k l).rest)
    ∧ s.elemsKept t [] ∧ s.tagsAre t []
/-- A result is pending for a thread into the elements of its destination, with the words of v in order (R83). -/
def State.owes (s t : State) (a : Nat × Nat) (es : List Elem) (v : DWord) : Prop :=
  ∃ p ∈ t.pend, s.nextId ≤ p.id ∧ p.slot = a.1 ∧ p.remote = false ∧ ∀ i e, es[i]? = some e →
    (elemKey e.2.1 e.2.2, (v >>> (32 * i)).setWidth 32) ∈ p.regs
    ∧ ∀ x ∈ p.regs, x.1 = elemKey e.2.1 e.2.2 → x.2 = (v >>> (32 * i)).setWidth 32
/-- A variable-latency register instruction completes: every active thread goes on, and `val` is pending into its d (R83, R116). -/
def State.promises (s t : State) (g : Grp) (d : Wr) (val : Nat × Nat → DWord) : Prop :=
  s.lateFrame t ∧ s.passed t g (fun _ => g.next) ∧ ∀ a ∈ g.acts, s.owes t a (s.wrElems a (some d)) (val a)
/-- All live threads of one warp do the group, under one window base (R118, R162). -/
def State.whole (s : State) (g : Grp) (k : Nat) : Prop :=
  g.acts = (s.warp k).liveLanes.map (fun l => (k, l)) ∧ s.oneWb k (s.warp k).liveLanes = true
/-- The row a register names under the warp's common window base (R97, R162). -/
def State.rowAt (s : State) (k n : Nat) : Nat := rowOf (s.thread k ((s.warp k).liveLanes.headD 0)) n
/-- Rows a group may read (rs) and write (ws) whole without waiting or trapping (R82, R83, R98, R108). -/
def State.rowsOpen (s : State) (g : Grp) (k : Nat) (rs ws : List Nat) : Prop :=
  (∀ r ∈ rs ++ ws, (s.warp k).holds r = true ∧ s.pendRow k r = [] ∧ (s.warp k).movedOf [r] = []) ∧ ∀ r ∈ rs, s.rowEarly g k r = false
/-- The thread has no reduction and no access of another package outstanding (R225). -/
def State.quiet (s : State) (a : Nat × Nat) : Prop :=
  s.kreqs.all (fun r => !(r.slot == a.1 && r.lane == a.2)) = true ∧ s.hasRemote a.1 a.2 = false
/-- The active threads have done the group. -/
def State.past (t : State) (g : Grp) : Prop :=
  ∀ a ∈ g.acts, (t.thread a.1 a.2).pc = g.next ∧ ((t.thread a.1 a.2).st = .issuing ∨ (t.thread a.1 a.2).st = .ready)
/-- One thread alone does the group, with nothing of its own outstanding. -/
def State.solo (s : State) (c : Ctl) (n : Nat) (g : Grp) (a : Nat × Nat) : Prop := s.issues c n g ∧ g.acts = [a] ∧ s.quiet a
/-- A half-die without the lists of lines that its caches and Kettle cells hold. -/
def HalfDie.rest (h : HalfDie) : HalfDie := { h with l2 := [], msc := [], cells := [], spilled := [], copies := [] }
/-- What of the whole machine no access of a thread changes. -/
def State.rest1 (s : State) : State :=
  { s.rest with wgs := [], mem := [], side := [], badLines := [], loose := [], cores := [], clusters := [], halves := [], pend := [], nextId := 0, fresh := 0 }
/-- The parts of the machine that no access of a thread changes: all but memory with its sidebands, what L1 arrays, caches and Kettle
cells hold, held translations, results pending, the order of extended blocks, NF, the list of tile writes of a workgroup that are not
yet ready with what is known of them (R226), and what a quadrant's `rest` leaves out. -/
def State.tileAccess1 (s t : State) : Prop :=
  t.rest1 = s.rest1 ∧ (∀ h, (t.half h).rest = (s.half h).rest)
    ∧ (∀ j, { (t.core j) with l1 := [], copies := [] } = { (s.core j) with l1 := [], copies := [] })
    ∧ (∀ j, { (t.wgs.get j) with unready := [] } = { (s.wgs.get j) with unready := [] })
    ∧ (∀ j, { (t.cluster j) with tlb := [] } = { (s.cluster j) with tlb := [] })
    ∧ (∀ q, { (t.quad q).rest with lpr := [] } = { (s.quad q).rest with lpr := [] })
    ∧ (∃ ps, t.pend = s.pend ++ ps ∧ ∀ p ∈ ps, s.nextId ≤ p.id)
    ∧ ∀ k, { (t.warp k).still with xlast := [], xmoved := 0, nf := false } = { (s.warp k).still with xlast := [], xmoved := 0, nf := false }
      ∧ ∀ l, (t.thread k l).still = (s.thread k l).still
/-- The same of an access that writes no tile: while no tile write waits for an OPRDY, no workgroup changes. -/
def State.access1 (s t : State) : Prop := s.tileAccess1 t ∧ (s.allReady = true → t.wgs = s.wgs)
/-- Memory, its sidebands, its lines in error and every NF are unchanged. -/
def State.memKept (s t : State) : Prop :=
  t.mem = s.mem ∧ t.side = s.side ∧ t.badLines = s.badLines ∧ ∀ k, (t.warp k).nf = (s.warp k).nf
/-- Of memory, n bytes at pa hold v, every other byte is unchanged, the line of pa keeps its TAG and scale slots and has a check value
that matches, and canonical form is kept (R197, R450). -/
def State.stored (s t : State) (pa n : Nat) (v : Nat) : Prop :=
  t.mem.read pa n = v % 2 ^ (8 * n) ∧ (∀ x, x < pa ∨ pa + n ≤ x → t.mem.byte x = s.mem.byte x)
    ∧ (t.line (pa / 128)).tag = (s.line (pa / 128)).tag ∧ (t.line (pa / 128)).scales = (s.line (pa / 128)).scales
    ∧ t.lineBad (pa / 128) = none ∧ t.badLines = s.badLines ∧ (s.canonical = true → t.canonical = true)
/-- No word of n bytes at pa lies in a table of page entries that a bound context reaches (R325, R331). -/
def State.untabled (s : State) (pa n : Nat) : Prop := ∀ w ∈ wordsOf pa (pa + n), inTables (s.tablesOf (fun _ _ => true)) w = false
/-- In n bytes at pa lies nothing that the device keeps there for itself: no saved workgroup, no page of its pool or of a repeatable
kernel's, no register block of the overflow area, no header of a sealed page; and no table of page entries that a bound context
reaches (R331, R340, R381). -/
def State.unkept (s : State) (pa n : Nat) : Prop :=
  let clear := fun (a m : Nat) => pa + n ≤ a ∨ a + m ≤ pa
  (∀ f ∈ s.frames, clear (s.frameBase f.ctx f.slot) (2 ^ 22)
      ∧ clear (s.frameBase f.ctx (s.ctx f.ctx).nframe) (128 * (s.ctx f.ctx).rplines))
    ∧ (∀ e ∈ s.warps, e.2.xmoved ≠ 0 → clear (s.overflowSlab (s.ctxOf e.1) (coreOf e.1)) (2 ^ 20))
    ∧ (∀ e ∈ s.kernels, e.2.repeatable = true → clear (s.frameBase e.2.ctx (s.ctx e.2.ctx).nframe) (128 * (s.ctx e.2.ctx).rplines))
    ∧ (∀ e ∈ s.sealedKv, clear (128 * e.1) 128)
    ∧ s.untabled pa n
/-- No armed watch lies on n bytes at pa. -/
def State.unwatched (s : State) (pa n : Nat) : Prop := ∀ w ∈ s.watches, w.pa + 4 ≤ pa ∨ pa + n ≤ w.pa
/-- The line a warp slot's access with order o finds at pa: its L1's copy, unless the memory is sync memory or reached through an I/O
page, or the access acquires past the core; else memory's, which must pass its checks (R190, R196, R198, R218). -/
def State.sees (s : State) (slot : Nat) (o : OrdSc) (pa mt : Nat) (l : Line) : Prop :=
  match (if mt = 1 ∨ mt = 3 ∨ ordWide o = true then none else (s.l1 (coreOf slot)).find (pa / 128)) with
  | some x => l = x
  | none => s.lineFault (pa / 128) = none ∧ l = s.line (pa / 128)
/-- An access of an agent to a line at va for a context is granted, finding it at pa in this package; nothing changes (R192). -/
def State.agentAt (s : State) (ctx : Nat) (va : DWord) (kind : AccKind) (pa : Nat) : Prop :=
  ∃ e mt, s.agentAccess ctx 128 va kind = (.ok e, s) ∧ e.t = .mem pa mt
/-- The line at va as an agent reads it for a context: granted and intact (R300, R450). -/
def State.agentSees (s : State) (ctx : Nat) (va : DWord) (l : Line) : Prop :=
  ∃ pa, s.agentAt ctx va lineLoadKind pa ∧ s.lineFault (pa / 128) = none ∧ s.line (pa / 128) = l
/-- Outside some ranges of memory, first byte and length, every byte is unchanged. -/
def State.onlyBytes (s t : State) (rs : List (Nat × Nat)) : Prop :=
  ∀ y, (∀ r ∈ rs, y < r.1 ∨ r.1 + r.2 ≤ y) → t.mem.byte y = s.mem.byte y
/-- Kernel k has been aborted with a cause: its indices, saved frames, buffered stores and partials are dropped, its resident workgroups are to
stop at their next period boundary, and its engine commands to stop (R302, R374). -/
def State.aborts (s t : State) (k cause : Nat) : Prop :=
  t.mem = s.mem
    ∧ (∀ j, t.warp j = if (s.wgs.get (s.warp j).wg).kernel = k then { (s.warp j) with buf := [] } else s.warp j)
    ∧ t.kernel k = { s.kernel k with st := .aborted, partials := [], cause := if (s.kernel k).cause = 0 then cause else (s.kernel k).cause }
    ∧ (∀ j, j ≠ k → t.kernel j = s.kernel j)
    ∧ (∀ r, r ∈ t.ranges ↔ r ∈ s.ranges ∧ r.kernel ≠ k) ∧ (∀ f, f ∈ t.frames ↔ f ∈ s.frames ∧ f.wg.kernel ≠ k)
    ∧ (∀ n g, s.wgs.find n = some g → t.wgs.find n = some (if g.kernel = k then { g with doomed := true, done := [], commits := [] } else g))
    ∧ (∀ c n e, e ∈ ((t.cluster c).chans.get n).queue → e.kernel = k → e.aborted = true)
    ∧ ∀ h e, e ∈ (t.half h).gs ++ (t.half h).coll ++ (t.half h).rep → e.kernel = k → e.aborted = true
/-- An error record of a class is written to the host's ring and signalled, or counted as lost (R455). -/
def State.records (s t : State) (cls : Nat) : Prop :=
  if s.err.cfg.getLsbD 8 = true ∧ (s.err.widx - s.err.ridx).toNat < 2 ^ bf s.err.cfg 0 5 then
    ∃ l : LineBits, bf l 40 8 = cls ∧ bf l 0 26 = s.err.widx.toNat % 2 ^ 26 ∧ bf l 192 64 = s.devtime % 2 ^ 64 ∧ t.err = { s.err with widx := s.err.widx + 1 }
      ∧ t.hostOut = s.hostOut ++ [.dmaLine (s.err.base + BitVec.ofNat 64 (128 * (s.err.widx.toNat % 2 ^ bf s.err.cfg 0 5))) l, .msix 0]
  else t.err = { s.err with drops := s.err.drops + 1 } ∧ t.hostOut = s.hostOut
/-- A warp slot's context finds a code word at va: executable, MODE 0, MTYPE 0; in its core's instruction cache, or in memory, whose line is
intact (R136, R190, R450). -/
def State.holdsCode (s : State) (slot : Nat) (va : DWord) (w : Word) : Prop :=
  ∃ tr pa mt, s.translate (.fetch (clusterOf slot)) (s.ctxOf slot) va = .ok tr ∧ leafMode tr.leaf = 0 ∧ s.grant tr va { ex := true } = .ok (.mem pa mt)
    ∧ match s.codeAt (coreOf slot) (s.ctxOf slot) va (pa / 128) with
      | some d => BitVec.ofNat 32 (dataField d (pa % 128) 4) = w
      | none => s.lineBad (pa / 128) = none ∧ BitVec.ofNat 32 (s.mem.read pa 4) = w
/-- Where its bundle issues it and its operands are open, a register instruction of n words writes `val` of its sources to d in
every active thread, and sets no flag. -/
def Computes (i : Instr) (c : Ctl) (n : Nat) (rds : List Rd) (d : Wr) (val : List DWord → DWord) : Prop :=
  ∀ s g, s.issues c n g → (∀ a ∈ g.acts, s.open g (rds.flatMap (s.rdElems g a)) (s.wrElems a (some d))) →
    ∃ t, exec i s = .next t ∧ s.writes t g d (fun a => val (rds.map (s.source g a))) (fun _ => false) 0
/-- The same of a floating-point instruction: `f` gives its result and NF, from the fields of its modifiers, the mode of each of its
roundings and the sources; under .sr it takes nd draws (R66, R115, R145, R146). -/
def ComputesFp (i : Instr) (c : Ctl) (p : Option Pfx) (nd : Nat) (rds : List Rd) (d : VReg)
    (f : Pfx → (Nat → Mode) → List DWord → Word × Bool) : Prop :=
  ∀ s g, s.issues c (groupWords p) g → (∀ a ∈ g.acts, s.open g (rds.flatMap (s.rdElems g a)) (s.wrElems a (some { n := d.toNat }))) →
    let r := fun (a : Nat × Nat) => f (pfxOr p) (fun j => Rnd.mode (pfxOr p).rnd (s.drawAt a.1 a.2 j)) (rds.map (s.source g a))
    ∃ t, exec i s = .next t ∧ s.writes t g { n := d.toNat } (fun a => (r a).1.setWidth 64) (fun a => (r a).2)
      (if (pfxOr p).rnd = .sr then nd else 0)

end Sys2Proof.Machine
end

