-- ==== Sys2Proof/Certificates/Slice0/Obligations.lean ====
section
/-! DEFINITION. The statements for the provers: what the instructions and the machine do, from the numbered rules of the spec. -/
open Sys2Proof Sys2Proof.Machine

-- Register instructions -------------------------------------------------------------------------------------------------------

/-- R121: the result of every 32-bit three-register instruction, in every active thread of its bundle, with and without a prefix; the
sources of R114, no flag set, no other row element changed (R119, R120). -/
def Obligations.IntegerThreeRegister : Prop :=
  ∀ (c : Ctl) (p : Option Pfx) (d a b : VReg),
    let two := fun (i : Instr) (f : Word → Word → Word) =>
      Computes i c (groupWords p) [srcA p a, srcB p b] { n := d.toNat } (fun vs => (f (vw vs 0) (vw vs 1)).setWidth 64)
    let three := fun (i : Instr) (f : Word → Word → Word → Word) =>
      Computes i c (groupWords p) [srcA p a, srcB p b, own d] { n := d.toNat } (fun vs => (f (vw vs 0) (vw vs 1) (vw vs 2)).setWidth 64)
    two (.add c p d a b) (fun x y => x + y) ∧ two (.sub c p d a b) (fun x y => x - y)
    ∧ two (.mul c p d a b) (fun x y => BitVec.ofNat 32 (x.toNat * y.toNat))
    ∧ two (.mulhS32 c p d a b) (fun x y => BitVec.ofInt 32 (x.toInt * y.toInt / 2 ^ 32))
    ∧ two (.mulhZ32 c p d a b) (fun x y => BitVec.ofNat 32 (x.toNat * y.toNat / 2 ^ 32))
    ∧ three (.mad c p d a b) (fun x y z => BitVec.ofNat 32 (x.toNat * y.toNat + z.toNat))
    ∧ two (.andn c p d a b) (fun x y => x &&& ~~~y) ∧ two (.and c p d a b) (fun x y => x &&& y)
    ∧ two (.or c p d a b) (fun x y => x ||| y) ∧ two (.xor c p d a b) (fun x y => x ^^^ y)
    ∧ two (.shl c p d a b) (fun x y => BitVec.ofNat 32 (x.toNat * 2 ^ min y.toNat 32))
    ∧ two (.shr c p d a b) (fun x y => BitVec.ofNat 32 (x.toNat / 2 ^ min y.toNat 32))
    ∧ two (.sar c p d a b) (fun x y => BitVec.ofInt 32 (x.toInt / 2 ^ min y.toNat 32))
    ∧ two (.rotl c p d a b) (fun x y => (x <<< (y.toNat % 32)) ||| (x >>> (32 - y.toNat % 32)))
    ∧ three (.sel c p d a b) (fun x y z => if z = 0 then y else x)
    ∧ two (.minS32 c p d a b) (fun x y => if x.toInt ≤ y.toInt then x else y)
    ∧ two (.minZ32 c p d a b) (fun x y => if x.toNat ≤ y.toNat then x else y)
    ∧ two (.maxS32 c p d a b) (fun x y => if x.toInt ≤ y.toInt then y else x)
    ∧ two (.maxZ32 c p d a b) (fun x y => if x.toNat ≤ y.toNat then y else x)
    ∧ two (.cmpS32 c p d a b) (fun x y => if x.toInt < y.toInt then 0xFFFFFFFF else if x.toInt = y.toInt then 0 else 1)
    ∧ two (.cmpZ32 c p d a b) (fun x y => if x.toNat < y.toNat then 0xFFFFFFFF else if x.toNat = y.toNat then 0 else 1)

/-- R122: the bit-field instructions, whose field starts at b[4:0] and is min(b[13:8], 32) bits wide, cut at the register's end. -/
def Obligations.BitFields : Prop :=
  ∀ (c : Ctl) (p : Option Pfx) (d a b : VReg),
    let pos := fun (y : Word) => y.toNat % 32
    let e := fun (y : Word) => min (min (y.toNat / 256 % 64) 32) (32 - pos y)
    let field := fun (x y : Word) => x.toNat / 2 ^ pos y % 2 ^ e y
    let two := fun (i : Instr) (f : Word → Word → Word) =>
      Computes i c (groupWords p) [srcA p a, srcB p b] { n := d.toNat } (fun vs => (f (vw vs 0) (vw vs 1)).setWidth 64)
    two (.bfxZ32 c p d a b) (fun x y => BitVec.ofNat 32 (field x y))
    ∧ two (.bfxS32 c p d a b) (fun x y => if e y = 0 then 0
        else BitVec.ofInt 32 (if field x y < 2 ^ (e y - 1) then (field x y : Int) else (field x y : Int) - 2 ^ e y))
    ∧ Computes (.bfi c p d a b) c (groupWords p) [srcA p a, srcB p b, own d] { n := d.toNat } (fun vs =>
        let x := vw vs 0
        let y := vw vs 1
        let z := vw vs 2
        BitVec.ofNat 64 (z.toNat - field z y * 2 ^ pos y + x.toNat % 2 ^ e y * 2 ^ pos y))

/-- R124, R125, R126: the immediate and constant forms, short and long, and the unary forms. -/
def Obligations.IntegerImmediateUnary : Prop :=
  ∀ (c : Ctl) (d a : VReg),
    let f1 := fun (i : Instr) (n : Nat) (f : Word → Word) =>
      Computes i c n [own a] { n := d.toNat } (fun vs => (f (vw vs 0)).setWidth 64)
    let pair := fun (i : Instr) (f : DWord → DWord) =>
      Computes i c 1 [ownPair a] { n := d.toNat, pair := true } (fun vs => f (vd vs 0))
    (∀ imm : BitVec 7, let v : Word := BitVec.ofInt 32 imm.toInt
      f1 (.addi c d a imm) 1 (· + v) ∧ f1 (.andi c d a imm) 1 (· &&& v) ∧ f1 (.ori c d a imm) 1 (· ||| v)
        ∧ f1 (.xori c d a imm) 1 (· ^^^ v))
    ∧ (∀ imm : BitVec 28, let v : Word := BitVec.ofInt 32 imm.toInt
      f1 (.addiLong c d a imm) 2 (· + v) ∧ f1 (.andiLong c d a imm) 2 (· &&& v) ∧ f1 (.oriLong c d a imm) 2 (· ||| v)
        ∧ f1 (.xoriLong c d a imm) 2 (· ^^^ v))
    ∧ (∀ n : BitVec 5, f1 (.shli c d a n) 1 (fun x => BitVec.ofNat 32 (x.toNat * 2 ^ n.toNat))
        ∧ f1 (.shri c d a n) 1 (fun x => BitVec.ofNat 32 (x.toNat / 2 ^ n.toNat))
        ∧ f1 (.sari c d a n) 1 (fun x => BitVec.ofInt 32 (x.toInt / 2 ^ n.toNat)))
    ∧ (∀ imm : BitVec 14, Computes (.movi c d imm) c 1 [] { n := d.toNat } (fun _ => (BitVec.ofInt 32 imm.toInt).setWidth 64)
        ∧ Computes (.movh c d imm) c 1 [] { n := d.toNat } (fun _ => BitVec.ofNat 64 (imm.toNat * 2 ^ 18)))
    ∧ (∀ imm : BitVec 32, Computes (.moviLong c d imm) c 2 [] { n := d.toNat } (fun _ => imm.setWidth 64))
    ∧ f1 (.mov c d a) 1 (fun x => x) ∧ f1 (.not c d a) 1 (fun x => 0xFFFFFFFF ^^^ x)
    ∧ f1 (.neg c d a) 1 (fun x => BitVec.ofInt 32 (-x.toInt)) ∧ f1 (.abs c d a) 1 (fun x => BitVec.ofInt 32 |x.toInt|)
    ∧ f1 (.clz c d a) 1 (fun x => BitVec.ofNat 32 ((List.range 32).reverse.takeWhile (fun i => !x.getLsbD i)).length)
    ∧ f1 (.ctz c d a) 1 (fun x => BitVec.ofNat 32 ((List.range 32).takeWhile (fun i => !x.getLsbD i)).length)
    ∧ f1 (.popc c d a) 1 (fun x => BitVec.ofNat 32 ((List.range 32).filter (fun i => x.getLsbD i)).length)
    ∧ f1 (.brev c d a) 1 (fun x => x.reverse)
    ∧ pair (.movZ64 c d a) (fun x => x) ∧ pair (.notZ64 c d a) (fun x => BitVec.allOnes 64 ^^^ x)
    ∧ pair (.negS64 c d a) (fun x => BitVec.ofInt 64 (-x.toInt)) ∧ pair (.absS64 c d a) (fun x => BitVec.ofInt 64 |x.toInt|)

/-- R127: the 64-bit forms on pairs, whose shift count is the low word of pair b. -/
def Obligations.IntegerPairs : Prop :=
  ∀ (c : Ctl) (d a b : VReg),
    let two := fun (i : Instr) (f : DWord → DWord → DWord) =>
      Computes i c 1 [ownPair a, ownPair b] { n := d.toNat, pair := true } (fun vs => f (vd vs 0) (vd vs 1))
    let n := fun (y : DWord) => min (y.toNat % 2 ^ 32) 64
    two (.addS64 c d a b) (fun x y => x + y) ∧ two (.subS64 c d a b) (fun x y => x - y)
    ∧ two (.mulS64 c d a b) (fun x y => BitVec.ofNat 64 (x.toNat * y.toNat))
    ∧ two (.shlZ64 c d a b) (fun x y => BitVec.ofNat 64 (x.toNat * 2 ^ n y))
    ∧ two (.shrZ64 c d a b) (fun x y => BitVec.ofNat 64 (x.toNat / 2 ^ n y))
    ∧ two (.sarS64 c d a b) (fun x y => BitVec.ofInt 64 (x.toInt / 2 ^ n y))
    ∧ two (.minS64 c d a b) (fun x y => if x.toInt ≤ y.toInt then x else y)
    ∧ two (.minZ64 c d a b) (fun x y => if x.toNat ≤ y.toNat then x else y)
    ∧ two (.maxS64 c d a b) (fun x y => if x.toInt ≤ y.toInt then y else x)
    ∧ two (.maxZ64 c d a b) (fun x y => if x.toNat ≤ y.toNat then y else x)
    ∧ two (.cmpS64 c d a b) (fun x y => if x.toInt < y.toInt then BitVec.allOnes 64 else if x.toInt = y.toInt then 0 else 1)
    ∧ two (.cmpZ64 c d a b) (fun x y => if x.toNat < y.toNat then BitVec.allOnes 64 else if x.toNat = y.toNat then 0 else 1)
    ∧ two (.andZ64 c d a b) (fun x y => x &&& y) ∧ two (.orZ64 c d a b) (fun x y => x ||| y)
    ∧ two (.xorZ64 c d a b) (fun x y => x ^^^ y)

/-- R148 to R151: FP32 arithmetic. The operands after ABS and NEG (R115) and the result decide NF (R57); one rounding under the
prefix's mode, with its draw (R146). -/
def Obligations.FloatArithmetic : Prop :=
  ∀ (c : Ctl) (p : Option Pfx) (d a b : VReg),
    let two := fun (i : Instr) (f : Bool → Machine.Num → Machine.Num → Machine.Num) => ComputesFp i c p 1 [srcA p a, srcB p b] d (fun q md vs =>
      let r := toF32 (md 0) q.sat (f (md 0 == .rdn) (f32 (modA q vs)) (f32 (modB q vs)))
      (r, nfOf [f32 (modA q vs), f32 (modB q vs), f32 r]))
    let choice := fun (i : Instr) (f : Word → Word → Word) => ComputesFp i c p 0 [srcA p a, srcB p b] d (fun q _ vs =>
      (f (modA q vs) (modB q vs), nfOf [f32 (modA q vs), f32 (modB q vs)]))
    two (.fadd c p d a b) (fun dn x y => x.add dn y) ∧ two (.fsub c p d a b) (fun dn x y => x.add dn y.negate)
    ∧ two (.fmul c p d a b) (fun _ x y => x.mul y)
    ∧ ComputesFp (.ffma c p d a b) c p 1 [srcA p a, srcB p b, own d] d (fun q md vs =>
        let z := f32 (signMod q.absd q.negd (vw vs 2))
        let r := toF32 (md 0) q.sat (((f32 (modA q vs)).mul (f32 (modB q vs))).add (md 0 == .rdn) z)
        (r, nfOf [f32 (modA q vs), f32 (modB q vs), z, f32 r]))
    ∧ choice (.fmin c p d a b) fminW ∧ choice (.fmax c p d a b) fmaxW
    ∧ choice (.fcmp c p d a b) (fun x y => if f32 x = .nan ∨ f32 y = .nan then 2
        else if (f32 x).lt (f32 y) then 0xFFFFFFFF else if (f32 y).lt (f32 x) then 1 else 0)
    ∧ ComputesFp (.fscl c p d a b) c p 1 [srcA p a, srcB p b] d (fun q md vs =>
        let r := toF32 (md 0) q.sat ((f32 (modA q vs)).scale (vw vs 1).toInt)
        (r, nfOf [f32 (modA q vs), f32 r]))

/-- R152 to R157: the functions of one source and FCVT in both directions, for every format and slot. -/
def Obligations.FloatFunctions : Prop :=
  ∀ (c : Ctl) (p : Option Pfx) (d a : VReg),
    let one := fun (i : Instr) (nd : Nat) (f : Pfx → Mode → Word → Word) => ComputesFp i c p nd [srcA p a] d (fun q md vs =>
      let r := f q (md 0) (modA q vs)
      (r, nfOf [f32 (modA q vs), f32 r]))
    let canon := fun (x : Word) => if f32 x = .nan then (0x7FC00000 : Word) else x
    one (.fabs c p d a) 0 (fun _ _ x => canon (x &&& 0x7FFFFFFF)) ∧ one (.fneg c p d a) 0 (fun _ _ x => canon (x ^^^ 0x80000000))
    ∧ one (.frnd c p d a) 1 (fun q md x => frnd md q.sat (f32 x))
    ∧ one (.frcp c p d a) 0 (fun _ _ x => rneF32 (f32 x).recip) ∧ one (.frsq c p d a) 0 (fun _ _ x => rneF32 (f32 x).rsqrt)
    ∧ one (.fsqrt c p d a) 1 (fun q md x => toF32 md q.sat (f32 x).sqrt)
    ∧ one (.fexp2 c p d a) 0 (fun _ _ x => fexp2 (f32 x)) ∧ one (.flog2 c p d a) 0 (fun _ _ x => flog2 (f32 x))
    ∧ ComputesFp (.fclass c p d a) c p 0 [srcA p a] d (fun q _ vs => (fclassWord (modA q vs), nfOf [f32 (modA q vs)]))
    ∧ (∀ (f : CvtFmt) (k : BitVec 2), match cvtFmt f with
      | some m => ComputesFp (.fcvtToFormat c p f k d a) c p 1 [srcA p a, own d] d (fun q md vs =>
            let code := m.round (md 0) q.sat (f32 (modA q vs))
            (putSlot m k.toNat code (vw vs 1), nfOf [f32 (modA q vs), m.decode code]))
          ∧ ComputesFp (.fcvtToF32 c p f k d a) c p 0 [srcA p a] d (fun q _ vs =>
            (rneF32 (m.decode (slotCode m k.toNat (modA q vs))), nfOf [m.decode (slotCode m k.toNat (modA q vs))]))
      | none => ComputesFp (.fcvtToFormat c p f k d a) c p 1 [srcA p a] d (fun q md vs =>
            let lo : Int := if f = .s32 then -(2 ^ 31) else 0
            (BitVec.ofInt 32 (clampInt (md 0) (f32 (modA q vs)) lo (lo + (2 ^ 32 - 1))), nfOf [f32 (modA q vs)]))
          ∧ ComputesFp (.fcvtToF32 c p f k d a) c p 1 [srcA p a] d (fun q md vs =>
            let x : Int := if f = .s32 then (modA q vs).toInt else (modA q vs).toNat
            (toF32 (md 0) q.sat (Num.ofInt x), false)))

/-- R158, R159: packed halves, low then high with a draw each, and the four-element dots, whose accumulator takes one rounding. -/
def Obligations.FloatPacked : Prop :=
  ∀ (c : Ctl) (p : Option Pfx) (d a b : VReg),
    let halves := fun (i : Instr) (m : FFmt) (acc : Bool) (f : Bool → Machine.Num → Machine.Num → Machine.Num → Machine.Num) =>
      ComputesFp i c p 2 ([srcA p a, srcB p b] ++ if acc then [own d] else []) d (fun q md vs =>
        let x := signMod2 q.absa q.nega (vw vs 0)
        let y := signMod2 q.absb q.negb (vw vs 1)
        let z := signMod2 q.absd q.negd (vw vs 2)
        let code := fun h => m.round (md h) q.sat (f (md h == .rdn) (half m h x) (half m h y) (half m h z))
        (BitVec.ofNat 32 (code 0 + 2 ^ 16 * code 1),
          (List.range 2).any (fun h => nfOf ([half m h x, half m h y, m.decode (code h)] ++ if acc then [half m h z] else []))))
    let dot := fun (i : Instr) (elem : Nat → Machine.Num) => ComputesFp i c p 1 [srcA p a, srcB p b, own d] d (fun q md vs =>
      let es := fun (x : Word) => (List.range 4).map (fun k => elem (x.toNat / 2 ^ (8 * k) % 2 ^ 8))
      let acc := f32 (vw vs 2)
      let sum := dotSum (es (vw vs 0)) (es (vw vs 1))
      let r := toF32 (md 0) q.sat (if sum.isZero then acc else acc.add (md 0 == .rdn) sum)
      (r, nfOf (es (vw vs 0) ++ es (vw vs 1) ++ [acc, f32 r])))
    halves (.hadd2F16 c p d a b) .f16 false (fun dn x y _ => x.add dn y)
    ∧ halves (.hadd2Bf16 c p d a b) .bf16 false (fun dn x y _ => x.add dn y)
    ∧ halves (.hmul2F16 c p d a b) .f16 false (fun _ x y _ => x.mul y) ∧ halves (.hmul2Bf16 c p d a b) .bf16 false (fun _ x y _ => x.mul y)
    ∧ halves (.hfma2F16 c p d a b) .f16 true (fun dn x y z => (x.mul y).add dn z)
    ∧ halves (.hfma2Bf16 c p d a b) .bf16 true (fun dn x y z => (x.mul y).add dn z)
    ∧ dot (.dot4E4m3 c p d a b) FFmt.e4m3.decode ∧ dot (.dot4E5m2 c p d a b) FFmt.e5m2.decode
    ∧ dot (.dot4S8 c p d a b) (fun x => Num.ofInt (if x < 128 then (x : Int) else (x : Int) - 256))

-- Uniform and cross-lane instructions, control transfer ---------------------------------------------------------------------------

/-- R128, R129, R130: SALU, SMOV and SMOVI, once for each warp with an active thread.
R129, R132: BCAST, VTOS from the lowest active lane, and SWAITQ, which goes on where (SEQ − q) mod 2^16 < 2^15 and else waits. -/
def Obligations.UniformResults : Prop :=
  (∀ (c : Ctl) (d a b : SReg) (s : State) (g : Grp),
    let does := fun (i : Instr) (n : Nat) (srcs : List SReg) (f : Word → Word → Word) =>
      s.issues c n g → s.uniOpen g srcs [d] → ∃ t, exec i s = .next t ∧ s.passed t g (fun _ => g.next)
        ∧ s.sWrites t g d (fun k => f ((s.warp k).s a.toNat) ((s.warp k).s b.toNat))
    does (.sadd c d a b) 1 [a, b] (fun x y => x + y) ∧ does (.ssub c d a b) 1 [a, b] (fun x y => x - y)
    ∧ does (.sand c d a b) 1 [a, b] (fun x y => x &&& y) ∧ does (.sor c d a b) 1 [a, b] (fun x y => x ||| y)
    ∧ does (.sxor c d a b) 1 [a, b] (fun x y => x ^^^ y)
    ∧ does (.sshl c d a b) 1 [a, b] (fun x y => BitVec.ofNat 32 (x.toNat * 2 ^ min y.toNat 32))
    ∧ does (.sshr c d a b) 1 [a, b] (fun x y => BitVec.ofNat 32 (x.toNat / 2 ^ min y.toNat 32))
    ∧ does (.scmp c d a b) 1 [a, b] (fun x y => if x.toInt < y.toInt then 0xFFFFFFFF else if x.toInt = y.toInt then 0 else 1)
    ∧ does (.smov c d a) 1 [a] (fun x _ => x)
    ∧ (∀ imm : BitVec 14, does (.smovi c d imm) 1 [] (fun _ _ => BitVec.ofInt 32 imm.toInt))
    ∧ (∀ imm : BitVec 32, does (.smoviLong c d imm) 2 [] (fun _ _ => imm)))
  ∧ (∀ (c : Ctl) (s : State) (g : Grp), s.issues c 1 g →
    (∀ (d : VReg) (a : SReg), s.uniOpen g [a] [] → (∀ x ∈ g.acts, s.open g [] (s.wrElems x (some { n := d.toNat }))) →
      ∃ t, exec (.bcast c d a) s = .next t
        ∧ s.writes t g { n := d.toNat } (fun x => ((s.warp x.1).s a.toNat).setWidth 64) (fun _ => false) 0)
    ∧ (∀ (d : SReg) (a : VReg), let low := fun (k : Nat) => s.fieldElems (k, ((g.acts.filter (·.1 == k)).map Prod.snd).headD 0) a.toNat false
        s.uniOpen g [] [d] → (∀ x ∈ g.acts, s.open g (low x.1) []) →
        ∃ t, exec (.vtos c d a) s = .next t ∧ s.passed t g (fun _ => g.next)
          ∧ State.keeps (fun w => { w.still with sreg := [], xlast := [], xmoved := 0 }) Thread.still s t
          ∧ ∀ k n, (t.warp k).s n
              = if k ∈ g.acts.map Prod.fst ∧ n = d.toNat then (s.elemsVal (low k)).setWidth 32 else (s.warp k).s n)
    ∧ (∀ a : SReg, s.uniOpen g [a] [] →
        let over1 := fun (k : Nat) => (((s.warp k).rsltseq - ((s.warp k).s a.toNat).setWidth 16).toNat < 2 ^ 15 : Prop)
        ((∀ x ∈ g.acts, over1 x.1) → ∃ t, exec (.swaitq c a) s = .next t ∧ s.still t ∧ s.passed t g (fun _ => g.next))
        ∧ ((∀ x ∈ g.acts, ¬ over1 x.1) → ∃ t, exec (.swaitq c a) s = .next t ∧ t.rest = s.rest
            ∧ ∀ x ∈ g.acts, (t.thread x.1 x.2).st = .waiting ∧ (t.thread x.1 x.2).pc = (s.thread x.1 x.2).pc)))

/-- R133, R134, R135, R138: branches, calls, jumps, RET and NOP. BRC tests each thread's va, BRU the warp's sa, by COND of R73.
R62, R389: a transfer of control, EXIT or ERET without BELL is an illegal instruction. -/
def Obligations.Transfers : Prop :=
  (∀ (c : Ctl) (s : State) (g : Grp) (n : Nat), s.issues c n g →
    let target := fun (off : Int) => g.pc + 4 * BitVec.ofInt 64 off
    let holds := fun (k : Cond) (v : Word) => match k with
      | .z => v = 0
      | .nz => v ≠ 0
      | .lt => v = 0xFFFFFFFF
      | .gt => v = 1
      | .le => v = 0xFFFFFFFF ∨ v = 0
      | .ge => v = 0 ∨ v = 1
      | .un => v = 2
      | .neg => v.getLsbD 31 = true
    (n = 1 → ∃ t, exec (.nop c) s = .next t ∧ s.still t ∧ s.passed t g (fun _ => g.next))
    ∧ (c.bell = true →
      (n = 1 → ∀ off : BitVec 21, ∃ t, exec (.bra c off) s = .next t ∧ s.still t ∧ s.passed t g (fun _ => target off.toInt))
      ∧ (n = 1 → ∀ (a : VReg) (k : Cond) (off : BitVec 11), (∀ x ∈ g.acts, s.open g (s.rdElems g x (own a)) []) →
          ∃ t, exec (.brc c a k off) s = .next t ∧ s.settles t g [] (fun _ => false) 0
            ∧ ∃ pc, s.passed t g pc ∧ ∀ x ∈ g.acts, (holds k ((s.source g x (own a)).setWidth 32) → pc x = target off.toInt)
              ∧ (¬ holds k ((s.source g x (own a)).setWidth 32) → pc x = g.next))
      ∧ (n = 1 → ∀ (a : SReg) (k : Cond) (off : BitVec 11), s.uniOpen g [a] [] →
          ∃ t, exec (.bru c a k off) s = .next t ∧ s.still t
            ∧ ∃ pc, s.passed t g pc ∧ ∀ x ∈ g.acts, (holds k ((s.warp x.1).s a.toNat) → pc x = target off.toInt)
              ∧ (¬ holds k ((s.warp x.1).s a.toNat) → pc x = g.next))
      ∧ (∀ (i : Instr) (d : VReg) (off : Int), (n = 1 ∧ ∃ imm : BitVec 14, i = .call c d imm ∧ off = imm.toInt)
            ∨ (n = 2 ∧ ∃ imm : BitVec 32, i = .callLong c d imm ∧ off = imm.toInt) →
          (∀ x ∈ g.acts, s.open g [] (s.wrElems x (some { n := d.toNat, pair := true }))) →
          ∃ t, exec i s = .next t ∧ s.settles t g (g.acts.flatMap (fun x => s.wrElems x (some { n := d.toNat, pair := true }))) (fun _ => false) 0
            ∧ s.passed t g (fun _ => target off) ∧ ∀ x ∈ g.acts, t.elemsVal (s.wrElems x (some { n := d.toNat, pair := true })) = g.next)
      ∧ (n = 1 → ∀ (i : Instr) (a : VReg), i = .jmpi c a ∨ i = .ret c a → (∀ x ∈ g.acts, s.open g (s.rdElems g x (ownPair a)) []) →
          (∀ x ∈ g.acts, (s.source g x (ownPair a)).toNat % 4 = 0) →
          ∃ t, exec i s = .next t ∧ s.settles t g [] (fun _ => false) 0 ∧ s.passed t g (fun x => s.source g x (ownPair a)))))
  ∧ (∀ (c : Ctl) (s : State) (i : Instr), c.bell = false →
    ((∃ off, i = .bra c off) ∨ (∃ a k off, i = .brc c a k off) ∨ (∃ a k off, i = .bru c a k off) ∨ (∃ d imm, i = .call c d imm)
      ∨ (∃ d imm, i = .callLong c d imm) ∨ (∃ a, i = .jmpi c a) ∨ (∃ a, i = .ret c a) ∨ i = .exit c ∨ i = .eret c) →
    exec i s = exec .illegalInstruction s)

/-- R137: EXIT ends each active thread, and what was pending into its rows is discarded; here each warp keeps a thread that is
neither EXITED nor HALTED. Memory and every register stay.
R170, R137: when the last thread of a warp exits the warp's slot is free; a workgroup of that one warp completes, and its kernel
counts it. -/
def Obligations.ThreadsExit : Prop :=
  (∀ (c : Ctl) (s : State) (g : Grp), c.bell = true → s.issues c 1 g →
    (∀ a ∈ g.acts, s.kreqs.all (fun r => !(r.slot == a.1 && r.lane == a.2)) = true ∧ s.hasRemote a.1 a.2 = false) →
    (∀ a ∈ g.acts, ∃ l < 32, (a.1, l) ∉ g.acts ∧ (s.thread a.1 l).st.alive = true) →
    ∃ t, exec (.exit c) s = .next t ∧ { t.rest with pend := [] } = { s.rest with pend := [] } ∧ (∀ k, (t.warp k).still = (s.warp k).still)
      ∧ (∀ a ∈ g.acts, (t.thread a.1 a.2).st = .exited ∧ ∀ p ∈ t.pend, p.slot = a.1 → ∀ x ∈ p.regs, x.1 % 32 ≠ a.2)
      ∧ ∀ k l, (k, l) ∉ g.acts → t.thread k l = s.thread k l)
  ∧ (∀ (c : Ctl) (s : State) (g : Grp) (k l : Nat), c.bell = true → s.issues c 1 g → g.acts = [(k, l)] →
    s.kreqs.all (fun r => r.slot != k) = true → s.hasRemote k l = false → (∀ j < 32, j ≠ l → (s.thread k j).st.alive = false) →
    (s.wgOf k).nw = 1 → (s.wgOf k).retired = 0 → (s.warp k).wid < 32 → (s.kernelOf k).repeatable = false →
    ∃ t, exec (.exit c) s = .next t ∧ t.warps.find k = none ∧ t.wgs.find (s.warp k).wg = none
      ∧ (t.kernel (s.wgOf k).kernel).completed = (s.kernelOf k).completed + 1 ∧ t.mem = s.mem)

/-- R139, R140, R141: SHFL, VOTE and POPX over the bundle set, every thread of which holds the row it names (R98).
R142, R143: REDV of a warp all of whose live threads issue it together: a result for RSLT becomes pending, the fixed tree over the
32 lanes of the live threads' values, combined two by two as the rule gives for each operation, with its NaNs, infinities and zeros;
the float forms, and no other, set NF where a value of the tree, from the inputs to the result, is NaN or infinite. -/
def Obligations.CrossLane : Prop :=
  (∀ (c : Ctl) (s : State) (g : Grp),
    (∀ (p : Option Pfx) (d a b : VReg), s.issues c (groupWords p) g →
      (∀ x ∈ g.acts, s.open g (s.rdElems g x (srcA p a) ++ s.rdElems g x (own b)) (s.wrElems x (some { n := d.toNat }))) →
      ∃ t, exec (.shfl c p d a b) s = .next t ∧ s.writes t g { n := d.toNat } (fun x =>
        let u := g.acts.find? (fun y => y.2 == (s.source g x (own b)).toNat)
        s.source g (u.getD x) (srcA p a)) (fun _ => false) 0)
    ∧ (∀ (d a : VReg), s.issues c 1 g →
      (∀ x ∈ g.acts, s.open g (s.rdElems g x (own a)) (s.wrElems x (some { n := d.toNat }))) →
      let cs := g.acts.map (fun x => (x.2, (s.source g x (own a)).setWidth 32))
      let gives := fun (i : Instr) (f : Nat × Nat → Nat) =>
        ∃ t, exec i s = .next t ∧ s.writes t g { n := d.toNat } (fun x => BitVec.ofNat 64 (f x)) (fun _ => false) 0
      gives (.voteAll c d a) (fun _ => if ∀ v ∈ cs, v.2 ≠ (0 : Word) then 1 else 0)
      ∧ gives (.voteAny c d a) (fun _ => if ∃ v ∈ cs, v.2 ≠ (0 : Word) then 1 else 0)
      ∧ gives (.voteBallot c d a) (fun _ =>
          (((List.range 32).filter (fun i => cs.any (fun v => v.1 == i && v.2 != 0))).map (fun i => 2 ^ i)).sum)
      ∧ gives (.voteEq c d a) (fun _ => if ∀ v ∈ cs, ∀ w ∈ cs, v.2 = w.2 then 1 else 0)
      ∧ gives (.popxIncl c d a) (fun x => ((cs.filter (fun v => decide (v.1 ≤ x.2))).map (fun v => popcount v.2)).sum)
      ∧ gives (.popxExcl c d a) (fun x => ((cs.filter (fun v => decide (v.1 < x.2))).map (fun v => popcount v.2)).sum)))
  ∧ (∀ (c : Ctl) (op : RedOp) (a : VReg) (s : State) (g : Grp) (k : Nat), s.issues c 1 g →
    g.acts = (s.warp k).liveLanes.map (fun l => (k, l)) → (∀ x ∈ g.acts, s.open g (s.rdElems g x (own a)) []) → s.redvs k < 4 →
    let nan := fun (x : Word) => (0x7F800000 < x.toNat % 2 ^ 31 : Prop)
    let key := fun (x : Word) => if x.getLsbD 31 then -1 - (x.toNat % 2 ^ 31 : Int) else (x.toNat : Int)
    let pick := fun (x y : Word) (first : Prop) [Decidable first] => if nan x then (if nan y then (0x7FC00000 : Word) else y)
      else if nan y then x else if first then x else y
    let two := fun (x y : Word) => match op with
      | .add => BitVec.ofNat 32 (x.toNat + y.toNat)
      | .minS32 => if x.toInt ≤ y.toInt then x else y
      | .minZ32 => if x.toNat ≤ y.toNat then x else y
      | .maxS32 => if y.toInt ≤ x.toInt then x else y
      | .maxZ32 => if y.toNat ≤ x.toNat then x else y
      | .and => x &&& y
      | .or => x ||| y
      | .xor => x ^^^ y
      | .fadd => if nan x ∨ nan y ∨ (x = 0x7F800000 ∧ y = 0xFF800000) ∨ (x = 0xFF800000 ∧ y = 0x7F800000) then 0x7FC00000
          else if x.toNat % 2 ^ 31 = 0 ∧ y.toNat % 2 ^ 31 = 0 then x &&& y else rneF32 ((f32 x).add false (f32 y))
      | .fmin => pick x y (key x ≤ key y)
      | .fmax => pick x y (key y ≤ key x)
    let up := fun (f : Nat → Option Word) (j : Nat) => match f (2 * j), f (2 * j + 1) with
      | some x, some y => some (two x y)
      | some x, none => some x
      | none, y => y
    let x0 := fun (i : Nat) => if i ∈ (s.warp k).liveLanes then some ((s.source g (k, i) (own a)).setWidth 32) else none
    ∃ t, exec (.redv c op a) s = .next t ∧ s.passed t g (fun _ => g.next) ∧ s.elemsKept t [] ∧ s.tagsAre t []
      ∧ t.mem = s.mem ∧ t.wgs = s.wgs ∧ (∀ j, ((t.warp j).rsltv, (t.warp j).rsltseq) = ((s.warp j).rsltv, (s.warp j).rsltseq))
      ∧ (∃ p, t.pend = s.pend ++ [p] ∧ p.slot = k ∧ p.rslt = up (up (up (up (up x0)))) 0 ∧ p.regs = [] ∧ p.sregs = [])
      ∧ ∀ j, ((t.warp j).nf = true ↔ (s.warp j).nf = true ∨ (j = k ∧ (op = .fadd ∨ op = .fmin ∨ op = .fmax)
          ∧ ∃ f ∈ [x0, up x0, up (up x0), up (up (up x0)), up (up (up (up x0))), up (up (up (up (up x0))))], ∃ i < 32, ∃ v,
            f i = some v ∧ 0x7F800000 ≤ v.toNat % 2 ^ 31)))
-- Blocks, control registers, window, traps, ordering, rosters -------------------------------------------------------------------------

/-- R162 to R167: the block instructions of a warp all of whose live threads issue them together. The rows they leave, with tag and
shadow, become pending as one result; NF and the draws of all 32 lanes take effect. That TOPK's element of a lane that is not live is read and
sets NF is the model's choice (log 23). -/
def Obligations.BlockInstructions : Prop :=
  ∀ (c : Ctl) (d a : VReg) (s : State) (g : Grp) (k : Nat), s.issues c 1 g → s.whole g k →
    let row := fun (n : Nat) => s.rowAt k n
    let words := fun (j : Nat) => (s.warp k).row (row (a.toNat + j))
    let vals := fun (j : Nat) => (words j).map f32
    let tag := (s.warp k).tags.get (row a.toNat)
    let shadow := (s.warp k).shadows.get (row a.toNat)
    let keys := fun (r : Nat) (ws : List Word) => (List.range 32).map (fun i => (32 * r + i, ws.getD i 0))
    let does := fun (i : Instr) (na nd : Nat) (regs : List (Nat × Word)) (rows : List (Nat × BitVec 4 × DWord)) (nf : Bool) (draws : Nat) =>
      s.rowsOpen g k ((List.range na).map (fun j => row (a.toNat + j))) ((List.range nd).map (fun j => row (d.toNat + j))) →
      ∃ t, exec i s = .next t ∧ s.lateFrame t ∧ s.passed t g (fun _ => g.next)
        ∧ t.pend = s.pend ++ [{ Pending.empty k with id := s.nextId, regs, rowMeta := rows, blk := true }]
        ∧ ∀ j, (t.warp j).nf = ((s.warp j).nf || (j == k && nf))
          ∧ ∀ l, (t.thread j l).draw = if j = k ∧ l < 32 ∧ draws ≠ 0 then advance (s.thread j l).draw draws else (s.thread j l).draw
    let fills := fun (i : Instr) (ws : List Word) (tg : BitVec 4) (nf : Bool) => does i 1 1 (keys (row d.toNat) ws) [(row d.toNat, tg, 0)] nf 0
    fills (.bamax c d a) (List.replicate 32 (rneF32 (amax (vals 0)))) 9 (nfOf (vals 0))
    ∧ fills (.scget c d a) ((List.range 32).map (fun i => if i < 8 then BitVec.ofNat 32 (shadow.toNat / 2 ^ (8 * i) % 256)
        else if i = 8 then tag.setWidth 32 else 0)) 0 false
    ∧ (((words 0).getD 8 0).toNat % 16 < 10 → does (.scset c d a) 1 1 [] [(row d.toNat, ((words 0).getD 8 0).setWidth 4,
        laySlots ((List.range 8).map (fun i => ((words 0).getD i 0).toNat % 256)))] false 0)
    ∧ (∀ (f : MxFmt) (e : Sel), fills (.scsel c f e d a)
        (List.replicate 32 (BitVec.ofNat 32 (mxScale (amax (vals 0)) (tagFmt (MxFmt.tag f)) e))) 0 (nfOf (vals 0)))
    ∧ (∀ (f : MxFmt) (e : Sel) (m : Rnd),
        let bs := packBlocks (tagFmt (MxFmt.tag f)) e (fun lane i => Rnd.mode m (s.drawAt k lane i)) 0 ((List.range f.rows).map vals)
        does (.qpack c f e m d a) f.rows 1
          (keys (row d.toNat) ((List.range 32).map (lineWord (layBlocks (MxFmt.tag f) (bs.map Prod.fst)))))
          [(row d.toNat, BitVec.ofNat 4 (MxFmt.tag f), laySlots (bs.map Prod.snd))]
          (nfOf ((List.range f.rows).flatMap vals) || bs.any (fun b => b.2 == 0xFF))
          (if m = .sr then (bs.filter (fun b => b.2 != 0xFF)).length else 0))
    ∧ (∀ part : BitVec 3, part.toNat < tagBlocks tag.toNat →
        let l : Line := { data := (s.warp k).rowData (row a.toNat), tag, scales := shadow }
        let vs := if tag = 0 ∨ tag = 9 then vals 0 else decodeBlock tag.toNat l part.toNat
        let ws := if tag = 0 ∨ tag = 9 then words 0 else vs.map rneF32
        fills (.qunpk c part d a) ws 9 (nfOf (vs ++ ws.map f32)))
    ∧ (∀ n : BitVec 4,
        let cand := (words 0).zipIdx.filter (fun x => decide (x.2 ∈ (s.warp k).liveLanes))
        let ranked := (cand.filter (fun x => f32 x.1 != .nan)).mergeSort (fun x y => !(f32 x.1).lt (f32 y.1))
        let entry := fun (r : Nat) => if n.toNat ≤ r then ((0 : Word), (0 : Word))
          else ((ranked.map (fun x => (x.1, BitVec.ofNat 32 x.2))).getD r (0xFF800000, 0xFFFF))
        let es := (List.range 32).map entry
        does (.topk c n d a) 1 2 (keys (row d.toNat) (es.map Prod.fst) ++ keys (row (d.toNat + 1)) (es.map Prod.snd))
          [(row d.toNat, 0, 0), (row (d.toNat + 1), 0, 0)]
          (nfOf (vals 0) || es.any (fun x => x.1 == 0xFF800000)) 0)

/-- R112, R380, R391: what CRD reads, register by register.
R56, R113, R380, R391: CWR. TCTL and FSTATUS once for a warp, from its lowest active lane, NF cleared by writing 1; TEPC per thread
and in trap mode only; every other register ignores the write (R7). QUADID's value is the model's choice (log 28). -/
def Obligations.ControlRegisters : Prop :=
  (∀ (c : Ctl) (d : VReg) (r : BitVec 14) (s : State) (g : Grp), s.issues c 1 g →
    (∀ x ∈ g.acts, s.open g [] (s.wrElems x (some { n := d.toNat }))) →
    let table := fun (a : Nat × Nat) =>
      let w := s.warp a.1
      let t := s.thread a.1 a.2
      let k := s.kernelOf a.1
      [(0x000, a.2), (0x001, w.wid), (0x002, (s.wgOf a.1).idx), (0x003, k.launch), (0x004, a.1 / 64), (0x005, a.1 / 16 % 4),
       (0x008, if t.tmode then 1 else 0), (0x009, t.wb), (0x00A, t.draw.toNat), (0x00C, if w.sbchk then 1 else 0),
       (0x010, if w.nf then 1 else 0), (0x011, w.rsltv.toNat), (0x012, w.rsltseq.toNat), (0x014, w.xheld.toNat),
       (0x015, s.exfree (a.1 / 16)), (0x016, 2048 - (s.quad (a.1 / 16)).lost), (0x100, t.tepc.toNat % 2 ^ 32), (0x101, t.tepc.toNat / 2 ^ 32),
       (0x102, t.tcause.toNat), (0x103, t.taddr.toNat % 2 ^ 32), (0x104, t.taddr.toNat / 2 ^ 32), (0x105, t.tinfo.toNat), (0x200, k.ctx),
       (0x201, k.part), (0x202, (s.ctx k.ctx).fasn), (0x203, k.seed.toNat % 2 ^ 32), (0x204, k.seed.toNat / 2 ^ 32),
       (0x205, (if k.late then 1 else 0) + (if k.repeatable then 2 else 0) + (if k.fuse then 4 else 0) + (if k.seedov then 8 else 0)),
       (0x206, k.pidx.toNat), (0x207, k.queue)]
    ∃ t, exec (.crd c d r) s = .next t ∧ s.promises t g { n := d.toNat } (fun a => BitVec.ofNat 64 (((table a).lookup r.toNat).getD 0))
      ∧ s.flagsAre t g.acts (fun _ => false) 0)
  ∧ (∀ (c : Ctl) (a : VReg) (r : BitVec 14) (s : State) (g : Grp), s.issues c 1 g →
    (∀ x ∈ g.acts, s.open g (s.fieldElems x a.toNat false) []) →
    let v := fun (x : Nat × Nat) => (s.elemsVal (s.fieldElems x a.toNat false)).setWidth 32
    let low := fun (k : Nat) => ((g.acts.filter (·.1 == k)).map Prod.snd).headD 0
    ∃ t, exec (.cwr c a r) s = .next t ∧ s.passed t g (fun _ => g.next)
      ∧ State.keeps (fun w => { w.still with sbchk := false, nf := false, xlast := [], xmoved := 0 }) (fun x => { x.still with tepc := 0 }) s t
      ∧ (∀ k, (t.warp k).sbchk = (if r = 0x00C ∧ k ∈ g.acts.map Prod.fst then (v (k, low k)).getLsbD 0 else (s.warp k).sbchk)
        ∧ (t.warp k).nf = (if r = 0x010 ∧ k ∈ g.acts.map Prod.fst then (s.warp k).nf && !(v (k, low k)).getLsbD 0 else (s.warp k).nf))
      ∧ ∀ k l, (t.thread k l).tepc.toNat = (if (k, l) ∈ g.acts ∧ (s.thread k l).tmode = true ∧ r = 0x100 then
            (s.thread k l).tepc.toNat / 2 ^ 32 * 2 ^ 32 + (v (k, l)).toNat
          else if (k, l) ∈ g.acts ∧ (s.thread k l).tmode = true ∧ r = 0x101 then
            (v (k, l)).toNat * 2 ^ 32 + (s.thread k l).tepc.toNat % 2 ^ 32
          else (s.thread k l).tepc.toNat))

/-- R100, R101, R102, R103, R105: WINB; XACQ of a slot not held waits in the quadrant's queue; XTRY grants at once where the queue is
empty and a block is free, zeroed; XREL releases, and the slot's contents are gone. One warp k issues.
R160, R161, R310, R101, R102: FSTAT (with its clear), SRDRAW, CPWP, and XACQ and XTRY of a slot the warps hold: each active
thread's result becomes pending. -/
def Obligations.WindowAndBlocks : Prop :=
  (∀ (c : Ctl) (d : VReg) (n : BitVec 3) (s : State) (g : Grp) (k : Nat), s.issues c 1 g → (∀ x ∈ g.acts, x.1 = k) →
    let inSlot := fun (row : Nat) => 64 + 32 * n.toNat ≤ row ∧ row < 96 + 32 * n.toNat
    (∀ w : BitVec 5, ∃ t, exec (.winb c w) s = .next t ∧ s.passed t g (fun _ => g.next)
      ∧ State.keeps Warp.still (fun x => { x.still with wb := 0 }) s t
      ∧ ∀ j l, (t.thread j l).wb = if (j, l) ∈ g.acts then 16 * w.toNat else (s.thread j l).wb)
    ∧ (n.toNat < (s.wgOf k).xb →
      ((s.warp k).xheld.getLsbD n.toNat = false → (∀ x ∈ g.acts, s.calm (s.wrElems x (some { n := d.toNat }))) →
        ∃ t, exec (.xacq c d n) s = .next t ∧ (k, n.toNat) ∈ (t.quad g.q).xq ∧ t.rest = s.rest ∧ (∀ j, (t.warp j).still = (s.warp j).still)
          ∧ ∀ x ∈ g.acts, (t.thread x.1 x.2).st = .waiting ∧ (t.thread x.1 x.2).pc = (s.thread x.1 x.2).pc)
      ∧ ((s.warp k).xheld.getLsbD n.toNat = false → (∀ x ∈ g.acts, s.open g [] (s.wrElems x (some { n := d.toNat }))) →
        (s.quad g.q).xq = [] → 1 ≤ s.exfree g.q →
        ∃ t, exec (.xtry c d n) s = .next t ∧ t.past g ∧ (t.warp k).xheld = (s.warp k).xheld ||| ((1 : BitVec 8) <<< n.toNat)
          ∧ (∀ row lane, lane < 32 → inSlot row → (t.warp k).elem row lane = 0)
          ∧ (∀ row, inSlot row → (t.warp k).tags.get row = 0 ∧ (t.warp k).shadows.get row = 0)
          ∧ (∀ j row lane, lane < 32 → j ≠ k ∨ ¬ inSlot row → (t.warp j).elem row lane = (s.warp j).elem row lane)
          ∧ t.mem = s.mem ∧ ∀ x ∈ g.acts, s.owes t x (s.wrElems x (some { n := d.toNat })) (BitVec.ofNat 64 (64 + 32 * n.toNat)))
      ∧ ((s.warp k).xheld.getLsbD n.toNat = true → (∀ row, inSlot row → s.pendRow k row = []) →
        ∃ t, exec (.xrel c n) s = .next t ∧ s.passed t g (fun _ => g.next) ∧ t.rest = s.rest
          ∧ (t.warp k).xheld = (s.warp k).xheld &&& ~~~((1 : BitVec 8) <<< n.toNat) ∧ (∀ row, inSlot row → (t.warp k).holds row = false)
          ∧ ∀ j row lane, lane < 32 → j ≠ k ∨ ¬ inSlot row → (t.warp j).elem row lane = (s.warp j).elem row lane)
      ∧ ((s.warp k).xheld.getLsbD n.toNat = false → ∃ t, exec (.xrel c n) s = .next t ∧ s.still t ∧ s.passed t g (fun _ => g.next))))
  ∧ (∀ (c : Ctl) (d : VReg) (s : State) (g : Grp), s.issues c 1 g → (∀ x ∈ g.acts, s.open g [] (s.wrElems x (some { n := d.toNat }))) →
    let gives := fun (i : Instr) (val : Nat × Nat → DWord) (nf : Nat → Bool) (draws : Nat) =>
      ∃ t, exec i s = .next t ∧ s.promises t g { n := d.toNat } val ∧ ∀ k, (t.warp k).nf = nf k
        ∧ ∀ l, (t.thread k l).draw = if (k, l) ∈ g.acts ∧ draws ≠ 0 then advance (s.thread k l).draw draws else (s.thread k l).draw
    (∀ clr : Bool, gives (.fstat c clr d) (fun a => if (s.warp a.1).nf then 1 else 0)
      (fun k => if clr = true ∧ k ∈ g.acts.map Prod.fst then false else (s.warp k).nf) 0)
    ∧ gives (.srdraw c d) (fun a => BitVec.ofNat 64 (s.drawAt a.1 a.2 0)) (fun k => (s.warp k).nf) 1
    ∧ (∀ n : BitVec 4, gives (.cpwp c d n) (fun a => ((s.cluster (a.1 / 512)).chans.get n.toNat).wp.setWidth 64) (fun k => (s.warp k).nf) 0)
    ∧ (∀ (n : BitVec 3) (i : Instr), i = .xacq c d n ∨ i = .xtry c d n →
      (∀ x ∈ g.acts, n.toNat < (s.wgOf x.1).xb ∧ (s.warp x.1).xheld.getLsbD n.toNat = true) →
      gives i (fun _ => BitVec.ofNat 64 (64 + 32 * n.toNat)) (fun k => (s.warp k).nf) 0)
    ∧ (∀ n : BitVec 3, (∀ x ∈ g.acts, n.toNat < (s.wgOf x.1).xb ∧ (s.warp x.1).xheld.getLsbD n.toNat = false) →
      (s.quad g.q).xq ≠ [] ∨ s.exfree g.q = 0 → gives (.xtry c d n) (fun _ => 0xFFFFFFFF) (fun k => (s.warp k).nf) 0))

/-- R79, R384, R388: with a handler and outside trap mode, TRAP, BRK and an illegal instruction enter the handler: TEPC, TCAUSE, TINFO
and TADDR, trap mode, the PC at TVEC, the thread READY; nothing else changes. -/
def Obligations.TrapEntry : Prop :=
  ∀ (c : Ctl) (s : State) (g : Grp), s.issues c 1 g →
    (∀ x ∈ g.acts, (s.thread x.1 x.2).tmode = false ∧ (s.ctx (s.kernelOf x.1).ctx).tvec ≠ 0) →
    ∀ (i : Instr) (tepc : DWord) (cause : BitVec 8) (info : Word),
      (∃ code : BitVec 9, i = .trap c code ∧ tepc = g.next ∧ cause = 9 ∧ info = code.setWidth 32)
        ∨ (∃ code : BitVec 9, i = .brk c code ∧ tepc = g.pc ∧ cause = 10 ∧ info = code.setWidth 32)
        ∨ (i = .illegalInstruction ∧ tepc = g.pc ∧ cause = 1 ∧ info = 0) →
      ∃ t, exec i s = .next t ∧ t.rest = s.rest ∧ (∀ q, (t.quad q).rest = (s.quad q).rest) ∧ (∀ k, (t.warp k).still = (s.warp k).still)
        ∧ ∀ k l, t.thread k l = if (k, l) ∈ g.acts then
            { (s.thread k l) with tepc, tcause := cause, tinfo := info, taddr := 0, tmode := true, why := .nothing,
                                  pc := (s.ctx (s.kernelOf k).ctx).tvec, st := .ready }
          else s.thread k l

/-- R386, R387: without a handler the thread HALTS, a KIND 1 record is written and the kernel takes cause 1 if it has none; in trap mode
the record is KIND 2, the context is FAULTED and its kernels are aborted. The fault area has room; another thread of the warp lives. -/
def Obligations.ThreadHalts : Prop :=
  ∀ (s : State) (g : Grp) (k l : Nat), s.issues ⟨false, 0⟩ 1 g → g.acts = [(k, l)] →
    (∃ j < 32, j ≠ l ∧ (s.thread k j).st.alive = true) → s.watches = [] →
    let e := s.kernelOf k
    let base := (s.ctx e.ctx).fabase
    let widx := s.mem.read base 4
    let rec0 := (base + 0x10000 + 128 * (widx % 4096)) / 128
    ((s.thread k l).tmode = true ∨ (s.ctx e.ctx).tvec = 0) → e.ctx < 2 ^ 16 → (s.wgOf k).idx < 2 ^ 24 → (s.warp k).wid < 32 → k < 2 ^ 15 →
    e.queue < 256 → base % 128 = 0 → (widx + 2 ^ 32 - s.mem.read (base + 4) 4) % 2 ^ 32 < 4096 → s.lineBad (base / 128) = none →
    ∃ t, exec .illegalInstruction s = .next t ∧ (t.thread k l).st = .halted ∧ t.mem.read base 4 = (widx + 1) % 2 ^ 32
      ∧ (let r := (t.line rec0).data.toNat
         r % 2 ^ 32 = widx ∧ r / 2 ^ 40 % 2 ^ 8 = 1 ∧ r / 2 ^ 48 % 2 ^ 16 = e.ctx % 2 ^ 16 ∧ r / 2 ^ 64 % 2 ^ 64 = g.pc.toNat
         ∧ r / 2 ^ 32 % 2 ^ 8 = (if (s.thread k l).tmode then 2 else 1)
         ∧ r / 2 ^ 328 % 2 ^ 8 = (if (s.thread k l).tmode then (s.thread k l).tcause.toNat else 0))
      ∧ (∀ x, ¬ (128 * rec0 ≤ x ∧ x < 128 * rec0 + 128) → ¬ (base ≤ x ∧ x < base + 4) → t.mem.read x 1 = s.mem.read x 1)
      ∧ ((s.thread k l).tmode = true → (t.ctx e.ctx).st = .faulted
          ∧ ∀ j ∈ s.kernels.keys, (s.kernel j).ctx = e.ctx → (s.kernel j).st.live = true → (s.kernel j).sent = false →
            (s.kernel j).applying = false → (t.kernel j).st = .aborted)
      ∧ ((s.thread k l).tmode = false →
          (t.kernel (s.wgOf k).kernel).cause = if e.cause = 0 then 1 else e.cause)

/-- R389: ERET resumes threads in trap mode at their TEPC, READY and out of trap mode; the trap registers keep their values. Outside
trap mode it is an illegal instruction, which enters the handler. -/
def Obligations.ExceptionReturn : Prop :=
  ∀ (c : Ctl) (s : State) (g : Grp), c.bell = true → s.issues c 1 g →
    ((∀ x ∈ g.acts, (s.thread x.1 x.2).tmode = true ∧ (s.thread x.1 x.2).tepc.toNat % 4 = 0) →
      ∃ t, exec (.eret c) s = .next t ∧ t.rest = s.rest ∧ (∀ q, (t.quad q).rest = (s.quad q).rest) ∧ (∀ k, (t.warp k).still = (s.warp k).still)
        ∧ ∀ k l, t.thread k l = if (k, l) ∈ g.acts then
            { (s.thread k l) with tmode := false, pc := (s.thread k l).tepc, st := .ready, why := .nothing }
          else s.thread k l)
    ∧ ((∀ x ∈ g.acts, (s.thread x.1 x.2).tmode = false ∧ (s.ctx (s.kernelOf x.1).ctx).tvec ≠ 0) →
      ∃ t, exec (.eret c) s = .next t ∧ t.rest = s.rest ∧ ∀ x ∈ g.acts, (t.thread x.1 x.2).tmode = true
        ∧ (t.thread x.1 x.2).tcause = 1 ∧ (t.thread x.1 x.2).tepc = g.pc ∧ (t.thread x.1 x.2).pc = (s.ctx (s.kernelOf x.1).ctx).tvec)

/-- R225, R226, R257: FENCE with nothing outstanding, an acquire that empties the L1 past core scope; OPRDY with no tile write in
flight that the issuing warp knows of, which makes those writes ready for it; YIELD, which leaves its warps held out with a longer back-off unless a watched value changed. With something outstanding FENCE
and OPRDY cut the period. That a FENCE past .core empties the whole L1 (log 30, log 107), and the tile writes OPRDY acts on
(log 46), are the model's choices. -/
def Obligations.OrderingInstructions : Prop :=
  ∀ (c : Ctl) (s : State) (g : Grp), s.issues c 1 g →
    let warps := g.acts.map Prod.fst
    (∀ sc : Scope, (∀ x ∈ g.acts, s.outstanding x.1 x.2 = false) → ∃ t, exec (.fence c sc) s = .next t ∧ s.passed t g (fun _ => g.next)
      ∧ { t.rest with cores := [], wgs := [] } = { s.rest with cores := [], wgs := [] } ∧ (s.allReady = true → t.wgs = s.wgs)
      ∧ (∀ j, { (t.wgs.get j) with unready := [] } = { (s.wgs.get j) with unready := [] })
      ∧ (∀ j, { (t.core j) with l1 := [] } = { (s.core j) with l1 := [] })
      ∧ (∀ j, (t.warp j).still = (s.warp j).still) ∧ (sc ≠ .core → ∀ k ∈ warps, t.l1 (k / 64) = []))
    ∧ (∀ sc : Scope, ∀ x ∈ g.acts, s.outstanding x.1 x.2 = true → ∃ t, exec (.fence c sc) s = .next t ∧ t.rest = s.rest
      ∧ (t.thread x.1 x.2).st = .interlocked ∧ (t.thread x.1 x.2).pc = (s.thread x.1 x.2).pc)
    ∧ ((∀ x ∈ g.acts, s.tilePending x.1 = false) → ∃ t, exec (.oprdy c) s = .next t ∧ s.passed t g (fun _ => g.next)
      ∧ { t.rest with wgs := [] } = { s.rest with wgs := [] } ∧ (∀ j, (t.warp j).still = (s.warp j).still)
      ∧ ∀ n, { (t.wgs.get n) with unready := [] } = { (s.wgs.get n) with unready := [] }
        ∧ ∀ u ∈ (t.wgs.get n).unready, ∀ k ∈ warps, (s.warp k).wg = n → u.seen.contains (s.warp k).wid = true →
            u.ready.contains (s.warp k).wid = true)
    ∧ (∀ x ∈ g.acts, s.tilePending x.1 = true → ∃ t, exec (.oprdy c) s = .next t ∧ t.rest = s.rest
      ∧ (t.thread x.1 x.2).st = .interlocked ∧ (t.thread x.1 x.2).pc = (s.thread x.1 x.2).pc)
    ∧ (∀ d : VReg, (∀ x ∈ g.acts, s.open g (s.rdElems g x (own d)) []) →
      let v := fun (x : Nat × Nat) => (s.source g x (own d)).setWidth 32
      ∃ t, exec (.yield c d) s = .next t ∧ s.passed t g (fun _ => g.next)
        ∧ State.keeps (fun w => { w.still with yexp := 0, yheld := false, xlast := [], xmoved := 0 }) (fun x => { x.still with ylast := 0 }) s t
        ∧ (∀ k l, (t.thread k l).ylast = if (k, l) ∈ g.acts then v (k, l) else (s.thread k l).ylast)
        ∧ ∀ k, ((t.warp k).yheld, (t.warp k).yexp) = if k ∈ warps then
            (true, if ∃ x ∈ g.acts, x.1 = k ∧ (s.thread x.1 x.2).ylast ≠ v x then 0 else min ((s.warp k).yexp + 1) 8)
          else ((s.warp k).yheld, (s.warp k).yexp))

/-- R179, R183: all living threads of one warp arrive at a roster. As its only member, the warp completes the roll call: PHASE steps, PENDING
clears and the threads pass ROLL. While another member has not arrived, they wait with their PENDING bits set. ROLLA passes either way
and gives the target; ROLLW passes a target that has been reached and waits for one that has not.
R177, R182: RJOIN makes a warp a member of a declared roster other than the homeroom, alone if it was UNUSED; RLEAVE ends that. The
bundle is of one warp.
R118, R181, R385: in trap mode a warp-whole or roll-call instruction is an illegal instruction, here a double fault: the thread
halts. -/
def Obligations.Rosters : Prop :=
  ((∀ (c : Ctl) (r : BitVec 4) (s : State) (g : Grp) (k : Nat), s.issues c 1 g →
    g.acts = (s.warp k).aliveLanes.map (fun l => (k, l)) → (∀ x ∈ g.acts, (s.thread x.1 x.2).tmode = false ∧ s.quiet x) →
    r.toNat ≤ (s.wgOf k).nrost → (s.kernelOf k).repeatable = false → s.slotOf (s.warp k).wg (s.warp k).wid = some k → (s.warp k).wid < 32 →
    let ro := s.rosterAt k r.toNat
    let one := ro.members = (1 : Word) <<< (s.warp k).wid
    let others := ro.members.getLsbD (s.warp k).wid = true ∧ ∃ w < 32, w ≠ (s.warp k).wid ∧ ro.members.getLsbD w = true
      ∧ s.arrived (s.warp k).wg ro w = false
    ro.st ≠ .unused →
    (one → ∃ t, exec (.roll c r) s = .next t ∧ t.past g ∧ t.mem = s.mem ∧ (t.rosterAt k r.toNat).phase = ro.phase + 1
      ∧ (t.rosterAt k r.toNat).pending = 0 ∧ (t.rosterAt k r.toNat).st = .standing)
    ∧ (others → ∃ t, exec (.roll c r) s = .next t ∧ t.mem = s.mem ∧ (t.rosterAt k r.toNat).phase = ro.phase
      ∧ (t.rosterAt k r.toNat).st = .calling
      ∧ ∀ x ∈ g.acts, (t.thread x.1 x.2).st = .waiting ∧ (t.rosterAt k r.toNat).pending.getLsbD (32 * (s.warp k).wid + x.2) = true)
    ∧ (∀ d : VReg, one ∨ others → (∀ x ∈ g.acts, s.open g [] (s.wrElems x (some { n := d.toNat }))) →
      ∃ t, exec (.rolla c d r) s = .next t ∧ t.past g ∧ t.mem = s.mem
        ∧ ∀ x ∈ g.acts, s.owes t x (s.wrElems x (some { n := d.toNat })) ((ro.phase + 1).setWidth 64))
    ∧ (∀ a : VReg, others → (∀ x ∈ g.acts, s.open g (s.fieldElems x a.toNat false) []) → ro.st = .standing →
      let reached := fun (x : Nat × Nat) => ((ro.phase - (s.elemsVal (s.fieldElems x a.toNat false)).setWidth 16).toNat < 2 ^ 15 : Prop)
      ((∀ x ∈ g.acts, reached x) → ∃ t, exec (.rollw c a r) s = .next t ∧ t.past g
        ∧ State.keeps (fun w => { w.still with xlast := [], xmoved := 0 }) Thread.still s t)
      ∧ ((∀ x ∈ g.acts, ¬ reached x) → ∃ t, exec (.rollw c a r) s = .next t ∧ t.rest = s.rest
          ∧ ∀ x ∈ g.acts, (t.thread x.1 x.2).st = .waiting)))
  ∧ (∀ (c : Ctl) (r : BitVec 4) (s : State) (g : Grp) (k : Nat), s.issues c 1 g → (∀ x ∈ g.acts, x.1 = k) → r.toNat ≤ (s.wgOf k).nrost →
    let ro := s.rosterAt k r.toNat
    let bit := (1 : Word) <<< (s.warp k).wid
    (∃ t, exec (.rjoin c r) s = .next t ∧ t.past g ∧ t.mem = s.mem ∧ (∀ j, (t.warp j).vreg = (s.warp j).vreg)
      ∧ (t.rosterAt k r.toNat).members = if r = 0 then ro.members else if ro.st = .unused then bit else ro.members ||| bit)
    ∧ (∃ t, exec (.rleave c r) s = .next t ∧ t.past g ∧ t.mem = s.mem ∧ (∀ j, (t.warp j).vreg = (s.warp j).vreg)
      ∧ (t.rosterAt k r.toNat).members = (if r = 0 then ro.members else ro.members &&& ~~~bit)
      ∧ (r ≠ 0 → (s.warp k).wid < 32 → ro.st = .standing → ro.members = bit → (t.rosterAt k r.toNat).st = .unused))))
  ∧ (∀ (c : Ctl) (s : State) (g : Grp) (k l : Nat), s.issues c 1 g → g.acts = [(k, l)] → (s.thread k l).tmode = true →
    (∃ j < 32, j ≠ l ∧ (s.thread k j).st.alive = true) → s.watches = [] →
    ∀ i : Instr, (∃ op a, i = .redv c op a) ∨ (∃ d a, i = .bamax c d a) ∨ (∃ o x d a, i = .ldl c o x d a) ∨ (∃ x d a, i = .stl c .plain x d a)
        ∨ (∃ r, i = .roll c r) ∨ (∃ d r, i = .rolla c d r) ∨ (∃ a r, i = .rollw c a r) →
      ∃ t, exec i s = .next t ∧ (t.thread k l).st = .halted ∧ (t.ctx (s.kernelOf k).ctx).st = .faulted)
-- Memory accesses -----------------------------------------------------------------------------------------------------------------------

/-- R199, R200: LDG of one thread from memory of its package: the bytes at its address, extended as its width says, become pending into
its register; with warp-buffered bytes over them in repeatable mode (R186). Memory and every other thread stay. That memory is
read at issue is the model's choice (log 25). -/
def Obligations.GlobalLoads : Prop :=
  ∀ (c : Ctl) (w : Width) (o : OrdSc) (strm : Bool) (d a : VReg) (s : State) (g : Grp) (x : Nat × Nat) (e : Acc) (pa mt : Nat) (l : Line),
    s.solo c 1 g x → s.open g (s.fieldElems x a.toNat true) (s.dataElems x d.toNat w) →
    s.access (.lane x.1 x.2) (s.ctxOf x.1) (widthBytes w) (s.elemsVal (s.fieldElems x a.toNat true)) (loadKind w) = .ok e →
    e.t = .mem pa mt → s.sees x.1 o pa mt l →
    let n := widthBytes w
    let raw := (s.seenLine x.1 e.t l).data.toNat / 2 ^ (8 * (pa % 128)) % 2 ^ (8 * n)
    let val : DWord := match w with
      | .s8 => if raw < 2 ^ 7 then BitVec.ofNat 64 raw else BitVec.ofNat 64 (raw + 0xFFFFFF00)
      | .s16 => if raw < 2 ^ 15 then BitVec.ofNat 64 raw else BitVec.ofNat 64 (raw + 0xFFFF0000)
      | _ => BitVec.ofNat 64 raw
    ∃ t, exec (.ldg c w o strm d a) s = .next t ∧ s.access1 t ∧ s.memKept t ∧ s.passed t g (fun _ => g.next)
      ∧ s.owes t x (s.dataElems x d.toNat w) val

/-- R197, R200, R450: STG of one thread to memory of its package: the bytes at its translated address, no other byte; the line's tag and
scale slots stay and its check value matches. No register changes.
R186, R188: in repeatable mode a store of one thread that finds room is held in its warp's buffer, oldest first, and memory does not
change; one through an I/O page is performed at once (log 88). What a buffered entry holds is the model's choice (log 41). -/
def Obligations.GlobalStores : Prop :=
  (∀ (c : Ctl) (w : Width) (o : OrdSc) (strm : Bool) (d a : VReg) (s : State) (g : Grp) (x : Nat × Nat) (e : Acc) (pa mt : Nat),
    s.solo c 1 g x → s.open g (s.fieldElems x a.toNat true ++ s.dataElems x d.toNat w) [] → s.repeatableOf x.1 = false ∨ mt = 3 →
    s.access (.lane x.1 x.2) (s.ctxOf x.1) (widthBytes w) (s.elemsVal (s.fieldElems x a.toNat true)) (storeKind w) = .ok e →
    e.t = .mem pa mt → s.mergeBad pa mt = none → s.unwatched pa (widthBytes w) → s.unkept pa (widthBytes w) →
    ∃ t, exec (.stg c w o strm d a) s = .next t ∧ s.access1 t ∧ s.passed t g (fun _ => g.next) ∧ t.pend = s.pend
      ∧ s.stored t pa (widthBytes w) (s.elemsVal (s.dataElems x d.toNat w)).toNat)
  ∧ (∀ (c : Ctl) (w : Width) (o : OrdSc) (strm : Bool) (d a : VReg) (s : State) (g : Grp) (x : Nat × Nat) (e : Acc) (pa mt : Nat),
    s.solo c 1 g x → s.open g (s.fieldElems x a.toNat true ++ s.dataElems x d.toNat w) [] → s.repeatableOf x.1 = true →
    s.access (.lane x.1 x.2) (s.ctxOf x.1) (widthBytes w) (s.elemsVal (s.fieldElems x a.toNat true)) (storeKind w) = .ok e →
    e.t = .mem pa mt → mt ≠ 3 → s.bufRoom x.1 e.t = true →
    ∃ t, exec (.stg c w o strm d a) s = .next t ∧ t.mem = s.mem ∧ t.side = s.side ∧ s.passed t g (fun _ => g.next)
      ∧ (t.warp x.1).buf = (s.warp x.1).buf ++ [⟨.store x.2 (widthBytes w) (s.elemsVal (s.dataElems x d.toNat w)) o, e.t, s.elemsVal (s.fieldElems x a.toNat true),
          (s.part (s.kernelOf x.1).part).recess⟩])

/-- R192, R196, R199, R384: a misaligned LDG or STG of a thread with a handler traps with cause 4 and the address, its PC saved; nothing is
loaded or stored. An aligned one whose page grants no write traps with cause 6. -/
def Obligations.AccessTraps : Prop :=
  ∀ (c : Ctl) (w : Width) (o : OrdSc) (strm : Bool) (d a : VReg) (s : State) (g : Grp) (x : Nat × Nat) (i : Instr),
    s.solo c 1 g x → (s.thread x.1 x.2).tmode = false → (s.ctx (s.kernelOf x.1).ctx).tvec ≠ 0 →
    s.open g (s.fieldElems x a.toNat true ++ s.dataElems x d.toNat w) [] →
    let va := s.elemsVal (s.fieldElems x a.toNat true)
    let traps := fun (cause : BitVec 8) => ∃ t, exec i s = .next t ∧ s.memKept t ∧ t.pend = s.pend ∧ s.elemsKept t []
      ∧ (t.thread x.1 x.2).tcause = cause ∧ (t.thread x.1 x.2).taddr = va ∧ (t.thread x.1 x.2).tepc = g.pc
      ∧ (t.thread x.1 x.2).tmode = true ∧ (t.thread x.1 x.2).pc = (s.ctx (s.kernelOf x.1).ctx).tvec
    (i = .ldg c w o strm d a ∨ i = .stg c w o strm d a → va.toNat % widthBytes w ≠ 0 → traps 4)
    ∧ (i = .stg c w o strm d a → va.toNat % widthBytes w = 0 → canonical va = true → ∀ tr, s.heldTrans x.1 x.2 (s.ctxOf x.1) va = some tr →
        tr.leaf.getLsbD 6 = false → traps 6)

/-- R201 to R204: LDS and STS of one thread at an aligned offset inside its workgroup's region. Memory is not touched. -/
def Obligations.ScratchpadAccess : Prop :=
  ∀ (c : Ctl) (w : Width) (f : Bool) (d a : VReg) (s : State) (g : Grp) (x : Nat × Nat), s.solo c 1 g x →
    let off := (s.elemsVal (s.fieldElems x a.toNat false)).toNat
    let n := widthBytes w
    off % n = 0 → off + n ≤ (s.wgOf x.1).scr →
    (s.open g (s.fieldElems x a.toNat false) (s.dataElems x d.toNat w) →
      ∃ t, exec (.lds c w f d a) s = .next t ∧ s.access1 t ∧ s.memKept t ∧ s.passed t g (fun _ => g.next)
        ∧ s.owes t x (s.dataElems x d.toNat w) (extendTo w (BitVec.ofNat 64 ((s.wgOf x.1).spad.read off n))))
    ∧ (s.open g (s.fieldElems x a.toNat false ++ s.dataElems x d.toNat w) [] →
      ∃ t, exec (.sts c w f d a) s = .next t ∧ s.memKept t ∧ s.passed t g (fun _ => g.next) ∧ t.pend = s.pend
        ∧ s.elemsKept t [] ∧ { t.rest with wgs := [] } = { s.rest with wgs := [] }
        ∧ (∀ j, j ≠ (s.warp x.1).wg → t.wgs.get j = s.wgs.get j) ∧ { (t.wgOf x.1) with spad := [], unready := [] } = { (s.wgOf x.1) with spad := [], unready := [] }
        ∧ (t.wgOf x.1).spad.read off n = (s.elemsVal (s.dataElems x d.toNat w)).toNat % 2 ^ (8 * n)
        ∧ ∀ y, y < off ∨ off + n ≤ y → (t.wgOf x.1).spad.byte y = (s.wgOf x.1).spad.byte y)

/-- R206, R208: LDT and STT of one thread through a valid slot whose coordinates lie in its dimensions, to memory of its package or to the
scratchpad; an element out of bounds loads 0 and stores nothing where the record does not clip. That memory is read at issue (log 25), what
a buffered entry holds (log 41) and the I/O pages of repeatable mode (log 88) are the model's choices. -/
def Obligations.ShapedAccess : Prop :=
  ∀ (c : Ctl) (slot : BitVec 3) (o : OrdSc) (strm : Bool) (d a : VReg) (s : State) (g : Grp) (x : Nat × Nat) (r : LineBits),
    s.solo c 1 g x → (s.warp x.1).shapes.find slot.toNat = some r → s.pendShape x.1 slot.toNat = [] → a.toNat + shpRank r ≤ 128 →
    (shpWidth r = .z64 → d.toNat % 2 = 0) →
    let w := shpWidth r
    let n := widthBytes w
    let ce := s.coordElems x a (shpRank r)
    let de := s.dataElems x d.toNat w
    let coord := fun (j : Nat) => ((s.warp x.1).elem (rowOf (s.thread x.1 x.2) (a.toNat + j)) x.2).toInt
    let inside := (List.range (shpRank r)).all (fun j => decide (0 ≤ coord j) && decide (coord j < shpDim r j))
    let at0 : Int := shpBase r + ((List.range (shpRank r)).map (fun j => coord j * shpStride r j)).sum
    let va := BitVec.ofInt 64 at0
    (inside = true → shpSpace r = false → 0 ≤ at0 → at0 < 2 ^ 64 → ∀ (e : Acc) (pa mt : Nat) (l : Line), e.t = .mem pa mt →
      (s.open g ce de → s.access (.lane x.1 x.2) (s.ctxOf x.1) n va (loadKind w) = .ok e → s.sees x.1 o pa mt l →
        ∃ t, exec (.ldt c slot o strm d a) s = .next t ∧ s.access1 t ∧ s.memKept t ∧ s.passed t g (fun _ => g.next)
          ∧ s.owes t x de (extendTo w (BitVec.ofNat 64 ((s.seenLine x.1 e.t l).data.toNat / 2 ^ (8 * (pa % 128)) % 2 ^ (8 * n)))))
      ∧ (s.open g (ce ++ de) [] → s.repeatableOf x.1 = false ∨ mt = 3 →
          s.access (.lane x.1 x.2) (s.ctxOf x.1) n va (storeKind (storeWidth w)) = .ok e → s.mergeBad pa mt = none → s.unwatched pa n →
          s.unkept pa n →
        ∃ t, exec (.stt c slot o strm d a) s = .next t ∧ s.access1 t ∧ s.passed t g (fun _ => g.next) ∧ t.pend = s.pend
          ∧ s.stored t pa n (s.elemsVal de).toNat))
    ∧ (inside = true → shpSpace r = true → 0 ≤ at0 → at0 % n = 0 → at0 + n ≤ (s.wgOf x.1).scr → (s.wgOf x.1).spanAt at0.toNat = shpSwz r →
      (s.open g ce de → ∃ t, exec (.ldt c slot o strm d a) s = .next t ∧ s.access1 t ∧ s.memKept t ∧ s.passed t g (fun _ => g.next)
        ∧ s.owes t x de (extendTo w (BitVec.ofNat 64 ((s.wgOf x.1).spad.read at0.toNat n))))
      ∧ (s.open g (ce ++ de) [] → ∃ t, exec (.stt c slot o strm d a) s = .next t ∧ s.memKept t ∧ s.passed t g (fun _ => g.next)
        ∧ s.elemsKept t [] ∧ t.pend = s.pend
        ∧ (t.wgOf x.1).spad.read at0.toNat n = (s.elemsVal de).toNat % 2 ^ (8 * n)
        ∧ ∀ y, y < at0.toNat ∨ at0.toNat + n ≤ y → (t.wgOf x.1).spad.byte y = (s.wgOf x.1).spad.byte y))
    ∧ (inside = false → shpClip r = false →
      (s.open g ce de → ∃ t, exec (.ldt c slot o strm d a) s = .next t ∧ s.access1 t ∧ s.memKept t ∧ s.passed t g (fun _ => g.next)
        ∧ s.owes t x de 0)
      ∧ (s.open g (ce ++ de) [] → ∃ t, exec (.stt c slot o strm d a) s = .next t ∧ s.access1 t ∧ s.memKept t
        ∧ s.passed t g (fun _ => g.next) ∧ t.pend = s.pend))

/-- R43, R205: LDL and STL of a warp all of whose live threads issue them: a row whole, with its tag and scale shadow, from or to one line
of the package's memory at the address of the lowest live lane.
R131, R203, R207: SLD, SALLOC and LDSR of one warp k: uniform registers and a shape slot become pending from the package's memory at
the warp's uniform address, and SALLOC gives the next 512-byte-rounded space of the region, or 0xFFFFFFFF. That
memory is read at issue (log 25), and what a buffered entry holds (log 41), are the model's choices. -/
def Obligations.LineAccess : Prop :=
  (∀ (c : Ctl) (o : OrdSc) (strm : Bool) (d a : VReg) (s : State) (g : Grp) (k : Nat) (e : Acc) (pa mt : Nat),
    s.issues c 1 g → s.whole g k → (∀ x ∈ g.acts, s.quiet x) → e.t = .mem pa mt →
    let l0 := (s.warp k).liveLanes.headD 0
    let ae := s.fieldElems (k, l0) a.toNat true
    let row := s.rowAt k d.toNat
    let go := fun (kind : AccKind) => s.access (.lane k l0) (s.ctxOf k) 128 (s.elemsVal ae) kind = .ok e
    (∀ l : Line, s.open g ae [] → s.rowsOpen g k [] [row] → go lineLoadKind → s.sees k o pa mt l →
      let m := s.seenLine k e.t l
      let regs := (List.range 32).map (fun i => (32 * row + i, BitVec.ofNat 32 (m.data.toNat / 2 ^ (32 * i))))
      ∃ t, exec (.ldl c o strm d a) s = .next t ∧ s.access1 t ∧ s.memKept t ∧ s.passed t g (fun _ => g.next)
        ∧ t.pend = s.pend ++ [{ Pending.empty k with id := s.nextId, rowMeta := [(row, m.tag, m.scales)], regs }])
    ∧ (s.open g ae [] → s.rowsOpen g k [row] [] → go lineStoreKind → s.repeatableOf k = false → s.unwatched (pa / 128 * 128) 128 →
      s.unkept pa 128 → ∃ t, exec (.stl c o strm d a) s = .next t ∧ s.access1 t ∧ s.passed t g (fun _ => g.next) ∧ t.pend = s.pend
        ∧ t.line (pa / 128) = (s.warp k).rowLine row ∧ t.lineBad (pa / 128) = none
        ∧ t.badLines = s.badLines.filter (· ≠ pa / 128) ∧ (∀ y, y / 128 ≠ pa / 128 → t.mem.byte y = s.mem.byte y) ∧ (s.canonical = true → t.canonical = true)))
  ∧ (∀ (c : Ctl) (s : State) (g : Grp) (k : Nat), s.issues c 1 g → (∀ x ∈ g.acts, x.1 = k ∧ s.quiet x) →
    let l0 := (g.acts.map Prod.snd).headD 0
    (∀ (w64 : Bool) (o : OrdSc) (d a : SReg) (e : Acc) (pa mt : Nat) (l : Line), s.uniOpen g [a, a + 1] [d, d + 1] → a.toNat % 2 = 0 →
      (w64 = true → d.toNat % 2 = 0) → e.t = .mem pa mt →
      let w : Width := if w64 then .z64 else .z32
      s.access (.lane k l0) (s.ctxOf k) (widthBytes w) ((s.warp k).sPair a.toNat) (loadKind w) = .ok e → s.sees k o pa mt l →
      let v := (s.seenLine k e.t l).data.toNat / 2 ^ (8 * (pa % 128))
      ∃ t, exec (.sld c w64 o d a) s = .next t ∧ s.access1 t ∧ s.memKept t ∧ s.passed t g (fun _ => g.next)
        ∧ t.pend = s.pend ++ [{ Pending.empty k with id := s.nextId, sregs := (d.toNat, BitVec.ofNat 32 v)
            :: if w64 then [(d.toNat + 1, BitVec.ofNat 32 (v / 2 ^ 32))] else [] }])
    ∧ (∀ (slot : BitVec 3) (a : SReg) (e : Acc) (pa mt : Nat) (l : Line), s.uniOpen g [a, a + 1] [] → a.toNat % 2 = 0 → s.pendShape k slot.toNat = [] →
      e.t = .mem pa mt → s.access (.lane k l0) (s.ctxOf k) 128 ((s.warp k).sPair a.toNat) lineLoadKind = .ok e → s.sees k .plain pa mt l →
      shapeValid (s.seenLine k e.t l).data = true →
      ∃ t, exec (.ldsr c slot a) s = .next t ∧ s.access1 t ∧ s.memKept t ∧ s.passed t g (fun _ => g.next)
        ∧ t.pend = s.pend ++ [{ Pending.empty k with id := s.nextId, shape := some (slot.toNat, (s.seenLine k e.t l).data) }])
    ∧ (∀ (span : BitVec 3) (d a : VReg), s.open g (s.fieldElems (k, l0) a.toNat false) [] →
      (∀ x ∈ g.acts, s.open g [] (s.wrElems x (some { n := d.toNat }))) →
      let size := ((s.elemsVal (s.fieldElems (k, l0) a.toNat false)).toNat + 511) / 512 * 512
      let wg := s.wgOf k
      let fits := size ≠ 0 ∧ wg.top + size ≤ wg.scr ∧ wg.allocs.length < 16
      ∃ t, exec (.salloc c span d a) s = .next t ∧ s.memKept t ∧ s.passed t g (fun _ => g.next) ∧ s.elemsKept t []
        ∧ t.wgOf k = (if fits then { wg with allocs := wg.allocs ++ [⟨wg.top, size, span.toNat⟩], top := wg.top + size } else wg)
        ∧ ∀ x ∈ g.acts, s.owes t x (s.wrElems x (some { n := d.toNat }))
            (if fits then BitVec.ofNat 64 (wg.top % 2 ^ 32) else 0xFFFFFFFF)))

/-- R209, R210: the cache instructions of one thread change no memory and no register: PREF brings an intact line into the level it
names, a Kettle cell keeping a line it holds; CINV takes the line out of the L1s within its scope; CWB leaves it clean. Which accesses PREF
drops (log 33), which lines CWB leaves alone (log 34) and what a full cache gives up (log 30) are the model's choices. -/
def Obligations.CacheInstructions : Prop :=
  ∀ (c : Ctl) (a : VReg) (s : State) (g : Grp) (x : Nat × Nat) (e : Acc) (pa mt : Nat), s.solo c 1 g x →
    s.open g (s.fieldElems x a.toNat true) [] → e.t = .mem pa mt →
    let go := fun (kind : AccKind) => s.access (.lane x.1 x.2) (s.ctxOf x.1) 1 (s.elemsVal (s.fieldElems x a.toNat true)) kind = .ok e
    let home := fun (u : State) => u.half (homeHalf (128 * (pa / 128)))
    let gives := fun (i : Instr) (p : State → Prop) =>
      ∃ t, exec i s = .next t ∧ s.access1 t ∧ s.memKept t ∧ t.pend = s.pend ∧ s.passed t g (fun _ => g.next) ∧ p t
    (go prefKind → s.lineFault (pa / 128) = none →
      gives (.pref c .l1 a) (fun t => (s.l1 (coreOf x.1)).find (pa / 128) = none → (t.l1 (coreOf x.1)).find (pa / 128) = some (s.line (pa / 128)))
      ∧ gives (.pref c .l2 a) (fun t => t.cores = s.cores
          ∧ ((home s).cells.contains (pa / 128) = false → ((home t).l2.find (pa / 128)).isSome = true))
      ∧ gives (.pref c .msc a) (fun t => t.cores = s.cores ∧ ((home t).msc.find (pa / 128)).isSome = true))
    ∧ (go prefKind → s.lineFault (pa / 128) ≠ none →
      ∀ l : CacheLevel, gives (.pref c l a) (fun t => t.cores = s.cores ∧ t.halves = s.halves))
    ∧ (go cmoKind → mt = 0 ∨ mt = 2 → ∀ sc : Scope,
      gives (.cinv c sc a) (fun t => ∀ j ∈ s.coresIn (coreOf x.1) sc, (t.l1 j).find (pa / 128) = none)
      ∧ gives (.cwb c sc a) (fun t => t.cores = s.cores ∧ (home t).l2.find (pa / 128) ≠ some true ∧ (home t).msc.find (pa / 128) ≠ some true))
    ∧ (go cmoKind → mt ≠ 0 → mt ≠ 2 → ∀ (sc : Scope) (i : Instr), i = .cinv c sc a ∨ i = .cwb c sc a →
      gives i (fun t => t.cores = s.cores ∧ t.halves = s.halves))

-- The Kettle -----------------------------------------------------------------------------------------------------------------------------

/-- R248, R249, R251: ATM and ATM.64 of one thread in its package's memory: one step from old to the operation's value, no other byte
changed, the old value pending into its register.
R250: the new value of each 32-bit operation on old with x and cmp; none for a cas that fails. -/
def Obligations.Atomics : Prop :=
  (∀ (c : Ctl) (op : KOp) (o : OrdSc) (d a : VReg) (w64 : Bool) (s : State) (g : Grp) (x : Nat × Nat) (e : Acc) (pa mt : Nat),
    s.solo c 1 g x → s.open g (s.fieldElems x a.toNat true ++ s.atomElems x d w64 (op == .cas)) [] → e.t = .mem pa mt →
    let n := if w64 then 8 else 4
    let reg := fun (j : Nat) => s.elemsVal (s.fieldElems x (d.toNat + j) w64)
    let old := BitVec.ofNat 64 (s.mem.read pa n)
    let new := if op = .cas then kop op w64 old (reg (if w64 then 2 else 1)) (reg 0) else kop op w64 old (reg 0) 0
    s.access (.lane x.1 x.2) (s.ctxOf x.1) n (s.elemsVal (s.fieldElems x a.toNat true)) atomKind = .ok e →
    s.lineFault (pa / 128) = none → s.unwatched pa n → s.unkept pa n →
    ∃ t, exec (if w64 then .atm64 c op o d a else .atm c op o d a) s = .next t ∧ s.access1 t ∧ s.passed t g (fun _ => g.next)
      ∧ s.owes t x (s.fieldElems x d.toNat w64) old ∧ s.stored t pa n (new.getD old).toNat)
  ∧ (∀ old x cmp : Word,
    kop32 .add old x cmp = some (old + x) ∧ kop32 .sub old x cmp = some (old - x)
    ∧ kop32 .minS32 old x cmp = some (if old.toInt ≤ x.toInt then old else x)
    ∧ kop32 .minZ32 old x cmp = some (if old.toNat ≤ x.toNat then old else x)
    ∧ kop32 .maxS32 old x cmp = some (if old.toInt ≤ x.toInt then x else old)
    ∧ kop32 .maxZ32 old x cmp = some (if old.toNat ≤ x.toNat then x else old)
    ∧ kop32 .and old x cmp = some (old &&& x) ∧ kop32 .or old x cmp = some (old ||| x) ∧ kop32 .xor old x cmp = some (old ^^^ x)
    ∧ kop32 .swap old x cmp = some x ∧ kop32 .cas old x cmp = (if old = cmp then some x else none)
    ∧ kop32 .incw old x cmp = some (if old.toNat < x.toNat then BitVec.ofNat 32 (old.toNat + 1) else 0)
    ∧ kop32 .decw old x cmp = some (if 0 < old.toNat ∧ old.toNat ≤ x.toNat then BitVec.ofNat 32 (old.toNat - 1) else x)
    ∧ kop32 .fmax old x cmp = some (fmaxW old x) ∧ kop32 .fadd old x cmp = some (faddW old x)
    ∧ (f32 old = .nan ∨ f32 x = .nan → kop32 .fadd old x cmp = some 0x7FC00000))

/-- R253, R261: RED of one thread in its package's memory: accepted, to be performed by the Kettle later; in repeatable mode held in the
warp's buffer; what the entry holds is the model's choice (log 41). Memory does not change yet. -/
def Obligations.Reductions : Prop :=
  ∀ (c : Ctl) (op : KOp) (o : OrdSc) (d a : VReg) (s : State) (g : Grp) (x : Nat × Nat) (e : Acc) (pa mt : Nat),
    s.solo c 1 g x → s.open g (s.fieldElems x a.toNat true ++ s.fieldElems x d.toNat (op == .addZ64)) [] → e.t = .mem pa mt →
    let w64 := op == .addZ64
    let v := s.elemsVal (s.fieldElems x d.toNat w64)
    s.access (.lane x.1 x.2) (s.ctxOf x.1) (if w64 then 8 else 4) (s.elemsVal (s.fieldElems x a.toNat true)) atomKind = .ok e →
    (s.repeatableOf x.1 = false →
      ∃ t, exec (.red c op o d a) s = .next t ∧ t.mem = s.mem ∧ t.side = s.side ∧ s.passed t g (fun _ => g.next) ∧ s.elemsKept t []
        ∧ ∃ r, t.kreqs = s.kreqs ++ [r] ∧ r.slot = x.1 ∧ r.lane = x.2 ∧ r.pa = pa ∧ r.op = op ∧ r.x = v ∧ r.w64 = w64)
    ∧ (s.repeatableOf x.1 = true → s.bufRoom x.1 e.t = true →
      ∃ t, exec (.red c op o d a) s = .next t ∧ t.mem = s.mem ∧ t.side = s.side ∧ s.passed t g (fun _ => g.next) ∧ s.elemsKept t []
        ∧ t.kreqs = s.kreqs ∧ (t.warp x.1).buf = (s.warp x.1).buf
          ++ [{ act := .red x.2 op w64 v, target := e.t, va := e.va, stamp := (s.part (s.kernelOf x.1).part).recess }])

/-- R254, R255: WAITGE and WAITEQ of one thread: they pass where the word is there already, else the thread waits with its watch armed; and a
write that gives the word wakes the thread past its wait.
R258 to R260: QPUSH and QPOP of one thread on a valid work queue with intact lines: a push appends its item at the tail, is counted as
dropped where the queue is full or closed, or closes it; a pop takes the item at the head, or answers empty or closed. -/
def Obligations.WaitsAndQueues : Prop :=
  (∀ (c : Ctl) (o : OrdSc) (d a : VReg) (s : State) (g : Grp) (x : Nat × Nat) (e : Acc) (pa mt : Nat) (eq : Bool),
    s.solo c 1 g x → s.open g (s.fieldElems x a.toNat true ++ s.fieldElems x d.toNat false) [] → e.t = .mem pa mt →
    let i : Instr := if eq then .waiteq c o d a else .waitge c o d a
    let v : Word := (s.elemsVal (s.fieldElems x d.toNat false)).setWidth 32
    let now : Word := BitVec.ofNat 32 (s.mem.read pa 4)
    let good := fun (u : Word) => if eq then u = v else (u - v).toNat < 2 ^ 31
    s.access (.lane x.1 x.2) (s.ctxOf x.1) 4 (s.elemsVal (s.fieldElems x a.toNat true)) waitKind = .ok e → s.lineFault (pa / 128) = none →
    (good now → ∃ t, exec i s = .next t ∧ s.access1 t ∧ s.memKept t ∧ t.pend = s.pend ∧ s.passed t g (fun _ => g.next))
    ∧ (¬ good now → ∃ t, exec i s = .next t ∧ s.memKept t ∧ (t.thread x.1 x.2).st = .waiting ∧ (t.thread x.1 x.2).pc = (s.thread x.1 x.2).pc
      ∧ t.watches = s.watches ++ [⟨x.1, x.2, pa, eq, v, o, (s.part (s.kernelOf x.1).part).recess⟩]
      ∧ ∀ (u : Word), good u → (∀ w ∈ s.watches, w.pa + 4 ≤ pa ∨ pa + 4 ≤ w.pa) →
          ∃ t', t.poke pa 4 u.toNat = some t' ∧ (t'.thread x.1 x.2).st = .ready ∧ (t'.thread x.1 x.2).pc = (s.thread x.1 x.2).pc + 4
            ∧ t'.watches = s.watches))
  ∧ (∀ (c : Ctl) (o : OrdSc) (d a : VReg) (s : State) (g : Grp) (x : Nat × Nat) (e : Acc) (q mt : Nat),
    s.solo c 1 g x → e.t = .mem q mt → q % 128 = 0 → s.watches = [] →
    let head := s.mem.read q 4
    let tail := s.mem.read (q + 4) 4
    let cap := 2 ^ (s.mem.read (q + 12) 1 / 16)
    let count := (tail + 2 ^ 32 - head) % 2 ^ 32
    let closed := s.mem.read (q + 12) 1 % 2 = 1
    let item := fun (j : Nat) => q + 128 + 8 * (j % cap)
    let ve := s.elemsVal (s.fieldElems x d.toNat true)
    s.access (.lane x.1 x.2) (s.ctxOf x.1) 128 (s.elemsVal (s.fieldElems x a.toNat true)) queueKind = .ok e → s.lineFault (q / 128) = none →
    2 ≤ cap → cap ≤ 2 ^ 12 → q + 128 + 8 * cap ≤ q + (e.tr.base + e.tr.size - e.va.toNat) → count ≤ cap →
    (s.open g (s.fieldElems x a.toNat true ++ s.fieldElems x d.toNat true) [] →
      (¬ closed → ve ≠ qEmpty → ve ≠ qClosed → count < cap → populated (item tail) = true → s.lineFault (item tail / 128) = none →
        s.unkept q 128 → s.unkept (item tail) 8 →
        ∃ t, exec (.qpush c o d a) s = .next t ∧ s.access1 t ∧ s.passed t g (fun _ => g.next) ∧ t.mem.read (item tail) 8 = ve.toNat
          ∧ t.mem.read (q + 4) 4 = (tail + 1) % 2 ^ 32
          ∧ ∀ y, ¬ (q + 4 ≤ y ∧ y < q + 8) → ¬ (item tail ≤ y ∧ y < item tail + 8) → t.mem.byte y = s.mem.byte y)
      ∧ (closed ∨ ve = qEmpty ∨ (ve ≠ qClosed ∧ count = cap) → s.unkept q 128 → ∃ t, exec (.qpush c o d a) s = .next t ∧ s.access1 t
          ∧ s.passed t g (fun _ => g.next) ∧ s.stored t (q + 8) 4 (s.mem.read (q + 8) 4 + 1))
      ∧ (¬ closed → ve = qClosed → s.unkept q 128 → ∃ t, exec (.qpush c o d a) s = .next t ∧ s.access1 t ∧ s.passed t g (fun _ => g.next)
          ∧ s.stored t (q + 12) 1 (s.mem.read (q + 12) 1 + 1)))
    ∧ (s.open g (s.fieldElems x a.toNat true) (s.fieldElems x d.toNat true) →
      (count ≠ 0 → populated (item head) = true → s.lineFault (item head / 128) = none → s.unkept q 128 →
        ∃ t, exec (.qpop c o d a) s = .next t ∧ s.access1 t ∧ s.passed t g (fun _ => g.next)
        ∧ s.owes t x (s.fieldElems x d.toNat true) (BitVec.ofNat 64 (s.mem.read (item head) 8)) ∧ s.stored t q 4 (head + 1))
      ∧ (count = 0 → ∃ t, exec (.qpop c o d a) s = .next t ∧ s.access1 t ∧ s.memKept t ∧ s.passed t g (fun _ => g.next)
        ∧ s.owes t x (s.fieldElems x d.toNat true) (if closed then qClosed else qEmpty))))

-- Tiles and the matrix unit ------------------------------------------------------------------------------------------------------------------

/-- R268, R269: MLD and MST of a tile that nothing else is using, by a warp all of whose live threads issue them, between the tile's line
slots and lines of the scratchpad or of the package's memory, line (r, c) at base + r · stride + 128 · c. MLD's lines become pending into
the tile; MST's reach memory, the last of the slots that share an address.
R265, R266, R270: MSHP writes a shape, its reserved bits 0 and its tag and size in range, to a held tile nothing is using, whose line
slots keep their contents; MZERO of a held tile makes 256 line slots of zeros pending into it. That memory is read at issue
(log 25), and what a buffered entry holds (log 41), are the model's choices. -/
def Obligations.TileAccess : Prop :=
  (∀ (c : Ctl) (o : OrdSc) (strm : Bool) (m : MReg) (a : VReg) (s : State) (g : Grp) (k : Nat), s.issues c 1 g → s.whole g k →
    (∀ x ∈ g.acts, s.quiet x) → s.tileHeld k m.toNat = true → s.tileBusy (s.warp k).wg m.toNat = false →
    let l0 := (s.warp k).liveLanes.headD 0
    let elem := fun (i : Nat) => s.fieldElems (k, l0) (a.toNat + i) false
    (∀ i < 3, ∀ e ∈ elem i, s.elemHeld e = true) →
    let word := fun (i : Nat) => (s.elemsVal (elem i)).toNat
    let shape := s.tileShape k m.toNat
    let n := shLines shape
    let at0 := fun (j : Nat) => j / shWidth shape * word 2 + 128 * (j % shWidth shape)
    let tile := (s.wgOf k).tiles.get m.toNat
    let base := word 0 + 2 ^ 32 * word 1
    let va := fun (j : Nat) => BitVec.ofNat 64 (base + at0 j)
    let loads := fun (i : Instr) (f : Nat → TileLine) =>
      ∃ t, exec i s = .next t ∧ s.tileAccess1 t ∧ s.memKept t ∧ s.passed t g (fun _ => g.next)
        ∧ ∃ x : Tile, t.pend = s.pend ++ [{ Pending.empty k with id := s.nextId, tile := some (m.toNat, x) }]
          ∧ ∀ j, x.get j = if j < n then f j else tile.get j
    word 2 % 128 = 0 →
    (word 0 % 128 = 0 → s.open g (elem 0 ++ elem 2) [] → (∀ j < n, word 0 + at0 j + 128 ≤ (s.wgOf k).scr) →
      loads (.mld c true .plain false m a) (fun j => ⟨BitVec.ofNat 1024 ((s.wgOf k).spad.read (word 0 + at0 j) 128), 0x7F7F7F7F7F7F7F7F⟩)
      ∧ ∃ t, exec (.mst c true .plain false m a) s = .next t ∧ s.memKept t ∧ s.passed t g (fun _ => g.next) ∧ t.pend = s.pend
        ∧ s.elemsKept t []
        ∧ (∀ j < n, (∀ i < n, j < i → at0 i ≠ at0 j) → (t.wgOf k).spad.read (word 0 + at0 j) 128 = (tile.get j).data.toNat)
        ∧ ∀ y, (∀ j < n, y < word 0 + at0 j ∨ word 0 + at0 j + 128 ≤ y) → (t.wgOf k).spad.byte y = (s.wgOf k).spad.byte y)
    ∧ (base % 128 = 0 → s.open g (elem 0 ++ elem 1 ++ elem 2) [] → ∀ (e : Nat → Acc) (pa mt : Nat → Nat) (l : Nat → Line),
      (∀ j < n, (e j).t = .mem (pa j) (mt j)) →
      let go := fun (kind : AccKind) => ∀ j < n, s.access (.lane k l0) (s.ctxOf k) 128 (va j) kind = .ok (e j)
      let seen := fun (j : Nat) => s.seenLine k (e j).t (l j)
      (go lineLoadKind → (s.l1 (coreOf k)).length + (s.core (s.l1Home (coreOf k))).copies.length + n ≤ s.l1Lines (coreOf k) → (∀ j < n, s.sees k o (pa j) (mt j) (l j) ∧ (shTag shape = 0 ∨ (seen j).tag.toNat = shTag shape)) →
        loads (.mld c false o strm m a) (fun j => ⟨(seen j).data, (seen j).scales⟩))
      ∧ (go lineStoreKind → s.repeatableOf k = false → (∀ j < n, pa j % 128 = 0 ∧ s.unwatched (pa j) 128 ∧ s.unkept (pa j) 128) →
        ∃ t, exec (.mst c false o strm m a) s = .next t ∧ s.access1 t ∧ s.passed t g (fun _ => g.next) ∧ t.pend = s.pend
          ∧ (∀ j < n, (∀ i < n, j < i → pa i ≠ pa j) → t.lineBad (pa j / 128) = none
            ∧ t.line (pa j / 128) = { data := (tile.get j).data, tag := BitVec.ofNat 4 (shTag shape), scales := (tile.get j).slots })
          ∧ (∀ y, (∀ j < n, y < pa j ∨ pa j + 128 ≤ y) → t.mem.byte y = s.mem.byte y) ∧ (s.canonical = true → t.canonical = true))))
  ∧ (∀ (c : Ctl) (d : SReg) (m : MReg) (s : State) (g : Grp) (k : Nat), s.issues c 1 g → s.tileHeld k m.toNat = true →
    s.tileBusy (s.warp k).wg m.toNat = false →
    let x := (s.warp k).s d.toNat
    let wg := (s.warp k).wg
    ((∀ u ∈ g.acts, u.1 = k) → s.uniOpen g [d] [] → x.toNat / 2 ^ 12 % 16 < 10 → x.toNat / 2 ^ 16 = 0 → x.toNat / 2 ^ 10 % 4 = 0 →
        (x.toNat % 256 + 1) * (x.toNat / 256 % 4 + 1) ≤ 256 →
      ∃ t, exec (.mshp c d m) s = .next t ∧ s.passed t g (fun _ => g.next) ∧ { t.rest with wgs := [] } = { s.rest with wgs := [] }
        ∧ (∀ j, (t.warp j).still = (s.warp j).still) ∧ (∀ j, j ≠ wg → t.wgs.get j = s.wgs.get j)
        ∧ { (t.wgs.get wg) with mshp := [] } = { (s.wgs.get wg) with mshp := [] }
        ∧ ∀ j, (t.wgs.get wg).mshp.get j = if j = m.toNat then x else (s.wgs.get wg).mshp.get j)
    ∧ (s.whole g k → ∃ t, exec (.mzero c m) s = .next t ∧ s.tileAccess1 t ∧ s.memKept t ∧ s.passed t g (fun _ => g.next)
      ∧ ∃ y : Tile, t.pend = s.pend ++ [{ Pending.empty k with id := s.nextId, tile := some (m.toNat, y) }] ∧ ∀ j, y.get j = ⟨0, 0⟩))

/-- R271, R273, R274, R279, R280, R292: MCONV binds the lower-numbered free context, cleared, or queues the warp, which MCONV_GRANT binds
later; MDISS releases, every member's ISSUED set to STARTED; MWAIT delivers the oldest failure, or sets NF where it is owed; MSTAT reads BOUND, CTX, FAIL and DSEQ. The bundle
is of one warp of a declared roster. -/
def Obligations.MatrixContexts : Prop :=
  (∀ (s : State) (k r : Nat) (rest : List (Nat × Nat)), k < 24576 → (s.core (k / 64)).mconvQ = (k, r) :: rest → s.memberOf k r = true →
    (s.wgOf k).core = k / 64 → (s.rosterAt k r).bound = none → (s.matrix (k / 64) 0).roster = none →
    ∃ t, exec (.mconvGrant (k / 64)) s = .next t ∧ (t.core (k / 64)).mconvQ = rest ∧ (t.rosterAt k r).bound = some 0
      ∧ t.matrix (k / 64) 0 = { (default : MCtx) with roster := some ((s.warp k).wg, r) } ∧ t.mem = s.mem
      ∧ ∀ l, (s.thread k l).st = .waiting → (s.thread k l).why = .mconv r → (t.thread k l).st = .ready ∧ (t.thread k l).pc = (s.thread k l).pc + 4)
  ∧ ∀ (c : Ctl) (r : BitVec 4) (s : State) (g : Grp) (k : Nat), s.issues c 1 g → (∀ x ∈ g.acts, x.1 = k) → s.rosterDeclared k r.toNat = true →
    (s.wgOf k).core = k / 64 →
    let ro := s.rosterAt k r.toNat
    let wg := (s.warp k).wg
    let wid := (s.warp k).wid
    let mx := fun (m : Nat) => s.matrix (k / 64) m
    let fresh : MCtx := { roster := some (wg, r.toNat), leaving := false, bank := [], dw := [], latch := none, ops := [], dseq := 0 }
    (s.memberOf k r.toNat = true → ro.bound = none →
      ((s.core (k / 64)).mconvQ = [] → ((mx 0).roster = none ∨ (mx 1).roster = none) →
        ∃ t, exec (.mconv c r) s = .next t ∧ t.past g ∧ t.mem = s.mem ∧
          let m := if (mx 0).roster = none then 0 else 1
          (t.rosterAt k r.toNat).bound = some m ∧ t.matrix (k / 64) m = fresh ∧ t.matrix (k / 64) (1 - m) = mx (1 - m))
      ∧ ((s.core (k / 64)).mconvQ ≠ [] ∨ ((mx 0).roster ≠ none ∧ (mx 1).roster ≠ none) → ∃ t, exec (.mconv c r) s = .next t
          ∧ (t.core (k / 64)).mconvQ = (s.core (k / 64)).mconvQ ++ [(k, r.toNat)]
          ∧ ∀ x ∈ g.acts, (t.thread x.1 x.2).st = .waiting ∧ (t.thread x.1 x.2).pc = (s.thread x.1 x.2).pc))
    ∧ (ro.bound ≠ none → s.memberOf k r.toNat = true → ∃ t, exec (.mconv c r) s = .next t ∧ s.still t ∧ s.passed t g (fun _ => g.next))
    ∧ (∀ m < 2, ro.bound = some m → s.memberOf k r.toNat = true → ∃ t, exec (.mdiss c r) s = .next t ∧ t.past g ∧ t.mem = s.mem
        ∧ (t.rosterAt k r.toNat).bound = none ∧ (t.rosterAt k r.toNat).gath = [] ∧ (∀ w, (t.rosterAt k r.toNat).fails.get w = [])
        ∧ (∀ w, (t.rosterAt k r.toNat).issued.get w = if w < 32 ∧ ro.members.getLsbD w = true then ro.started else ro.issued.get w)
        ∧ (t.rosterAt k r.toNat).started = ro.started
        ∧ t.matrix (k / 64) m = if (mx m).ops = [] then default else { (mx m) with leaving := true })
    ∧ (ro.bound = none → ∃ t, exec (.mdiss c r) s = .next t ∧ s.still t ∧ s.passed t g (fun _ => g.next))
    ∧ (g.acts = (s.warp k).liveLanes.map (fun l => (k, l)) → ∀ m, ro.bound = some m → (∀ u ∈ ro.gath, u.wid ≠ wid) →
        (∀ j < 2, ∀ p ∈ (mx j).ops, ∀ u ∈ p.caps, u.wid ≠ wid) →
      (ro.fails.get wid = [] → ∃ t, exec (.mwait c r) s = .next t ∧ t.past g ∧ t.mem = s.mem
        ∧ (t.rosterAt k r.toNat).nfs.get wid = false ∧ (t.warp k).nf = ((s.warp k).nf || ro.nfs.get wid))
      ∧ (∀ f rest, ro.fails.get wid = f :: rest → (s.ctx (s.kernelOf k).ctx).tvec ≠ 0 → f.code ≠ 5 →
        ∃ t, exec (.mwait c r) s = .next t ∧ (t.rosterAt k r.toNat).fails.get wid = rest ∧ t.mem = s.mem
          ∧ ∀ x ∈ g.acts, (t.thread x.1 x.2).tmode = true ∧ (t.thread x.1 x.2).tcause = 5
            ∧ (t.thread x.1 x.2).tinfo.toNat = f.code % 2 ^ 32 ∧ (t.thread x.1 x.2).tepc = g.pc))
    ∧ (g.acts = (s.warp k).liveLanes.map (fun l => (k, l)) → ro.bound = none →
        ∃ t, exec (.mwait c r) s = .next t ∧ s.still t ∧ s.passed t g (fun _ => g.next))
    ∧ (∀ d : VReg, (∀ x ∈ g.acts, s.open g [] (s.wrElems x (some { n := d.toNat }))) →
      let fail := ((ro.fails.get wid).map FailRec.code).headD 0
      ∃ t, exec (.mstat c d r) s = .next t ∧ s.promises t g { n := d.toNat } (fun _ => BitVec.ofNat 64
        ((ro.dseq.toNat + 2 ^ 24 * fail + (match ro.bound with
          | some m => 2 ^ 30 * m + 2 ^ 31
          | none => 0)) % 2 ^ 32)))

/-- R275, R277, R282, R286, R287: a joint instruction of a warp all of whose live threads issue it, a member of a bound roster whose tiles
are held, no issue ahead: ISSUED steps by 1, the word and the uniform registers its settings use are captured, and the warp passes. A drain
to vector rows makes their results pending, which its operation fills. -/
def Obligations.JointIssue : Prop :=
  ∀ (c : Ctl) (r : BitVec 4) (s : State) (g : Grp) (k : Nat), s.issues c 1 g → s.whole g k → s.rosterDeclared k r.toNat = true →
    s.memberOf k r.toNat = true →
    let ro := s.rosterAt k r.toNat
    let wid := (s.warp k).wid
    ro.bound ≠ none → ro.issued.get wid ≤ ro.started →
    let u := fun (n : Nat) => (s.warp k).s n
    let ready := fun (ns : List Nat) => s.uniOpen g (ns.map (BitVec.ofNat 6)) []
    let counts := fun (i : Instr) (x : MIns) (vals : List Word) =>
      ∃ t, exec i s = .next t ∧ s.passed t g (fun _ => g.next) ∧ { t.rest with wgs := [] } = { s.rest with wgs := [] }
        ∧ (∀ j, (t.warp j).still = (s.warp j).still) ∧ (t.rosterAt k r.toNat).gath = ro.gath ++ [⟨wid, x, vals, none, 0, false, false⟩]
        ∧ (t.rosterAt k r.toNat).issued.get wid = ro.issued.get wid + 1
        ∧ { (t.rosterAt k r.toNat) with gath := [], issued := [] } = { ro with gath := [], issued := [] }
    let used := fun (o : Nat) => let w := u (8 * o)
      [8 * o, 8 * o + 4] ++ (if w.getLsbD 11 then [8 * o + 1] else []) ++ if w.getLsbD 10 then [8 * o + 2, 8 * o + 3] else []
    let desc := fun (o : Nat) => let w := u (8 * o)
      [w, if w.getLsbD 11 then u (8 * o + 1) else 0, if w.getLsbD 10 then u (8 * o + 2) else 0,
        if w.getLsbD 10 then u (8 * o + 3) else 0, u (8 * o + 4)]
    (∀ a : MReg, s.tileHeld k a.toNat = true →
      counts (.mldw c a r) (.mldw a.toNat) [] ∧ (∀ z : Bool, counts (.mma c z r a) (.mma z a.toNat) [])
      ∧ (∀ (q : SReg) (v : BitVec 3), q.toNat % 4 = 0 → ready [q.toNat, q.toNat + 1, q.toNat + 2, q.toNat + 3] →
        counts (.mmv c r q v a) (.mmv q.toNat (v.toNat + 1) a.toNat) [u q.toNat, u (q.toNat + 1), u (q.toNat + 2), u (q.toNat + 3)])
      ∧ (∀ (zx zw : Bool) (b : MReg), s.tileHeld k b.toNat = true → counts (.mdual c zx zw r a b) (.mdual zx zw a.toNat b.toNat) [])
      ∧ (∀ (w : Bool) (o : BitVec 3), ready (used o.toNat) → counts (.mdrnT c w a r o) (.drnT w a.toNat o.toNat) (desc o.toNat)))
    ∧ (∀ (w : Bool) (o : BitVec 3), ready (used o.toNat ++ [8 * o.toNat + 5, 8 * o.toNat + 6]) →
      counts (.mdrnM c w r o) (.drnM w o.toNat) (desc o.toNat ++ [u (8 * o.toNat + 5), u (8 * o.toNat + 6)]))
    ∧ (∀ (w : Bool) (d : VReg) (o : BitVec 3), ready (used o.toNat) →
      let fmt := (u (8 * o.toNat)).toNat % 16
      let rows := (List.range (drnLines fmt ((u (8 * o.toNat + 4)).toNat % 512))).map (fun j => s.rowAt k d.toNat + j)
      s.rowsOpen g k [] rows → rows ≠ [] →
      ∃ t, exec (.mdrnV c w d r o) s = .next t ∧ s.passed t g (fun _ => g.next) ∧ s.elemsKept t [] ∧ t.mem = s.mem
        ∧ (t.rosterAt k r.toNat).gath = ro.gath ++ [⟨wid, .drnV w d.toNat o.toNat, desc o.toNat, some s.nextId, s.rowAt k d.toNat, false, false⟩]
        ∧ (t.rosterAt k r.toNat).issued.get wid = ro.issued.get wid + 1
        ∧ ∃ p, t.pend = s.pend ++ [p] ∧ p.id = s.nextId ∧ p.slot = k ∧ p.remote = true
          ∧ p.regs.map Prod.fst = rows.flatMap (fun row => (List.range 32).map (fun i => 32 * row + i)))

/-- R271, R276, R278, R281, R283: a roster's next operation starts once every member has issued it, with what they captured; MLDW latches a
tile and clears DW; MMA adds the products of a tile's rows and the latch, or +0 first under .z, block by block; with nothing latched it fails
with code 4 for each warp that issued it. -/
def Obligations.MatrixOperations : Prop :=
  (∀ (s : State) (wg slot m : Nat), let ro := s.roster wg slot
    ro.bound = some m → ro.gath ≠ [] → ro.members ≠ 0 → (∀ w < 32, ro.members.getLsbD w = true → ro.started < ro.issued.get w) →
    let core := (s.wgs.get wg).core
    ∃ t, exec (.matrixOperationStart wg slot) s = .next t ∧ (t.roster wg slot).started = ro.started + 1 ∧ (t.roster wg slot).gath = []
      ∧ t.mem = s.mem ∧ ∃ p, (t.matrix core m).ops = (s.matrix core m).ops ++ [p] ∧ p.caps = ro.gath ∧ p.wg = wg ∧ p.slot = slot)
  ∧ (∀ (s : State) (core m : Nat) (p : MatOp) (rest : List MatOp) (i : MIns), core < 384 → m < 2 →
    (s.matrix core m).ops = p :: rest → p.caps ≠ [] → (∀ u ∈ p.caps, u.ins = i ∧ u.vals = [] ∧ u.early = false) → p.tainted = false →
    let done := fun (f : State → MCtx → Prop) => ∃ t, exec (.matrixOperationFinish core m) s = .next t ∧ t.mem = s.mem
      ∧ ((s.matrix core m).leaving = false → (t.matrix core m).ops = rest ∧ f t (t.matrix core m))
    let old := s.matrix core m
    ∀ (n : Nat) (shape : Word) (x : Tile), p.tiles.get n = ⟨shape, some x⟩ →
    let tag := shTag shape
    let block := fun (r kb : Nat) => (rowBlks shape x r).getD kb default
    (i = .mldw n → 1 ≤ tag → tag ≤ 7 → shRows shape ≤ 128 →
      let kb := min (tagBlocks tag * shWidth shape) (4 * rateOf tag)
      done (fun _ t => (∀ j, t.dw.get j = 0) ∧ (∀ j, t.bank.get j = old.bank.get j)
        ∧ t.latch = some ⟨tag, kb, (List.range (shRows shape)).map (fun r => (List.range kb).map (block r))⟩))
    ∧ (∀ z : Bool, i = .mma z n →
      (∀ l, old.latch = some l → 1 ≤ tag → tag ≤ 7 → l.kb ≤ tagBlocks tag * shWidth shape → l.cols.length ≤ 128 → (∀ col ∈ l.cols, col.length = l.kb) →
        done (fun _ t => t.latch = old.latch ∧ (∀ j, t.dw.get j = old.dw.get j) ∧ ∀ j, t.bank.get j =
          if j / 128 < shRows shape ∧ j % 128 < l.cols.length then
            (List.range l.kb).foldl (fun acc kb =>
              let a := block (j / 128) kb
              let b := (l.cols.getD (j % 128) []).getD kb default
              accumulate acc (blockdot (a.elems tag) a.scale (b.elems l.fmt) b.scale)) (if z then 0 else old.bank.get j)
          else old.bank.get j))
      ∧ (old.latch = none → (s.wgs.find p.wg).isSome = true → (s.roster p.wg p.slot).st ≠ .unused → p.born = (s.roster p.wg p.slot).born →
        done (fun t _ => ∀ u ∈ p.caps, ((t.roster p.wg p.slot).fails.get u.wid).map (fun f => (f.code, f.cause, f.info))
          = ((s.roster p.wg p.slot).fails.get u.wid).map (fun f => (f.code, f.cause, f.info)) ++ [(4, 0, 0)]))))


-- Engines and KV pages -------------------------------------------------------------------------------------------------------------------------

/-- R296, R297, R303, R307, R311, R316, R319: a command of one warp whose line is accepted and whose queue has room is captured and joins its
queue; CPY's ticket, its channel's count of destination lines after it, becomes pending into sd, and the channel's record is kept in memory. -/
def Obligations.EngineIssue : Prop :=
  ∀ (c : Ctl) (a : SReg) (s : State) (g : Grp) (k : Nat) (e : Acc) (pa mt : Nat) (l : Line), s.issues c 1 g → (∀ x ∈ g.acts, x.1 = k ∧ s.quiet x) →
    a.toNat % 2 = 0 → s.uniOpen g [a, a + 1] [] → e.t = .mem pa mt →
    s.access (.lane k ((g.acts.map Prod.snd).headD 0)) (s.ctxOf k) 128 ((s.warp k).sPair a.toNat) {} = .ok e → s.sees k .plain pa mt l →
    let mine := fun (x : EngCmd) (ticket : Word) => x.line = l.data ∧ x.ctx = s.ctxOf k ∧ x.kernel = (s.wgOf k).kernel ∧ x.wg = (s.warp k).wg
      ∧ x.wid = (s.warp k).wid ∧ x.ticket = ticket ∧ x.doneLines = 0 ∧ x.aborted = false
    (∀ (ch : BitVec 4) (d : SReg), s.uniOpen g [] [d] → (cpyOpc l.data = 2 → cpySspace l.data = true) → cpyValid l.data (s.wgOf k).scr 1 = true →
      s.watches = [] →
      let chan := fun (s : State) => (s.cluster (k / 512)).chans.get ch.toNat
      (chan s).queue.length < 8 →
      let ticket := (chan s).tick + BitVec.ofNat 32 (cpyDrows l.data * cpyDcols l.data 1)
      ∃ t, exec (.cpy c ch d a) s = .next t ∧ s.passed t g (fun _ => g.next) ∧ s.elemsKept t []
        ∧ (chan t).tick = ticket ∧ (chan t).wp = (chan s).wp ∧ (∃ x, (chan t).queue = (chan s).queue ++ [x] ∧ mine x ticket)
        ∧ (∃ p, t.pend = s.pend ++ [p] ∧ p.slot = k ∧ p.sregs = [(d.toNat, ticket)] ∧ p.regs = [])
        ∧ s.onlyBytes t [(k / 512 / 6 * 2 ^ 36 + 0xC90400000 + 512 * (k / 512 % 6) + 32 * ch.toNat, 16)])
    ∧ (∀ (op : Nat) (i : Instr), (op = 1 ∧ i = .gath c a) ∨ (op = 2 ∧ i = .scat c a) ∨ (op = 3 ∧ i = .coll c a) ∨ (op = 4 ∧ i = .repart c a) →
      (if op = 1 ∨ op = 2 then gsValid l.data op else if op = 3 then collValid l.data else repValid l.data) = true →
      s.crecOk (s.ctxOf k) (cmdCrec l.data) = true → ((s.half (k / 3072)).queueOf op).length < 16 →
      ∃ t, exec i s = .next t ∧ s.passed t g (fun _ => g.next) ∧ s.memKept t ∧ s.elemsKept t [] ∧ t.pend = s.pend
        ∧ ∃ x, (t.half (k / 3072)).queueOf op = (s.half (k / 3072)).queueOf op ++ [x] ∧ mine x 0)

/-- R338, R339, R346 to R350: the KV instructions of one warp on a page whose translations pass and whose header is valid, not
CONVERTING, and SEALED only where KVSEAL sealed it (else the rules leave it undefined), no table of page entries lying there. KVHDR and KVLD leave memory alone; KVAPP writes a token's line and the header, KVEVICT and KVSEAL the header. -/
def Obligations.KvInstructions : Prop :=
  ∀ (c : Ctl) (a : SReg) (s : State) (g : Grp) (k : Nat) (p : KvPage), s.issues c 1 g → s.whole g k → (∀ x ∈ g.acts, s.quiet x) →
    a.toNat % 2 = 0 →
    let l0 := (s.warp k).liveLanes.headD 0
    let go := fun (wr page : Bool) => s.kvCk k l0 ((s.warp k).sPair a.toNat) wr page = .ok p
    let h := (s.line (p.hpa / 128)).data
    let row := fun (n : Nat) => s.rowAt k n
    let word := fun (n : Nat) => (s.warp k).s n
    p.hpa % 128 = 0 → p.pa % 2 ^ 16 = 0 → s.lineFault (p.hpa / 128) = none → hdrValid h = true → hdrConverting h = false → s.watches = [] →
    (hdrSealed h = true → (p.hpa / 128, p.pa / 2 ^ 16) ∈ s.sealedKv) → s.untabled p.hpa 128 →
    let gives := fun (i : Instr) (f : State → LineBits → Prop) =>
      ∃ t, exec i s = .next t ∧ t.past g ∧ s.elemsKept t [] ∧ f t (t.line (p.hpa / 128)).data
    (∀ d : VReg, s.uniOpen g [a, a + 1] [] → s.rowsOpen g k [] [row d.toNat] → go false false →
      gives (.kvhdr c d a) (fun t _ => s.memKept t ∧ ∃ q, t.pend = s.pend ++ [q] ∧ q.slot = k ∧ q.rowMeta = [(row d.toNat, 0, 0)]
        ∧ q.regs = (List.range 32).map (fun i => (32 * row d.toNat + i, BitVec.ofNat 32 (h.toNat / 2 ^ (32 * i))))))
    ∧ (s.uniOpen g [a, a + 1] [] → go true false →
      gives (.kvseal c a) (fun t h' => t.pend = s.pend ∧ s.onlyBytes t [(p.hpa, 128)] ∧ hdrSealed h' = true
        ∧ (hdrSealed h = true → s.memKept t ∧ t.halves = s.halves)
        ∧ (hdrSealed h = false → hdrAge h' = s.millis % 2 ^ 64 ∧ (hdrSurv h', hdrGen h', hdrScnt h', hdrAcnt h', hdrFmt h')
            = (hdrSurv h, hdrGen h, hdrScnt h, hdrAcnt h, hdrFmt h)
          ∧ ((s.half (homeHalf p.pa)).steeper.length < 65536 → (t.half (homeHalf p.pa)).steeper
            = (s.half (homeHalf p.pa)).steeper ++ [{ frame := p.pa / 2 ^ 16, ctx := s.ctxOf k, hdr := p.hpa, staging := false, image := [] }]))))
    ∧ (∀ d : VReg, s.uniOpen g [a, a + 1] [] → s.rowsOpen g k [row d.toNat] [] → go true false → hdrSealed h = false →
      let mask := ((s.warp k).rowData (row d.toNat)).toNat % 2 ^ 512
      gives (.kvevict c d a) (fun t h' => t.pend = s.pend ∧ s.onlyBytes t [(p.hpa, 128)]
        ∧ (∀ i < 512, h'.getLsbD i = (h.getLsbD i && !mask.testBit i)) ∧ hdrScnt h' = popAux (hdrSurv h') 512
        ∧ (hdrGen h', hdrAcnt h', hdrFmt h', hdrSealed h') = (hdrGen h, hdrAcnt h, hdrFmt h, false)))
    ∧ (∀ d : VReg, s.uniOpen g [a, a + 1] [a + 2] → s.rowsOpen g k [row d.toNat] [] → go true true → hdrSealed h = false → hdrAcnt h < 512 →
      a.toNat % 4 = 0 →
      populated (p.pa + 128 * hdrAcnt h) = true → s.untabled (p.pa + 128 * hdrAcnt h) 128 → ((s.warp k).rowLine (row d.toNat)).tag.toNat = hdrFmt h → p.hpa / 2 ^ 16 ≠ p.pa / 2 ^ 16 →
      let j := hdrAcnt h
      gives (.kvapp c d a) (fun t h' => t.line (p.pa / 128 + j) = (s.warp k).rowLine (row d.toNat) ∧ hdrAcnt h' = j + 1
        ∧ hdrScnt h' = hdrScnt h + 1 ∧ hdrSurv h' = hdrSurv h + 2 ^ j ∧ (hdrGen h', hdrFmt h', hdrSealed h') = (hdrGen h, hdrFmt h, false)
        ∧ s.onlyBytes t [(p.hpa, 128), (p.pa + 128 * j, 128)]
        ∧ ∃ q, t.pend = s.pend ++ [q] ∧ q.slot = k ∧ q.regs = [] ∧ q.sregs = [(a.toNat + 2, BitVec.ofNat 32 (2 ^ 16 * hdrGen h + j))]))
    ∧ (∀ (strm : Bool) (m : MReg) (rows : List (List Line)) (nf : Bool), a.toNat % 4 = 0 → s.uniOpen g [a, a + 1, a + 2] [a + 3] →
      s.tileHeld k m.toNat = true → s.tileBusy (s.warp k).wg m.toNat = false → go false false →
      let w := (word (a.toNat + 2)).toNat
      let i0 := w % 512
      let n := w / 2 ^ 16 % 512
      let shape := s.tileShape k m.toNat
      w / 2 ^ 9 % 2 ^ 7 = 0 → w / 2 ^ 25 = 0 → n ≠ 0 → i0 + n ≤ 512 → kvShape shape n = true →
      s.kvRows p h (shTag shape) (((List.range n).map (i0 + ·)).filter (fun i => h.getLsbD i)) = .ok (rows, nf) →
      gives (.kvld c strm m a) (fun t _ => t.mem = s.mem ∧ t.side = s.side ∧ (t.warp k).nf = ((s.warp k).nf || nf)
        ∧ ∃ (q : Pending) (x : Tile), t.pend = s.pend ++ [q] ∧ q.slot = k ∧ q.tile = some (m.toNat, x) ∧ q.regs = []
          ∧ q.sregs = [(a.toNat + 3, BitVec.ofNat 32 (2 ^ 16 * hdrGen h + rows.length))]
          ∧ ∀ j < shLines shape, x.get j = tileLineOf (rows.flatten.getD j default)))

/-- R299, R303, R307, R312: a copy of one line from memory to memory, and a gather and a scatter of one row of one line: the line is written
where the command says, the write pointer or the completion record tells, and the command leaves its queue.
R299, R314, R315, R317, R322, R298: groups of one rank. An all-gather leaves the rank's line in its window, a repartition its record; a
rank here stops with cause 8 when another says it has stopped. Each leaves its completion record and its queue. -/
def Obligations.EngineWork : Prop :=
  (∀ (s : State) (src dst : DWord) (x : EngCmd) (l : Line) (pd pr : Nat), s.watches = [] → l.tag.toNat < 10 → x.aborted = false →
    s.agentAt x.ctx dst lineStoreKind pd → s.unkept pd 128 → s.agentSees x.ctx src l →
    let o := x.line
    (∀ cl ch : Nat, cl < 48 → ch < 16 → let chan := fun (s : State) => (s.cluster cl).chans.get ch
      ∀ rest, (chan s).queue = x :: rest → (chan s).st ≠ 2 → x.doneLines = 0 → x.tag = none → x.nf = false → cpyOpc o = 0 → cpyNrows o = 1 → cpyNcols o = 1 →
        cpySspace o = false → cpyDspace o = false → cpySrc o = src → cpyDst o = dst → src ≠ dst →
      ∃ t, exec (.cpyExecute cl ch) s = .next t ∧ (pd / 128 ≠ (cl / 6 * 2 ^ 36 + 0xC90400000 + 512 * (cl % 6) + 32 * ch) / 128 → t.line (pd / 128) = l)
        ∧ (chan t).queue = rest ∧ (chan t).wp = x.ticket ∧ (chan t).st = (if rest = [] then 0 else 1)
        ∧ s.onlyBytes t [(pd / 128 * 128, 128), (cl / 6 * 2 ^ 36 + 0xC90400000 + 512 * (cl % 6) + 32 * ch, 16)])
    ∧ (∀ (hd : Nat) (rest : List EngCmd) (li : Line), hd < 8 → (s.half hd).gs = x :: rest → s.agentSees x.ctx (lineVa (gsIdx o)) li →
        gsCount o = 1 → gsRlines o = 1 → (gsIdx o).toNat % 4 = 0 →
      let n := li.data.toNat / 2 ^ (8 * ((gsIdx o).toNat % 128)) % 2 ^ 32
      let s1 := s.agentPut (.mem pd 0) l
      n < gsTrows o → s1.agentAt x.ctx (cmdCrec o) lineStoreKind pr → s1.unkept pr 128 →
      pr / 128 ≠ pd / 128 →
      let ends := fun (i : Instr) => ∃ t, exec i s = .next t ∧ (t.half hd).gs = rest ∧ t.line (pd / 128) = l
        ∧ s.onlyBytes t [(pd / 128 * 128, 128), (pr / 128 * 128, 128)]
        ∧ (let r := (t.line (pr / 128)).data.toNat
           r % 2 ^ 32 = 1 ∧ r / 2 ^ 32 % 2 ^ 16 = 0 ∧ r / 2 ^ 48 % 2 ^ 16 = cmdCtag o ∧ r / 2 ^ 64 % 2 ^ 32 = 1 ∧ r / 2 ^ 96 % 2 ^ 32 = 0)
      (cmdKind o = 1 → gsTable o n 0 = src → gsPacked o 0 0 = dst → ends (.gatherExecute hd))
      ∧ (cmdKind o = 2 → gsRop o = 0 → gsPacked o 0 0 = src → gsTable o n 0 = dst → (l.tag = 0 ∨ l.tag = 9) →
          (∃ old, s.agentSees x.ctx dst old ∧ (old.tag = 0 ∨ old.tag = 9)) → ends (.scatterExecute hd))))
  ∧ (∀ (s : State) (part hd : Nat) (gid epoch : BitVec 16) (x : EngCmd) (pr : Nat), part < 8 → hd < 8 → s.watches = [] → x.aborted = false →
    (∀ y ∈ s.stops, ¬(y.gid = gid.toNat ∧ y.epoch = epoch.toNat)) →
    let o := x.line
    let only := fun (op : Nat) => s.groupCmds part op gid.toNat epoch.toNat = [(hd, x)] ∧ s.groupCmds part (7 - op) gid.toNat epoch.toNat = []
    let recordIs := fun (t : State) (result cause cnt0 : Nat) => let r := (t.line (pr / 128)).data.toNat
      r % 2 ^ 32 = result ∧ r / 2 ^ 32 % 2 ^ 16 = cause ∧ r / 2 ^ 48 % 2 ^ 16 = cmdCtag o ∧ (result = 1 → r / 2 ^ 64 % 2 ^ 32 = cnt0)
    (∀ (tab l : Line) (buf : DWord) (pd : Nat), s.agentSees x.ctx (grpRtab o) tab → s.agentSees x.ctx (grpSbuf o) l → grpNrank o = 1 → grpRank o = 0 →
      tab.data.extractLsb' 0 64 = buf → bf tab.data 128 10 = s.pkg → BitVec.ofNat 16 (bf tab.data 144 16) = (s.ctx x.ctx).fasn →
      s.agentAt x.ctx buf lineStoreKind pd → s.unkept pd 128 → l.tag.toNat < 10 → pr / 128 ≠ pd / 128 →
      (only 3 → collCop o = 2 → collNl o = 1 → collFmt o = l.tag.toNat → grpDbuf o = buf →
        let s1 := (s.agentPut (.mem pd 0) l).agentPut (.mem pd 0) l
        s1.agentAt x.ctx (cmdCrec o) lineStoreKind pr → s1.unkept pr 128 →
        ∃ t, exec (.collectiveExecute part gid epoch []) s = .next t ∧ t.line (pd / 128) = l ∧ recordIs t 1 0 1
          ∧ (t.half hd).coll = (s.half hd).coll.erase x)
      ∧ (∀ old : Line, only 4 → repNrec o = 1 → 1 ≤ repRcap o → repSize o ≤ 128 → 16 ≤ repSize o → (grpSbuf o).toNat % 128 = 0 → buf.toNat % 128 = 0 →
        grpDbuf o = grpSbuf o → meets buf (grpSbuf o) (repRcap o * repSize o) (repSize o) = false → old.tag.toNat < 10 →
        s.agentSees x.ctx buf old →
        let new : Line := { old with data := setFld old.data 0 (8 * repSize o) l.data.toNat }
        let s1 := s.fillPut (.mem pd 0) (.bytes 0 ((lineBytes [l]).take (repSize o)))
        s1.agentAt x.ctx (cmdCrec o) lineStoreKind pr → s1.unkept pr 128 →
        ∃ t, exec (.repartitionExecute part gid epoch []) s = .next t ∧ t.line (pd / 128) = new ∧ recordIs t 1 0 1
          ∧ (t.half hd).rep = (s.half hd).rep.erase x))
    ∧ (∀ (rank : BitVec 10) (r : LocalRank), only 3 → s.ranksRead 3 [(hd, x)] = (.ok [r], s) → r.cmd = x → r.hd = hd →
      let shut := fun (va : DWord) (n : Nat) => ∀ i < ceilDiv (va.toNat % 128 + n) 128,
        ∃ f, s.agentAccess x.ctx 128 (lineVa va + BitVec.ofNat 64 (128 * i)) lineStoreKind = (.fault f, s)
      shut (grpDbuf o) (r.destBytes 3) → s.windowAgent r = none → s.free.2.agentAt x.ctx (cmdCrec o) lineStoreKind pr → s.unkept pr 128 →
      ∃ t, exec (.rankStop part gid epoch rank) s = .next t ∧ recordIs t 3 8 0 ∧ (t.half hd).coll = (s.half hd).coll.erase x
        ∧ s.onlyBytes t [(pr / 128 * 128, 128)]
        ∧ ∃ y ∈ t.stops, y.gid = gid.toNat ∧ y.epoch = epoch.toNat ∧ y.part = part ∧ y.cause = 8 ∧ y.frank = rank.toNat ∧ rank.toNat ∈ y.ranks))

-- Events of quadrants and of the Kettle ------------------------------------------------------------------------------------------------------------

/-- R43, R83, R142, R253: a pending result that may land reaches the registers of its warp, RSLT, its shape slot or its tile, and no other
register; an accepted reduction reaches its location as one operation.
R101, R103, R105, R108, R257: an extended block is granted to the request at the head of its quadrant's queue, with rows of 0, and the
threads that wait for it take their result; a block in the overflow area that an access waits for comes back
where it fits; a back-off ends.
R172, R173: a round on a quadrant whose slot is free, none of whose eligible threads has waited 64 rounds and none of whose workgroups is to
begin no further period: the threads at the lowest PC,
in each lane the one of the lowest warp slot, become ISSUING with AGE 0 and are the bundle; every other eligible thread ages by 1. The order in
which results land is the model's reading (log 24). -/
def Obligations.QuadrantEvents : Prop :=
  (((∀ (s : State) (p : Pending), s.pend.find? (fun e => e.id == p.id) = some p → s.landable p = true → (p.regs.map Prod.fst).Nodup →
    (p.sregs.map Prod.fst).Nodup → (p.rowMeta.map Prod.fst).Nodup →
    ∃ t, exec (.resultLands p.id) s = .next t ∧ t.mem = s.mem ∧ t.pend.map (·.id) = (s.pend.filter (fun e => e.id != p.id)).map (·.id)
      ∧ (∀ e ∈ s.pend, e.id ≠ p.id → e.tile = none → e ∈ t.pend)
      ∧ (∀ e ∈ p.regs, (t.warp p.slot).elem (e.1 / 32) (e.1 % 32) = e.2)
      ∧ (∀ k row lane, lane < 32 → k ≠ p.slot ∨ 32 * row + lane ∉ p.regs.map Prod.fst → (t.warp k).elem row lane = (s.warp k).elem row lane)
      ∧ (∀ row, (t.warp p.slot).tags.get row = match p.rowMeta.lookup row with
          | some m => m.1
          | none => if p.regs.any (fun e => e.1 / 32 == row) then 0 else (s.warp p.slot).tags.get row)
      ∧ (∀ m ∈ p.rowMeta, (t.warp p.slot).shadows.get m.1 = m.2.2) ∧ (∀ e ∈ p.sregs, (t.warp p.slot).s e.1 = e.2)
      ∧ (∀ k row, k ≠ p.slot ∨ row ∉ p.rowMeta.map Prod.fst → (t.warp k).shadows.get row = (s.warp k).shadows.get row)
      ∧ (∀ k row, k ≠ p.slot → (t.warp k).tags.get row = (s.warp k).tags.get row)
      ∧ (∀ k n, k ≠ p.slot ∨ n ∉ p.sregs.map Prod.fst → (t.warp k).s n = (s.warp k).s n)
      ∧ (∀ k n, k ≠ p.slot ∨ (∀ r, p.shape ≠ some (n, r)) → (t.warp k).shapes.find n = (s.warp k).shapes.find n)
      ∧ (∀ k, (t.warp k).nf = (s.warp k).nf ∧ (t.warp k).threads = (s.warp k).threads)
      ∧ (∀ wg n, (∀ x, p.tile ≠ some (n, x)) ∨ wg ≠ (s.warp p.slot).wg → (t.wgs.get wg).tiles.get n = (s.wgs.get wg).tiles.get n)
      ∧ ((t.warp p.slot).rsltv, (t.warp p.slot).rsltseq) = (match p.rslt with
          | some v => (v, (s.warp p.slot).rsltseq + 1)
          | none => ((s.warp p.slot).rsltv, (s.warp p.slot).rsltseq))
      ∧ (∀ n r, p.shape = some (n, r) → (t.warp p.slot).shapes.find n = some r)
      ∧ ∀ n x, p.tile = some (n, x) → (∀ o ∈ s.opsOf (s.warp p.slot).wg, ¬ (capReads o.caps ++ capWrites o.caps).contains n = true) →
        (∀ e ∈ s.gathering (s.warp p.slot).wg, ¬ (capReads e.2.gath ++ capWrites e.2.gath).contains n = true) → (t.wgOf p.slot).tiles.get n = x)
  ∧ ∀ (s : State) (r : KReq) (v : DWord), s.kreqs = [r] → s.lineFault (r.pa / 128) = none →
    let n := if r.w64 then 8 else 4
    kop r.op r.w64 (BitVec.ofNat 64 (s.mem.read r.pa n)) r.x 0 = some v → s.unwatched r.pa n → s.unkept r.pa n →
    ∃ t, exec (.kettleOperation r.id) s = .next t ∧ t.kreqs = [] ∧ s.stored t r.pa n v.toNat)
  ∧ ((∀ (s : State) (q w k : Nat) (rest : List (Nat × Nat)), q < 1536 → (s.quad q).xq = (w, k) :: rest → s.exfree q ≠ 0 → k < 8 →
    (∃ l < 32, (s.thread w l).st.alive = true ∧ ∀ d, (s.thread w l).why = .extBlock k d → (s.warp w).holds (rowOf (s.thread w l) d) = true) →
    let inSlot := fun (row : Nat) => 64 + 32 * k ≤ row ∧ row < 96 + 32 * k
    ∃ t, exec (.extendedBlockGrant q) s = .next t ∧ (t.quad q).xq = rest ∧ (t.warp w).xheld = (s.warp w).xheld ||| ((1 : BitVec 8) <<< k)
      ∧ (∀ row lane, lane < 32 → inSlot row → (t.warp w).elem row lane = 0 ∧ (t.warp w).tags.get row = 0 ∧ (t.warp w).shadows.get row = 0)
      ∧ (∀ j row lane, lane < 32 → j ≠ w ∨ ¬ inSlot row → (t.warp j).elem row lane = (s.warp j).elem row lane)
      ∧ ∀ l d, l < 32 → (s.thread w l).st = .waiting → (s.thread w l).why = .extBlock k d → (s.warp w).holds (rowOf (s.thread w l) d) = true →
        (t.thread w l).st = .ready ∧ (t.thread w l).pc = (s.thread w l).pc + 4
          ∧ ∃ p ∈ t.pend, p.slot = w ∧ p.regs = [(32 * rowOf (s.thread w l) d + l, BitVec.ofNat 32 (64 + 32 * k))])
  ∧ (∀ (s : State) (k b : Nat), b < 8 → (s.warp k).xmoved.getLsbD b = true →
    s.blockAwaited k b = true →
    let back := fun (w : Warp) => { w with xmoved := w.xmoved &&& ~~~((1 : BitVec 8) <<< b) }
    0 ≤ (s.modWarp k back).freeGranules (k / 16) →
    ∃ t, exec (.registerBlockReturn k b) s = .next t ∧ (t.warp k).xmoved = (back (s.warp k)).xmoved ∧ t.rest = s.rest
      ∧ (∀ q, t.quad q = s.quad q) ∧ ∀ j, { (t.warp j).rest with xout := 0 } = { (s.warp j).rest with xout := 0 } ∧ (t.warp j).vreg = (s.warp j).vreg ∧ (t.warp j).threads = (s.warp j).threads)
  ∧ ∀ (s : State) (k : Nat), (s.warps.find k).isSome = true → ∃ t, exec (.yieldBackoffExpiry k) s = .next t ∧ t.rest = s.rest
    ∧ (∀ q, t.quad q = s.quad q) ∧ ∀ j, t.warp j = if j = k then { (s.warp k) with yheld := false } else s.warp j))
  ∧ (∀ (s : State) (q : Nat) (p : DWord), q < 1536 → (s.quad q).bundle = none → s.throttle = false → Table.sortedFrom 0 s.warps = true →
    (∀ k, Table.sortedFrom 0 (s.warp k).threads = true ∧ (∀ e ∈ (s.warp k).threads, e.1 < 32) ∧ s.stopped (s.warp k).wg = false) →
    let able := fun (k l : Nat) => k / 16 = q ∧ (s.warp k).yheld = false ∧ (s.thread k l).st = .ready
    let wins := fun (k l : Nat) => able k l ∧ (s.thread k l).pc = p ∧ ∀ j < k, ¬ (able j l ∧ (s.thread j l).pc = p)
    (∃ k l, able k l ∧ (s.thread k l).pc = p) → (∀ k l, able k l → (s.thread k l).age < 64 ∧ p.toNat ≤ (s.thread k l).pc.toNat) →
    ∃ t b, exec (.arbitrationRound q) s = .next t ∧ t.mem = s.mem ∧ (t.quad q).bundle = some b ∧ b.closing = false
      ∧ ∀ k l, (wins k l ↔ (l, k) ∈ b.members) ∧ (wins k l → t.thread k l = { (s.thread k l) with st := .issuing, age := 0 })
        ∧ (able k l → ¬ wins k l → t.thread k l = { (s.thread k l) with age := (s.thread k l).age + 1 })
        ∧ (¬ able k l → t.thread k l = s.thread k l))

-- Events of workgroups and kernels -----------------------------------------------------------------------------------------------------------------

/-- R93, R169, R201, R264, R364, R368, R392, R395, R398, R399: the only range a cluster holds gives its lowest index to the lowest core of the
cluster that qualifies, whose warps start at ENTRY; a workgroup that may be saved becomes a frame and leaves its core; the only frame, ready,
is placed again with what it held, unless new work of a higher priority waits that a core takes. What a save waits for, that a restore takes the model's record,
and which new work it yields to are the model's readings (log 54, log 56, log 120). -/
def Obligations.WorkgroupMoves : Prop :=
  (∀ (s : State) (c core q0 : Nat) (r : Range), c < 48 → s.ranges = [r] → r.holder = .cluster c → r.lo < r.hi →
    let k := s.kernel r.kernel
    let need := k.need r.prio
    (s.ctx k.ctx).runs = true → s.frames = [] → k.repeatable = false → core / 8 = c → s.fits need core = true →
    (∀ j < core, j / 8 = c → s.fits need j = false) → s.q0Of core need = some q0 →
    ∃ t, exec (.workgroupPlacement c) s = .next t ∧ t.mem = s.mem ∧ t.ranges = (if r.lo + 1 < r.hi then [{ r with lo := r.lo + 1 }] else [])
      ∧ (let g := t.wgs.get s.nextId
         (g.kernel, g.idx, g.core, g.q0, g.nw) = (r.kernel, r.lo, core, q0, k.nwarps) ∧ g.scr = (k.scratch + 511) / 512 * 512 ∧ g.held = k.tiles
           ∧ g.top = 0 ∧ g.allocs = [] ∧ (∀ a, g.spad.byte a = 0) ∧ ∀ n j, (g.tiles.get n).get j = default)
      ∧ ∀ w < k.nwarps, ∃ slot, slot / 16 = 4 * core + (q0 + w) % 4 ∧ s.warps.find slot = none ∧ (t.warp slot).wg = s.nextId
        ∧ (t.warp slot).wid = w ∧ (∀ l < 32, t.thread slot l = { (default : Thread) with pc := k.entry, wb := 16, st := .ready })
        ∧ (∀ j < 16, (t.warp slot).s j = k.line1.extractLsb' (32 * j) 32)
        ∧ (t.warp slot).s 16 = k.dbase.extractLsb' 0 32 ∧ (t.warp slot).s 17 = k.dbase.extractLsb' 32 32)
  ∧ (∀ (s : State) (wg slot : Nat) (g : Workgroup) (q : SaveReq) (more : List Nat), s.wgs.find wg = some g → g.save = some q →
    s.freeFrames (s.kernel g.kernel).ctx = slot :: more → s.saveable wg = true → g.doomed = false →
    ∃ t f, exec (.workgroupSave wg) s = .next t ∧ t.wgs.find wg = none ∧ (∀ k w, s.warps.find k = some w → w.wg = wg → t.warps.find k = none)
      ∧ t.frames = s.frames ++ [f] ∧ f.id = wg ∧ f.ctx = (s.kernel g.kernel).ctx ∧ f.slot = slot ∧ f.wg = { g with save := none }
      ∧ f.seq = (s.part (s.kernel g.kernel).part).saveSeq + 1
      ∧ ∀ e ∈ f.warps, ∀ l, (e.2.thread l).st = .saved ∨ (e.2.thread l).st.alive = false)
  ∧ ∀ (s : State) (f : Frame) (core q0 : Nat), s.frames = [f] → f.ready = true → (s.ctx f.ctx).runs = true → s.frameCore f = some core →
    s.q0Of core (s.frameNeed f) = some q0 → (∀ e ∈ f.warps, e.2.wid = e.1 ∧ e.2.wg = f.id) → f.wg.bound = [] → f.pends = [] → f.torn = false →
    s.newFirst (s.kernel f.wg.kernel).part f.wg.prio = false →
    ∃ t, exec (.workgroupRestore f.id) s = .next t ∧ t.mem = s.mem ∧ t.frames = []
      ∧ (∃ n, t.wgs.get f.id = { f.wg with core, q0, order := n })
      ∧ ∀ e ∈ f.warps, ∃ slot, slot / 16 = 4 * core + (q0 + e.1) % 4 ∧ s.warps.find slot = none ∧ (t.warp slot).wid = e.1
        ∧ (t.warp slot).vreg = e.2.vreg ∧ (t.warp slot).tags = e.2.tags ∧ (t.warp slot).sreg = e.2.sreg
        ∧ ∀ l, t.thread slot l = if (e.2.thread l).st = .saved then { (e.2.thread l) with st := .ready, age := 0, ylast := 0 } else e.2.thread l

/-- R356, R360, R366, R367, R373: a timed kernel arms, and is released when the clock reaches its time; an untimed one whose turn has come
reads its resource record and is DISTRIBUTING with all its indices; a draining one writes its completion word.
R366, R369: of the one range in a partition, the distributor that comes first in the round takes its share, the ceiling of what is left times its
capacity over the sum of theirs, at least one index; a distributor without one takes the upper half of a sibling's two or more. What a faulted kernel's word says is in
part the model's reading (log 60). -/
def Obligations.KernelStates : Prop :=
  (∀ (s : State) (k : Nat), let r := s.kernel k
    (r.st = .pending → r.isTimed = true → s.mayPass k = true → (s.locked = false ∨ (r.late = false ∧ s.devtime < r.time)) →
      ∃ t, exec (.kernelArm k) s = .next t ∧ t.mem = s.mem ∧ t.kernel k = { r with st := .armed, timed := r.timed || s.locked }
        ∧ ∀ j, j ≠ k → t.kernel j = s.kernel j)
    ∧ (r.st = .armed → r.timed = true → s.locked = true → (s.ctx r.ctx).runs = true → r.released = false → r.time ≤ s.devtime →
      ∃ t, exec (.timedRelease k) s = .next t ∧ t.mem = s.mem ∧ t.kernel k = { r with released := true } ∧ ∀ j, j ≠ k → t.kernel j = s.kernel j)
    ∧ (∀ l : Line, r.st = .pending → r.isTimed = false → s.mayPass k = true → r.repeatable = false → s.agentSees r.ctx r.rrec l → recordOk l.data = true →
      let s1 := s.modKernel k (fun r => { r with record := l.data })
      (∃ c ∈ s.partCores r.part, s1.emptied.fits ((s1.kernel k).need 0) c = true) →
      ∃ t, exec (.kernelDistribute k) s = .next t ∧ t.mem = s.mem
        ∧ t.kernel k = { r with record := l.data, st := .distributing, prio := (s.queue r.part r.queue).prio
                                seed := (if r.seedov then r.line0.extractLsb' 896 64 else (s.ctx r.ctx).seed)
                                spent := 0, area := [] }
        ∧ t.ranges = s.ranges ++ [⟨.chip, r.part, k, r.wgFirst, r.wgFirst + r.wgCount, (s.queue r.part r.queue).prio⟩])
    ∧ (∀ (e : Acc) (pa mt : Nat), r.st = .draining → r.written = false → s.cmdsOf k = false → r.partials = [] → r.aborting = none → s.unanswered r.ctx = false → r.csig ≠ 0 →
      s.agentAccess r.ctx 8 r.csig (storeKind .z64) = (.ok e, s) → e.t = .mem pa mt → s.lineBad (pa / 128) = none → s.unwatched pa 8 → s.unkept pa 8 →
      ∃ t, exec (.kernelDrain k) s = .next t
        ∧ s.stored t pa 8 (r.pidx.toNat + 2 ^ 32 * (if r.cause = 0 then 5 else 6) + (if r.late then 2 ^ 35 else 0) + 2 ^ 40 * r.cause)
        ∧ t.kernel k = { r with written := true, applying := false, st := if r.cause = 0 then .complete else .faulted }))
  ∧ (∀ (s : State) (p d : Nat) (r : Range), p < 8 → d < 4 → s.ranges = [r] → r.part = p → r.lo < r.hi →
    let left := r.hi - r.lo
    (∀ (to1 : Holder) (cl : Option Nat) (f : Nat) (rest : List (Holder × Nat)), (cl = none ∧ to1 = .die d) ∨ (∃ c, cl = some c ∧ c / 12 = d ∧ to1 = .cluster c) →
      r.holder = to1.parent → (s.ctx (s.kernel r.kernel).ctx).runs = true → s.roundNow p r.holder r.kernel = (to1, f) :: rest → f ≠ 0 →
      let sum := f + (rest.map Prod.snd).foldl (· + ·) 0
      let n := min left (max 1 ((left * f + sum - 1) / sum))
      ∃ t, exec (.rangeHandout p d cl) s = .next t ∧ t.mem = s.mem
        ∧ t.ranges = (if n < left then [{ r with lo := r.lo + n }] else [])
            ++ [{ r with holder := to1, hi := r.lo + n, prio := if cl = none then (s.kernel r.kernel).prio else r.prio }]
        ∧ (cl = none → n = left → (s.kernel r.kernel).st = .distributing → (s.kernel r.kernel).completed < (s.kernel r.kernel).wgCount →
            (t.kernel r.kernel).st = .running))
    ∧ (∀ e : Nat, e ≠ d → r.holder = .die e → Holder.die d ∈ s.children p .chip → Holder.die e ∈ s.children p .chip → 2 ≤ left →
      0 < s.admitted r.kernel (s.holderCores p (.die d)) →
      ∃ t, exec (.rangeSteal p d none) s = .next t ∧ t.mem = s.mem
        ∧ t.ranges = [{ r with hi := r.lo + (left + 1) / 2 }, { r with holder := .die d, lo := r.lo + (left + 1) / 2 }]))

-- Queues, the clock ----------------------------------------------------------------------------------------------------------------------------------

/-- R352, R354, R362: what a doorbell and the four commands do to a queue's registers; no memory and no other queue changes. The limits a
doorbell meets are a difference of 2^LOGSZ and of 0.
R358, R361, R372, R374: a kernel command acts on the kernel of its packet; the watchdog aborts the oldest incomplete kernel of a queue
once its time has run out, and acts on the queue; the first lock, and a correction of more than 1 µs, step the clock; a smaller one
is left to be slewed (log 64). -/
def Obligations.QueueCommands : Prop :=
  (∀ (s : State) (p q : Nat), p < 8 → q < 256 →
    let x := s.queue p q
    let becomes := fun (i : Instr) (y : Queue) => ∃ t, exec i s = .next t ∧ t.mem = s.mem ∧ t.side = s.side ∧ t.queue p q = y
      ∧ t.kernels = s.kernels ∧ ∀ p1 q1, q1 < 256 → (p1, q1) ≠ (p, q) → t.queue p1 q1 = s.queue p1 q1
    (∀ w : Word, becomes (.qdoorbellWrite p q w)
      (if x.st = 0 then x else if (w - x.ridx).toNat ≤ 2 ^ x.logsz then { x with widx := w }
        else if x.st = 3 then { x with cause := 2 } else { x with st := 3, cause := 2, erridx := x.ridx }))
    ∧ becomes (.enable p q)
      (if x.st ≠ 0 then x
        else if 4 ≤ x.logsz ∧ x.logsz ≤ 16 ∧ x.wdact ≠ 3 ∧ (s.ctx x.ctx).boundTo p = true ∧ s.partOut p = false
        then { x with st := 1, ridx := 0, widx := 0, retries := 0 } else { x with cause := 7 })
    ∧ becomes (.disable p q) { x with st := 0 }
    ∧ becomes (.queueResume p q) { x with st := if x.st = 3 then 1 else x.st }
    ∧ becomes (.skip p q) (if x.st = 3 then { x with st := 1, ridx := x.ridx + 1, retries := 0 } else x))
  ∧ (∀ (s : State) (p q : Nat), p < 8 → q < 256 →
    (∀ (k : Nat) (pidx : Word), s.kernelAt p q pidx = some k →
      ((s.kernel k).sent = false → (s.kernel k).applying = false → ∃ t, exec (.kcmdAbort p q pidx) s = .next t ∧ s.aborts t k 10 ∧ t.queues = s.queues)
      ∧ ∀ prio, ∃ t, exec (.kcmdSetPriority p q pidx prio) s = .next t ∧ t.mem = s.mem
        ∧ t.kernel k = { s.kernel k with prio := prio.toNat } ∧ ∀ j, j ≠ k → t.kernel j = s.kernel j)
    ∧ (∀ k : Nat, s.oldest p q = some k → let x := s.queue p q
      (s.kernel k).st ∈ [KState.distributing, .running, .draining] → x.wdt ≠ 0 → 1000000 * x.wdt ≤ (s.kernel k).spent → (s.kernel k).sent = false →
      (s.kernel k).applying = false → (s.kernel k).aborting = none →
      x.wdact ≠ 2 →
      ∃ t, exec (.watchdogExpiry p q) s = .next t ∧ s.aborts t k 8
        ∧ t.queue p q = { x with cause := 6, erridx := (s.kernel k).pidx, st := if x.wdact = 1 ∧ (x.st = 1 ∨ x.st = 2) then 3 else x.st })
    ∧ ∀ (time : DWord) (locked : Bool), ∃ t, exec (.clockCorrection time locked) s = .next t
        ∧ { t with devtime := 0, slew := 0, locked := false, everLocked := false } = { s with devtime := 0, slew := 0, locked := false, everLocked := false }
        ∧ t.locked = locked ∧ t.everLocked = (s.everLocked || locked)
        ∧ (s.everLocked = false → t.devtime = (if locked then time.toNat else s.devtime) ∧ t.slew = if locked then 0 else s.slew)
        ∧ (s.everLocked = true →
          let far := s.devtime + 1000 < time.toNat ∨ time.toNat + 1000 < s.devtime
          (far → t.devtime = time.toNat ∧ t.slew = 0) ∧ (¬far → t.devtime = s.devtime ∧ (t.devtime : Int) + t.slew = time.toNat)))

/-- R355, R356, R363, R376: a read of the published head, first or, 100 ns × 2^min(j, 8) after the one before, again. Whole stamps and a good body make a kernel in PENDING, or a NOP's
hold, and move RIDX past it; a bad body puts the queue in ERROR with cause 3; without whole stamps the queue is RETRYING, after 64 re-reads in
ERROR with cause 1. The causes of an unreadable slot are in part the model's reading (log 63). -/
def Obligations.PacketReads : Prop :=
  ∀ (s : State) (p q j : Nat) (i : Instr) (l0 l1 : Line) (host : Option (LineBits × LineBits)), p < 8 → q < 256 →
    let x := s.queue p q
    let x1 := { x with readAt := s.devtime }
    (i = .packetFetch p q host ∧ x.st = 1 ∧ j = 0)
      ∨ (i = .packetReread p q host ∧ x.st = 2 ∧ j = x.retries + 1 ∧ x.readAt + 100 * 2 ^ min j 8 ≤ s.devtime) →
    x.widx ≠ x.ridx → (s.ctx x.ctx).boundTo p = true → (s.ctx x.ctx).st ≠ .faulted → (s.part p).resetting = false →
    s.agentSees x.ctx (x.base + BitVec.ofNat 64 (256 * (x.ridx.toNat % 2 ^ x.logsz))) l0 →
    s.agentSees x.ctx (x.base + BitVec.ofNat 64 (256 * (x.ridx.toNat % 2 ^ x.logsz)) + 128) l1 →
    let stamped := l0.data.extractLsb' 0 32 = x.ridx ∧ l1.data.extractLsb' 992 32 = x.ridx
    let type := l0.data.extractLsb' 32 4
    let becomes := fun (y : Queue) (t : State) => exec i s = .next t ∧ t.mem = s.mem ∧ t.queue p q = y
    (stamped → type = 1 → launchOk l0.data l1.data = true →
      ∃ t, becomes { x1 with st := 1, retries := 0, ridx := x.ridx + 1 } t
        ∧ t.kernel s.nextId = { (default : Kernel) with ctx := x.ctx, part := p, queue := q, pidx := x.ridx, line0 := l0.data, line1 := l1.data, st := .pending }
        ∧ (∀ k, k ≠ s.nextId → t.kernel k = s.kernel k) ∧ ((s.ctx x.ctx).st = .bound → (t.ctx x.ctx).st = .active))
    ∧ (stamped → type = 2 → nopOk l0.data l1.data = true →
        ∃ t, becomes { x1 with st := 1, retries := 0, ridx := x.ridx + 1, nops := x.nops.put s.nextId l0.data } t ∧ t.kernels = s.kernels)
    ∧ (stamped → ¬(type = 1 ∧ launchOk l0.data l1.data = true) → ¬(type = 2 ∧ nopOk l0.data l1.data = true) →
        ∃ t, becomes { x1 with st := 3, retries := 0, cause := 3, erridx := x.ridx } t ∧ t.kernels = s.kernels)
    ∧ (¬stamped → ∃ t, becomes (if 64 ≤ j then { x1 with st := 3, retries := j, cause := 1, erridx := x.ridx } else { x1 with st := 2, retries := j }) t
        ∧ t.kernels = s.kernels)


-- The setup window: contexts, partitions -------------------------------------------------------------------------------------------------------------

/-- R376, R378, R379, R381, R400, R403: each command of a context, waiting in the setup window, completes with STATUS 0 and its whole effect, or with
another STATUS and nothing else changed; SUSPEND and TEARDOWN begin, and complete once the context has no resident workgroup, or no work at all.
Where several STATUS values apply, the order is the model's choice (log 65); that SETKEY gives 2 for bits
[1023:256] set too (log 66), and what a teardown waits for (log 67), are the model's choices. -/
def Obligations.ContextCommands : Prop :=
  ∀ (s : State) (ctx : BitVec 16), let c := ctx.toNat; let x := s.ctx c
    let waits := fun (op : Nat) => s.setup.busy = true ∧ s.setup.begun = false ∧ s.setup.op = op ∧ s.setup.ctx = c
    let ends := fun (i : Instr) (status : Byte) (y : Context) => ∃ t, exec i s = .next t ∧ t.mem = s.mem ∧ t.kernels = s.kernels ∧ t.wgs = s.wgs
      ∧ t.queues = s.queues ∧ t.setup.busy = false ∧ t.setup.status = status ∧ t.setup.done = s.setup.done + 1
      ∧ t.ctx c = y ∧ ∀ j, j ≠ c → t.ctx j = s.ctx j
    let settable := x.st = .created ∨ x.st = .bound ∨ x.st = .active ∨ x.st = .suspended
    let used := x.st ≠ .unused ∧ x.st ≠ .tornDown
    let taken := fun (l : LineBits) => ∃ e ∈ s.ctxs, e.1 ≠ c ∧ e.2.st ≠ .unused ∧ e.2.st ≠ .tornDown ∧ e.2.fasn = bf l 256 16
    (∀ op i, (op, i) ∈ [(1, Instr.create ctx none), (2, .bind ctx none), (6, .setkey ctx none), (7, .setcb ctx none)] → waits op → ends i 7 x)
    ∧ (∀ l : LineBits, waits 1 →
      (cbOk l = false → ends (.create ctx (some l)) 2 x) ∧ (cbOk l = true → used → ends (.create ctx (some l)) 4 x)
      ∧ (cbOk l = true → ¬used → taken l → ends (.create ctx (some l)) 5 x)
      ∧ (cbOk l = true → ¬used → ¬taken l → ends (.create ctx (some l)) 0 { (default : Context) with st := .created, cb := l }))
    ∧ (∀ l : LineBits, waits 2 → let p := (l.extractLsb' 0 3).toNat
      let good := l >>> 3 = 0 ∧ s.partExists p = true
      (¬good → ends (.bind ctx (some l)) 2 x) ∧ (good → x.st ≠ .created → ends (.bind ctx (some l)) 3 x)
      ∧ (good → x.st = .created → s.faultPlace x.cb p = false → ends (.bind ctx (some l)) 2 x)
      ∧ (good → x.st = .created → s.faultPlace x.cb p = true → ends (.bind ctx (some l))
          (if x.fasize < s.faultArea x.cb p then 6 else 0) (if x.fasize < s.faultArea x.cb p then x else { x with st := .bound, part := p })))
    ∧ (waits 3 → x.st ≠ .bound → x.st ≠ .active → ends (.suspend ctx) 3 x)
    ∧ (waits 3 → (x.st = .bound ∨ x.st = .active) → ∃ t, exec (.suspend ctx) s = .next t ∧ t.mem = s.mem ∧ t.kernels = s.kernels
        ∧ t.setup.busy = true ∧ t.setup.begun = true ∧ t.ctx c = { x with suspending := true, suspAt := s.devtime }
        ∧ ∀ n g, s.wgs.find n = some g → t.wgs.find n = some (if (s.kernel g.kernel).ctx = c then { g with save := some ⟨3, 0, 0⟩ } else g))
    ∧ (x.suspending = true → s.setup.busy = true → s.setup.begun = true → s.setup.op = 3 → s.setup.ctx = c →
        (∀ e ∈ s.wgs, (s.kernel e.2.kernel).ctx ≠ c) →
        ends (.suspendComplete ctx) 0 { x with suspending := false, st := if x.st = .bound ∨ x.st = .active then .suspended else x.st })
    ∧ (waits 4 → x.st ≠ .suspended → ends (.resume ctx) 3 x)
    ∧ (waits 4 → x.st = .suspended → ∃ t, exec (.resume ctx) s = .next t ∧ t.mem = s.mem ∧ t.setup.busy = false ∧ t.setup.status = 0
        ∧ ((∃ e ∈ s.kernels, e.2.ctx = c ∧ e.2.st.live = true) → t.ctx c = { x with st := .active })
        ∧ ((∀ e ∈ s.kernels, e.2.ctx = c → e.2.st.live = false) → t.ctx c = { x with st := .bound })
        ∧ (∀ k, let r := s.kernel k
            t.kernel k = if r.ctx = c ∧ r.isTimed = true ∧ r.released = false ∧ s.locked = true ∧ x.suspAt < r.time ∧ r.time ≤ s.devtime then
              (if r.st = .armed then { r with timed := true, late := true, released := true } else if r.st = .pending then { r with late := true } else r) else r)
        ∧ ∀ f ∈ t.frames, f.ctx = c → f.reason = 3 → f.ready = true)
    ∧ (waits 5 → ¬used → ends (.teardown ctx) 3 x)
    ∧ (waits 5 → used → ∃ t, exec (.teardown ctx) s = .next t ∧ t.mem = s.mem ∧ t.setup.busy = true ∧ t.setup.begun = true
        ∧ t.ctx c = { x with keys := [], tearing := true } ∧ (∀ f ∈ t.frames, f.ctx ≠ c)
        ∧ (∀ k, (s.kernel k).ctx = c → (s.kernel k).sent = false → (s.kernel k).applying = false → (t.kernel k).st.live = false) ∧ (∀ k, (s.kernel k).ctx ≠ c → t.kernel k = s.kernel k)
        ∧ ∀ p q, (s.queue p q).ctx = c → (t.queue p q).st = 0)
    ∧ (x.tearing = true → s.setup.busy = true → s.setup.begun = true → s.setup.op = 5 → s.setup.ctx = c → s.ctxBusy c = false →
        ends (.teardownComplete ctx) 0 { x with st := .tornDown, tearing := false, suspending := false })
    ∧ (∀ l : LineBits, waits 6 → let good := l.extractLsb' 4 124 = 0 ∧ l.extractLsb' 256 768 = 0
      (¬good → ends (.setkey ctx (some l)) 2 x) ∧ (good → ¬settable → ends (.setkey ctx (some l)) 3 x)
      ∧ (good → settable → ends (.setkey ctx (some l)) 0 { x with keys := x.keys.put (l.extractLsb' 0 4).toNat (l.extractLsb' 128 128) }))
    ∧ ∀ l : LineBits, waits 7 → let good := l.extractLsb' 4 60 = 0 ∧ cbRsv l = true ∧ (l.getLsbD 0 = true → tvecOk l = true)
      (¬good → ends (.setcb ctx (some l)) 2 x) ∧ (good → ¬settable → ends (.setcb ctx (some l)) 3 x)
      ∧ (good → settable → ∃ cb, ends (.setcb ctx (some l)) 0 { x with cb }
          ∧ ∀ lo n k, (lo, n, k) ∈ [(64, 64, 0), (128, 64, 1), (320, 32, 2), (352, 16, 3)] → bf cb lo n = bf (if l.getLsbD k then l else x.cb) lo n)

/-- R27, R28, R309, R376, R401, R402, R406: PRESET, an out-of-band order and a failed link between dies begin a partition reset, which aborts the
partition's kernels and stops its workgroups at once; its completion leaves queues, channels and contexts as R401 says; CHRESET puts a stopped
channel back to IDLE; LAYOUT holds the half-dies that leave a partition and refuses an invalid layout or one with a bound context; its
completion makes the new partitions. What of a reset happens at its beginning is the model's reading (log 68); what CHRESET does to CAUSE and FADDR (log 121), and what a new partition
starts from (log 90), are the model's choices. -/
def Obligations.PartitionCommands : Prop :=
  ∀ (s : State),
    let waits := fun (op : Nat) => s.setup.busy = true ∧ s.setup.begun = false ∧ s.setup.op = op ∧ s.setup.ctx = 0
    let runs := fun (op : Nat) => s.setup.busy = true ∧ s.setup.begun = true ∧ s.setup.op = op
    let ends := fun (t : State) (status : Byte) => t.setup.busy = false ∧ t.setup.status = status ∧ t.setup.done = s.setup.done + 1
    let refused := fun (i : Instr) (status : Byte) => ∃ t, exec i s = .next t ∧ ends t status ∧ t.mem = s.mem ∧ t.rest = { s.rest with setup := t.setup }
    let resets := fun (p : Nat) (t : State) => (t.part p).resetting = true ∧ ((s.part p).resetting = false →
      (∀ k, (s.kernel k).part = p → s.kernels.find k ≠ none → (t.kernel k).st.live = false ∧ (t.kernel k).written = true)
      ∧ (∀ n g, t.wgs.find n = some g → coreHalf g.core ∉ s.partHalves p) ∧ ∀ r ∈ t.remotes, r.hd ∉ s.partHalves p)
    (∀ l : LineBits, waits 8 → let p := (l.extractLsb' 0 3).toNat
      (l >>> 3 = 0 → s.partExists p = true → ∃ t, exec (.preset 0 (some l)) s = .next t ∧ resets p t ∧ t.setup.busy = true ∧ t.setup.begun = true)
      ∧ (¬(l >>> 3 = 0 ∧ s.partExists p = true) → refused (.preset 0 (some l)) 2))
    ∧ (∀ p, s.partExists p = true → ∃ t, exec (.outOfBandReset p) s = .next t ∧ resets p t)
    ∧ (∀ p, p < 8 → (s.part p).resetting = true → ∃ t, exec (.partitionResetComplete p) s = .next t
      ∧ (t.part p).resetting = false ∧ (t.part p).recess = 1 ∧ (t.part p).quar = [] ∧ (∀ q < 256, t.queue p q = default)
      ∧ (∀ h ∈ s.partHalves p, (t.half h).gs = [] ∧ (t.half h).coll = [] ∧ (t.half h).rep = []
          ∧ ∀ c < 6, ∀ n < 16, (t.cluster (6 * h + c)).chans.get n = default)
      ∧ (∀ c, t.ctx c = if (s.ctx c).part = p ∧ ((s.ctx c).st = .active ∨ (s.ctx c).st = .suspended) then { s.ctx c with st := .bound } else s.ctx c)
      ∧ (runs 8 → (s.setup.line.extractLsb' 0 3).toNat = p → ends t 0))
    ∧ (∀ a b, a < b → b < 4 → s.d2dDown.contains (4 * a + b) = false → ∃ t, exec (.d2dLinkFailure a b) s = .next t ∧ t.d2dDown = s.d2dDown ++ [4 * a + b]
      ∧ ∀ p < 8, ((∃ h ∈ s.partHalves p, h / 2 = a) ∨ a = 0) → (∃ h ∈ s.partHalves p, h / 2 = b) →
          (t.part p).resetting = true ∧ t.partOut p = (a == 0 || s.partOut p))
    ∧ (∀ l : LineBits, waits 9 → let cl := bf l 0 9 / 8; let n := bf l 16 4; let h := (s.cluster cl).chans.get n
      l.extractLsb' 9 7 = 0 → l >>> 20 = 0 → bf l 0 9 < 384 → ∃ t, exec (.chreset 0 (some l)) s = .next t ∧ ends t 0
        ∧ (t.cluster cl).chans.get n = if h.st = 2 then { h with st := 0, cause := 0, faddr := 0, queue := [] } else h)
    ∧ (∀ l : LineBits, waits 10 → let changed := fun (h : Nat) => (s.half h).member ≠ layMember l h ∨ (layMember l h = true ∧ (s.half h).part ≠ layPart l h)
      let bound := ∃ h < 8, changed h ∧ s.halfBound h = true
      (layValid l = false → refused (.layout 0 (some l)) 2) ∧ (layValid l = true → bound → refused (.layout 0 (some l)) 8)
      ∧ (layValid l = true → ¬bound → ∃ t, exec (.layout 0 (some l)) s = .next t ∧ t.mem = s.mem ∧ t.setup.busy = true ∧ t.setup.begun = true ∧ t.setup.line = l
          ∧ ∀ h < 8, (changed h → (t.half h).member = false) ∧ (¬changed h → t.half h = s.half h)))
    ∧ (runs 10 → let l := s.setup.line
      ∃ t, exec .layoutComplete s = .next t ∧ ends t 0
        ∧ ∀ h < 8, ((s.half h).member = true ∨ layMember l h = false → t.half h = s.half h)
          ∧ (layMember l h = true → (s.half h).member = false → (t.half h).member = true ∧ (t.half h).part = layPart l h
              ∧ (s.partHalves (layPart l h) = [] → (t.part (layPart l h)).recess = 1 ∧ ∀ q < 256, t.queue (layPart l h) q = default)
              ∧ ∀ i < 2, t.ports.get (2 * h + i) = { (default : Port) with st := .training }))

-- The host: mailbox, registers, monitors, memory -------------------------------------------------------------------------------------------------

/-- R459, R460: what each mailbox command, waiting, writes into the buffer and the STATUS it completes with; an unreadable buffer gives STATUS 5.
Images, keys, certificate and signatures are what Config leaves open. -/
def Obligations.MailboxCommands : Prop :=
  ∀ (s : State) (b : List Byte),
    let waits := fun (op : Nat) => s.mbox.busy = true ∧ s.mbox.op = op
    let ends := fun (i : Instr) (status : Byte) (ws : List (Nat × List Byte)) => ∃ t, exec i s = .next t ∧ t.mem = s.mem ∧ t.images = s.images
      ∧ t.mbox = { s.mbox with busy := false, status, done := s.mbox.done + 1 }
      ∧ t.hostOut = s.hostOut ++ ws.map (fun w => HostMsg.dmaBytes (s.mbox.buf + BitVec.ofNat 64 w.1) w.2)
    let num := fun (x : Option Nat) => match x with
      | some j => (s.pkg, (Config.imageVersion (s.images.get j).bytes).toNat, (Config.imageDigest (s.images.get j).bytes).toNat)
      | none => (0, 0, 0)
    let (pkg, version, digest) := num s.accepted
    let layout := (List.range 8).map (fun h => if (s.half h).member then BitVec.ofNat 8 (128 + (s.half h).part) else (0 : Byte))
    let shown := fun (j : Nat) => if (s.images.get j).st = 0 then 0 else (Config.imageVersion (s.images.get j).bytes).toNat
    (∀ op i, (op, i) ∈ [(1, Instr.ident none), (2, .attest none), (3, .cert none), (4, .imgstat none), (5, .imgwr none)] → waits op → ends i 5 [])
    ∧ (waits 1 → ends (.ident (some b)) 0 [(0, leBytes 2 pkg), (4, leBytes 4 version ++ leBytes 32 digest ++ beBytes 32 Config.identityX.toNat
        ++ beBytes 32 Config.identityY.toNat ++ layout)])
    ∧ (waits 2 → s.accepted = none → ends (.attest (some b)) 3 [])
    ∧ (waits 2 → s.accepted ≠ none → ∃ x y, x.length = 32 ∧ y.length = 32 ∧ ends (.attest (some b)) 0
        [(0x200, (List.range 32).map (fun i => b.getD i 0) ++ leBytes 32 digest ++ leBytes 4 version ++ leBytes 2 pkg ++ layout), (0x250, x), (0x270, y)])
    ∧ (waits 3 → ends (.cert (some b)) 0 [(0, leBytes 4 Config.certificate.length ++ Config.certificate)])
    ∧ (waits 4 → ends (.imgstat (some b)) 0 [(0, leBytes 1 (s.images.get 0).st), (4, leBytes 4 (shown 0)), (16, leBytes 1 (s.images.get 1).st),
        (20, leBytes 4 (shown 1)), (32, leBytes 4 s.floor.toNat)])
    ∧ (waits 5 → let slot := leField b 0 1; let o := leField b 4 4; let n := leField b 8 4
      let good := slot < 2 ∧ o % 256 = 0 ∧ 1 ≤ n ∧ n ≤ 3840
      (¬good → ends (.imgwr (some b)) 2 []) ∧ (good → s.accepted = some slot → ends (.imgwr (some b)) 3 [])
      ∧ (good → s.accepted ≠ some slot → Config.flashFails s.fresh = true → ends (.imgwr (some b)) 4 [])
      ∧ (good → s.accepted ≠ some slot → Config.flashFails s.fresh = false → ∃ t, exec (.imgwr (some b)) s = .next t ∧ t.mem = s.mem
          ∧ t.mbox = { s.mbox with busy := false, status := 0, done := s.mbox.done + 1 } ∧ (t.images.get slot).st = 3
          ∧ (∀ a, (t.images.get slot).bytes.byte a = if o ≤ a ∧ a < o + n then b.getD (0x100 + (a - o)) 0 else (s.images.get slot).bytes.byte a)
          ∧ t.images.get (1 - slot) = s.images.get (1 - slot)))

/-- R7, R377, R455, R456, R457, R460, R463, R467: a host's write of a whole register of the device window, and a narrow one, which is one
write of the whole register with the other bytes as read; a wide one, which is successive ones of 8 bytes; a read; a sample and a CLEAR of a monitor; a write of the aperture's registers, and the moment
it governs; before an image is accepted none of them. What a write leaves in reserved bits (log 89), and a monitor's MIN before its
first CLEAR (log 84), are the model's choices. -/
def Obligations.HostRegisters : Prop :=
  ∀ (s : State),
    (s.up = true → s.accepted ≠ none →
      (∀ (o : Nat) (v : DWord), o % 8 = 0 → ∃ t, exec (.registerWrite (0x8000000000 + o) 8 v.toNat) s = .next t ∧ t.mem = s.mem
        ∧ (o = 0x1000000 → t = { s with setup := { s.setup with arg := v &&& ~~~0x7F#64 } })
        ∧ (o = 0x1000008 → s.setup.busy = true → t = s)
        ∧ (o = 0x1001000 → t = { s with err := { s.err with base := v &&& ~~~0x7F#64 } })
        ∧ (o = 0x1001008 → t = { s with err := { s.err with cfg := v &&& 0x11F#64 } })
        ∧ (o = 0x1001018 → t = { s with err := { s.err with ridx := v.setWidth 32 } })
        ∧ (o = 0x1001028 → t = { s with err := { s.err with cecnt := s.err.cecnt &&& ~~~(v.setWidth 32) } })
        ∧ (o = 0x1002000 → t = { s with mbox := { s.mbox with buf := v &&& ~~~0xFFF#64 } })
        ∧ (o ∈ [0x1000010, 0x1001010, 0x1001020, 0x1002010, 0x1003010, 0x1000018, 0x1004000, 0x10FFFF8] → t = s))
      ∧ ∀ (o i len : Nat) (v : DWord), o % 8 = 0 → len ∈ [1, 2, 4] → i % len = 0 → i < 8 →
        let m : DWord := (BitVec.ofNat 64 (2 ^ (8 * len) - 1)) <<< (8 * i)
        exec (.registerWrite (0x8000000000 + o + i) len v.toNat) s
          = exec (.registerWrite (0x8000000000 + o) 8 ((s.devReg o &&& ~~~m) ||| ((v <<< (8 * i)) &&& m)).toNat) s)
    ∧ (s.up = true → s.accepted ≠ none → ∀ o : Nat, o % 8 = 0 →
      exec (.hostRead true o 8) s = .next { s with hostOut := s.hostOut ++ [.data ((List.range 8).map (fun i => (s.devReg o).extractLsb' (8 * i) 8))] }
      ∧ ∀ v w : DWord, exec (.registerWrite (0x8000000000 + o) 16 (v.toNat + 2 ^ 64 * w.toNat)) s
        = match exec (.registerWrite (0x8000000000 + o) 8 v.toNat) s with
          | .next t => exec (.registerWrite (0x8000000000 + (o + 8)) 8 w.toNat) t
          | r => r)
    ∧ (∀ (d k : Nat) (v : Word), d < 4 → k < 64 → let m := s.mons.get (64 * d + k); let lo := bf m.cfg 32 32
      ∃ t, exec (.monitorSample d k v) s = .next t ∧ t = { s with mons := t.mons } ∧ (∀ n, n ≠ 64 * d + k → t.mons.get n = s.mons.get n)
        ∧ t.mons.get (64 * d + k) = (if m.cfg.getLsbD 23 = true ∧ m.cfg.getLsbD 25 = false ∧ 1 ≤ bf m.cfg 8 8 ∧ bf m.cfg 8 8 ≤ 8 then
            let bin := if m.cfg.getLsbD 26 then (if v.toNat < 2 ^ lo then 0 else min 15 (Nat.log2 v.toNat - lo + 1))
              else if v.toNat < lo then 0 else min 15 ((v.toNat - lo) / 2 ^ bf m.cfg 27 5)
            { m with
              min := if v < m.min then v else m.min, max := if m.max < v then v else m.max
              cnt := if m.cnt = BitVec.allOnes 64 then m.cnt else m.cnt + 1
              bins := m.bins.put bin (if m.bins.get bin = BitVec.allOnes 32 then m.bins.get bin else m.bins.get bin + 1) }
          else m))
    ∧ (∀ (d k : Nat) (v : DWord), s.up = true → s.accepted ≠ none → d < 4 → k < 64 → ∃ t, exec (.monitorClear d k v) s = .next t ∧ t = { s with mons := t.mons }
        ∧ t.mons.get (64 * d + k) = ⟨v &&& 0xFFFFFFFFFE80FFFF#64, 0xFFFFFFFF, 0, 0, []⟩ ∧ ∀ n, n ≠ 64 * d + k → t.mons.get n = s.mons.get n)
    ∧ (∀ v : DWord, s.up = true → s.accepted ≠ none →
        exec (.apertureConfigWrite 0 v) s = .next { s with ap := { s.ap with base := v &&& 0xFFFFC0000000#64, applied := false, wrote := true } }
        ∧ exec (.apertureConfigWrite 8 v) s = .next { s with ap := { s.ap with line := v.getLsbD 0, applied := false, wrote := true } })
    ∧ (s.up = false ∨ s.accepted = none → ∀ v : DWord, (∀ o len, (o < 0x1002000 ∨ 0x1003000 ≤ o) → len ≤ 8 → exec (.registerWrite (0x8000000000 + o) len v.toNat) s = .next s)
        ∧ (∀ off, exec (.apertureConfigWrite off v) s = .next s) ∧ ∀ d k, d < 4 → k < 64 → exec (.monitorClear d k v) s = .next s)
    ∧ exec .apertureApplied s = .next (if s.ap.wrote then
        { s with ap := { s.ap with nowBase := s.ap.base, nowLine := s.ap.line, applied := true, wrote := false } } else s)

/-- R37, R235, R451, R453, R462, R463, R464: a host's read through the aperture completes with the bytes, with Completer Abort and a class 0x03
record where a line's check value does not match, or with Unsupported Request; in data mode a write within a line stores its bytes, and in line
mode a whole 256-byte write with a right CHK stores the line, while any other is dropped with a class 0x03 record; a refused write is dropped. A
configuration request before bring-up has ended is told to retry. That a data write in line mode is
recorded is the model's reading (log 82). -/
def Obligations.HostAccesses : Prop :=
  ∀ (s : State) (off : Nat),
    let base := s.ap.nowBase.toNat
    let reach := fun (pa : Nat) => pa < 2 ^ 39 ∧ pa % 2 ^ 36 < 54000000000 ∧ (s.half (pa / 2 ^ 36)).member = true
    let n := base / 128 + off / 256
    (s.up = true → s.accepted ≠ none → s.ap.nowLine = false → ∀ (len : Nat), 1 ≤ len → off + len ≤ 2 ^ 36 → (base + off) % 128 + len ≤ 128 →
      let pa := base + off
      (reach (pa / 128 * 128) → s.lineBad (pa / 128) = none → exec (.hostRead false off len) s = .next { s with hostOut := s.hostOut ++ [.data (s.mem.bytes pa len)] })
      ∧ (¬reach (pa / 128 * 128) → exec (.hostRead false off len) s = .next { s with hostOut := s.hostOut ++ [.unsupported] })
      ∧ (reach (pa / 128 * 128) → s.lineBad (pa / 128) = some 1 → (s.half (pa / 2 ^ 36)).part < 8 →
          ∃ t u, exec (.hostRead false off len) s = .next t ∧ s.records u 3 ∧ t = { u with hostOut := u.hostOut ++ [.completerAbort] } ∧ u.mem = s.mem)
      ∧ ∀ bytes : List Byte, bytes.length = len →
        (reach pa → s.lineBad (pa / 128) = none → s.unkept pa len → ∃ t, exec (.hostDataWrite off bytes) s = .next t
          ∧ s.stored t pa len (bytes.foldr (fun b r => b.toNat + 256 * r) 0))
        ∧ (¬reach pa → exec (.hostDataWrite off bytes) s = .next s)
        ∧ exec (.hostLineWrite off bytes) s = exec (.hostDataWrite off bytes) s)
    ∧ (s.up = true → s.accepted ≠ none → s.ap.nowLine = true → off % 256 = 0 → off + 256 ≤ 2 ^ 36 →
      (reach (128 * n) → s.lineBad n = none → ∃ t bs, exec (.hostRead false off 256) s = .next t ∧ t.hostOut = s.hostOut ++ [.data bs] ∧ t.mem = s.mem
        ∧ bs.length = 256 ∧ bs.take 128 = s.mem.bytes (128 * n) 128 ∧ (bs.drop 128).take 4 = [0, 0, 0, 0]
        ∧ (bs.drop 132).take 12 = leBytes 12 (sideBytes (s.line n)))
      ∧ (∀ bytes : List Byte, ∃ t, exec (.hostDataWrite off bytes) s = .next t ∧ t.mem = s.mem ∧ t.side = s.side ∧ s.records t 3)
      ∧ ∀ bytes : List Byte, let (l, ok) := viewLine bytes
        (bytes.length = 256 → ok = true → reach (128 * n) → s.unkept (128 * n) 128 → ∃ t, exec (.hostLineWrite off bytes) s = .next t ∧ t.line n = l ∧ t.lineBad n = none
          ∧ ∀ a, a / 128 ≠ n → t.mem.byte a = s.mem.byte a)
        ∧ (bytes.length ≠ 256 ∨ ok = false → homeHalf (128 * n) < 8 →
            ∃ t, exec (.hostLineWrite off bytes) s = .next t ∧ t.mem = s.mem ∧ t.side = s.side ∧ s.records t 3))
    ∧ exec .configurationRequest s = .next { s with hostOut := s.hostOut ++ [if s.up then .configured else .retryStatus] }

-- Power and ports ---------------------------------------------------------------------------------------------------------------------------------------

/-- R29, R30, R31, R37, R426, R459, R461, R464: bring-up verifies the two image slots, the first accepted one configures the module, memory is zero and
no partition exists; an input out of range and the shutdowns remove power, the last three with a class 0x0A record, and leave flash as it was; the
input back in range is valid again; the power limits throttle. What survives and which image wins is the model's reading (log 83, log 81).
R411, R426, R455: a scale-up port's moves; a port that goes DOWN, and a packet dropped at ingress, give an error record. -/
def Obligations.PowerAndPorts : Prop :=
  (∀ (s : State),
    let flash := fun (t : State) => t.floor = s.floor ∧ t.images = s.images
    let dark := fun (i : Instr) (x : Input) (t : State) => exec i s = .next t ∧ flash t ∧ t.up = false ∧ t.input = x ∧ t.mem = [] ∧ t.side = [] ∧ t.warps = []
      ∧ t.wgs = [] ∧ t.kernels = [] ∧ t.ctxs = [] ∧ t.halves = [] ∧ t.queues = [] ∧ t.ports = []
    (s.input = .valid → s.up = false →
      let good := fun (j : Nat) => (s.images.get j).st ≠ 0 ∧ Config.imageVerified (s.images.get j).bytes = true
        ∧ s.floor ≤ Config.imageVersion (s.images.get j).bytes
      ∃ t, exec .bringUp s = .next t ∧ t.up = true ∧ t.input = .valid ∧ t.mem = [] ∧ t.side = [] ∧ t.halves = [] ∧ t.ctxs = [] ∧ s.floor ≤ t.floor
        ∧ t.locked = false ∧ t.everLocked = false ∧ t.devtime = 0 ∧ t.ports = []
        ∧ (good 0 → t.accepted = some 0 ∧ t.pkg = (Config.imagePackage (s.images.get 0).bytes).toNat)
        ∧ (¬good 0 → good 1 → t.accepted = some 1 ∧ t.pkg = (Config.imagePackage (s.images.get 1).bytes).toNat)
        ∧ (¬good 0 → ¬good 1 → t.accepted = none)
        ∧ (t.images.get 0).st = (if (s.images.get 0).st = 0 then 0 else if t.accepted = some 0 then 1 else 2)
        ∧ ∀ j, (t.images.get j).bytes = (s.images.get j).bytes)
    ∧ (∃ t, dark .inputUndervoltage .low t ∧ t.hostOut = s.hostOut)
    ∧ (∃ t u, dark .inputOvervoltage .high t ∧ s.records u 0x0A ∧ t.hostOut = u.hostOut)
    ∧ (s.up = true → (∀ source value, ∃ t u, dark (.ceilingShutdown source value) .off t ∧ s.records u 0x0A ∧ t.hostOut = u.hostOut)
        ∧ ∀ die value, die < 4 → ∃ t u, dark (.thermalShutdown die value) .off t ∧ s.records u 0x0A ∧ t.hostOut = u.hostOut)
    ∧ exec .inputRestored s = .next (if s.up then s else { s with input := .valid })
    ∧ ∀ on, exec (.powerLimitThrottle on) s = .next { s with throttle := on })
  ∧ (∀ (s : State) (n : Nat), n < 16 →
    let x := s.ports.get n
    let moves := fun (i : Instr) (y : PState) => ∃ t, exec i s = .next t ∧ t = { s with ports := t.ports } ∧ t.ports.get n = { x with st := y }
      ∧ ∀ m, m ≠ n → t.ports.get m = s.ports.get m
    (x.st = .training → moves (.portTrained n) .up) ∧ (x.st = .up → moves (.portReplay n) .replay) ∧ (x.st = .replay → moves (.replayComplete n) .up)
    ∧ (x.st = .down → x.since + 100000000 ≤ s.devtime → moves (.portRetrain n) .training)
    ∧ (x.st = .up ∨ x.st = .replay → (s.half (n / 2)).part < 8 →
        (∀ r ∈ s.remotes, ¬(r.hd / 2 = n / 4 ∧ r.req.path.toNat = n % 4 ∧ r.peer ≠ s.pkg ∧ r.held = false)) →
        ∃ t, exec (.portDown n) s = .next t ∧ t.mem = s.mem ∧ t.ports.get n = ⟨.down, s.devtime⟩ ∧ s.records t 9
          ∧ t.remotes = s.remotes ∧ t.fabricOut = s.fabricOut ∧ ∀ m, m ≠ n → t.ports.get m = s.ports.get m)
    ∧ ∃ t, exec (.fabricPacketDroppedAtIngress n) s = .next t ∧ t.mem = s.mem ∧ s.records t 8 ∧ t = { s with err := t.err, hostOut := t.hostOut })

-- The fabric -----------------------------------------------------------------------------------------------------------------------------------------------

/-- R411, R412, R413, R414, R415, R416, R420, R422, R424, R428: a request that arrives at a half-die of a partition: dropped with an error record
where a bit that must be 0 is set; refused with 10 while the partition
resets; answered again where its number was performed before, and ignored where that is so long ago that no response is kept; else checked in the order of R416, translated, and performed at its home, or refused
with the code; ordered and ahead of its turn, it is held. Stated, past the duplicate test, for a triple with nothing performed ahead of LOW. The duplicate's
place before the checks (log 76), the path of a response (log 78), code 6 before 7 and the operation of KOP 15
(log 79), and what PCNT counts (log 77) are the model's readings. -/
def Obligations.FabricRequests : Prop :=
  ∀ (s : State) (hd opc c : Nat) (q : Request) (i : Instr),
    (opc, i) ∈ [(1, Instr.rd hd q), (2, .wrl hd q), (3, .wrm hd q), (4, .remoteAtm hd q), (5, .remoteRed hd q), (6, .remoteCwb hd q)] →
    hd < 8 → (s.half hd).member = true →
    let p := (s.half hd).part
    let Q : Request := { q with opc := BitVec.ofNat 5 opc }
    let x := s.triple p Q
    let reply := fun (o : BitVec 5) => { (default : Response) with
      va := q.va, rpeer := BitVec.ofNat 10 s.pkg, dpeer := q.speer, shd := q.shd, stream := q.stream, sseq := q.sseq, opc := o }
    let nack := fun (code : Nat) => { reply 0x13 with code := BitVec.ofNat 8 code }
    let sends := fun (t : State) (r : Response) => if r.dpeer.toNat = s.pkg then t.loop = s.loop ++ [(r.shd.toNat, .rsp r)] ∧ t.fabricOut = s.fabricOut
      else t.fabricOut = s.fabricOut ++ [(4 * (hd / 2) + q.path.toNat, .rsp r)] ∧ t.loop = s.loop
    let clean := opc = 4 ∨ opc = 5 ∨ (q.kop = 0 ∧ q.w64 = false ∧ (opc = 2 → q.side.extractLsb' 0 32 = 0))
    (¬clean → ∃ t, exec i s = .next t ∧ t.mem = s.mem ∧ t.triples = s.triples ∧ t.loop = s.loop ∧ t.fabricOut = s.fabricOut ∧ s.records t 8)
    ∧ (clean → (s.part p).resetting = true → ∃ t, exec i s = .next t ∧ t.mem = s.mem ∧ t.triples = s.triples ∧ sends t (nack 10))
    ∧ (clean → (s.part p).resetting = false → q.restart = false →
      (∀ r, x.cached q.sseq = some r → ∃ t, exec i s = .next t ∧ t.mem = s.mem ∧ t.triples = s.triples ∧ sends t r)
      ∧ (x.cached q.sseq = none → x.first ≠ none → 2 ^ 15 ≤ (q.sseq - x.low).toNat → exec i s = .next s)
      ∧ (x.cached q.sseq = none → (q.sseq - x.low).toNat < 2 ^ 15 → x.held = [] → x.asked = [] → x.ahead = [] → x.cnt = [] →
        let turn := q.ofl = false ∨ x.low = q.sseq
        let counted := fun (t : State) (r : Response) => sends t r
          ∧ (x.low = q.sseq → (t.triple p Q).low = q.sseq + 1 ∧ (t.triple p Q).cached q.sseq = some r)
        let refused := fun (code : Nat) => ∃ t, exec i s = .next t ∧ t.mem = s.mem ∧ counted t (nack code)
        let done := fun (o : BitVec 5) => { reply o with code := BitVec.ofNat 8 (16 ^ q.path.toNat / 256), pcnt := BitVec.ofNat 16 (16 ^ q.path.toNat) }
        let mac := match (s.ctx c).keys.find (q.pass.extractLsb' 36 4).toNat with
          | some k => passMac k (q.pass.extractLsb' 0 40).toNat q.speer.toNat q.fasn.toNat = (q.pass.extractLsb' 40 24).toNat
          | none => False
        let alive := s.everLocked = true ∧ ((q.pass.extractLsb' 20 13).toNat + 2 ^ 13 - s.devtime / 1000000 % 2 ^ 13) % 2 ^ 13 < 2 ^ 12
        let right := q.pass.getLsbD (if opc = 1 ∨ opc = 6 then 33 else if opc = 2 ∨ opc = 3 then 34 else 35) = true
        let n := if opc = 4 ∨ opc = 5 then (if q.w64 then 8 else 4) else 128
        let lo := (q.pass.extractLsb' 8 12).toNat * 2 ^ 27
        let range := lo ≤ q.va.toNat ∧ q.va.toNat + n ≤ lo + ((q.pass.extractLsb' 0 8).toNat + 1) * 2 ^ 27
        let whole := (opc = 2 → (beatLine q.data q.side).2 = true) ∧ (opc = 3 → maskCheck (q.data &&& BitVec.ofNat 1024 (maskBits q.mask)) = q.check)
        let bound := s.ctxOfFasn p q.fasn = some c
        let passes := bound ∧ mac ∧ alive ∧ right ∧ range ∧ whole
        let va := if opc = 4 ∨ opc = 5 then q.va else q.va &&& ~~~0x7F#64
        ((∀ e ∈ s.ctxs, ¬(e.2.boundTo p = true ∧ e.2.fasn = q.fasn.toNat)) → refused 5)
        ∧ (bound → ¬mac → refused 1) ∧ (bound → mac → ¬alive → refused 2) ∧ (bound → mac → alive → ¬right → refused 3)
        ∧ (bound → mac → alive → right → ¬range → refused 4) ∧ (bound → mac → alive → right → range → ¬whole → refused 9 ∧ ∃ t u, exec i s = .next t ∧ s.records u 3 ∧ t.err = u.err ∧ t.hostOut = u.hostOut)
        ∧ (passes → ∀ pte, s.translate .agent c va = .heavy pte → ∃ t, exec i s = .next t ∧ sends t (nack 8)
            ∧ t.triple p Q = { x with asked := [(q.sseq, q.va &&& ~~~0x7F#64)] }
            ∧ ∃ h ∈ t.heavies, h.pte = pte ∧ (q.speer, q.va &&& ~~~0xFFFF#64, q.fasn) ∈ h.tell)
        ∧ (passes → ∀ f, s.translate .agent c va = .fault f → refused (if f.cause = 7 then 9 else 6))
        ∧ (passes → ∀ tr, s.translate .agent c va = .ok tr → leafMode tr.leaf ≠ 0 → refused 6)
        ∧ (passes → ∀ tr f, s.translate .agent c va = .ok tr → leafMode tr.leaf = 0 → va.toNat % n = 0 → s.grant tr va (reqKind Q) = .fault f → f.cause = 6 → refused 7)
        ∧ (passes → ∀ e pa mt, s.agentAccess c n va (reqKind Q) = (.ok e, s) → e.t = .mem pa mt → s.lineFault (pa / 128) = none →
          s.unkept (pa / 128 * 128) 128 →
          (¬turn → ∃ t, exec i s = .next t ∧ t.mem = s.mem ∧ t.fabricOut = s.fabricOut ∧ t.loop = s.loop ∧ (t.triple p Q).held = [{ hd, req := Q, ctx := c, pa, mtype := mt, stamp := (s.part p).recess }])
          ∧ (turn → ∃ t, exec i s = .next t ∧ (opc = 1 → t.mem = s.mem ∧ counted t { done 0x11 with data := (s.line (pa / 128)).data, side := sideBeat (s.line (pa / 128)) })
            ∧ (opc = 2 → counted t (done 0x10) ∧ t.line (pa / 128) = (beatLine q.data q.side).1 ∧ t.lineBad (pa / 128) = none
                ∧ ∀ a, a / 128 ≠ pa / 128 → t.mem.byte a = s.mem.byte a)
            ∧ (opc = 3 → counted t (done 0x10) ∧ (t.line (pa / 128)).tag = (s.line (pa / 128)).tag ∧ (t.line (pa / 128)).scales = (s.line (pa / 128)).scales
                ∧ ∀ a, t.mem.byte a = if a / 128 = pa / 128 ∧ q.mask.getLsbD (a % 128) then q.data.extractLsb' (8 * (a % 128)) 8 else s.mem.byte a)
            ∧ (opc = 4 ∨ opc = 5 → let old := BitVec.ofNat 64 (s.mem.read pa n)
                counted t (if opc = 4 then { done 0x12 with val := old } else done 0x10)
                ∧ s.stored t pa n ((kop (kopOf q.kop.toNat) q.w64 old q.opnd q.cmp).getD old).toNat)
            ∧ (opc = 6 → t.mem = s.mem ∧ counted t (done 0x10))))))

/-- R411, R413, R422, R423, R425, R426, R427, R466: an answer to the one packet outstanding ends its access: an ACK; a DATA line into what waits for
it, or the data-integrity fault of a bad one; an ATMR's old value; a NACK's fault, reported to its thread, or for code 8 the wait for RESOLVED, which
sends it again, as 4 ms without an answer do on another path that is UP; 64 ms give code 11. A response with a bit set that must be 0 is dropped
with a class 0x08 record. An answer to an agent's packet is kept for its work. Stated of
one packet, whose result waits for it alone. That a failure
carries the access's VA is the model's reading (log 35). -/
def Obligations.FabricAnswers : Prop :=
  ∀ (s : State) (x : Remote) (r : Response), s.remotes = [x] → r.dpeer.toNat = s.pkg → r.shd.toNat = x.hd → r.stream.toNat = x.stream →
    r.rpeer.toNat = x.peer → x.req.dpeer.toNat = x.peer → (∀ k, x.want ≠ .word k) →
    let answers := x.held = false ∧ r.sseq = x.req.sseq
    let low := fun (b : BitVec 16) => b.extractLsb' 0 8 = 0
    let (l, ok) := beatLine r.data r.side
    (∀ key : AgentKey, answers → x.want = .agent key → x.lane = 32 → x.pend = none → x.patch = [] →
      let told := fun (f : Option PFault) (y : Option Line) => { s with remotes := [], answers := s.answers ++ [⟨x.hd, key, x.req.va, f, y⟩] }
      (x.req.opc ∈ [2, 3, 5, 6] → exec (.ack r) s = .next (told none none))
      ∧ (x.req.opc = 1 → ok = true → r.side.extractLsb' 0 32 = 0 → exec (.data r) s = .next (told none (some l)))
      ∧ (low r.pcnt → r.code ≠ 8 → r.code ≠ 10 → exec (.nack r) s = .next (told (some (pf 8 x.req.va r.code.toNat)) none)))
    ∧ ((∀ k, x.want ≠ .agent k) →
    let fails := fun (i : Instr) (cause info : Nat) => ∃ t, exec i s = .next t ∧ t.mem = s.mem ∧ t.remotes = []
      ∧ (∀ id, x.pend = some id → t.pend = s.pend.filter (fun p => p.id != id))
      ∧ (x.lane < 32 → t.thread x.slot x.lane = { s.thread x.slot x.lane with
          defer := (s.thread x.slot x.lane).defer ++ [⟨BitVec.ofNat 8 cause, BitVec.ofNat 32 info, x.want.va x.req.va⟩] })
    (∀ i, (i = .data r ∧ r.side.extractLsb' 0 32 ≠ 0) ∨ (i = .nack r ∧ ¬low r.pcnt) ∨ (i = .resolved r ∧ (r.code ≠ 0 ∨ ¬low r.pcnt)) →
      ∃ t, exec i s = .next t ∧ s.records t 8 ∧ t = { s with err := t.err, hostOut := t.hostOut })
    ∧ (answers → x.req.opc ∈ [2, 3, 5, 6] → exec (.ack r) s = .next { s with remotes := [] })
    ∧ (∀ (id : Nat) (P : Pending), answers → x.pend = some id → s.pend = [P] → P.id = id → x.patch = [] →
      (x.req.opc = 1 → ok = true → l.tag.toNat < 10 → r.side.extractLsb' 0 32 = 0 →
        (∀ off w key u, x.want = .load off w key → w ≠ .z64 → P.regs = [(key, u)] → ∃ t, exec (.data r) s = .next t ∧ t.mem = s.mem ∧ t.remotes = []
          ∧ t.pend = [{ P with regs := [(key, (extendTo w (lineField l off (widthBytes w))).setWidth 32)], remote := false }])
        ∧ (∀ off key u1 u2, x.want = .load off .z64 key → P.regs = [(key, u1), (key + 32, u2)] → ∃ t, exec (.data r) s = .next t ∧ t.mem = s.mem ∧ t.remotes = []
          ∧ t.pend = [{ P with regs := [(key, (lineField l off 8).setWidth 32), (key + 32, (lineField l off 8 >>> 32).setWidth 32)], remote := false }])
        ∧ (∀ row, x.want = .line row → P.regs = (List.range 32).map (fun i => (elemKey row i, 0)) → ∃ t, exec (.data r) s = .next t ∧ t.mem = s.mem ∧ t.remotes = []
          ∧ t.pend = [{ P with regs := (List.range 32).map (fun i => (elemKey row i, lineWord l.data i)), rowMeta := [(row, l.tag, l.scales)], remote := false }]))
      ∧ (x.req.opc = 4 → ∀ key u, x.want = .atm false key → P.regs = [(key, u)] → ∃ t, exec (.atmr r) s = .next t ∧ t.mem = s.mem ∧ t.remotes = []
          ∧ t.pend = [{ P with regs := [(key, r.val.setWidth 32)], remote := false }]))
    ∧ (answers → x.req.opc = 1 → r.side.extractLsb' 0 32 = 0 → ok = false ∨ 10 ≤ l.tag.toNat → fails (.data r) 7 (if ok then 3 else 1))
    ∧ (answers → low r.pcnt → r.code ≠ 8 → fails (.nack r) 8 r.code.toNat)
    ∧ (answers → low r.pcnt → r.code = 8 → exec (.nack r) s = .next { s with remotes := [{ x with held := true }] })
    ∧ (x.held = true → r.code = 0 → low r.pcnt → r.sseq = x.req.fasn → r.va &&& ~~~0xFFFF#64 = x.req.va &&& ~~~0xFFFF#64 → x.peer ≠ s.pkg → s.upPaths x.hd ≠ [] →
        ∃ p ∈ s.upPaths x.hd, let q := { x.req with path := BitVec.ofNat 2 p }
          exec (.resolved r) s = .next { s with
            remotes := [{ x with req := q, held := false, first := s.devtime, last := s.devtime }]
            fabricOut := s.fabricOut ++ [(4 * (x.hd / 2) + p, .req q)] })
    ∧ (x.held = false → x.last + 4000000 ≤ s.devtime → x.peer ≠ s.pkg → s.upPaths x.hd ≠ [] →
        ∃ p ∈ s.upPaths x.hd, ((∃ o ∈ s.upPaths x.hd, o ≠ x.req.path.toNat) → p ≠ x.req.path.toNat)
          ∧ let q := { x.req with path := BitVec.ofNat 2 p }
            exec (.packetResend x.id) s = .next { s with
              remotes := [{ x with req := q, last := s.devtime }]
              fabricOut := s.fabricOut ++ [(4 * (x.hd / 2) + p, .req q)] })
    ∧ (x.held = false → x.first + 64000000 ≤ s.devtime → fails (.unreachable x.id) 8 11))

-- The memory processors -------------------------------------------------------------------------------------------------------------------------------------

/-- R240, R258, R333, R334, R337, R414, R415, R418: the head item of a half-die's service or mint queue: a sweep removes the translations of its range
and writes its completion word; a freed frame is stamped and enters quarantine, of a converted KV frame the lower half; a mint request gets its
pass, or the word 2; what fails a check is dropped with a class 0x06 record. Quarantine ends once every stamp is later; a released item goes to the
return queue. Which failed checks drop an item (log 49), and what FREE removes and which half-die's
return queue an item goes to (log 50), are the model's readings. -/
def Obligations.PageItems : Prop :=
  ∀ (s : State) (hd : Nat), hd < 8 → (s.half hd).member = true → let p := (s.half hd).part
    p < 8 → (s.part p).resetting = false →
    (∀ it : DWord, s.headItem (serviceQueue hd) = some it →
      let d := serviceQueue hd
      let popped := fun (t : State) => t.mem.read d 4 = (s.mem.read d 4 + 1) % 2 ^ 32
      let n := itemAddr it / 128
      let l := (s.line n).data
      let c := bf l 0 16
      let cpa := bf l 128 48
      let fine := s.itemOk p it = true
      s.unkept d 128 →
      (itemKind it = 1 → fine → n ≠ d / 128 → s.lineBad n = none → s.sweepOk p l = true → cpa / 128 ≠ d / 128 →
        ∃ t, exec (.sweep hd) s = .next t ∧ popped t
          ∧ (s.lineBad (cpa / 128) = none → s.unkept cpa 4 → t.mem.read cpa 4 = bf l 192 32)
          ∧ ∀ cl, cl < 48 → cl / 6 ∈ s.partHalves p → ∀ x ∈ (t.cluster cl).tlb, x.ctx = c →
              (bf l 32 32 ≠ 0 → bf l 64 64 + bf l 32 32 * 2 ^ 16 ≤ x.base ∨ x.base + x.size ≤ bf l 64 64) ∧ (bf l 32 32 = 0 → 2 ^ 64 ≤ x.base ∨ x.base + x.size = 0))
      ∧ (itemKind it = 1 → fine → n ≠ d / 128 → s.lineBad n = none → s.sweepOk p l = false → ∃ t, exec (.sweep hd) s = .next t ∧ popped t ∧ s.records t 6
          ∧ t.clusters = (s.qpop d).2.clusters ∧ t.mem = (s.qpop d).2.mem)
      ∧ (itemKind it ∉ [1, 2, 3, 4] ∨ (itemKind it = 1 ∧ ¬fine) → ∃ t, exec (.sweep hd) s = .next t ∧ popped t ∧ s.records t 6 ∧ t.mem = (s.qpop d).2.mem)
      ∧ (itemKind it ∈ [2, 3, 4] → ¬fine → ∃ t, exec (.free hd) s = .next t ∧ popped t ∧ s.records t 6 ∧ (t.part p).quar = (s.part p).quar)
      ∧ (itemKind it ∈ [2, 3, 4] → fine →
        let half := itemKind it = 2 ∧ (itemAddr it / 2 ^ 16) ∈ (s.half (homeHalf (itemAddr it))).converted
        ∃ t, exec (.free hd) s = .next t ∧ popped t ∧ (t.part p).recess = (s.part p).recess + 1
          ∧ (half → (t.part p).quar = (s.part p).quar ++ [⟨hd, BitVec.ofNat 64 (itemAddr it + 5), (s.part p).recess⟩])
          ∧ (¬half → (t.part p).quar = (s.part p).quar ++ [⟨hd, it, (s.part p).recess⟩])
          ∧ ∀ f, f ∈ (t.half (homeHalf (itemAddr it))).steeper.map (·.frame) ∨ f ∈ (t.half (homeHalf (itemAddr it))).converted →
              f * 2 ^ 16 < itemAddr it ∨ itemAddr it + kindBytes (itemKind it) ≤ f * 2 ^ 16))
    ∧ (∀ (f : Quarantined) (more : List Quarantined), (s.part p).quar = f :: more →
      ((∀ x ∈ s.stamps p, f.stamp < x) → (s.half f.hd).member = true → (s.half f.hd).part = p →
        ∃ t, exec (.quarantineRelease p) s = .next t ∧ t.mem = s.mem ∧ (t.part p).quar = more ∧ (t.half f.hd).returns = (s.half f.hd).returns ++ [f.item])
      ∧ (∀ r ∈ s.kreqs, r.part = p → r.stamp ≤ f.stamp → exec (.quarantineRelease p) s = .next s))
    ∧ (∀ (it : DWord) (more : List DWord), (s.half hd).returns = it :: more → it ≠ qEmpty → it ≠ qClosed →
      let d := returnQueue hd
      let at0 := qItem s d (qTail s d)
      qValid s d (d + queueBytes) = true → qIsClosed s d = false → qCount s d ≠ qCap s d → s.lineFault (d / 128) = none → populated at0 = true →
      s.lineFault (at0 / 128) = none → s.unkept d queueBytes →
      ∃ t, exec (.returnItemPush hd) s = .next t ∧ (t.half hd).returns = more ∧ t.mem.read at0 8 = it.toNat ∧ qTail t d = (qTail s d + 1) % 2 ^ 32
        ∧ qHead t d = qHead s d)
    ∧ ∀ it : DWord, s.everLocked = true → s.headItem (mintQueue hd) = some it → itemKind it = 6 → s.itemOk p it = true →
      let n := itemAddr it / 128
      let l := (s.line n).data
      let dpa := bf l 192 48
      let c := bf l 176 16
      n ≠ mintQueue hd / 128 → dpa / 128 ≠ mintQueue hd / 128 → s.lineBad n = none → dpa % 16 = 0 → s.inPart p dpa 16 = true → s.lineBad (dpa / 128) = none →
      s.unkept (mintQueue hd) 128 → s.unkept dpa 16 →
      ∃ t, exec (.mintRequest hd) s = .next t ∧ t.mem.read (mintQueue hd) 4 = (s.mem.read (mintQueue hd) 4 + 1) % 2 ^ 32
        ∧ (s.mintOk p l = false → t.mem.read (dpa + 8) 4 = 2 ∧ t.mem.read dpa 8 = s.mem.read dpa 8)
        ∧ (s.mintOk p l = true → t.mem.read (dpa + 8) 4 = 1 ∧ let pass := t.mem.read dpa 8
            (fld pass 0 8 + 1) * 2 ^ 27 = bf l 0 64 ∧ fld pass 8 12 * 2 ^ 27 = bf l 64 64 ∧ fld pass 20 13 = (s.devtime / 1000000 + bf l 140 12) % 2 ^ 13
            ∧ fld pass 33 3 = bf l 133 3 ∧ fld pass 36 4 = bf l 136 4
            ∧ ∀ k, (s.ctx c).keys.find (bf l 136 4) = some k → fld pass 40 24 = passMac k (fld pass 0 40) (bf l 152 10) (s.ctx c).fasn % 2 ^ 24)

/-- R195, R330, R335, R336, R342, R420: a light fault sets A, or A and D, of an entry that still grants the access, no other bit changing, and
the bundle that waits goes on; a heavy fault resolved ends its
watch, readies the saved workgroups and tells the package it was refused to; a migration holds the leaf, waits for the page's lines, then
installs the new frame with them, or puts the old leaf back; the Steeper stages an old page and commits its image. The two moves of a migration and its new leaf's HOLD (log 51), and SHD and
STREAM of RESOLVED (log 53), are the model's readings. -/
def Obligations.PageFaults : Prop :=
  ∀ (s : State),
    (∀ (q : Nat) (l : LightFault), (s.quad q).stall = [l] → List.flatMap (fun e => e.2.stall) s.quads = [l] → l.pte % 8 = 0 →
      s.lineBad (l.pte / 128) = none → s.loose.contains (l.pte / 8) = false →
      let e := BitVec.ofNat 64 (s.mem.read l.pte 8)
      ∃ t, exec (.lightFault l.pte l.dirty) s = .next t ∧ (t.quad q).stall = [] ∧ (∀ c, ∀ x ∈ (t.cluster c).tlb, x.pte ≠ l.pte)
        ∧ (s.stillGrants e.toNat l = true → s.stored t l.pte 8 (e ||| 0x800 ||| (if l.dirty then 0x1000 else 0)).toNat)
        ∧ (s.stillGrants e.toNat l = false → s.memKept t))
    ∧ (∀ (h : HeavyWatch) (e : BitVec 10 × DWord × BitVec 16), s.heavies = [h] → let v := BitVec.ofNat 64 (s.entry h.pte)
      s.processorUp (homeHalf h.pte) = true → (v.getLsbD 0 = true ∨ v.getLsbD 3 = false) → h.tell = [e] → e.1.toNat ≠ s.pkg → (∀ g ∈ s.wgs, g.2.save = none) →
      ∃ t port, exec (.heavyFaultResolved h.pte) s = .next t ∧ t.mem = s.mem ∧ t.heavies = [] ∧ (∀ f ∈ t.frames, f.reason = 1 → f.pte = h.pte → f.ready = true)
        ∧ t.fabricOut = s.fabricOut ++ [(port, .rsp { (default : Response) with
            va := e.2.1, rpeer := BitVec.ofNat 10 s.pkg, dpeer := e.1, shd := BitVec.ofNat 3 (homeHalf h.pte), sseq := e.2.2, opc := 0x14 })])
    ∧ (∀ (cl d pe : Nat) (ctx : BitVec 16) (va : DWord) (x l : Trans), cl < 48 → let c := ctx.toNat
      (s.cluster cl).tlb.find? (fun t => t.hits c va && t.migrates (s.ctx c).migth) = some x → s.migrationQueue c = (some (d, pe), s) →
      (qCount s d = 0 → ∃ t, exec (.migrationRequest cl ctx va) s = .next t ∧ t.mem = s.mem ∧ (t.half (cl / 6)).migrations = (s.half (cl / 6)).migrations)
      ∧ (qCount s d ≠ 0 → s.itemBad d (qHead s d) = false → let it := (s.qpop d).1
        it ≠ qEmpty → it ≠ qClosed → it.extractLsb' 0 16 = 0 → it.extractLsb' 48 16 = 0 → s.inPart (s.half (cl / 6)).part it.toNat (2 ^ 16) = true →
        (s.qpop d).2.walk c va = .leaf l → leafMode l.leaf = 3 → (s.qpop d).2.lineFault (l.pte / 128) = none →
        ∃ t, exec (.migrationRequest cl ctx va) s = .next t ∧ t.mem.read l.pte 8 = ((l.leaf &&& ~~~1#64) ||| 8#64).toNat
          ∧ (t.half (cl / 6)).migrations = (s.half (cl / 6)).migrations ++ [⟨s.nextId, c, BitVec.ofNat 64 l.base, l.pte, l.leaf, it.toNat / 2 ^ 16⟩]))
    ∧ (∀ (hd : Nat) (m : Migration) (more : List Migration), hd < 8 → (s.half hd).migrations = m :: more →
      let told := fun (n : Nat) => s.answers.find? (fun a => a.hd == hd && a.key == .work m.id n && a.va == m.va + BitVec.ofNat 64 (128 * n))
      let line := fun (n : Nat) (l : Line) => ∃ a, told n = some a ∧ a.fault = none ∧ a.line = some l
      s.lineFault (m.pte / 128) = none → s.entry m.pte = (holdLeaf m.old).toNat → m.frame < 2 ^ 32 →
      s.unkept (m.frame * 2 ^ 16) (2 ^ 16) →
      (∀ a, m.pte ≤ a → a < m.pte + 8 → a / 2 ^ 16 ≠ m.frame ∧ (a < (s.ctx m.ctx).fabase ∨ (s.ctx m.ctx).fabase + 2 ^ 20 ≤ a)) → m.pte % 8 = 0 →
      ((∀ j < 512, ∀ f a, (∀ n < j, ∃ l, line n l) → told j = some a → a.fault = some f → (s.ctx m.ctx).migq = 0 →
          ∃ t, exec (.migration hd) s = .next t ∧ (t.half hd).migrations = more ∧ s.stored t m.pte 8 m.old.toNat)
      ∧ (∀ j < 512, (∀ n < j, ∃ l, line n l) → told j = none →
          ∃ t, exec (.migration hd) s = .next t ∧ (t.half hd).migrations = m :: more ∧ t.mem = s.mem)
      ∧ (∀ ls : Nat → Line, (∀ n < 512, line n (ls n)) → ∃ t, exec (.migration hd) s = .next t ∧ (t.half hd).migrations = more
          ∧ ((s.ctx m.ctx).fabase + 2 ^ 20 ≤ m.frame * 2 ^ 16 ∨ m.frame * 2 ^ 16 + 2 ^ 16 ≤ (s.ctx m.ctx).fabase → ∀ n < 512, t.line (512 * m.frame + n) = ls n)
          ∧ let e := BitVec.ofNat 64 (t.mem.read m.pte 8)
          e.getLsbD 0 = true ∧ e.extractLsb' 4 2 = 0 ∧ e.extractLsb' 16 32 = BitVec.ofNat 32 m.frame ∧ e.getLsbD 11 = true ∧ e.getLsbD 12 = false
          ∧ ∀ b, b ∈ [1, 2, 6, 7, 8, 9, 10, 13, 14, 15] ∨ 48 ≤ b → e.getLsbD b = m.old.getLsbD b)))
    ∧ ∀ (hd : Nat) (e : SteepEntry), hd < 8 → e.hdr / 2 ^ 16 ≠ e.frame → s.lineBad (e.hdr / 128) = none → let h := (s.line (e.hdr / 128)).data
      hdrValid h = true → s.untabled (e.hdr / 128 * 128) 128 → s.untabled (e.frame * 2 ^ 16) (2 ^ 15) →
      ((s.half hd).steeper.find? (fun y => y.frame == e.frame && !y.staging) = some e → (hdrFmt h = 1 ∨ hdrFmt h = 2) → (s.ctx e.ctx).kvage ≠ 0 →
        (s.ctx e.ctx).kvage ≤ s.devtime / 1000000 - hdrAge h → (∀ i < 512, populated (128 * (e.frame * 512 + i)) = true ∧ s.lineBad (e.frame * 512 + i) = none) →
        ∃ t, exec (.steeperStage hd e.frame) s = .next t ∧ (t.line (e.hdr / 128)).data.getLsbD 565 = true
          ∧ { e with staging := true, image := steepImage h (fun i => s.line (e.frame * 512 + i)) } ∈ (t.half hd).steeper)
      ∧ ((s.half hd).steeper.find? (fun y => y.frame == e.frame && y.staging) = some e → e.image.length = 256 →
        ∃ t, exec (.steeperCommit hd e.frame) s = .next t ∧ (∀ i, i < 256 → t.line (e.frame * 512 + i) = e.image.getD i default)
          ∧ (let k := (t.line (e.hdr / 128)).data; hdrFmt k = 5 ∧ k.getLsbD 565 = false ∧ hdrGen k = (hdrGen h + 1) % 2 ^ 16)
          ∧ (∀ y ∈ (t.half hd).steeper, y.frame ≠ e.frame) ∧ e.frame ∈ (t.half hd).converted
          ∧ (t.part (s.half hd).part).quar = (s.part (s.half hd).part).quar ++ [⟨hd, BitVec.ofNat 64 (e.frame * 2 ^ 16 + 0x8005), (s.part (s.half hd).part).recess⟩])

-- Rules stated whole ------------------------------------------------------------------------------------------------------------------------------------------

/-- R138: NOP changes no state except the PC, with any BELL and STALL; unassigned CTL functions and non-zero unused fields do not decode. -/
def Obligations.NopOnlyAdvances : Prop :=
  (∀ (c : Ctl) (s : State) (g : Grp), s.issues c 1 g → ∃ t, exec (.nop c) s = .next t ∧ s.still t ∧ s.passed t g (fun _ => g.next))
  ∧ ∀ (w : Word) (next : Option Word), majorOf w = 0x34 → let fn := w.extractLsb' 0 7; let a := w.extractLsb' 7 7; let d := w.extractLsb' 14 7
    (fn = 3 → d = 0 → a = 0 → decodeWords w next = .ok (.nop (ctlOf w), 1))
    ∧ (4 ≤ fn.toNat ∨ d ≠ 0 ∨ (2 ≤ fn.toNat ∧ a ≠ 0) → ∃ e, decodeWords w next = .error e)

/-- R123: LEA forms pair a plus the sign-extended b modulo 2^64 in every active thread, whatever address that is; it takes no prefix, and an odd d or a
does not decode. -/
def Obligations.LeaAddresses : Prop :=
  (∀ (c : Ctl) (d a b : VReg), Computes (.lea c d a b) c 1 [ownPair a, own b] { n := d.toNat, pair := true }
    (fun vs => BitVec.ofInt 64 ((vd vs 0).toInt + (vw vs 1).toInt)))
  ∧ ∀ w v : Word, (majorOf w = 0x7E → majorOf v = 0x19 → ∃ e, decodeWords w (some v) = .error e)
    ∧ (majorOf v = 0x19 → v.getLsbD 14 = true ∨ v.getLsbD 7 = true → ∃ e, decodeWords v (some w) = .error e)

-- Encoding ---------------------------------------------------------------------------------------------------------------------------------------------------

/-- R59, R60, R64 to R79: words of the manual's own examples decode to what they stand for; words of unassigned majors, a stray extension, a reserved
code and a set unused bit do not decode. -/
def Obligations.DecodeWords : Prop :=
  let c0 : Ctl := ⟨false, 0⟩
  let reads := fun (w : Word) (i : Instr) => decodeWords w none = .ok (i, 1)
  reads 0x0020C082 (.add c0 none 3 1 2) ∧ reads 0x00C24205 (.mad c0 none 9 4 5) ∧ reads 0x0F40002A (.trap c0 42) ∧ reads 0x0F400401 (.brk c0 1)
  ∧ reads 0x8F400200 (.eret ⟨true, 0⟩) ∧ reads 0x86800A00 (.jmpi ⟨true, 0⟩ 20) ∧ reads 0x050081C4 (.ssub c0 2 3 4) ∧ reads 0x05224181 (.bcast c0 9 3)
  ∧ reads 0x04810286 (.shfl c0 none 4 5 6) ∧ reads 0x04A00390 (.redv c0 .add 7) ∧ reads 0x0CE0C800 (.fstat c0 false 3) ∧ reads 0x04610FF0 (.movh c0 4 0xFF0)
  ∧ reads 0x0DC14003 (.mshp c0 5 3) ∧ reads 0x0D008400 (.mld c0 false .plain false 2 8) ∧ reads 0x0D404040 (.mma c0 true 1 0)
  ∧ reads 0x0E208400 (.kvld c0 false 2 8) ∧ reads 0x0DC10200 (.mzero c0 4) ∧ reads 0x0F00C010 (.crd c0 3 16) ∧ reads 0x0F20C00C (.cwr c0 3 12)
  ∧ reads 0x86800002 (.exit ⟨true, 0⟩) ∧ decodeWords 0x03A08168 (some 0x0FE00007) = .ok (.addiLong c0 2 2 1000, 2)
  ∧ (∀ m ∈ [0x00, 0x26, 0x5B, 0x6F, 0x7B], ∃ e, decodeWords (BitVec.ofNat 32 (m * 2 ^ 21)) none = .error e)
  ∧ (∃ e, decodeWords 0x0FE00007 none = .error e) ∧ (∃ e, decodeWords 0x06800004 none = .error e) ∧ ∃ e, decodeWords 0x0DC10201 none = .error e

/-- R59 to R79: encoding any well-formed instruction and decoding its words, whatever word follows that is no extension, gives the instruction back
with every operand, and the number of its words. -/
def Obligations.EncodeThenDecode : Prop :=
  ∀ (i : Instr) (v : Word), wellFormed i = true → encode i ≠ [] → majorOf v ≠ 0x7F →
    (encode i).length ≤ 2 ∧ decodeWords ((encode i).headD 0) (some ((encode i).getD 1 v)) = .ok (i, (encode i).length)

-- Steps ------------------------------------------------------------------------------------------------------------------------------------------------------

/-- R59, R60, R62, R79, R136: a step runs what its bundle fetches. Where every thread of the focused bundle's next group finds the same words at its PC,
and they decode to i within the period's limit, the step is exec of i, with the translations used held by the cluster's TLB and the lines by
instruction caches; where they do not decode or break the limit it is the illegal instruction. The model adds: after an outcome `next u` the
state is u.after, in which waits that are over have ended and device time has gone on by 1 ns, or as its slewing has it; this clock is the
model's choice (log 2). Where no roll call, completion, matrix operation or block waits to go on, u.after keeps memory and registers. An event that is due comes before any group, which is the model's choice too (log 1). -/
def Obligations.StepRunsDecoded : Prop :=
  (∀ (s : State) (q : Nat) (g : Grp) (w : Word) (next : Option Word), s.agenda = [] → s.nextQuad = some q →
    let s1 := { s with focus := q }
    s1.group ⟨false, 0⟩ 1 = some g → g.acts ≠ [] → next.isSome = needsSecondWord w →
    (∀ a ∈ g.acts, s1.holdsCode a.1 g.pc w ∧ ∀ v, next = some v → s1.holdsCode a.1 (g.pc + 4) v) →
    ∃ t, t = { s1 with clusters := t.clusters, cores := t.cores } ∧ (∀ c, { (t.cluster c) with tlb := [] } = { (s.cluster c) with tlb := [] })
      ∧ (∀ c, { (t.core c) with icache := [] } = { (s.core c) with icache := [] })
      ∧ let ends := fun (i : Instr) => (∀ u, exec i t = .next u → step s = .next u.after) ∧ (∀ f, exec i t = .fault f → step s = .fault f)
          ∧ ∀ r, exec i t = .refused r → step s = .refused r
        (∀ i n, decodeWords w next = .ok (i, n) → s1.overruns n (groupBell (w, next) n) = false → ends i)
        ∧ (∀ i n, decodeWords w next = .ok (i, n) → s1.overruns n (groupBell (w, next) n) = true → ends .illegalInstruction)
        ∧ ∀ e, decodeWords w next = .error e → ends .illegalInstruction)
  ∧ (∀ (s : State) (i : Instr) (more : List Instr), s.agenda = i :: more → ∀ u, exec i { s with agenda := more } = .next u → step s = .next u.after)
  ∧ ∀ u : State, u.rostersWith (fun r => r.st == .calling) = [] → u.rostersWith Roster.startable = [] → (∀ e ∈ u.wgs, e.2.ended = false) →
      (∀ e ∈ u.warps, e.2.leaving = []) → u.upsets = [] →
      u.after.mem = u.mem ∧ u.after.side = u.side
      ∧ (u.after.devtime, u.after.slew) = (if u.slew = 0 then (u.devtime + 1, 0) else if 0 < u.slew then (u.devtime + 2, u.slew - 1) else (u.devtime, u.slew + 1))
      ∧ (∀ k, u.after.kernel k = if (u.kernel k).st ∈ [KState.distributing, .running, .draining] then { (u.kernel k) with spent := (u.kernel k).spent + 1 }
          else u.kernel k)
      ∧ ∀ k, (u.after.warp k).vreg = (u.warp k).vreg ∧ (u.after.warp k).sreg = (u.warp k).sreg

/-- R376: after every step, from any state, an ACTIVE context has a kernel in PENDING to DRAINING or a saved workgroup. -/
def Obligations.ActiveContextsHaveWork : Prop :=
  ∀ s t : State, step s = .next t → t.ctxsOk

/-- R28, R37, R352, R358, R376, R377, R426, R455, R460, R463, R464: the machine right after device reset: memory of zero lines whose checks match, in
canonical form, no partition, context, kernel or warp, registers at the values of their Reset columns, power not yet on. Values the manual
does not give are the model's choice (log 6, log 84). -/
def Obligations.ResetState : Prop :=
  let s := State.reset
  s.canonical = true ∧ s.ctxsOk ∧ (∀ n, s.line n = { data := 0, tag := 0, scales := 0 } ∧ s.lineBad n = none)
    ∧ (∀ h, (s.half h).member = false) ∧ s.ctxs = [] ∧ s.kernels = [] ∧ s.warps = [] ∧ s.wgs = [] ∧ s.frames = [] ∧ s.remotes = [] ∧ s.pend = []
    ∧ s.up = false ∧ s.locked = false ∧ s.everLocked = false ∧ s.devtime = 0 ∧ s.accepted = none ∧ (∀ n, (s.ports.get n).st = .disabled)
    ∧ (∀ p q, s.queue p q = { (default : Queue) with widx := 0, ridx := 0, base := 0, cfg := 0, erridx := 0, retries := 0, cause := 0, st := 0 })
    ∧ s.setup.arg = 0 ∧ s.setup.busy = false ∧ s.setup.status = 0 ∧ s.setup.done = 0 ∧ s.mbox.buf = 0 ∧ s.mbox.busy = false ∧ s.mbox.done = 0
    ∧ s.err = ⟨0, 0, 0, 0, 0, 0⟩ ∧ s.ap.base = 0 ∧ s.ap.line = false ∧ s.ap.applied = false ∧ ∀ n, (s.mons.get n).cfg = 0

/-- R284, R285, R288, R289: what MMV, MDUAL and the three forms of MDRN leave when their operation finishes. MMV adds the products of the
tile's vectors and of weight rows read from memory, block by block, and empties the latch. MDUAL adds exact sums of 32 products to BANK
and DW. A drain lays the converted rows of each set into lines: into its tile, into the rows each member's result is pending for, or
into memory from BASE on; it sets what it drained to +0 where ZERO is 1, and counts in DSEQ under MODE 4, whose draws are those of R289. -/
def Obligations.MatrixResults : Prop :=
  ∀ (s : State) (core m : Nat) (p : MatOp) (rest : List MatOp) (i : MIns) (vs : List Word), core < 384 → m < 2 →
    (s.matrix core m).ops = p :: rest → p.caps ≠ [] → (∀ u ∈ p.caps, u.ins = i ∧ u.vals = vs ∧ u.early = false) → p.tainted = false →
    (s.matrix core m).leaving = false →
    let old := s.matrix core m
    let k := s.kernel p.kernel
    let val := fun (n : Nat) => vs.getD n 0
    let fld1 := fun (n lo w : Nat) => (val n).toNat / 2 ^ lo % 2 ^ w
    let runs := fun (f : State → Prop) => ∃ t, exec (.matrixOperationFinish core m) s = .next t
      ∧ (t.matrix core m).ops.length = rest.length ∧ f t
    (∀ (q v n : Nat) (shape : Word) (x : Tile), i = .mmv q v n → p.tiles.get n = ⟨shape, some x⟩ →
      let tag := shTag shape
      let wf := fld1 2 16 4
      let rows := fld1 2 0 13
      let lv := shLines shape / v
      let kb := lv * tagBlocks tag
      let nl := (kb + tagBlocks wf - 1) / tagBlocks wf
      let base := val 1 ++ val 0
      1 ≤ tag → tag ≤ 7 → 1 ≤ wf → wf ≤ 7 → 1 ≤ lv → 1 ≤ rows → rows ≤ 4096 → fld1 2 20 11 = 0 → fld1 2 13 3 = 0 → base.toNat % 128 = 0 →
      (val 3).toNat % 128 = 0 → kb ≤ 64 * min (rateOf tag) (rateOf wf) → ∀ w : Nat → Nat → Line,
      (∀ r < rows, ∀ c < nl, s.agentSees k.ctx (base + BitVec.ofNat 64 (r * (val 3).toNat + 128 * c)) (w r c) ∧ (w r c).tag.toNat = wf) →
      runs (fun t => t.mem = s.mem ∧ (t.matrix core m).latch = none ∧ (∀ j, (t.matrix core m).dw.get j = old.dw.get j)
        ∧ ∀ j, (t.matrix core m).bank.get j = if j / 4096 < v ∧ j % 4096 < rows then
            (List.range kb).foldl (fun acc b =>
              let a := (slotBlks tag x (j / 4096 * lv) lv).getD b default
              let l := w (j % 4096) (b / tagBlocks wf)
              let u := (lineBlks wf l.data l.scales).getD (b % tagBlocks wf) default
              accumulate acc (blockdot (a.elems tag) a.scale (u.elems wf) u.scale))
              (if fld1 2 31 1 = 1 then 0 else old.bank.get j)
          else old.bank.get j))
    ∧ (∀ (zx zw : Bool) (nx ny : Nat) (sx sy : Word) (x y : Tile) (l : Latch), i = .mdual zx zw nx ny → p.tiles.get nx = ⟨sx, some x⟩ →
      p.tiles.get ny = ⟨sy, some y⟩ → old.latch = some l → (∀ tag ∈ [shTag sx, shTag sy, l.fmt], tag = 1 ∨ tag = 2 ∨ tag = 7) →
      (∀ col ∈ l.cols, col.length = l.kb) →
      let n := l.cols.length
      let rows := shRows sx
      let kd := 32 * l.kb
      shRows sy = rows → l.kb ≤ tagBlocks (shTag sx) * shWidth sx → (n + 31) / 32 ≤ tagBlocks (shTag sy) * shWidth sy → rows * kd ≤ 32768 →
      let elem := fun (tag : Nat) (bs : List Blk) (e : Nat) => ((bs.getD (e / 32) default).vals tag).getD (e % 32) (.fin false 0 0)
      let X := fun (r e : Nat) => elem (shTag sx) (rowBlks sx x r) e
      let Y := fun (r e : Nat) => elem (shTag sy) (rowBlks sy y r) e
      let W := fun (c e : Nat) => elem l.fmt (l.cols.getD c []) e
      let sums := fun (acc : Word) (len : Nat) (f h : Nat → Machine.Num) => (List.range ((len + 31) / 32)).foldl (fun acc g =>
        let es := ((List.range 32).map (32 * g + ·)).filter (· < len)
        accumulate acc (dotSum (es.map f) (es.map h))) acc
      runs (fun t => t.mem = s.mem ∧ (t.matrix core m).latch = old.latch
        ∧ (∀ j, (t.matrix core m).bank.get j = if j < rows * kd then
            sums (if zx then 0 else old.bank.get j) n (Y (j / kd)) (fun c => W c (j % kd)) else old.bank.get j)
        ∧ ∀ j, (t.matrix core m).dw.get j = if j < n * kd then
            sums (if zw then 0 else old.dw.get j) rows (fun r => Y r (j / kd)) (fun r => X r (j % kd)) else old.dw.get j))
    ∧ (∀ w : Bool, let src := if w then old.dw else old.bank
      let fmt := fld1 0 0 4
      let mode := fld1 0 6 3
      let nrow := fld1 4 0 9
      let row0 := fld1 4 16 8
      let sets := match i with
        | .drnV _ _ _ => p.members.length
        | _ => 1
      let ro := s.roster p.wg p.slot
      let clip := (val 0).getLsbD 10
      let mul : Machine.Num := if (val 0).getLsbD 11 then f32 (val 1) else .fin false 1 (sx 8 (fld1 0 16 8))
      let rnd := fun (e : Nat) => match mode with
        | 0 => Mode.rne
        | 1 => Mode.rtz
        | 2 => Mode.rdn
        | 3 => Mode.rup
        | _ => Mode.sr (draw k.seed (k.launch * 2 ^ 34 + p.widx * 2 ^ 10 + p.slot * 2 ^ 5) (2 ^ 31 + ro.dseq.toNat * 2 ^ 15 + e)).toNat
      let sel := if (val 0).getLsbD 5 then Sel.fit else Sel.floor
      let block := fun (set q : Nat) =>
        let e0 := 128 * (row0 + set * nrow) + 32 * q
        toBlock fmt sel ((val 0).getLsbD 9) (fun e => rnd (e0 + e))
          ((List.range 32).map (fun e => drainVal clip (f32 (src.get (e0 + e))) mul (f32 (val 2)) (f32 (val 3))))
      let lines := fun (set : Nat) => blockLines fmt ((List.range (4 * nrow)).map (block set))
      let drained := fun (t : State) => (t.matrix core m).latch = old.latch
        ∧ (∀ j, (t.matrix core m).bank.get j
            = if w = false ∧ (val 0).getLsbD 12 = true ∧ 128 * row0 ≤ j ∧ j < 128 * (row0 + sets * nrow) then 0 else old.bank.get j)
        ∧ (∀ j, (t.matrix core m).dw.get j
            = if w = true ∧ (val 0).getLsbD 12 = true ∧ 128 * row0 ≤ j ∧ j < 128 * (row0 + sets * nrow) then 0 else old.dw.get j)
        ∧ (t.roster p.wg p.slot).dseq = if mode = 4 then ro.dseq + 1 else ro.dseq
      fld1 0 24 8 = 0 → fld1 0 13 3 = 0 → fld1 0 4 1 = 0 → fld1 4 24 8 = 0 → fld1 4 9 7 = 0 → mode ≤ 4 → 1 ≤ fmt → fmt ≤ 9 →
      ((val 0).getLsbD 11 = true → f32 (val 1) ≠ .nan) → (clip = true → f32 (val 2) ≠ .nan ∧ f32 (val 3) ≠ .nan) → 1 ≤ nrow → nrow ≤ 256 →
      row0 + sets * nrow ≤ 256 → (s.wgs.find p.wg).isSome = true → ro.st ≠ .unused → p.born = ro.born → (s.matrix core (1 - m)).ops = [] →
      (∀ n o, i = .drnT w n o → shTag (p.tiles.get n).shape = fmt → (lines 0).length ≤ shLines (p.tiles.get n).shape →
        runs (fun t => drained t ∧ t.mem = s.mem ∧ ∀ j, ((t.wgs.get p.wg).tiles.get n).get j
          = if j < (lines 0).length then ⟨((lines 0).getD j default).data, ((lines 0).getD j default).scales⟩
            else ((s.wgs.get p.wg).tiles.get n).get j))
      ∧ (∀ d o, i = .drnV w d o → p.members.Nodup → (p.caps.filterMap Capture.pend).Nodup → (s.pend.map Pending.id).Nodup →
        runs (fun t => drained t ∧ t.mem = s.mem ∧ ∀ u ∈ p.caps, u.wid ∈ p.members → ∀ x ∈ s.pend, u.pend = some x.id →
          let l := fun (row : Nat) => (lines ((p.members.takeWhile (· != u.wid)).length)).getD (row - u.row) default
          ∃ y ∈ t.pend, y.id = x.id ∧ y.slot = x.slot ∧ y.remote = false
            ∧ y.regs = x.regs.map (fun e => (e.1, BitVec.ofNat 32 ((l (e.1 / 32)).data.toNat / 2 ^ (32 * (e.1 % 32)))))
            ∧ y.rowMeta = x.rowMeta.map (fun e => (e.1, (l e.1).tag, (l e.1).scales))))
      ∧ (∀ o, i = .drnM w o → ∀ pa : Nat → Nat,
        (∀ j < (lines 0).length, s.agentAt k.ctx (val 6 ++ val 5 + BitVec.ofNat 64 (128 * j)) lineStoreKind (pa j) ∧ s.unkept (pa j) 128
          ∧ pa j % 128 = 0) →
        runs (fun t => drained t
          ∧ (∀ j < (lines 0).length, (∀ j' < (lines 0).length, j < j' → pa j' ≠ pa j) →
              t.line (pa j / 128) = (lines 0).getD j default ∧ t.lineBad (pa j / 128) = none)
          ∧ s.onlyBytes t ((List.range (lines 0).length).map (fun j => (pa j, 128))))))

/-- R301, R304 to R307: what a copy command computes for its last line, from source lines that carry one TAG it accepts: a plain copy the
line itself, a quantise the blocks of its values scaled by 2^K2, a dequantise one block's values as FP32, a transpose word r mod 32 of 32
lines, a rescale each block by its scale or anew; draws under MODE 4 are those of R306, and NF is set by what it converts and writes.
R301, R312, R313: a scatter with .fadd adds the packed line's words to the table line's, each with one rounding.
R301, R316 to R318: an all-reduce and a reduce-scatter of ranks that are all on this package, all their windows and outputs being
granted: every output line holds the sum of the ranks' inputs in rank order, one rounding for each rank, converted to FMT once; the
records count the lines. Whether a reduce-scatter rank's NF counts other ranks' lines is the model's choice (log 119). -/
def Obligations.EngineResults : Prop :=
  let words := fun (l : Line) => (List.range 32).map (fun i => f32 (l.data.extractLsb' (32 * i) 32))
  let blocks := fun (tag : Nat) (l : Line) => lineBlks tag l.data l.scales
  let rounding := fun (code g : Nat) => match code with
    | 0 => Mode.rne
    | 1 => Mode.rtz
    | 2 => Mode.rdn
    | 3 => Mode.rup
    | _ => Mode.sr g
  (∀ (s : State) (cl ch pd tag : Nat) (x : EngCmd) (rest : List EngCmd) (src : Nat × Nat → Line), cl < 48 → ch < 16 → s.watches = [] →
    x.aborted = false →
    let o := x.line
    let chan := fun (s : State) => (s.cluster cl).chans.get ch
    let opc := cpyOpc o
    let cols := cpyDcols o x.bpl
    let r := x.doneLines / cols
    let k := x.doneLines % cols
    (chan s).queue = x :: rest → (chan s).st ≠ 2 → x.doneLines + 1 = cpyDrows o * cols → cpySspace o = false → cpyDspace o = false → opc ≤ 4 →
    (x.tag = none ∨ x.tag = some tag) → cpyAccepts opc tag = true → (opc = 2 → x.bpl = tagBlocks tag) → (opc = 1 → 1 ≤ cpyFmt o ∧ cpyFmt o ≤ 8) →
    let need : List (Nat × Nat) := match opc with
      | 1 => (List.range (tagBlocks (cpyFmt o))).map (fun i => (r, tagBlocks (cpyFmt o) * k + i))
      | 2 => [(r, k / tagBlocks tag)]
      | 3 => (List.range 32).map (fun i => (32 * k + i, r / 32))
      | _ => [(r, k)]
    (∀ e ∈ need, s.agentSees x.ctx (cpySrc o + BitVec.ofNat 64 (e.1 * cpySstr o + 128 * e.2)) (src e) ∧ (src e).tag.toNat = tag) →
    s.agentAt x.ctx (cpyDst o + BitVec.ofNat 64 (r * cpyDstr o + 128 * k)) lineStoreKind pd → s.unkept pd 128 → cpyOverlaps x r k = false →
    pd / 128 ≠ (cl / 6 * 2 ^ 36 + 0xC90400000 + 512 * (cl % 6) + 32 * ch) / 128 →
    let one := src (need.headD (0, 0))
    let k2 := cpyK2 o
    let rnd := fun (e : Nat × Nat) (j : Nat) => rounding (cpyMode o) (draw (s.kernel x.kernel).seed
      (x.launch.toNat * 2 ^ 34 + x.wgidx * 2 ^ 10 + 0x3FF) (2 ^ 31 + cpySrid o * 2 ^ 23 + 256 * (e.1 * cpyNcols o + e.2) + j)).toNat
    let quantised := need.map (fun e => toBlock (cpyFmt o) (cpySel o) (cpySat o) (rnd e) ((words (src e)).map (fun v => v.scale k2)))
    let part := (blocks tag one).getD (k % tagBlocks tag) default
    let decoded := (List.range 32).map (fun i => toF32 (rnd (need.headD (0, 0)) (32 * (k % tagBlocks tag) + i)) (cpySat o)
      (((part.vals tag).getD i .nan).scale k2))
    let rescaled := (blocks tag one).zipIdx.map (fun b =>
      let codes := (List.range 32).map (fun i => b.1.bits / 2 ^ ((tagFmt tag).width * i) % 2 ^ (tagFmt tag).width)
      if tagMx tag = true ∧ b.1.scale = 0xFF then (codes, 0xFF)
      else if tagMx tag = true ∧ 0 ≤ (b.1.scale : Int) + k2 ∧ (b.1.scale : Int) + k2 ≤ 254 then (codes, ((b.1.scale : Int) + k2).toNat)
      else toBlock tag (cpySel o) (cpySat o) (fun j => rnd (need.headD (0, 0)) (32 * b.2 + j)) ((b.1.vals tag).map (fun v => v.scale k2)))
    let out : Line × Bool := match opc with
      | 1 => ((blockLines (cpyFmt o) quantised).headD default,
          need.any (fun e => (words (src e)).any Num.nonfin) || quantised.any (blockNF (cpyFmt o)))
      | 2 => ({ data := lineOfWords (decoded.map BitVec.toNat), tag := 9, scales := 0 }, part.odd tag || decoded.any wordNF)
      | 3 => ({ data := lineOfWords (need.map (fun e => ((src e).data.extractLsb' (32 * (r % 32)) 32).toNat)), tag := BitVec.ofNat 4 tag, scales := 0 }, false)
      | 4 => ((blockLines tag rescaled).headD default, (blocks tag one).any (·.odd tag) || rescaled.any (blockNF tag))
      | _ => (one, false)
    ∃ t, exec (.cpyExecute cl ch) s = .next t ∧ t.line (pd / 128) = out.1 ∧ (chan t).queue = rest ∧ (chan t).wp = x.ticket
      ∧ ∀ j, s.slotOf x.wg x.wid = some j → (t.warp j).nf = ((s.warp j).nf || x.nf || out.2))
  ∧ (∀ (s : State) (hd pd pr j : Nat) (dst src : DWord) (x : EngCmd) (rest : List EngCmd) (li old l : Line), hd < 8 → s.watches = [] →
    x.aborted = false → (s.half hd).gs = x :: rest →
    let o := x.line
    let n := li.data.toNat / 2 ^ (8 * ((gsIdx o).toNat % 128)) % 2 ^ 32
    cmdKind o = 2 → gsRop o = 1 → gsCount o = 1 → gsRlines o = 1 → (gsIdx o).toNat % 4 = 0 → s.agentSees x.ctx (lineVa (gsIdx o)) li →
    n < gsTrows o → gsPacked o 0 0 = src → gsTable o n 0 = dst → s.agentSees x.ctx src l → s.agentSees x.ctx dst old →
    s.agentAt x.ctx dst lineStoreKind pd → s.unkept pd 128 → (l.tag = 0 ∨ l.tag = 9) → (old.tag = 0 ∨ old.tag = 9) → s.slotOf x.wg x.wid = some j →
    let word := fun (y : Line) (i : Nat) => y.data.extractLsb' (32 * i) 32
    let sum := fun (i : Nat) => rneF32 ((f32 (word old i)).add false (f32 (word l i)))
    let new := { old with data := lineOfWords ((List.range 32).map (fun i => (sum i).toNat)) }
    let nf := (List.range 32).any (fun i => (f32 (word old i)).nonfin || (f32 (word l i)).nonfin || (f32 (sum i)).nonfin)
    let s1 := (s.agentPut (.mem pd 0) new).engNF x nf
    s1.agentAt x.ctx (cmdCrec o) lineStoreKind pr → s1.unkept pr 128 → pr / 128 ≠ pd / 128 →
    ∃ t, exec (.scatterExecute hd) s = .next t ∧ (t.half hd).gs = rest ∧ t.line (pd / 128) = new
      ∧ (t.warp j).nf = ((s.warp j).nf || nf) ∧ s.onlyBytes t [(pd / 128 * 128, 128), (pr / 128 * 128, 128)])
  ∧ (∀ (s : State) (part ctx n cop : Nat) (gid epoch : BitVec 16) (cs : List (Nat × EngCmd)) (ls : List LocalRank) (inp pw pd : Nat → Nat → Nat)
      (line : Nat → Nat → Line), part < 8 → s.watches = [] → cs ≠ [] → cop ≤ 1 →
    s.groupCmds part 3 gid.toNat epoch.toNat = cs → s.groupCmds part 4 gid.toNat epoch.toNat = [] →
    (∀ y ∈ s.stops, ¬(y.gid = gid.toNat ∧ y.epoch = epoch.toNat)) →
    s.kindRanks (cs.map (3, ·)) = (.ok (ls.map (3, ·)), s) → mismatchedRanks (ls.map (·.told)) = false → allRanks (ls.map (·.told)) n = true →
    let first := (ls.headD default).cmd.line
    let nl := collNl first
    let fmt := collFmt first
    let buf := fun (i : Nat) => (rankEntry (ls.headD default).tab i).1
    let count := if cop = 1 then nl / n else nl
    1 ≤ fmt → fmt ≤ 9 →
    (∀ r ∈ ls, r.told.cause = 0 ∧ r.cmd.ctx = ctx ∧ grpNrank r.cmd.line = n ∧ collCop r.cmd.line = cop ∧ (∀ i < n, s.localEntry r i = true)
      ∧ (∀ j < nl, s.agentAt ctx (grpSbuf r.cmd.line + BitVec.ofNat 64 (128 * j)) lineLoadKind (inp (grpRank r.cmd.line) j)
          ∧ s.line (inp (grpRank r.cmd.line) j / 128) = line (grpRank r.cmd.line) j)
      ∧ ∀ j < count, s.agentAt ctx (grpDbuf r.cmd.line + BitVec.ofNat 64 (128 * j)) lineStoreKind (pd (grpRank r.cmd.line) j)
          ∧ s.unkept (pd (grpRank r.cmd.line) j) 128) →
    (∀ i < n, ∀ j < nl, s.agentAt ctx (buf i + BitVec.ofNat 64 (128 * j)) lineStoreKind (pw i j) ∧ s.unkept (pw i j) 128) →
    (∀ i < n, ∀ j < count, (∀ a < n, ∀ b < count, pd i j / 128 = pd a b / 128 → i = a ∧ j = b) ∧ ∀ a < n, ∀ b < nl, pd i j / 128 ≠ pw a b / 128) →
    let vals := fun (r : Nat) => (List.range nl).flatMap (fun j => (blocks fmt (line r j)).flatMap (·.vals fmt))
    let ys := (List.range (nl * (32 * tagBlocks fmt))).map (fun e => (List.range (n - 1)).foldl
      (fun a r => rneF32 ((f32 a).add false ((vals (r + 1)).getD e .nan))) (rneF32 ((vals 0).getD e .nan)))
    let sums := fun (l : LineBits) => (List.range (nl * tagBlocks fmt)).map (fun q =>
      toBlock fmt (collSel l) false (fun i => if fmt = 9 then .rne else rounding (collMode l)
          (draw (collSeed l) (gid.toNat * 2 ^ 34 + epoch.toNat * 2 ^ 18 + 0x3FE) (2 ^ 31 + 32 * q + i)).toNat)
        ((List.range 32).map (fun i => f32 (ys.getD (32 * q + i) 0))))
    ∃ (t : State) (ends : List RankEnd), exec (.collectiveExecute part gid epoch []) s = .next (t.rankRecords s ends)
      ∧ ends.map (fun e => (e.r, e.op, e.e, e.nf)) = ls.map (fun r => (r, 3, { cnt0 := count },
          ys.any wordNF || (sums r.cmd.line).any (blockNF fmt) || (List.range n).any (fun i => (vals i).any Num.nonfin)))
      ∧ ∀ r ∈ ls, ∀ j < count, t.line (pd (grpRank r.cmd.line) j / 128)
          = (blockLines fmt (sums r.cmd.line)).getD ((if cop = 1 then grpRank r.cmd.line * count else 0) + j) default)
end

