-- ==== Sys2Proof/Laws/Table.lean ====
section
/-! SUPPORT. Tables and memories: what a read finds after a write, and that every memory operation keeps the canonical form. -/
namespace Sys2Proof

variable {α : Type}

theorem Table.get_erase_same [Inhabited α] (t : Table α) (k : Nat) : Table.get (Table.erase t k) k = default := by
  induction t with
  | nil => rfl
  | cons e r ih => obtain ⟨a, v⟩ := e; by_cases h : a = k <;> simp [Table.erase, Table.get, h, ih]

theorem Table.get_erase_ne [Inhabited α] (t : Table α) {j k : Nat} (h : j ≠ k) :
    Table.get (Table.erase t k) j = Table.get t j := by
  induction t with
  | nil => rfl
  | cons e r ih =>
    obtain ⟨a, v⟩ := e
    by_cases ha : a = k
    · have : ¬ a = j := fun e => h (e.symm.trans ha)
      simp [Table.erase, Table.get, ha, ih]
      intro e; exact absurd e.symm h
    · by_cases hj : a = j
      · subst hj; simp [Table.erase, Table.get, h]
      · simp [Table.erase, Table.get, ha, hj, ih]

theorem Table.get_insert_ne [Inhabited α] (t : Table α) {j k : Nat} (x : α) (h : j ≠ k) :
    Table.get (Table.insert t k x) j = Table.get t j := by
  induction t with
  | nil => simp [Table.insert, Table.get, Ne.symm h]
  | cons e r ih =>
    obtain ⟨a, v⟩ := e
    by_cases hk : k < a
    · simp [Table.insert, Table.get, hk, Ne.symm h]
    · by_cases hj : a = j
      · subst hj; simp [Table.insert, Table.get, hk]
      · simp [Table.insert, Table.get, hk, hj, ih]

theorem Table.get_insert_fresh [Inhabited α] (t : Table α) (k : Nat) (x : α) (h : ∀ e ∈ t, e.1 ≠ k) :
    Table.get (Table.insert t k x) k = x := by
  induction t with
  | nil => simp [Table.insert, Table.get]
  | cons e r ih =>
    obtain ⟨a, v⟩ := e
    have ha : a ≠ k := h (a, v) (by simp)
    by_cases hk : k < a
    · simp [Table.insert, Table.get, hk]
    · simp [Table.insert, Table.get, hk, ha]
      exact ih (fun e he => h e (List.mem_cons_of_mem _ he))

theorem Table.not_mem_erase (t : Table α) (k : Nat) : ∀ e ∈ Table.erase t k, e.1 ≠ k := by
  induction t with
  | nil => simp [Table.erase]
  | cons e r ih =>
    obtain ⟨a, v⟩ := e
    by_cases h : a = k
    · simp only [Table.erase, h, if_true]; exact ih
    · simp only [Table.erase, h, if_false]
      intro e he
      cases he with
      | head => exact h
      | tail _ he => exact ih e he

/-- A read of the key just written. -/
@[simp] theorem Table.get_put_same [Inhabited α] (t : Table α) (k : Nat) (x : α) : Table.get (Table.put t k x) k = x :=
  Table.get_insert_fresh _ _ _ (Table.not_mem_erase t k)

/-- A read of another key. -/
theorem Table.get_put_ne [Inhabited α] (t : Table α) {j k : Nat} (x : α) (h : j ≠ k) :
    Table.get (Table.put t k x) j = Table.get t j := by
  rw [Table.put, Table.get_insert_ne _ _ h, Table.get_erase_ne _ h]

/-- A read after a write. -/
theorem Table.get_put [Inhabited α] (t : Table α) (j k : Nat) (x : α) :
    Table.get (Table.put t k x) j = if j = k then x else Table.get t j := by
  by_cases h : j = k
  · subst h; simp
  · rw [Table.get_put_ne _ _ h, if_neg h]

/-- A read after a store that keeps the canonical form. -/
theorem Table.get_set [Inhabited α] [DecidableEq α] (t : Table α) (j k : Nat) (x : α) :
    Table.get (Table.set t k x) j = if j = k then x else Table.get t j := by
  unfold Table.set
  by_cases hx : x = default
  · rw [if_pos hx]
    by_cases h : j = k
    · subst h; rw [Table.get_erase_same, if_pos rfl, hx]
    · rw [Table.get_erase_ne _ h, if_neg h]
  · rw [if_neg hx]; exact Table.get_put t j k x

-- The canonical form ---------------------------------------------------------------------------------------------

theorem Table.sortedFrom_mono (t : Table α) {lo hi : Nat} (h : lo ≤ hi) (s : Table.sortedFrom hi t = true) :
    Table.sortedFrom lo t = true := by
  cases t with
  | nil => rfl
  | cons e r =>
    obtain ⟨a, v⟩ := e
    simp only [Table.sortedFrom, Bool.and_eq_true, decide_eq_true_eq] at s ⊢
    exact ⟨by omega, s.2⟩

theorem Table.sortedFrom_erase (t : Table α) (k lo : Nat) (s : Table.sortedFrom lo t = true) :
    Table.sortedFrom lo (Table.erase t k) = true := by
  induction t generalizing lo with
  | nil => rfl
  | cons e r ih =>
    obtain ⟨a, v⟩ := e
    simp only [Table.sortedFrom, Bool.and_eq_true, decide_eq_true_eq] at s
    by_cases h : a = k
    · simp only [Table.erase, h, if_true]; exact ih lo (Table.sortedFrom_mono r (by omega) s.2)
    · simp only [Table.erase, h, if_false, Table.sortedFrom, Bool.and_eq_true, decide_eq_true_eq]
      exact ⟨s.1, ih _ s.2⟩

theorem Table.sortedFrom_insert (t : Table α) (k lo : Nat) (x : α) (hk : lo ≤ k) (hn : ∀ e ∈ t, e.1 ≠ k)
    (s : Table.sortedFrom lo t = true) : Table.sortedFrom lo (Table.insert t k x) = true := by
  induction t generalizing lo with
  | nil => simp [Table.insert, Table.sortedFrom, hk]
  | cons e r ih =>
    obtain ⟨a, v⟩ := e
    simp only [Table.sortedFrom, Bool.and_eq_true, decide_eq_true_eq] at s
    have ha : a ≠ k := hn (a, v) (by simp)
    by_cases h : k < a
    · simp only [Table.insert, h, if_true, Table.sortedFrom, Bool.and_eq_true, decide_eq_true_eq]
      exact ⟨hk, by omega, s.2⟩
    · simp only [Table.insert, h, if_false, Table.sortedFrom, Bool.and_eq_true, decide_eq_true_eq]
      exact ⟨s.1, ih _ (by omega) (fun e he => hn e (List.mem_cons_of_mem _ he)) s.2⟩

theorem Table.mem_erase (t : Table α) (k : Nat) (e : Nat × α) (h : e ∈ Table.erase t k) : e ∈ t := by
  induction t with
  | nil => exact h
  | cons f r ih =>
    obtain ⟨a, v⟩ := f
    by_cases ha : a = k
    · simp only [Table.erase, ha, if_true] at h; exact List.mem_cons_of_mem _ (ih h)
    · simp only [Table.erase, ha, if_false] at h
      cases h with
      | head => simp
      | tail _ h => exact List.mem_cons_of_mem _ (ih h)

theorem Table.mem_insert (t : Table α) (k : Nat) (x : α) (e : Nat × α) (h : e ∈ Table.insert t k x) : e = (k, x) ∨ e ∈ t := by
  induction t with
  | nil => simpa [Table.insert] using h
  | cons f r ih =>
    obtain ⟨a, v⟩ := f
    by_cases hk : k < a
    · simpa [Table.insert, hk] using h
    · simp only [Table.insert, hk, if_false, List.mem_cons] at h ⊢
      rcases h with h | h
      · exact .inr (.inl h)
      · rcases ih h with h | h
        · exact .inl h
        · exact .inr (.inr h)

/-- Putting an entry keeps keys rising. -/
theorem Table.sorted_put (t : Table α) (k : Nat) (x : α) (s : Table.sortedFrom 0 t = true) :
    Table.sortedFrom 0 (Table.put t k x) = true :=
  Table.sortedFrom_insert _ _ _ _ (Nat.zero_le k) (Table.not_mem_erase t k) (Table.sortedFrom_erase t k 0 s)

theorem Memory.wf_iff (m : Memory) : Memory.wf m = true ↔ Table.sortedFrom 0 m = true ∧ ∀ e ∈ m, e.2 ≠ 0 := by
  simp [Memory.wf, List.all_eq_true]

/-- Storing a byte keeps the canonical form. -/
theorem Memory.wf_set (m : Memory) (a : Nat) (b : Byte) (h : m.wf = true) : Memory.wf (Table.set m a b) = true := by
  rw [Memory.wf_iff] at h ⊢
  unfold Table.set
  by_cases hb : b = default
  · rw [if_pos hb]
    exact ⟨Table.sortedFrom_erase m a 0 h.1, fun e he => h.2 e (Table.mem_erase m a e he)⟩
  · rw [if_neg hb]
    refine ⟨Table.sorted_put m a b h.1, fun e he => ?_⟩
    rcases Table.mem_insert _ _ _ _ he with rfl | he
    · exact hb
    · exact h.2 e (Table.mem_erase m a e he)

/-- Storing a number keeps the canonical form. -/
theorem Memory.wf_write (m : Memory) (a n v : Nat) (h : m.wf = true) : Memory.wf (m.write a n v) = true := by
  induction n generalizing m a v with
  | zero => exact h
  | succ k ih => exact ih _ _ _ (Memory.wf_set m a _ h)

/-- Storing bytes keeps the canonical form. -/
theorem Memory.wf_writeBytes (m : Memory) (a : Nat) (bs : List Byte) (h : m.wf = true) : Memory.wf (m.writeBytes a bs) = true := by
  induction bs generalizing m a with
  | nil => exact h
  | cons b r ih => exact ih _ _ (Memory.wf_set m a b h)

/-- A byte outside the bytes stored reads as before. -/
theorem Memory.byte_write_of_lt (m : Memory) (a n v j : Nat) (h : j < a) : (m.write a n v).byte j = m.byte j := by
  induction n generalizing m a v with
  | zero => rfl
  | succ k ih =>
    rw [Memory.write, ih _ _ _ (by omega)]
    simp [Memory.byte, Table.get_set, Nat.ne_of_lt h]

/-- A byte after the bytes stored reads as before. -/
theorem Memory.byte_write_of_ge (m : Memory) (a n v j : Nat) (h : a + n ≤ j) : (m.write a n v).byte j = m.byte j := by
  induction n generalizing m a v with
  | zero => rfl
  | succ k ih =>
    rw [Memory.write, ih _ _ _ (by omega)]
    have : j ≠ a := by omega
    simp [Memory.byte, Table.get_set, this]

/-- A byte stored reads as the byte of the number that stands there. -/
theorem Memory.byte_write_mem (m : Memory) (a n v i : Nat) (h : i < n) :
    (m.write a n v).byte (a + i) = BitVec.ofNat 8 (v / 256 ^ i) := by
  induction n generalizing m a v i with
  | zero => omega
  | succ k ih =>
    rw [Memory.write]
    cases i with
    | zero => rw [Memory.byte_write_of_lt _ _ _ _ _ (by omega)]; simp [Memory.byte, Table.get_set]
    | succ i =>
      have := ih (Table.set m a (BitVec.ofNat 8 v)) (a + 1) (v / 256) i (by omega)
      rw [show a + (i + 1) = a + 1 + i by omega, this, Nat.div_div_eq_div_mul, Nat.pow_succ, Nat.mul_comm 256]

/-- A number stored reads back as its low bytes. -/
theorem Memory.read_write_same (m : Memory) (a n v : Nat) : (m.write a n v).read a n = v % 256 ^ n := by
  induction n generalizing m a v with
  | zero => simp [Memory.read, Nat.mod_one]
  | succ k ih =>
    rw [Memory.read, Memory.write, ih, Memory.byte_write_of_lt _ _ _ _ _ (by omega)]
    have e : 256 ^ (k + 1) = 256 * 256 ^ k := by rw [Nat.pow_succ, Nat.mul_comm]
    rw [Memory.byte, Table.get_set, if_pos rfl, BitVec.toNat_ofNat, e, Nat.mod_mul]

end Sys2Proof
end

