-- ==== Sys2Proof/Laws/State.lean ====
section
/-! SUPPORT. What each update of the state leaves and what it changes: one lemma per field and update, and the reads of a record
after its update. -/
namespace Sys2Proof.Machine

-- setWarp
@[simp] theorem State.setWarp_mem (s : State) (k : Nat) (w : Warp) : (s.setWarp k w).mem = s.mem := rfl
@[simp] theorem State.setWarp_side (s : State) (k : Nat) (w : Warp) : (s.setWarp k w).side = s.side := rfl
@[simp] theorem State.setWarp_badLines (s : State) (k : Nat) (w : Warp) : (s.setWarp k w).badLines = s.badLines := rfl
@[simp] theorem State.setWarp_loose (s : State) (k : Nat) (w : Warp) : (s.setWarp k w).loose = s.loose := rfl
@[simp] theorem State.setWarp_sealedKv (s : State) (k : Nat) (w : Warp) : (s.setWarp k w).sealedKv = s.sealedKv := rfl
@[simp] theorem State.setWarp_upsets (s : State) (k : Nat) (w : Warp) : (s.setWarp k w).upsets = s.upsets := rfl
@[simp] theorem State.setWarp_warps (s : State) (k : Nat) (w : Warp) : (s.setWarp k w).warps = s.warps.put k w := rfl
@[simp] theorem State.setWarp_wgs (s : State) (k : Nat) (w : Warp) : (s.setWarp k w).wgs = s.wgs := rfl
@[simp] theorem State.setWarp_quads (s : State) (k : Nat) (w : Warp) : (s.setWarp k w).quads = s.quads := rfl
@[simp] theorem State.setWarp_cores (s : State) (k : Nat) (w : Warp) : (s.setWarp k w).cores = s.cores := rfl
@[simp] theorem State.setWarp_clusters (s : State) (k : Nat) (w : Warp) : (s.setWarp k w).clusters = s.clusters := rfl
@[simp] theorem State.setWarp_halves (s : State) (k : Nat) (w : Warp) : (s.setWarp k w).halves = s.halves := rfl
@[simp] theorem State.setWarp_parts (s : State) (k : Nat) (w : Warp) : (s.setWarp k w).parts = s.parts := rfl
@[simp] theorem State.setWarp_queues (s : State) (k : Nat) (w : Warp) : (s.setWarp k w).queues = s.queues := rfl
@[simp] theorem State.setWarp_kernels (s : State) (k : Nat) (w : Warp) : (s.setWarp k w).kernels = s.kernels := rfl
@[simp] theorem State.setWarp_ranges (s : State) (k : Nat) (w : Warp) : (s.setWarp k w).ranges = s.ranges := rfl
@[simp] theorem State.setWarp_rr (s : State) (k : Nat) (w : Warp) : (s.setWarp k w).rr = s.rr := rfl
@[simp] theorem State.setWarp_rounds (s : State) (k : Nat) (w : Warp) : (s.setWarp k w).rounds = s.rounds := rfl
@[simp] theorem State.setWarp_frames (s : State) (k : Nat) (w : Warp) : (s.setWarp k w).frames = s.frames := rfl
@[simp] theorem State.setWarp_ctxs (s : State) (k : Nat) (w : Warp) : (s.setWarp k w).ctxs = s.ctxs := rfl
@[simp] theorem State.setWarp_pend (s : State) (k : Nat) (w : Warp) : (s.setWarp k w).pend = s.pend := rfl
@[simp] theorem State.setWarp_kreqs (s : State) (k : Nat) (w : Warp) : (s.setWarp k w).kreqs = s.kreqs := rfl
@[simp] theorem State.setWarp_watches (s : State) (k : Nat) (w : Warp) : (s.setWarp k w).watches = s.watches := rfl
@[simp] theorem State.setWarp_heavies (s : State) (k : Nat) (w : Warp) : (s.setWarp k w).heavies = s.heavies := rfl
@[simp] theorem State.setWarp_remotes (s : State) (k : Nat) (w : Warp) : (s.setWarp k w).remotes = s.remotes := rfl
@[simp] theorem State.setWarp_answers (s : State) (k : Nat) (w : Warp) : (s.setWarp k w).answers = s.answers := rfl
@[simp] theorem State.setWarp_stops (s : State) (k : Nat) (w : Warp) : (s.setWarp k w).stops = s.stops := rfl
@[simp] theorem State.setWarp_sseqs (s : State) (k : Nat) (w : Warp) : (s.setWarp k w).sseqs = s.sseqs := rfl
@[simp] theorem State.setWarp_begun (s : State) (k : Nat) (w : Warp) : (s.setWarp k w).begun = s.begun := rfl
@[simp] theorem State.setWarp_triples (s : State) (k : Nat) (w : Warp) : (s.setWarp k w).triples = s.triples := rfl
@[simp] theorem State.setWarp_fabricOut (s : State) (k : Nat) (w : Warp) : (s.setWarp k w).fabricOut = s.fabricOut := rfl
@[simp] theorem State.setWarp_loop (s : State) (k : Nat) (w : Warp) : (s.setWarp k w).loop = s.loop := rfl
@[simp] theorem State.setWarp_hostOut (s : State) (k : Nat) (w : Warp) : (s.setWarp k w).hostOut = s.hostOut := rfl
@[simp] theorem State.setWarp_devtime (s : State) (k : Nat) (w : Warp) : (s.setWarp k w).devtime = s.devtime := rfl
@[simp] theorem State.setWarp_locked (s : State) (k : Nat) (w : Warp) : (s.setWarp k w).locked = s.locked := rfl
@[simp] theorem State.setWarp_slew (s : State) (k : Nat) (w : Warp) : (s.setWarp k w).slew = s.slew := rfl
@[simp] theorem State.setWarp_everLocked (s : State) (k : Nat) (w : Warp) : (s.setWarp k w).everLocked = s.everLocked := rfl
@[simp] theorem State.setWarp_setup (s : State) (k : Nat) (w : Warp) : (s.setWarp k w).setup = s.setup := rfl
@[simp] theorem State.setWarp_err (s : State) (k : Nat) (w : Warp) : (s.setWarp k w).err = s.err := rfl
@[simp] theorem State.setWarp_mbox (s : State) (k : Nat) (w : Warp) : (s.setWarp k w).mbox = s.mbox := rfl
@[simp] theorem State.setWarp_ap (s : State) (k : Nat) (w : Warp) : (s.setWarp k w).ap = s.ap := rfl
@[simp] theorem State.setWarp_mons (s : State) (k : Nat) (w : Warp) : (s.setWarp k w).mons = s.mons := rfl
@[simp] theorem State.setWarp_ports (s : State) (k : Nat) (w : Warp) : (s.setWarp k w).ports = s.ports := rfl
@[simp] theorem State.setWarp_d2dDown (s : State) (k : Nat) (w : Warp) : (s.setWarp k w).d2dDown = s.d2dDown := rfl
@[simp] theorem State.setWarp_images (s : State) (k : Nat) (w : Warp) : (s.setWarp k w).images = s.images := rfl
@[simp] theorem State.setWarp_accepted (s : State) (k : Nat) (w : Warp) : (s.setWarp k w).accepted = s.accepted := rfl
@[simp] theorem State.setWarp_floor (s : State) (k : Nat) (w : Warp) : (s.setWarp k w).floor = s.floor := rfl
@[simp] theorem State.setWarp_pkg (s : State) (k : Nat) (w : Warp) : (s.setWarp k w).pkg = s.pkg := rfl
@[simp] theorem State.setWarp_input (s : State) (k : Nat) (w : Warp) : (s.setWarp k w).input = s.input := rfl
@[simp] theorem State.setWarp_up (s : State) (k : Nat) (w : Warp) : (s.setWarp k w).up = s.up := rfl
@[simp] theorem State.setWarp_throttle (s : State) (k : Nat) (w : Warp) : (s.setWarp k w).throttle = s.throttle := rfl
@[simp] theorem State.setWarp_fresh (s : State) (k : Nat) (w : Warp) : (s.setWarp k w).fresh = s.fresh := rfl
@[simp] theorem State.setWarp_nextId (s : State) (k : Nat) (w : Warp) : (s.setWarp k w).nextId = s.nextId := rfl
@[simp] theorem State.setWarp_agenda (s : State) (k : Nat) (w : Warp) : (s.setWarp k w).agenda = s.agenda := rfl
@[simp] theorem State.setWarp_focus (s : State) (k : Nat) (w : Warp) : (s.setWarp k w).focus = s.focus := rfl

-- modWarp
@[simp] theorem State.modWarp_mem (s : State) (k : Nat) (f : Warp → Warp) : (s.modWarp k f).mem = s.mem := rfl
@[simp] theorem State.modWarp_side (s : State) (k : Nat) (f : Warp → Warp) : (s.modWarp k f).side = s.side := rfl
@[simp] theorem State.modWarp_badLines (s : State) (k : Nat) (f : Warp → Warp) : (s.modWarp k f).badLines = s.badLines := rfl
@[simp] theorem State.modWarp_loose (s : State) (k : Nat) (f : Warp → Warp) : (s.modWarp k f).loose = s.loose := rfl
@[simp] theorem State.modWarp_sealedKv (s : State) (k : Nat) (f : Warp → Warp) : (s.modWarp k f).sealedKv = s.sealedKv := rfl
@[simp] theorem State.modWarp_upsets (s : State) (k : Nat) (f : Warp → Warp) : (s.modWarp k f).upsets = s.upsets := rfl
@[simp] theorem State.modWarp_warps (s : State) (k : Nat) (f : Warp → Warp) : (s.modWarp k f).warps = s.warps.put k (f (s.warps.get k)) := rfl
@[simp] theorem State.modWarp_wgs (s : State) (k : Nat) (f : Warp → Warp) : (s.modWarp k f).wgs = s.wgs := rfl
@[simp] theorem State.modWarp_quads (s : State) (k : Nat) (f : Warp → Warp) : (s.modWarp k f).quads = s.quads := rfl
@[simp] theorem State.modWarp_cores (s : State) (k : Nat) (f : Warp → Warp) : (s.modWarp k f).cores = s.cores := rfl
@[simp] theorem State.modWarp_clusters (s : State) (k : Nat) (f : Warp → Warp) : (s.modWarp k f).clusters = s.clusters := rfl
@[simp] theorem State.modWarp_halves (s : State) (k : Nat) (f : Warp → Warp) : (s.modWarp k f).halves = s.halves := rfl
@[simp] theorem State.modWarp_parts (s : State) (k : Nat) (f : Warp → Warp) : (s.modWarp k f).parts = s.parts := rfl
@[simp] theorem State.modWarp_queues (s : State) (k : Nat) (f : Warp → Warp) : (s.modWarp k f).queues = s.queues := rfl
@[simp] theorem State.modWarp_kernels (s : State) (k : Nat) (f : Warp → Warp) : (s.modWarp k f).kernels = s.kernels := rfl
@[simp] theorem State.modWarp_ranges (s : State) (k : Nat) (f : Warp → Warp) : (s.modWarp k f).ranges = s.ranges := rfl
@[simp] theorem State.modWarp_rr (s : State) (k : Nat) (f : Warp → Warp) : (s.modWarp k f).rr = s.rr := rfl
@[simp] theorem State.modWarp_rounds (s : State) (k : Nat) (f : Warp → Warp) : (s.modWarp k f).rounds = s.rounds := rfl
@[simp] theorem State.modWarp_frames (s : State) (k : Nat) (f : Warp → Warp) : (s.modWarp k f).frames = s.frames := rfl
@[simp] theorem State.modWarp_ctxs (s : State) (k : Nat) (f : Warp → Warp) : (s.modWarp k f).ctxs = s.ctxs := rfl
@[simp] theorem State.modWarp_pend (s : State) (k : Nat) (f : Warp → Warp) : (s.modWarp k f).pend = s.pend := rfl
@[simp] theorem State.modWarp_kreqs (s : State) (k : Nat) (f : Warp → Warp) : (s.modWarp k f).kreqs = s.kreqs := rfl
@[simp] theorem State.modWarp_watches (s : State) (k : Nat) (f : Warp → Warp) : (s.modWarp k f).watches = s.watches := rfl
@[simp] theorem State.modWarp_heavies (s : State) (k : Nat) (f : Warp → Warp) : (s.modWarp k f).heavies = s.heavies := rfl
@[simp] theorem State.modWarp_remotes (s : State) (k : Nat) (f : Warp → Warp) : (s.modWarp k f).remotes = s.remotes := rfl
@[simp] theorem State.modWarp_answers (s : State) (k : Nat) (f : Warp → Warp) : (s.modWarp k f).answers = s.answers := rfl
@[simp] theorem State.modWarp_stops (s : State) (k : Nat) (f : Warp → Warp) : (s.modWarp k f).stops = s.stops := rfl
@[simp] theorem State.modWarp_sseqs (s : State) (k : Nat) (f : Warp → Warp) : (s.modWarp k f).sseqs = s.sseqs := rfl
@[simp] theorem State.modWarp_begun (s : State) (k : Nat) (f : Warp → Warp) : (s.modWarp k f).begun = s.begun := rfl
@[simp] theorem State.modWarp_triples (s : State) (k : Nat) (f : Warp → Warp) : (s.modWarp k f).triples = s.triples := rfl
@[simp] theorem State.modWarp_fabricOut (s : State) (k : Nat) (f : Warp → Warp) : (s.modWarp k f).fabricOut = s.fabricOut := rfl
@[simp] theorem State.modWarp_loop (s : State) (k : Nat) (f : Warp → Warp) : (s.modWarp k f).loop = s.loop := rfl
@[simp] theorem State.modWarp_hostOut (s : State) (k : Nat) (f : Warp → Warp) : (s.modWarp k f).hostOut = s.hostOut := rfl
@[simp] theorem State.modWarp_devtime (s : State) (k : Nat) (f : Warp → Warp) : (s.modWarp k f).devtime = s.devtime := rfl
@[simp] theorem State.modWarp_locked (s : State) (k : Nat) (f : Warp → Warp) : (s.modWarp k f).locked = s.locked := rfl
@[simp] theorem State.modWarp_slew (s : State) (k : Nat) (f : Warp → Warp) : (s.modWarp k f).slew = s.slew := rfl
@[simp] theorem State.modWarp_everLocked (s : State) (k : Nat) (f : Warp → Warp) : (s.modWarp k f).everLocked = s.everLocked := rfl
@[simp] theorem State.modWarp_setup (s : State) (k : Nat) (f : Warp → Warp) : (s.modWarp k f).setup = s.setup := rfl
@[simp] theorem State.modWarp_err (s : State) (k : Nat) (f : Warp → Warp) : (s.modWarp k f).err = s.err := rfl
@[simp] theorem State.modWarp_mbox (s : State) (k : Nat) (f : Warp → Warp) : (s.modWarp k f).mbox = s.mbox := rfl
@[simp] theorem State.modWarp_ap (s : State) (k : Nat) (f : Warp → Warp) : (s.modWarp k f).ap = s.ap := rfl
@[simp] theorem State.modWarp_mons (s : State) (k : Nat) (f : Warp → Warp) : (s.modWarp k f).mons = s.mons := rfl
@[simp] theorem State.modWarp_ports (s : State) (k : Nat) (f : Warp → Warp) : (s.modWarp k f).ports = s.ports := rfl
@[simp] theorem State.modWarp_d2dDown (s : State) (k : Nat) (f : Warp → Warp) : (s.modWarp k f).d2dDown = s.d2dDown := rfl
@[simp] theorem State.modWarp_images (s : State) (k : Nat) (f : Warp → Warp) : (s.modWarp k f).images = s.images := rfl
@[simp] theorem State.modWarp_accepted (s : State) (k : Nat) (f : Warp → Warp) : (s.modWarp k f).accepted = s.accepted := rfl
@[simp] theorem State.modWarp_floor (s : State) (k : Nat) (f : Warp → Warp) : (s.modWarp k f).floor = s.floor := rfl
@[simp] theorem State.modWarp_pkg (s : State) (k : Nat) (f : Warp → Warp) : (s.modWarp k f).pkg = s.pkg := rfl
@[simp] theorem State.modWarp_input (s : State) (k : Nat) (f : Warp → Warp) : (s.modWarp k f).input = s.input := rfl
@[simp] theorem State.modWarp_up (s : State) (k : Nat) (f : Warp → Warp) : (s.modWarp k f).up = s.up := rfl
@[simp] theorem State.modWarp_throttle (s : State) (k : Nat) (f : Warp → Warp) : (s.modWarp k f).throttle = s.throttle := rfl
@[simp] theorem State.modWarp_fresh (s : State) (k : Nat) (f : Warp → Warp) : (s.modWarp k f).fresh = s.fresh := rfl
@[simp] theorem State.modWarp_nextId (s : State) (k : Nat) (f : Warp → Warp) : (s.modWarp k f).nextId = s.nextId := rfl
@[simp] theorem State.modWarp_agenda (s : State) (k : Nat) (f : Warp → Warp) : (s.modWarp k f).agenda = s.agenda := rfl
@[simp] theorem State.modWarp_focus (s : State) (k : Nat) (f : Warp → Warp) : (s.modWarp k f).focus = s.focus := rfl

-- modThread
@[simp] theorem State.modThread_mem (s : State) (k l : Nat) (f : Thread → Thread) : (s.modThread k l f).mem = s.mem := rfl
@[simp] theorem State.modThread_side (s : State) (k l : Nat) (f : Thread → Thread) : (s.modThread k l f).side = s.side := rfl
@[simp] theorem State.modThread_badLines (s : State) (k l : Nat) (f : Thread → Thread) : (s.modThread k l f).badLines = s.badLines := rfl
@[simp] theorem State.modThread_loose (s : State) (k l : Nat) (f : Thread → Thread) : (s.modThread k l f).loose = s.loose := rfl
@[simp] theorem State.modThread_sealedKv (s : State) (k l : Nat) (f : Thread → Thread) : (s.modThread k l f).sealedKv = s.sealedKv := rfl
@[simp] theorem State.modThread_upsets (s : State) (k l : Nat) (f : Thread → Thread) : (s.modThread k l f).upsets = s.upsets := rfl
@[simp] theorem State.modThread_warps (s : State) (k l : Nat) (f : Thread → Thread) : (s.modThread k l f).warps = s.warps.put k ((s.warps.get k).modThread l f) := rfl
@[simp] theorem State.modThread_wgs (s : State) (k l : Nat) (f : Thread → Thread) : (s.modThread k l f).wgs = s.wgs := rfl
@[simp] theorem State.modThread_quads (s : State) (k l : Nat) (f : Thread → Thread) : (s.modThread k l f).quads = s.quads := rfl
@[simp] theorem State.modThread_cores (s : State) (k l : Nat) (f : Thread → Thread) : (s.modThread k l f).cores = s.cores := rfl
@[simp] theorem State.modThread_clusters (s : State) (k l : Nat) (f : Thread → Thread) : (s.modThread k l f).clusters = s.clusters := rfl
@[simp] theorem State.modThread_halves (s : State) (k l : Nat) (f : Thread → Thread) : (s.modThread k l f).halves = s.halves := rfl
@[simp] theorem State.modThread_parts (s : State) (k l : Nat) (f : Thread → Thread) : (s.modThread k l f).parts = s.parts := rfl
@[simp] theorem State.modThread_queues (s : State) (k l : Nat) (f : Thread → Thread) : (s.modThread k l f).queues = s.queues := rfl
@[simp] theorem State.modThread_kernels (s : State) (k l : Nat) (f : Thread → Thread) : (s.modThread k l f).kernels = s.kernels := rfl
@[simp] theorem State.modThread_ranges (s : State) (k l : Nat) (f : Thread → Thread) : (s.modThread k l f).ranges = s.ranges := rfl
@[simp] theorem State.modThread_rr (s : State) (k l : Nat) (f : Thread → Thread) : (s.modThread k l f).rr = s.rr := rfl
@[simp] theorem State.modThread_rounds (s : State) (k l : Nat) (f : Thread → Thread) : (s.modThread k l f).rounds = s.rounds := rfl
@[simp] theorem State.modThread_frames (s : State) (k l : Nat) (f : Thread → Thread) : (s.modThread k l f).frames = s.frames := rfl
@[simp] theorem State.modThread_ctxs (s : State) (k l : Nat) (f : Thread → Thread) : (s.modThread k l f).ctxs = s.ctxs := rfl
@[simp] theorem State.modThread_pend (s : State) (k l : Nat) (f : Thread → Thread) : (s.modThread k l f).pend = s.pend := rfl
@[simp] theorem State.modThread_kreqs (s : State) (k l : Nat) (f : Thread → Thread) : (s.modThread k l f).kreqs = s.kreqs := rfl
@[simp] theorem State.modThread_watches (s : State) (k l : Nat) (f : Thread → Thread) : (s.modThread k l f).watches = s.watches := rfl
@[simp] theorem State.modThread_heavies (s : State) (k l : Nat) (f : Thread → Thread) : (s.modThread k l f).heavies = s.heavies := rfl
@[simp] theorem State.modThread_remotes (s : State) (k l : Nat) (f : Thread → Thread) : (s.modThread k l f).remotes = s.remotes := rfl
@[simp] theorem State.modThread_answers (s : State) (k l : Nat) (f : Thread → Thread) : (s.modThread k l f).answers = s.answers := rfl
@[simp] theorem State.modThread_stops (s : State) (k l : Nat) (f : Thread → Thread) : (s.modThread k l f).stops = s.stops := rfl
@[simp] theorem State.modThread_sseqs (s : State) (k l : Nat) (f : Thread → Thread) : (s.modThread k l f).sseqs = s.sseqs := rfl
@[simp] theorem State.modThread_begun (s : State) (k l : Nat) (f : Thread → Thread) : (s.modThread k l f).begun = s.begun := rfl
@[simp] theorem State.modThread_triples (s : State) (k l : Nat) (f : Thread → Thread) : (s.modThread k l f).triples = s.triples := rfl
@[simp] theorem State.modThread_fabricOut (s : State) (k l : Nat) (f : Thread → Thread) : (s.modThread k l f).fabricOut = s.fabricOut := rfl
@[simp] theorem State.modThread_loop (s : State) (k l : Nat) (f : Thread → Thread) : (s.modThread k l f).loop = s.loop := rfl
@[simp] theorem State.modThread_hostOut (s : State) (k l : Nat) (f : Thread → Thread) : (s.modThread k l f).hostOut = s.hostOut := rfl
@[simp] theorem State.modThread_devtime (s : State) (k l : Nat) (f : Thread → Thread) : (s.modThread k l f).devtime = s.devtime := rfl
@[simp] theorem State.modThread_locked (s : State) (k l : Nat) (f : Thread → Thread) : (s.modThread k l f).locked = s.locked := rfl
@[simp] theorem State.modThread_slew (s : State) (k l : Nat) (f : Thread → Thread) : (s.modThread k l f).slew = s.slew := rfl
@[simp] theorem State.modThread_everLocked (s : State) (k l : Nat) (f : Thread → Thread) : (s.modThread k l f).everLocked = s.everLocked := rfl
@[simp] theorem State.modThread_setup (s : State) (k l : Nat) (f : Thread → Thread) : (s.modThread k l f).setup = s.setup := rfl
@[simp] theorem State.modThread_err (s : State) (k l : Nat) (f : Thread → Thread) : (s.modThread k l f).err = s.err := rfl
@[simp] theorem State.modThread_mbox (s : State) (k l : Nat) (f : Thread → Thread) : (s.modThread k l f).mbox = s.mbox := rfl
@[simp] theorem State.modThread_ap (s : State) (k l : Nat) (f : Thread → Thread) : (s.modThread k l f).ap = s.ap := rfl
@[simp] theorem State.modThread_mons (s : State) (k l : Nat) (f : Thread → Thread) : (s.modThread k l f).mons = s.mons := rfl
@[simp] theorem State.modThread_ports (s : State) (k l : Nat) (f : Thread → Thread) : (s.modThread k l f).ports = s.ports := rfl
@[simp] theorem State.modThread_d2dDown (s : State) (k l : Nat) (f : Thread → Thread) : (s.modThread k l f).d2dDown = s.d2dDown := rfl
@[simp] theorem State.modThread_images (s : State) (k l : Nat) (f : Thread → Thread) : (s.modThread k l f).images = s.images := rfl
@[simp] theorem State.modThread_accepted (s : State) (k l : Nat) (f : Thread → Thread) : (s.modThread k l f).accepted = s.accepted := rfl
@[simp] theorem State.modThread_floor (s : State) (k l : Nat) (f : Thread → Thread) : (s.modThread k l f).floor = s.floor := rfl
@[simp] theorem State.modThread_pkg (s : State) (k l : Nat) (f : Thread → Thread) : (s.modThread k l f).pkg = s.pkg := rfl
@[simp] theorem State.modThread_input (s : State) (k l : Nat) (f : Thread → Thread) : (s.modThread k l f).input = s.input := rfl
@[simp] theorem State.modThread_up (s : State) (k l : Nat) (f : Thread → Thread) : (s.modThread k l f).up = s.up := rfl
@[simp] theorem State.modThread_throttle (s : State) (k l : Nat) (f : Thread → Thread) : (s.modThread k l f).throttle = s.throttle := rfl
@[simp] theorem State.modThread_fresh (s : State) (k l : Nat) (f : Thread → Thread) : (s.modThread k l f).fresh = s.fresh := rfl
@[simp] theorem State.modThread_nextId (s : State) (k l : Nat) (f : Thread → Thread) : (s.modThread k l f).nextId = s.nextId := rfl
@[simp] theorem State.modThread_agenda (s : State) (k l : Nat) (f : Thread → Thread) : (s.modThread k l f).agenda = s.agenda := rfl
@[simp] theorem State.modThread_focus (s : State) (k l : Nat) (f : Thread → Thread) : (s.modThread k l f).focus = s.focus := rfl

-- modWg
@[simp] theorem State.modWg_mem (s : State) (k : Nat) (f : Workgroup → Workgroup) : (s.modWg k f).mem = s.mem := rfl
@[simp] theorem State.modWg_side (s : State) (k : Nat) (f : Workgroup → Workgroup) : (s.modWg k f).side = s.side := rfl
@[simp] theorem State.modWg_badLines (s : State) (k : Nat) (f : Workgroup → Workgroup) : (s.modWg k f).badLines = s.badLines := rfl
@[simp] theorem State.modWg_loose (s : State) (k : Nat) (f : Workgroup → Workgroup) : (s.modWg k f).loose = s.loose := rfl
@[simp] theorem State.modWg_sealedKv (s : State) (k : Nat) (f : Workgroup → Workgroup) : (s.modWg k f).sealedKv = s.sealedKv := rfl
@[simp] theorem State.modWg_upsets (s : State) (k : Nat) (f : Workgroup → Workgroup) : (s.modWg k f).upsets = s.upsets := rfl
@[simp] theorem State.modWg_warps (s : State) (k : Nat) (f : Workgroup → Workgroup) : (s.modWg k f).warps = s.warps := rfl
@[simp] theorem State.modWg_wgs (s : State) (k : Nat) (f : Workgroup → Workgroup) : (s.modWg k f).wgs = s.wgs.put k (f (s.wgs.get k)) := rfl
@[simp] theorem State.modWg_quads (s : State) (k : Nat) (f : Workgroup → Workgroup) : (s.modWg k f).quads = s.quads := rfl
@[simp] theorem State.modWg_cores (s : State) (k : Nat) (f : Workgroup → Workgroup) : (s.modWg k f).cores = s.cores := rfl
@[simp] theorem State.modWg_clusters (s : State) (k : Nat) (f : Workgroup → Workgroup) : (s.modWg k f).clusters = s.clusters := rfl
@[simp] theorem State.modWg_halves (s : State) (k : Nat) (f : Workgroup → Workgroup) : (s.modWg k f).halves = s.halves := rfl
@[simp] theorem State.modWg_parts (s : State) (k : Nat) (f : Workgroup → Workgroup) : (s.modWg k f).parts = s.parts := rfl
@[simp] theorem State.modWg_queues (s : State) (k : Nat) (f : Workgroup → Workgroup) : (s.modWg k f).queues = s.queues := rfl
@[simp] theorem State.modWg_kernels (s : State) (k : Nat) (f : Workgroup → Workgroup) : (s.modWg k f).kernels = s.kernels := rfl
@[simp] theorem State.modWg_ranges (s : State) (k : Nat) (f : Workgroup → Workgroup) : (s.modWg k f).ranges = s.ranges := rfl
@[simp] theorem State.modWg_rr (s : State) (k : Nat) (f : Workgroup → Workgroup) : (s.modWg k f).rr = s.rr := rfl
@[simp] theorem State.modWg_rounds (s : State) (k : Nat) (f : Workgroup → Workgroup) : (s.modWg k f).rounds = s.rounds := rfl
@[simp] theorem State.modWg_frames (s : State) (k : Nat) (f : Workgroup → Workgroup) : (s.modWg k f).frames = s.frames := rfl
@[simp] theorem State.modWg_ctxs (s : State) (k : Nat) (f : Workgroup → Workgroup) : (s.modWg k f).ctxs = s.ctxs := rfl
@[simp] theorem State.modWg_pend (s : State) (k : Nat) (f : Workgroup → Workgroup) : (s.modWg k f).pend = s.pend := rfl
@[simp] theorem State.modWg_kreqs (s : State) (k : Nat) (f : Workgroup → Workgroup) : (s.modWg k f).kreqs = s.kreqs := rfl
@[simp] theorem State.modWg_watches (s : State) (k : Nat) (f : Workgroup → Workgroup) : (s.modWg k f).watches = s.watches := rfl
@[simp] theorem State.modWg_heavies (s : State) (k : Nat) (f : Workgroup → Workgroup) : (s.modWg k f).heavies = s.heavies := rfl
@[simp] theorem State.modWg_remotes (s : State) (k : Nat) (f : Workgroup → Workgroup) : (s.modWg k f).remotes = s.remotes := rfl
@[simp] theorem State.modWg_answers (s : State) (k : Nat) (f : Workgroup → Workgroup) : (s.modWg k f).answers = s.answers := rfl
@[simp] theorem State.modWg_stops (s : State) (k : Nat) (f : Workgroup → Workgroup) : (s.modWg k f).stops = s.stops := rfl
@[simp] theorem State.modWg_sseqs (s : State) (k : Nat) (f : Workgroup → Workgroup) : (s.modWg k f).sseqs = s.sseqs := rfl
@[simp] theorem State.modWg_begun (s : State) (k : Nat) (f : Workgroup → Workgroup) : (s.modWg k f).begun = s.begun := rfl
@[simp] theorem State.modWg_triples (s : State) (k : Nat) (f : Workgroup → Workgroup) : (s.modWg k f).triples = s.triples := rfl
@[simp] theorem State.modWg_fabricOut (s : State) (k : Nat) (f : Workgroup → Workgroup) : (s.modWg k f).fabricOut = s.fabricOut := rfl
@[simp] theorem State.modWg_loop (s : State) (k : Nat) (f : Workgroup → Workgroup) : (s.modWg k f).loop = s.loop := rfl
@[simp] theorem State.modWg_hostOut (s : State) (k : Nat) (f : Workgroup → Workgroup) : (s.modWg k f).hostOut = s.hostOut := rfl
@[simp] theorem State.modWg_devtime (s : State) (k : Nat) (f : Workgroup → Workgroup) : (s.modWg k f).devtime = s.devtime := rfl
@[simp] theorem State.modWg_locked (s : State) (k : Nat) (f : Workgroup → Workgroup) : (s.modWg k f).locked = s.locked := rfl
@[simp] theorem State.modWg_slew (s : State) (k : Nat) (f : Workgroup → Workgroup) : (s.modWg k f).slew = s.slew := rfl
@[simp] theorem State.modWg_everLocked (s : State) (k : Nat) (f : Workgroup → Workgroup) : (s.modWg k f).everLocked = s.everLocked := rfl
@[simp] theorem State.modWg_setup (s : State) (k : Nat) (f : Workgroup → Workgroup) : (s.modWg k f).setup = s.setup := rfl
@[simp] theorem State.modWg_err (s : State) (k : Nat) (f : Workgroup → Workgroup) : (s.modWg k f).err = s.err := rfl
@[simp] theorem State.modWg_mbox (s : State) (k : Nat) (f : Workgroup → Workgroup) : (s.modWg k f).mbox = s.mbox := rfl
@[simp] theorem State.modWg_ap (s : State) (k : Nat) (f : Workgroup → Workgroup) : (s.modWg k f).ap = s.ap := rfl
@[simp] theorem State.modWg_mons (s : State) (k : Nat) (f : Workgroup → Workgroup) : (s.modWg k f).mons = s.mons := rfl
@[simp] theorem State.modWg_ports (s : State) (k : Nat) (f : Workgroup → Workgroup) : (s.modWg k f).ports = s.ports := rfl
@[simp] theorem State.modWg_d2dDown (s : State) (k : Nat) (f : Workgroup → Workgroup) : (s.modWg k f).d2dDown = s.d2dDown := rfl
@[simp] theorem State.modWg_images (s : State) (k : Nat) (f : Workgroup → Workgroup) : (s.modWg k f).images = s.images := rfl
@[simp] theorem State.modWg_accepted (s : State) (k : Nat) (f : Workgroup → Workgroup) : (s.modWg k f).accepted = s.accepted := rfl
@[simp] theorem State.modWg_floor (s : State) (k : Nat) (f : Workgroup → Workgroup) : (s.modWg k f).floor = s.floor := rfl
@[simp] theorem State.modWg_pkg (s : State) (k : Nat) (f : Workgroup → Workgroup) : (s.modWg k f).pkg = s.pkg := rfl
@[simp] theorem State.modWg_input (s : State) (k : Nat) (f : Workgroup → Workgroup) : (s.modWg k f).input = s.input := rfl
@[simp] theorem State.modWg_up (s : State) (k : Nat) (f : Workgroup → Workgroup) : (s.modWg k f).up = s.up := rfl
@[simp] theorem State.modWg_throttle (s : State) (k : Nat) (f : Workgroup → Workgroup) : (s.modWg k f).throttle = s.throttle := rfl
@[simp] theorem State.modWg_fresh (s : State) (k : Nat) (f : Workgroup → Workgroup) : (s.modWg k f).fresh = s.fresh := rfl
@[simp] theorem State.modWg_nextId (s : State) (k : Nat) (f : Workgroup → Workgroup) : (s.modWg k f).nextId = s.nextId := rfl
@[simp] theorem State.modWg_agenda (s : State) (k : Nat) (f : Workgroup → Workgroup) : (s.modWg k f).agenda = s.agenda := rfl
@[simp] theorem State.modWg_focus (s : State) (k : Nat) (f : Workgroup → Workgroup) : (s.modWg k f).focus = s.focus := rfl

-- modQuad
@[simp] theorem State.modQuad_mem (s : State) (k : Nat) (f : Quad → Quad) : (s.modQuad k f).mem = s.mem := rfl
@[simp] theorem State.modQuad_side (s : State) (k : Nat) (f : Quad → Quad) : (s.modQuad k f).side = s.side := rfl
@[simp] theorem State.modQuad_badLines (s : State) (k : Nat) (f : Quad → Quad) : (s.modQuad k f).badLines = s.badLines := rfl
@[simp] theorem State.modQuad_loose (s : State) (k : Nat) (f : Quad → Quad) : (s.modQuad k f).loose = s.loose := rfl
@[simp] theorem State.modQuad_sealedKv (s : State) (k : Nat) (f : Quad → Quad) : (s.modQuad k f).sealedKv = s.sealedKv := rfl
@[simp] theorem State.modQuad_upsets (s : State) (k : Nat) (f : Quad → Quad) : (s.modQuad k f).upsets = s.upsets := rfl
@[simp] theorem State.modQuad_warps (s : State) (k : Nat) (f : Quad → Quad) : (s.modQuad k f).warps = s.warps := rfl
@[simp] theorem State.modQuad_wgs (s : State) (k : Nat) (f : Quad → Quad) : (s.modQuad k f).wgs = s.wgs := rfl
@[simp] theorem State.modQuad_quads (s : State) (k : Nat) (f : Quad → Quad) : (s.modQuad k f).quads = s.quads.put k (f (s.quads.get k)) := rfl
@[simp] theorem State.modQuad_cores (s : State) (k : Nat) (f : Quad → Quad) : (s.modQuad k f).cores = s.cores := rfl
@[simp] theorem State.modQuad_clusters (s : State) (k : Nat) (f : Quad → Quad) : (s.modQuad k f).clusters = s.clusters := rfl
@[simp] theorem State.modQuad_halves (s : State) (k : Nat) (f : Quad → Quad) : (s.modQuad k f).halves = s.halves := rfl
@[simp] theorem State.modQuad_parts (s : State) (k : Nat) (f : Quad → Quad) : (s.modQuad k f).parts = s.parts := rfl
@[simp] theorem State.modQuad_queues (s : State) (k : Nat) (f : Quad → Quad) : (s.modQuad k f).queues = s.queues := rfl
@[simp] theorem State.modQuad_kernels (s : State) (k : Nat) (f : Quad → Quad) : (s.modQuad k f).kernels = s.kernels := rfl
@[simp] theorem State.modQuad_ranges (s : State) (k : Nat) (f : Quad → Quad) : (s.modQuad k f).ranges = s.ranges := rfl
@[simp] theorem State.modQuad_rr (s : State) (k : Nat) (f : Quad → Quad) : (s.modQuad k f).rr = s.rr := rfl
@[simp] theorem State.modQuad_rounds (s : State) (k : Nat) (f : Quad → Quad) : (s.modQuad k f).rounds = s.rounds := rfl
@[simp] theorem State.modQuad_frames (s : State) (k : Nat) (f : Quad → Quad) : (s.modQuad k f).frames = s.frames := rfl
@[simp] theorem State.modQuad_ctxs (s : State) (k : Nat) (f : Quad → Quad) : (s.modQuad k f).ctxs = s.ctxs := rfl
@[simp] theorem State.modQuad_pend (s : State) (k : Nat) (f : Quad → Quad) : (s.modQuad k f).pend = s.pend := rfl
@[simp] theorem State.modQuad_kreqs (s : State) (k : Nat) (f : Quad → Quad) : (s.modQuad k f).kreqs = s.kreqs := rfl
@[simp] theorem State.modQuad_watches (s : State) (k : Nat) (f : Quad → Quad) : (s.modQuad k f).watches = s.watches := rfl
@[simp] theorem State.modQuad_heavies (s : State) (k : Nat) (f : Quad → Quad) : (s.modQuad k f).heavies = s.heavies := rfl
@[simp] theorem State.modQuad_remotes (s : State) (k : Nat) (f : Quad → Quad) : (s.modQuad k f).remotes = s.remotes := rfl
@[simp] theorem State.modQuad_answers (s : State) (k : Nat) (f : Quad → Quad) : (s.modQuad k f).answers = s.answers := rfl
@[simp] theorem State.modQuad_stops (s : State) (k : Nat) (f : Quad → Quad) : (s.modQuad k f).stops = s.stops := rfl
@[simp] theorem State.modQuad_sseqs (s : State) (k : Nat) (f : Quad → Quad) : (s.modQuad k f).sseqs = s.sseqs := rfl
@[simp] theorem State.modQuad_begun (s : State) (k : Nat) (f : Quad → Quad) : (s.modQuad k f).begun = s.begun := rfl
@[simp] theorem State.modQuad_triples (s : State) (k : Nat) (f : Quad → Quad) : (s.modQuad k f).triples = s.triples := rfl
@[simp] theorem State.modQuad_fabricOut (s : State) (k : Nat) (f : Quad → Quad) : (s.modQuad k f).fabricOut = s.fabricOut := rfl
@[simp] theorem State.modQuad_loop (s : State) (k : Nat) (f : Quad → Quad) : (s.modQuad k f).loop = s.loop := rfl
@[simp] theorem State.modQuad_hostOut (s : State) (k : Nat) (f : Quad → Quad) : (s.modQuad k f).hostOut = s.hostOut := rfl
@[simp] theorem State.modQuad_devtime (s : State) (k : Nat) (f : Quad → Quad) : (s.modQuad k f).devtime = s.devtime := rfl
@[simp] theorem State.modQuad_locked (s : State) (k : Nat) (f : Quad → Quad) : (s.modQuad k f).locked = s.locked := rfl
@[simp] theorem State.modQuad_slew (s : State) (k : Nat) (f : Quad → Quad) : (s.modQuad k f).slew = s.slew := rfl
@[simp] theorem State.modQuad_everLocked (s : State) (k : Nat) (f : Quad → Quad) : (s.modQuad k f).everLocked = s.everLocked := rfl
@[simp] theorem State.modQuad_setup (s : State) (k : Nat) (f : Quad → Quad) : (s.modQuad k f).setup = s.setup := rfl
@[simp] theorem State.modQuad_err (s : State) (k : Nat) (f : Quad → Quad) : (s.modQuad k f).err = s.err := rfl
@[simp] theorem State.modQuad_mbox (s : State) (k : Nat) (f : Quad → Quad) : (s.modQuad k f).mbox = s.mbox := rfl
@[simp] theorem State.modQuad_ap (s : State) (k : Nat) (f : Quad → Quad) : (s.modQuad k f).ap = s.ap := rfl
@[simp] theorem State.modQuad_mons (s : State) (k : Nat) (f : Quad → Quad) : (s.modQuad k f).mons = s.mons := rfl
@[simp] theorem State.modQuad_ports (s : State) (k : Nat) (f : Quad → Quad) : (s.modQuad k f).ports = s.ports := rfl
@[simp] theorem State.modQuad_d2dDown (s : State) (k : Nat) (f : Quad → Quad) : (s.modQuad k f).d2dDown = s.d2dDown := rfl
@[simp] theorem State.modQuad_images (s : State) (k : Nat) (f : Quad → Quad) : (s.modQuad k f).images = s.images := rfl
@[simp] theorem State.modQuad_accepted (s : State) (k : Nat) (f : Quad → Quad) : (s.modQuad k f).accepted = s.accepted := rfl
@[simp] theorem State.modQuad_floor (s : State) (k : Nat) (f : Quad → Quad) : (s.modQuad k f).floor = s.floor := rfl
@[simp] theorem State.modQuad_pkg (s : State) (k : Nat) (f : Quad → Quad) : (s.modQuad k f).pkg = s.pkg := rfl
@[simp] theorem State.modQuad_input (s : State) (k : Nat) (f : Quad → Quad) : (s.modQuad k f).input = s.input := rfl
@[simp] theorem State.modQuad_up (s : State) (k : Nat) (f : Quad → Quad) : (s.modQuad k f).up = s.up := rfl
@[simp] theorem State.modQuad_throttle (s : State) (k : Nat) (f : Quad → Quad) : (s.modQuad k f).throttle = s.throttle := rfl
@[simp] theorem State.modQuad_fresh (s : State) (k : Nat) (f : Quad → Quad) : (s.modQuad k f).fresh = s.fresh := rfl
@[simp] theorem State.modQuad_nextId (s : State) (k : Nat) (f : Quad → Quad) : (s.modQuad k f).nextId = s.nextId := rfl
@[simp] theorem State.modQuad_agenda (s : State) (k : Nat) (f : Quad → Quad) : (s.modQuad k f).agenda = s.agenda := rfl
@[simp] theorem State.modQuad_focus (s : State) (k : Nat) (f : Quad → Quad) : (s.modQuad k f).focus = s.focus := rfl

-- modCore
@[simp] theorem State.modCore_mem (s : State) (k : Nat) (f : Core → Core) : (s.modCore k f).mem = s.mem := rfl
@[simp] theorem State.modCore_side (s : State) (k : Nat) (f : Core → Core) : (s.modCore k f).side = s.side := rfl
@[simp] theorem State.modCore_badLines (s : State) (k : Nat) (f : Core → Core) : (s.modCore k f).badLines = s.badLines := rfl
@[simp] theorem State.modCore_loose (s : State) (k : Nat) (f : Core → Core) : (s.modCore k f).loose = s.loose := rfl
@[simp] theorem State.modCore_sealedKv (s : State) (k : Nat) (f : Core → Core) : (s.modCore k f).sealedKv = s.sealedKv := rfl
@[simp] theorem State.modCore_upsets (s : State) (k : Nat) (f : Core → Core) : (s.modCore k f).upsets = s.upsets := rfl
@[simp] theorem State.modCore_warps (s : State) (k : Nat) (f : Core → Core) : (s.modCore k f).warps = s.warps := rfl
@[simp] theorem State.modCore_wgs (s : State) (k : Nat) (f : Core → Core) : (s.modCore k f).wgs = s.wgs := rfl
@[simp] theorem State.modCore_quads (s : State) (k : Nat) (f : Core → Core) : (s.modCore k f).quads = s.quads := rfl
@[simp] theorem State.modCore_cores (s : State) (k : Nat) (f : Core → Core) : (s.modCore k f).cores = s.cores.put k (f (s.cores.get k)) := rfl
@[simp] theorem State.modCore_clusters (s : State) (k : Nat) (f : Core → Core) : (s.modCore k f).clusters = s.clusters := rfl
@[simp] theorem State.modCore_halves (s : State) (k : Nat) (f : Core → Core) : (s.modCore k f).halves = s.halves := rfl
@[simp] theorem State.modCore_parts (s : State) (k : Nat) (f : Core → Core) : (s.modCore k f).parts = s.parts := rfl
@[simp] theorem State.modCore_queues (s : State) (k : Nat) (f : Core → Core) : (s.modCore k f).queues = s.queues := rfl
@[simp] theorem State.modCore_kernels (s : State) (k : Nat) (f : Core → Core) : (s.modCore k f).kernels = s.kernels := rfl
@[simp] theorem State.modCore_ranges (s : State) (k : Nat) (f : Core → Core) : (s.modCore k f).ranges = s.ranges := rfl
@[simp] theorem State.modCore_rr (s : State) (k : Nat) (f : Core → Core) : (s.modCore k f).rr = s.rr := rfl
@[simp] theorem State.modCore_rounds (s : State) (k : Nat) (f : Core → Core) : (s.modCore k f).rounds = s.rounds := rfl
@[simp] theorem State.modCore_frames (s : State) (k : Nat) (f : Core → Core) : (s.modCore k f).frames = s.frames := rfl
@[simp] theorem State.modCore_ctxs (s : State) (k : Nat) (f : Core → Core) : (s.modCore k f).ctxs = s.ctxs := rfl
@[simp] theorem State.modCore_pend (s : State) (k : Nat) (f : Core → Core) : (s.modCore k f).pend = s.pend := rfl
@[simp] theorem State.modCore_kreqs (s : State) (k : Nat) (f : Core → Core) : (s.modCore k f).kreqs = s.kreqs := rfl
@[simp] theorem State.modCore_watches (s : State) (k : Nat) (f : Core → Core) : (s.modCore k f).watches = s.watches := rfl
@[simp] theorem State.modCore_heavies (s : State) (k : Nat) (f : Core → Core) : (s.modCore k f).heavies = s.heavies := rfl
@[simp] theorem State.modCore_remotes (s : State) (k : Nat) (f : Core → Core) : (s.modCore k f).remotes = s.remotes := rfl
@[simp] theorem State.modCore_answers (s : State) (k : Nat) (f : Core → Core) : (s.modCore k f).answers = s.answers := rfl
@[simp] theorem State.modCore_stops (s : State) (k : Nat) (f : Core → Core) : (s.modCore k f).stops = s.stops := rfl
@[simp] theorem State.modCore_sseqs (s : State) (k : Nat) (f : Core → Core) : (s.modCore k f).sseqs = s.sseqs := rfl
@[simp] theorem State.modCore_begun (s : State) (k : Nat) (f : Core → Core) : (s.modCore k f).begun = s.begun := rfl
@[simp] theorem State.modCore_triples (s : State) (k : Nat) (f : Core → Core) : (s.modCore k f).triples = s.triples := rfl
@[simp] theorem State.modCore_fabricOut (s : State) (k : Nat) (f : Core → Core) : (s.modCore k f).fabricOut = s.fabricOut := rfl
@[simp] theorem State.modCore_loop (s : State) (k : Nat) (f : Core → Core) : (s.modCore k f).loop = s.loop := rfl
@[simp] theorem State.modCore_hostOut (s : State) (k : Nat) (f : Core → Core) : (s.modCore k f).hostOut = s.hostOut := rfl
@[simp] theorem State.modCore_devtime (s : State) (k : Nat) (f : Core → Core) : (s.modCore k f).devtime = s.devtime := rfl
@[simp] theorem State.modCore_locked (s : State) (k : Nat) (f : Core → Core) : (s.modCore k f).locked = s.locked := rfl
@[simp] theorem State.modCore_slew (s : State) (k : Nat) (f : Core → Core) : (s.modCore k f).slew = s.slew := rfl
@[simp] theorem State.modCore_everLocked (s : State) (k : Nat) (f : Core → Core) : (s.modCore k f).everLocked = s.everLocked := rfl
@[simp] theorem State.modCore_setup (s : State) (k : Nat) (f : Core → Core) : (s.modCore k f).setup = s.setup := rfl
@[simp] theorem State.modCore_err (s : State) (k : Nat) (f : Core → Core) : (s.modCore k f).err = s.err := rfl
@[simp] theorem State.modCore_mbox (s : State) (k : Nat) (f : Core → Core) : (s.modCore k f).mbox = s.mbox := rfl
@[simp] theorem State.modCore_ap (s : State) (k : Nat) (f : Core → Core) : (s.modCore k f).ap = s.ap := rfl
@[simp] theorem State.modCore_mons (s : State) (k : Nat) (f : Core → Core) : (s.modCore k f).mons = s.mons := rfl
@[simp] theorem State.modCore_ports (s : State) (k : Nat) (f : Core → Core) : (s.modCore k f).ports = s.ports := rfl
@[simp] theorem State.modCore_d2dDown (s : State) (k : Nat) (f : Core → Core) : (s.modCore k f).d2dDown = s.d2dDown := rfl
@[simp] theorem State.modCore_images (s : State) (k : Nat) (f : Core → Core) : (s.modCore k f).images = s.images := rfl
@[simp] theorem State.modCore_accepted (s : State) (k : Nat) (f : Core → Core) : (s.modCore k f).accepted = s.accepted := rfl
@[simp] theorem State.modCore_floor (s : State) (k : Nat) (f : Core → Core) : (s.modCore k f).floor = s.floor := rfl
@[simp] theorem State.modCore_pkg (s : State) (k : Nat) (f : Core → Core) : (s.modCore k f).pkg = s.pkg := rfl
@[simp] theorem State.modCore_input (s : State) (k : Nat) (f : Core → Core) : (s.modCore k f).input = s.input := rfl
@[simp] theorem State.modCore_up (s : State) (k : Nat) (f : Core → Core) : (s.modCore k f).up = s.up := rfl
@[simp] theorem State.modCore_throttle (s : State) (k : Nat) (f : Core → Core) : (s.modCore k f).throttle = s.throttle := rfl
@[simp] theorem State.modCore_fresh (s : State) (k : Nat) (f : Core → Core) : (s.modCore k f).fresh = s.fresh := rfl
@[simp] theorem State.modCore_nextId (s : State) (k : Nat) (f : Core → Core) : (s.modCore k f).nextId = s.nextId := rfl
@[simp] theorem State.modCore_agenda (s : State) (k : Nat) (f : Core → Core) : (s.modCore k f).agenda = s.agenda := rfl
@[simp] theorem State.modCore_focus (s : State) (k : Nat) (f : Core → Core) : (s.modCore k f).focus = s.focus := rfl

-- modCluster
@[simp] theorem State.modCluster_mem (s : State) (k : Nat) (f : Cluster → Cluster) : (s.modCluster k f).mem = s.mem := rfl
@[simp] theorem State.modCluster_side (s : State) (k : Nat) (f : Cluster → Cluster) : (s.modCluster k f).side = s.side := rfl
@[simp] theorem State.modCluster_badLines (s : State) (k : Nat) (f : Cluster → Cluster) : (s.modCluster k f).badLines = s.badLines := rfl
@[simp] theorem State.modCluster_loose (s : State) (k : Nat) (f : Cluster → Cluster) : (s.modCluster k f).loose = s.loose := rfl
@[simp] theorem State.modCluster_sealedKv (s : State) (k : Nat) (f : Cluster → Cluster) : (s.modCluster k f).sealedKv = s.sealedKv := rfl
@[simp] theorem State.modCluster_upsets (s : State) (k : Nat) (f : Cluster → Cluster) : (s.modCluster k f).upsets = s.upsets := rfl
@[simp] theorem State.modCluster_warps (s : State) (k : Nat) (f : Cluster → Cluster) : (s.modCluster k f).warps = s.warps := rfl
@[simp] theorem State.modCluster_wgs (s : State) (k : Nat) (f : Cluster → Cluster) : (s.modCluster k f).wgs = s.wgs := rfl
@[simp] theorem State.modCluster_quads (s : State) (k : Nat) (f : Cluster → Cluster) : (s.modCluster k f).quads = s.quads := rfl
@[simp] theorem State.modCluster_cores (s : State) (k : Nat) (f : Cluster → Cluster) : (s.modCluster k f).cores = s.cores := rfl
@[simp] theorem State.modCluster_clusters (s : State) (k : Nat) (f : Cluster → Cluster) : (s.modCluster k f).clusters = s.clusters.put k (f (s.clusters.get k)) := rfl
@[simp] theorem State.modCluster_halves (s : State) (k : Nat) (f : Cluster → Cluster) : (s.modCluster k f).halves = s.halves := rfl
@[simp] theorem State.modCluster_parts (s : State) (k : Nat) (f : Cluster → Cluster) : (s.modCluster k f).parts = s.parts := rfl
@[simp] theorem State.modCluster_queues (s : State) (k : Nat) (f : Cluster → Cluster) : (s.modCluster k f).queues = s.queues := rfl
@[simp] theorem State.modCluster_kernels (s : State) (k : Nat) (f : Cluster → Cluster) : (s.modCluster k f).kernels = s.kernels := rfl
@[simp] theorem State.modCluster_ranges (s : State) (k : Nat) (f : Cluster → Cluster) : (s.modCluster k f).ranges = s.ranges := rfl
@[simp] theorem State.modCluster_rr (s : State) (k : Nat) (f : Cluster → Cluster) : (s.modCluster k f).rr = s.rr := rfl
@[simp] theorem State.modCluster_rounds (s : State) (k : Nat) (f : Cluster → Cluster) : (s.modCluster k f).rounds = s.rounds := rfl
@[simp] theorem State.modCluster_frames (s : State) (k : Nat) (f : Cluster → Cluster) : (s.modCluster k f).frames = s.frames := rfl
@[simp] theorem State.modCluster_ctxs (s : State) (k : Nat) (f : Cluster → Cluster) : (s.modCluster k f).ctxs = s.ctxs := rfl
@[simp] theorem State.modCluster_pend (s : State) (k : Nat) (f : Cluster → Cluster) : (s.modCluster k f).pend = s.pend := rfl
@[simp] theorem State.modCluster_kreqs (s : State) (k : Nat) (f : Cluster → Cluster) : (s.modCluster k f).kreqs = s.kreqs := rfl
@[simp] theorem State.modCluster_watches (s : State) (k : Nat) (f : Cluster → Cluster) : (s.modCluster k f).watches = s.watches := rfl
@[simp] theorem State.modCluster_heavies (s : State) (k : Nat) (f : Cluster → Cluster) : (s.modCluster k f).heavies = s.heavies := rfl
@[simp] theorem State.modCluster_remotes (s : State) (k : Nat) (f : Cluster → Cluster) : (s.modCluster k f).remotes = s.remotes := rfl
@[simp] theorem State.modCluster_answers (s : State) (k : Nat) (f : Cluster → Cluster) : (s.modCluster k f).answers = s.answers := rfl
@[simp] theorem State.modCluster_stops (s : State) (k : Nat) (f : Cluster → Cluster) : (s.modCluster k f).stops = s.stops := rfl
@[simp] theorem State.modCluster_sseqs (s : State) (k : Nat) (f : Cluster → Cluster) : (s.modCluster k f).sseqs = s.sseqs := rfl
@[simp] theorem State.modCluster_begun (s : State) (k : Nat) (f : Cluster → Cluster) : (s.modCluster k f).begun = s.begun := rfl
@[simp] theorem State.modCluster_triples (s : State) (k : Nat) (f : Cluster → Cluster) : (s.modCluster k f).triples = s.triples := rfl
@[simp] theorem State.modCluster_fabricOut (s : State) (k : Nat) (f : Cluster → Cluster) : (s.modCluster k f).fabricOut = s.fabricOut := rfl
@[simp] theorem State.modCluster_loop (s : State) (k : Nat) (f : Cluster → Cluster) : (s.modCluster k f).loop = s.loop := rfl
@[simp] theorem State.modCluster_hostOut (s : State) (k : Nat) (f : Cluster → Cluster) : (s.modCluster k f).hostOut = s.hostOut := rfl
@[simp] theorem State.modCluster_devtime (s : State) (k : Nat) (f : Cluster → Cluster) : (s.modCluster k f).devtime = s.devtime := rfl
@[simp] theorem State.modCluster_locked (s : State) (k : Nat) (f : Cluster → Cluster) : (s.modCluster k f).locked = s.locked := rfl
@[simp] theorem State.modCluster_slew (s : State) (k : Nat) (f : Cluster → Cluster) : (s.modCluster k f).slew = s.slew := rfl
@[simp] theorem State.modCluster_everLocked (s : State) (k : Nat) (f : Cluster → Cluster) : (s.modCluster k f).everLocked = s.everLocked := rfl
@[simp] theorem State.modCluster_setup (s : State) (k : Nat) (f : Cluster → Cluster) : (s.modCluster k f).setup = s.setup := rfl
@[simp] theorem State.modCluster_err (s : State) (k : Nat) (f : Cluster → Cluster) : (s.modCluster k f).err = s.err := rfl
@[simp] theorem State.modCluster_mbox (s : State) (k : Nat) (f : Cluster → Cluster) : (s.modCluster k f).mbox = s.mbox := rfl
@[simp] theorem State.modCluster_ap (s : State) (k : Nat) (f : Cluster → Cluster) : (s.modCluster k f).ap = s.ap := rfl
@[simp] theorem State.modCluster_mons (s : State) (k : Nat) (f : Cluster → Cluster) : (s.modCluster k f).mons = s.mons := rfl
@[simp] theorem State.modCluster_ports (s : State) (k : Nat) (f : Cluster → Cluster) : (s.modCluster k f).ports = s.ports := rfl
@[simp] theorem State.modCluster_d2dDown (s : State) (k : Nat) (f : Cluster → Cluster) : (s.modCluster k f).d2dDown = s.d2dDown := rfl
@[simp] theorem State.modCluster_images (s : State) (k : Nat) (f : Cluster → Cluster) : (s.modCluster k f).images = s.images := rfl
@[simp] theorem State.modCluster_accepted (s : State) (k : Nat) (f : Cluster → Cluster) : (s.modCluster k f).accepted = s.accepted := rfl
@[simp] theorem State.modCluster_floor (s : State) (k : Nat) (f : Cluster → Cluster) : (s.modCluster k f).floor = s.floor := rfl
@[simp] theorem State.modCluster_pkg (s : State) (k : Nat) (f : Cluster → Cluster) : (s.modCluster k f).pkg = s.pkg := rfl
@[simp] theorem State.modCluster_input (s : State) (k : Nat) (f : Cluster → Cluster) : (s.modCluster k f).input = s.input := rfl
@[simp] theorem State.modCluster_up (s : State) (k : Nat) (f : Cluster → Cluster) : (s.modCluster k f).up = s.up := rfl
@[simp] theorem State.modCluster_throttle (s : State) (k : Nat) (f : Cluster → Cluster) : (s.modCluster k f).throttle = s.throttle := rfl
@[simp] theorem State.modCluster_fresh (s : State) (k : Nat) (f : Cluster → Cluster) : (s.modCluster k f).fresh = s.fresh := rfl
@[simp] theorem State.modCluster_nextId (s : State) (k : Nat) (f : Cluster → Cluster) : (s.modCluster k f).nextId = s.nextId := rfl
@[simp] theorem State.modCluster_agenda (s : State) (k : Nat) (f : Cluster → Cluster) : (s.modCluster k f).agenda = s.agenda := rfl
@[simp] theorem State.modCluster_focus (s : State) (k : Nat) (f : Cluster → Cluster) : (s.modCluster k f).focus = s.focus := rfl

-- modHalf
@[simp] theorem State.modHalf_mem (s : State) (k : Nat) (f : HalfDie → HalfDie) : (s.modHalf k f).mem = s.mem := rfl
@[simp] theorem State.modHalf_side (s : State) (k : Nat) (f : HalfDie → HalfDie) : (s.modHalf k f).side = s.side := rfl
@[simp] theorem State.modHalf_badLines (s : State) (k : Nat) (f : HalfDie → HalfDie) : (s.modHalf k f).badLines = s.badLines := rfl
@[simp] theorem State.modHalf_loose (s : State) (k : Nat) (f : HalfDie → HalfDie) : (s.modHalf k f).loose = s.loose := rfl
@[simp] theorem State.modHalf_sealedKv (s : State) (k : Nat) (f : HalfDie → HalfDie) : (s.modHalf k f).sealedKv = s.sealedKv := rfl
@[simp] theorem State.modHalf_upsets (s : State) (k : Nat) (f : HalfDie → HalfDie) : (s.modHalf k f).upsets = s.upsets := rfl
@[simp] theorem State.modHalf_warps (s : State) (k : Nat) (f : HalfDie → HalfDie) : (s.modHalf k f).warps = s.warps := rfl
@[simp] theorem State.modHalf_wgs (s : State) (k : Nat) (f : HalfDie → HalfDie) : (s.modHalf k f).wgs = s.wgs := rfl
@[simp] theorem State.modHalf_quads (s : State) (k : Nat) (f : HalfDie → HalfDie) : (s.modHalf k f).quads = s.quads := rfl
@[simp] theorem State.modHalf_cores (s : State) (k : Nat) (f : HalfDie → HalfDie) : (s.modHalf k f).cores = s.cores := rfl
@[simp] theorem State.modHalf_clusters (s : State) (k : Nat) (f : HalfDie → HalfDie) : (s.modHalf k f).clusters = s.clusters := rfl
@[simp] theorem State.modHalf_halves (s : State) (k : Nat) (f : HalfDie → HalfDie) : (s.modHalf k f).halves = s.halves.put k (f (s.halves.get k)) := rfl
@[simp] theorem State.modHalf_parts (s : State) (k : Nat) (f : HalfDie → HalfDie) : (s.modHalf k f).parts = s.parts := rfl
@[simp] theorem State.modHalf_queues (s : State) (k : Nat) (f : HalfDie → HalfDie) : (s.modHalf k f).queues = s.queues := rfl
@[simp] theorem State.modHalf_kernels (s : State) (k : Nat) (f : HalfDie → HalfDie) : (s.modHalf k f).kernels = s.kernels := rfl
@[simp] theorem State.modHalf_ranges (s : State) (k : Nat) (f : HalfDie → HalfDie) : (s.modHalf k f).ranges = s.ranges := rfl
@[simp] theorem State.modHalf_rr (s : State) (k : Nat) (f : HalfDie → HalfDie) : (s.modHalf k f).rr = s.rr := rfl
@[simp] theorem State.modHalf_rounds (s : State) (k : Nat) (f : HalfDie → HalfDie) : (s.modHalf k f).rounds = s.rounds := rfl
@[simp] theorem State.modHalf_frames (s : State) (k : Nat) (f : HalfDie → HalfDie) : (s.modHalf k f).frames = s.frames := rfl
@[simp] theorem State.modHalf_ctxs (s : State) (k : Nat) (f : HalfDie → HalfDie) : (s.modHalf k f).ctxs = s.ctxs := rfl
@[simp] theorem State.modHalf_pend (s : State) (k : Nat) (f : HalfDie → HalfDie) : (s.modHalf k f).pend = s.pend := rfl
@[simp] theorem State.modHalf_kreqs (s : State) (k : Nat) (f : HalfDie → HalfDie) : (s.modHalf k f).kreqs = s.kreqs := rfl
@[simp] theorem State.modHalf_watches (s : State) (k : Nat) (f : HalfDie → HalfDie) : (s.modHalf k f).watches = s.watches := rfl
@[simp] theorem State.modHalf_heavies (s : State) (k : Nat) (f : HalfDie → HalfDie) : (s.modHalf k f).heavies = s.heavies := rfl
@[simp] theorem State.modHalf_remotes (s : State) (k : Nat) (f : HalfDie → HalfDie) : (s.modHalf k f).remotes = s.remotes := rfl
@[simp] theorem State.modHalf_answers (s : State) (k : Nat) (f : HalfDie → HalfDie) : (s.modHalf k f).answers = s.answers := rfl
@[simp] theorem State.modHalf_stops (s : State) (k : Nat) (f : HalfDie → HalfDie) : (s.modHalf k f).stops = s.stops := rfl
@[simp] theorem State.modHalf_sseqs (s : State) (k : Nat) (f : HalfDie → HalfDie) : (s.modHalf k f).sseqs = s.sseqs := rfl
@[simp] theorem State.modHalf_begun (s : State) (k : Nat) (f : HalfDie → HalfDie) : (s.modHalf k f).begun = s.begun := rfl
@[simp] theorem State.modHalf_triples (s : State) (k : Nat) (f : HalfDie → HalfDie) : (s.modHalf k f).triples = s.triples := rfl
@[simp] theorem State.modHalf_fabricOut (s : State) (k : Nat) (f : HalfDie → HalfDie) : (s.modHalf k f).fabricOut = s.fabricOut := rfl
@[simp] theorem State.modHalf_loop (s : State) (k : Nat) (f : HalfDie → HalfDie) : (s.modHalf k f).loop = s.loop := rfl
@[simp] theorem State.modHalf_hostOut (s : State) (k : Nat) (f : HalfDie → HalfDie) : (s.modHalf k f).hostOut = s.hostOut := rfl
@[simp] theorem State.modHalf_devtime (s : State) (k : Nat) (f : HalfDie → HalfDie) : (s.modHalf k f).devtime = s.devtime := rfl
@[simp] theorem State.modHalf_locked (s : State) (k : Nat) (f : HalfDie → HalfDie) : (s.modHalf k f).locked = s.locked := rfl
@[simp] theorem State.modHalf_slew (s : State) (k : Nat) (f : HalfDie → HalfDie) : (s.modHalf k f).slew = s.slew := rfl
@[simp] theorem State.modHalf_everLocked (s : State) (k : Nat) (f : HalfDie → HalfDie) : (s.modHalf k f).everLocked = s.everLocked := rfl
@[simp] theorem State.modHalf_setup (s : State) (k : Nat) (f : HalfDie → HalfDie) : (s.modHalf k f).setup = s.setup := rfl
@[simp] theorem State.modHalf_err (s : State) (k : Nat) (f : HalfDie → HalfDie) : (s.modHalf k f).err = s.err := rfl
@[simp] theorem State.modHalf_mbox (s : State) (k : Nat) (f : HalfDie → HalfDie) : (s.modHalf k f).mbox = s.mbox := rfl
@[simp] theorem State.modHalf_ap (s : State) (k : Nat) (f : HalfDie → HalfDie) : (s.modHalf k f).ap = s.ap := rfl
@[simp] theorem State.modHalf_mons (s : State) (k : Nat) (f : HalfDie → HalfDie) : (s.modHalf k f).mons = s.mons := rfl
@[simp] theorem State.modHalf_ports (s : State) (k : Nat) (f : HalfDie → HalfDie) : (s.modHalf k f).ports = s.ports := rfl
@[simp] theorem State.modHalf_d2dDown (s : State) (k : Nat) (f : HalfDie → HalfDie) : (s.modHalf k f).d2dDown = s.d2dDown := rfl
@[simp] theorem State.modHalf_images (s : State) (k : Nat) (f : HalfDie → HalfDie) : (s.modHalf k f).images = s.images := rfl
@[simp] theorem State.modHalf_accepted (s : State) (k : Nat) (f : HalfDie → HalfDie) : (s.modHalf k f).accepted = s.accepted := rfl
@[simp] theorem State.modHalf_floor (s : State) (k : Nat) (f : HalfDie → HalfDie) : (s.modHalf k f).floor = s.floor := rfl
@[simp] theorem State.modHalf_pkg (s : State) (k : Nat) (f : HalfDie → HalfDie) : (s.modHalf k f).pkg = s.pkg := rfl
@[simp] theorem State.modHalf_input (s : State) (k : Nat) (f : HalfDie → HalfDie) : (s.modHalf k f).input = s.input := rfl
@[simp] theorem State.modHalf_up (s : State) (k : Nat) (f : HalfDie → HalfDie) : (s.modHalf k f).up = s.up := rfl
@[simp] theorem State.modHalf_throttle (s : State) (k : Nat) (f : HalfDie → HalfDie) : (s.modHalf k f).throttle = s.throttle := rfl
@[simp] theorem State.modHalf_fresh (s : State) (k : Nat) (f : HalfDie → HalfDie) : (s.modHalf k f).fresh = s.fresh := rfl
@[simp] theorem State.modHalf_nextId (s : State) (k : Nat) (f : HalfDie → HalfDie) : (s.modHalf k f).nextId = s.nextId := rfl
@[simp] theorem State.modHalf_agenda (s : State) (k : Nat) (f : HalfDie → HalfDie) : (s.modHalf k f).agenda = s.agenda := rfl
@[simp] theorem State.modHalf_focus (s : State) (k : Nat) (f : HalfDie → HalfDie) : (s.modHalf k f).focus = s.focus := rfl

-- modPart
@[simp] theorem State.modPart_mem (s : State) (k : Nat) (f : Partition → Partition) : (s.modPart k f).mem = s.mem := rfl
@[simp] theorem State.modPart_side (s : State) (k : Nat) (f : Partition → Partition) : (s.modPart k f).side = s.side := rfl
@[simp] theorem State.modPart_badLines (s : State) (k : Nat) (f : Partition → Partition) : (s.modPart k f).badLines = s.badLines := rfl
@[simp] theorem State.modPart_loose (s : State) (k : Nat) (f : Partition → Partition) : (s.modPart k f).loose = s.loose := rfl
@[simp] theorem State.modPart_sealedKv (s : State) (k : Nat) (f : Partition → Partition) : (s.modPart k f).sealedKv = s.sealedKv := rfl
@[simp] theorem State.modPart_upsets (s : State) (k : Nat) (f : Partition → Partition) : (s.modPart k f).upsets = s.upsets := rfl
@[simp] theorem State.modPart_warps (s : State) (k : Nat) (f : Partition → Partition) : (s.modPart k f).warps = s.warps := rfl
@[simp] theorem State.modPart_wgs (s : State) (k : Nat) (f : Partition → Partition) : (s.modPart k f).wgs = s.wgs := rfl
@[simp] theorem State.modPart_quads (s : State) (k : Nat) (f : Partition → Partition) : (s.modPart k f).quads = s.quads := rfl
@[simp] theorem State.modPart_cores (s : State) (k : Nat) (f : Partition → Partition) : (s.modPart k f).cores = s.cores := rfl
@[simp] theorem State.modPart_clusters (s : State) (k : Nat) (f : Partition → Partition) : (s.modPart k f).clusters = s.clusters := rfl
@[simp] theorem State.modPart_halves (s : State) (k : Nat) (f : Partition → Partition) : (s.modPart k f).halves = s.halves := rfl
@[simp] theorem State.modPart_parts (s : State) (k : Nat) (f : Partition → Partition) : (s.modPart k f).parts = s.parts.put k (f (s.parts.get k)) := rfl
@[simp] theorem State.modPart_queues (s : State) (k : Nat) (f : Partition → Partition) : (s.modPart k f).queues = s.queues := rfl
@[simp] theorem State.modPart_kernels (s : State) (k : Nat) (f : Partition → Partition) : (s.modPart k f).kernels = s.kernels := rfl
@[simp] theorem State.modPart_ranges (s : State) (k : Nat) (f : Partition → Partition) : (s.modPart k f).ranges = s.ranges := rfl
@[simp] theorem State.modPart_rr (s : State) (k : Nat) (f : Partition → Partition) : (s.modPart k f).rr = s.rr := rfl
@[simp] theorem State.modPart_rounds (s : State) (k : Nat) (f : Partition → Partition) : (s.modPart k f).rounds = s.rounds := rfl
@[simp] theorem State.modPart_frames (s : State) (k : Nat) (f : Partition → Partition) : (s.modPart k f).frames = s.frames := rfl
@[simp] theorem State.modPart_ctxs (s : State) (k : Nat) (f : Partition → Partition) : (s.modPart k f).ctxs = s.ctxs := rfl
@[simp] theorem State.modPart_pend (s : State) (k : Nat) (f : Partition → Partition) : (s.modPart k f).pend = s.pend := rfl
@[simp] theorem State.modPart_kreqs (s : State) (k : Nat) (f : Partition → Partition) : (s.modPart k f).kreqs = s.kreqs := rfl
@[simp] theorem State.modPart_watches (s : State) (k : Nat) (f : Partition → Partition) : (s.modPart k f).watches = s.watches := rfl
@[simp] theorem State.modPart_heavies (s : State) (k : Nat) (f : Partition → Partition) : (s.modPart k f).heavies = s.heavies := rfl
@[simp] theorem State.modPart_remotes (s : State) (k : Nat) (f : Partition → Partition) : (s.modPart k f).remotes = s.remotes := rfl
@[simp] theorem State.modPart_answers (s : State) (k : Nat) (f : Partition → Partition) : (s.modPart k f).answers = s.answers := rfl
@[simp] theorem State.modPart_stops (s : State) (k : Nat) (f : Partition → Partition) : (s.modPart k f).stops = s.stops := rfl
@[simp] theorem State.modPart_sseqs (s : State) (k : Nat) (f : Partition → Partition) : (s.modPart k f).sseqs = s.sseqs := rfl
@[simp] theorem State.modPart_begun (s : State) (k : Nat) (f : Partition → Partition) : (s.modPart k f).begun = s.begun := rfl
@[simp] theorem State.modPart_triples (s : State) (k : Nat) (f : Partition → Partition) : (s.modPart k f).triples = s.triples := rfl
@[simp] theorem State.modPart_fabricOut (s : State) (k : Nat) (f : Partition → Partition) : (s.modPart k f).fabricOut = s.fabricOut := rfl
@[simp] theorem State.modPart_loop (s : State) (k : Nat) (f : Partition → Partition) : (s.modPart k f).loop = s.loop := rfl
@[simp] theorem State.modPart_hostOut (s : State) (k : Nat) (f : Partition → Partition) : (s.modPart k f).hostOut = s.hostOut := rfl
@[simp] theorem State.modPart_devtime (s : State) (k : Nat) (f : Partition → Partition) : (s.modPart k f).devtime = s.devtime := rfl
@[simp] theorem State.modPart_locked (s : State) (k : Nat) (f : Partition → Partition) : (s.modPart k f).locked = s.locked := rfl
@[simp] theorem State.modPart_slew (s : State) (k : Nat) (f : Partition → Partition) : (s.modPart k f).slew = s.slew := rfl
@[simp] theorem State.modPart_everLocked (s : State) (k : Nat) (f : Partition → Partition) : (s.modPart k f).everLocked = s.everLocked := rfl
@[simp] theorem State.modPart_setup (s : State) (k : Nat) (f : Partition → Partition) : (s.modPart k f).setup = s.setup := rfl
@[simp] theorem State.modPart_err (s : State) (k : Nat) (f : Partition → Partition) : (s.modPart k f).err = s.err := rfl
@[simp] theorem State.modPart_mbox (s : State) (k : Nat) (f : Partition → Partition) : (s.modPart k f).mbox = s.mbox := rfl
@[simp] theorem State.modPart_ap (s : State) (k : Nat) (f : Partition → Partition) : (s.modPart k f).ap = s.ap := rfl
@[simp] theorem State.modPart_mons (s : State) (k : Nat) (f : Partition → Partition) : (s.modPart k f).mons = s.mons := rfl
@[simp] theorem State.modPart_ports (s : State) (k : Nat) (f : Partition → Partition) : (s.modPart k f).ports = s.ports := rfl
@[simp] theorem State.modPart_d2dDown (s : State) (k : Nat) (f : Partition → Partition) : (s.modPart k f).d2dDown = s.d2dDown := rfl
@[simp] theorem State.modPart_images (s : State) (k : Nat) (f : Partition → Partition) : (s.modPart k f).images = s.images := rfl
@[simp] theorem State.modPart_accepted (s : State) (k : Nat) (f : Partition → Partition) : (s.modPart k f).accepted = s.accepted := rfl
@[simp] theorem State.modPart_floor (s : State) (k : Nat) (f : Partition → Partition) : (s.modPart k f).floor = s.floor := rfl
@[simp] theorem State.modPart_pkg (s : State) (k : Nat) (f : Partition → Partition) : (s.modPart k f).pkg = s.pkg := rfl
@[simp] theorem State.modPart_input (s : State) (k : Nat) (f : Partition → Partition) : (s.modPart k f).input = s.input := rfl
@[simp] theorem State.modPart_up (s : State) (k : Nat) (f : Partition → Partition) : (s.modPart k f).up = s.up := rfl
@[simp] theorem State.modPart_throttle (s : State) (k : Nat) (f : Partition → Partition) : (s.modPart k f).throttle = s.throttle := rfl
@[simp] theorem State.modPart_fresh (s : State) (k : Nat) (f : Partition → Partition) : (s.modPart k f).fresh = s.fresh := rfl
@[simp] theorem State.modPart_nextId (s : State) (k : Nat) (f : Partition → Partition) : (s.modPart k f).nextId = s.nextId := rfl
@[simp] theorem State.modPart_agenda (s : State) (k : Nat) (f : Partition → Partition) : (s.modPart k f).agenda = s.agenda := rfl
@[simp] theorem State.modPart_focus (s : State) (k : Nat) (f : Partition → Partition) : (s.modPart k f).focus = s.focus := rfl

-- modKernel
@[simp] theorem State.modKernel_mem (s : State) (k : Nat) (f : Kernel → Kernel) : (s.modKernel k f).mem = s.mem := rfl
@[simp] theorem State.modKernel_side (s : State) (k : Nat) (f : Kernel → Kernel) : (s.modKernel k f).side = s.side := rfl
@[simp] theorem State.modKernel_badLines (s : State) (k : Nat) (f : Kernel → Kernel) : (s.modKernel k f).badLines = s.badLines := rfl
@[simp] theorem State.modKernel_loose (s : State) (k : Nat) (f : Kernel → Kernel) : (s.modKernel k f).loose = s.loose := rfl
@[simp] theorem State.modKernel_sealedKv (s : State) (k : Nat) (f : Kernel → Kernel) : (s.modKernel k f).sealedKv = s.sealedKv := rfl
@[simp] theorem State.modKernel_upsets (s : State) (k : Nat) (f : Kernel → Kernel) : (s.modKernel k f).upsets = s.upsets := rfl
@[simp] theorem State.modKernel_warps (s : State) (k : Nat) (f : Kernel → Kernel) : (s.modKernel k f).warps = s.warps := rfl
@[simp] theorem State.modKernel_wgs (s : State) (k : Nat) (f : Kernel → Kernel) : (s.modKernel k f).wgs = s.wgs := rfl
@[simp] theorem State.modKernel_quads (s : State) (k : Nat) (f : Kernel → Kernel) : (s.modKernel k f).quads = s.quads := rfl
@[simp] theorem State.modKernel_cores (s : State) (k : Nat) (f : Kernel → Kernel) : (s.modKernel k f).cores = s.cores := rfl
@[simp] theorem State.modKernel_clusters (s : State) (k : Nat) (f : Kernel → Kernel) : (s.modKernel k f).clusters = s.clusters := rfl
@[simp] theorem State.modKernel_halves (s : State) (k : Nat) (f : Kernel → Kernel) : (s.modKernel k f).halves = s.halves := rfl
@[simp] theorem State.modKernel_parts (s : State) (k : Nat) (f : Kernel → Kernel) : (s.modKernel k f).parts = s.parts := rfl
@[simp] theorem State.modKernel_queues (s : State) (k : Nat) (f : Kernel → Kernel) : (s.modKernel k f).queues = s.queues := rfl
@[simp] theorem State.modKernel_kernels (s : State) (k : Nat) (f : Kernel → Kernel) : (s.modKernel k f).kernels = s.kernels.put k (f (s.kernels.get k)) := rfl
@[simp] theorem State.modKernel_ranges (s : State) (k : Nat) (f : Kernel → Kernel) : (s.modKernel k f).ranges = s.ranges := rfl
@[simp] theorem State.modKernel_rr (s : State) (k : Nat) (f : Kernel → Kernel) : (s.modKernel k f).rr = s.rr := rfl
@[simp] theorem State.modKernel_rounds (s : State) (k : Nat) (f : Kernel → Kernel) : (s.modKernel k f).rounds = s.rounds := rfl
@[simp] theorem State.modKernel_frames (s : State) (k : Nat) (f : Kernel → Kernel) : (s.modKernel k f).frames = s.frames := rfl
@[simp] theorem State.modKernel_ctxs (s : State) (k : Nat) (f : Kernel → Kernel) : (s.modKernel k f).ctxs = s.ctxs := rfl
@[simp] theorem State.modKernel_pend (s : State) (k : Nat) (f : Kernel → Kernel) : (s.modKernel k f).pend = s.pend := rfl
@[simp] theorem State.modKernel_kreqs (s : State) (k : Nat) (f : Kernel → Kernel) : (s.modKernel k f).kreqs = s.kreqs := rfl
@[simp] theorem State.modKernel_watches (s : State) (k : Nat) (f : Kernel → Kernel) : (s.modKernel k f).watches = s.watches := rfl
@[simp] theorem State.modKernel_heavies (s : State) (k : Nat) (f : Kernel → Kernel) : (s.modKernel k f).heavies = s.heavies := rfl
@[simp] theorem State.modKernel_remotes (s : State) (k : Nat) (f : Kernel → Kernel) : (s.modKernel k f).remotes = s.remotes := rfl
@[simp] theorem State.modKernel_answers (s : State) (k : Nat) (f : Kernel → Kernel) : (s.modKernel k f).answers = s.answers := rfl
@[simp] theorem State.modKernel_stops (s : State) (k : Nat) (f : Kernel → Kernel) : (s.modKernel k f).stops = s.stops := rfl
@[simp] theorem State.modKernel_sseqs (s : State) (k : Nat) (f : Kernel → Kernel) : (s.modKernel k f).sseqs = s.sseqs := rfl
@[simp] theorem State.modKernel_begun (s : State) (k : Nat) (f : Kernel → Kernel) : (s.modKernel k f).begun = s.begun := rfl
@[simp] theorem State.modKernel_triples (s : State) (k : Nat) (f : Kernel → Kernel) : (s.modKernel k f).triples = s.triples := rfl
@[simp] theorem State.modKernel_fabricOut (s : State) (k : Nat) (f : Kernel → Kernel) : (s.modKernel k f).fabricOut = s.fabricOut := rfl
@[simp] theorem State.modKernel_loop (s : State) (k : Nat) (f : Kernel → Kernel) : (s.modKernel k f).loop = s.loop := rfl
@[simp] theorem State.modKernel_hostOut (s : State) (k : Nat) (f : Kernel → Kernel) : (s.modKernel k f).hostOut = s.hostOut := rfl
@[simp] theorem State.modKernel_devtime (s : State) (k : Nat) (f : Kernel → Kernel) : (s.modKernel k f).devtime = s.devtime := rfl
@[simp] theorem State.modKernel_locked (s : State) (k : Nat) (f : Kernel → Kernel) : (s.modKernel k f).locked = s.locked := rfl
@[simp] theorem State.modKernel_slew (s : State) (k : Nat) (f : Kernel → Kernel) : (s.modKernel k f).slew = s.slew := rfl
@[simp] theorem State.modKernel_everLocked (s : State) (k : Nat) (f : Kernel → Kernel) : (s.modKernel k f).everLocked = s.everLocked := rfl
@[simp] theorem State.modKernel_setup (s : State) (k : Nat) (f : Kernel → Kernel) : (s.modKernel k f).setup = s.setup := rfl
@[simp] theorem State.modKernel_err (s : State) (k : Nat) (f : Kernel → Kernel) : (s.modKernel k f).err = s.err := rfl
@[simp] theorem State.modKernel_mbox (s : State) (k : Nat) (f : Kernel → Kernel) : (s.modKernel k f).mbox = s.mbox := rfl
@[simp] theorem State.modKernel_ap (s : State) (k : Nat) (f : Kernel → Kernel) : (s.modKernel k f).ap = s.ap := rfl
@[simp] theorem State.modKernel_mons (s : State) (k : Nat) (f : Kernel → Kernel) : (s.modKernel k f).mons = s.mons := rfl
@[simp] theorem State.modKernel_ports (s : State) (k : Nat) (f : Kernel → Kernel) : (s.modKernel k f).ports = s.ports := rfl
@[simp] theorem State.modKernel_d2dDown (s : State) (k : Nat) (f : Kernel → Kernel) : (s.modKernel k f).d2dDown = s.d2dDown := rfl
@[simp] theorem State.modKernel_images (s : State) (k : Nat) (f : Kernel → Kernel) : (s.modKernel k f).images = s.images := rfl
@[simp] theorem State.modKernel_accepted (s : State) (k : Nat) (f : Kernel → Kernel) : (s.modKernel k f).accepted = s.accepted := rfl
@[simp] theorem State.modKernel_floor (s : State) (k : Nat) (f : Kernel → Kernel) : (s.modKernel k f).floor = s.floor := rfl
@[simp] theorem State.modKernel_pkg (s : State) (k : Nat) (f : Kernel → Kernel) : (s.modKernel k f).pkg = s.pkg := rfl
@[simp] theorem State.modKernel_input (s : State) (k : Nat) (f : Kernel → Kernel) : (s.modKernel k f).input = s.input := rfl
@[simp] theorem State.modKernel_up (s : State) (k : Nat) (f : Kernel → Kernel) : (s.modKernel k f).up = s.up := rfl
@[simp] theorem State.modKernel_throttle (s : State) (k : Nat) (f : Kernel → Kernel) : (s.modKernel k f).throttle = s.throttle := rfl
@[simp] theorem State.modKernel_fresh (s : State) (k : Nat) (f : Kernel → Kernel) : (s.modKernel k f).fresh = s.fresh := rfl
@[simp] theorem State.modKernel_nextId (s : State) (k : Nat) (f : Kernel → Kernel) : (s.modKernel k f).nextId = s.nextId := rfl
@[simp] theorem State.modKernel_agenda (s : State) (k : Nat) (f : Kernel → Kernel) : (s.modKernel k f).agenda = s.agenda := rfl
@[simp] theorem State.modKernel_focus (s : State) (k : Nat) (f : Kernel → Kernel) : (s.modKernel k f).focus = s.focus := rfl

-- modCtx
@[simp] theorem State.modCtx_mem (s : State) (k : Nat) (f : Context → Context) : (s.modCtx k f).mem = s.mem := rfl
@[simp] theorem State.modCtx_side (s : State) (k : Nat) (f : Context → Context) : (s.modCtx k f).side = s.side := rfl
@[simp] theorem State.modCtx_badLines (s : State) (k : Nat) (f : Context → Context) : (s.modCtx k f).badLines = s.badLines := rfl
@[simp] theorem State.modCtx_loose (s : State) (k : Nat) (f : Context → Context) : (s.modCtx k f).loose = s.loose := rfl
@[simp] theorem State.modCtx_sealedKv (s : State) (k : Nat) (f : Context → Context) : (s.modCtx k f).sealedKv = s.sealedKv := rfl
@[simp] theorem State.modCtx_upsets (s : State) (k : Nat) (f : Context → Context) : (s.modCtx k f).upsets = s.upsets := rfl
@[simp] theorem State.modCtx_warps (s : State) (k : Nat) (f : Context → Context) : (s.modCtx k f).warps = s.warps := rfl
@[simp] theorem State.modCtx_wgs (s : State) (k : Nat) (f : Context → Context) : (s.modCtx k f).wgs = s.wgs := rfl
@[simp] theorem State.modCtx_quads (s : State) (k : Nat) (f : Context → Context) : (s.modCtx k f).quads = s.quads := rfl
@[simp] theorem State.modCtx_cores (s : State) (k : Nat) (f : Context → Context) : (s.modCtx k f).cores = s.cores := rfl
@[simp] theorem State.modCtx_clusters (s : State) (k : Nat) (f : Context → Context) : (s.modCtx k f).clusters = s.clusters := rfl
@[simp] theorem State.modCtx_halves (s : State) (k : Nat) (f : Context → Context) : (s.modCtx k f).halves = s.halves := rfl
@[simp] theorem State.modCtx_parts (s : State) (k : Nat) (f : Context → Context) : (s.modCtx k f).parts = s.parts := rfl
@[simp] theorem State.modCtx_queues (s : State) (k : Nat) (f : Context → Context) : (s.modCtx k f).queues = s.queues := rfl
@[simp] theorem State.modCtx_kernels (s : State) (k : Nat) (f : Context → Context) : (s.modCtx k f).kernels = s.kernels := rfl
@[simp] theorem State.modCtx_ranges (s : State) (k : Nat) (f : Context → Context) : (s.modCtx k f).ranges = s.ranges := rfl
@[simp] theorem State.modCtx_rr (s : State) (k : Nat) (f : Context → Context) : (s.modCtx k f).rr = s.rr := rfl
@[simp] theorem State.modCtx_rounds (s : State) (k : Nat) (f : Context → Context) : (s.modCtx k f).rounds = s.rounds := rfl
@[simp] theorem State.modCtx_frames (s : State) (k : Nat) (f : Context → Context) : (s.modCtx k f).frames = s.frames := rfl
@[simp] theorem State.modCtx_ctxs (s : State) (k : Nat) (f : Context → Context) : (s.modCtx k f).ctxs = s.ctxs.put k (f (s.ctxs.get k)) := rfl
@[simp] theorem State.modCtx_pend (s : State) (k : Nat) (f : Context → Context) : (s.modCtx k f).pend = s.pend := rfl
@[simp] theorem State.modCtx_kreqs (s : State) (k : Nat) (f : Context → Context) : (s.modCtx k f).kreqs = s.kreqs := rfl
@[simp] theorem State.modCtx_watches (s : State) (k : Nat) (f : Context → Context) : (s.modCtx k f).watches = s.watches := rfl
@[simp] theorem State.modCtx_heavies (s : State) (k : Nat) (f : Context → Context) : (s.modCtx k f).heavies = s.heavies := rfl
@[simp] theorem State.modCtx_remotes (s : State) (k : Nat) (f : Context → Context) : (s.modCtx k f).remotes = s.remotes := rfl
@[simp] theorem State.modCtx_answers (s : State) (k : Nat) (f : Context → Context) : (s.modCtx k f).answers = s.answers := rfl
@[simp] theorem State.modCtx_stops (s : State) (k : Nat) (f : Context → Context) : (s.modCtx k f).stops = s.stops := rfl
@[simp] theorem State.modCtx_sseqs (s : State) (k : Nat) (f : Context → Context) : (s.modCtx k f).sseqs = s.sseqs := rfl
@[simp] theorem State.modCtx_begun (s : State) (k : Nat) (f : Context → Context) : (s.modCtx k f).begun = s.begun := rfl
@[simp] theorem State.modCtx_triples (s : State) (k : Nat) (f : Context → Context) : (s.modCtx k f).triples = s.triples := rfl
@[simp] theorem State.modCtx_fabricOut (s : State) (k : Nat) (f : Context → Context) : (s.modCtx k f).fabricOut = s.fabricOut := rfl
@[simp] theorem State.modCtx_loop (s : State) (k : Nat) (f : Context → Context) : (s.modCtx k f).loop = s.loop := rfl
@[simp] theorem State.modCtx_hostOut (s : State) (k : Nat) (f : Context → Context) : (s.modCtx k f).hostOut = s.hostOut := rfl
@[simp] theorem State.modCtx_devtime (s : State) (k : Nat) (f : Context → Context) : (s.modCtx k f).devtime = s.devtime := rfl
@[simp] theorem State.modCtx_locked (s : State) (k : Nat) (f : Context → Context) : (s.modCtx k f).locked = s.locked := rfl
@[simp] theorem State.modCtx_slew (s : State) (k : Nat) (f : Context → Context) : (s.modCtx k f).slew = s.slew := rfl
@[simp] theorem State.modCtx_everLocked (s : State) (k : Nat) (f : Context → Context) : (s.modCtx k f).everLocked = s.everLocked := rfl
@[simp] theorem State.modCtx_setup (s : State) (k : Nat) (f : Context → Context) : (s.modCtx k f).setup = s.setup := rfl
@[simp] theorem State.modCtx_err (s : State) (k : Nat) (f : Context → Context) : (s.modCtx k f).err = s.err := rfl
@[simp] theorem State.modCtx_mbox (s : State) (k : Nat) (f : Context → Context) : (s.modCtx k f).mbox = s.mbox := rfl
@[simp] theorem State.modCtx_ap (s : State) (k : Nat) (f : Context → Context) : (s.modCtx k f).ap = s.ap := rfl
@[simp] theorem State.modCtx_mons (s : State) (k : Nat) (f : Context → Context) : (s.modCtx k f).mons = s.mons := rfl
@[simp] theorem State.modCtx_ports (s : State) (k : Nat) (f : Context → Context) : (s.modCtx k f).ports = s.ports := rfl
@[simp] theorem State.modCtx_d2dDown (s : State) (k : Nat) (f : Context → Context) : (s.modCtx k f).d2dDown = s.d2dDown := rfl
@[simp] theorem State.modCtx_images (s : State) (k : Nat) (f : Context → Context) : (s.modCtx k f).images = s.images := rfl
@[simp] theorem State.modCtx_accepted (s : State) (k : Nat) (f : Context → Context) : (s.modCtx k f).accepted = s.accepted := rfl
@[simp] theorem State.modCtx_floor (s : State) (k : Nat) (f : Context → Context) : (s.modCtx k f).floor = s.floor := rfl
@[simp] theorem State.modCtx_pkg (s : State) (k : Nat) (f : Context → Context) : (s.modCtx k f).pkg = s.pkg := rfl
@[simp] theorem State.modCtx_input (s : State) (k : Nat) (f : Context → Context) : (s.modCtx k f).input = s.input := rfl
@[simp] theorem State.modCtx_up (s : State) (k : Nat) (f : Context → Context) : (s.modCtx k f).up = s.up := rfl
@[simp] theorem State.modCtx_throttle (s : State) (k : Nat) (f : Context → Context) : (s.modCtx k f).throttle = s.throttle := rfl
@[simp] theorem State.modCtx_fresh (s : State) (k : Nat) (f : Context → Context) : (s.modCtx k f).fresh = s.fresh := rfl
@[simp] theorem State.modCtx_nextId (s : State) (k : Nat) (f : Context → Context) : (s.modCtx k f).nextId = s.nextId := rfl
@[simp] theorem State.modCtx_agenda (s : State) (k : Nat) (f : Context → Context) : (s.modCtx k f).agenda = s.agenda := rfl
@[simp] theorem State.modCtx_focus (s : State) (k : Nat) (f : Context → Context) : (s.modCtx k f).focus = s.focus := rfl

-- modQueue
@[simp] theorem State.modQueue_mem (s : State) (p q : Nat) (f : Queue → Queue) : (s.modQueue p q f).mem = s.mem := rfl
@[simp] theorem State.modQueue_side (s : State) (p q : Nat) (f : Queue → Queue) : (s.modQueue p q f).side = s.side := rfl
@[simp] theorem State.modQueue_badLines (s : State) (p q : Nat) (f : Queue → Queue) : (s.modQueue p q f).badLines = s.badLines := rfl
@[simp] theorem State.modQueue_loose (s : State) (p q : Nat) (f : Queue → Queue) : (s.modQueue p q f).loose = s.loose := rfl
@[simp] theorem State.modQueue_sealedKv (s : State) (p q : Nat) (f : Queue → Queue) : (s.modQueue p q f).sealedKv = s.sealedKv := rfl
@[simp] theorem State.modQueue_upsets (s : State) (p q : Nat) (f : Queue → Queue) : (s.modQueue p q f).upsets = s.upsets := rfl
@[simp] theorem State.modQueue_warps (s : State) (p q : Nat) (f : Queue → Queue) : (s.modQueue p q f).warps = s.warps := rfl
@[simp] theorem State.modQueue_wgs (s : State) (p q : Nat) (f : Queue → Queue) : (s.modQueue p q f).wgs = s.wgs := rfl
@[simp] theorem State.modQueue_quads (s : State) (p q : Nat) (f : Queue → Queue) : (s.modQueue p q f).quads = s.quads := rfl
@[simp] theorem State.modQueue_cores (s : State) (p q : Nat) (f : Queue → Queue) : (s.modQueue p q f).cores = s.cores := rfl
@[simp] theorem State.modQueue_clusters (s : State) (p q : Nat) (f : Queue → Queue) : (s.modQueue p q f).clusters = s.clusters := rfl
@[simp] theorem State.modQueue_halves (s : State) (p q : Nat) (f : Queue → Queue) : (s.modQueue p q f).halves = s.halves := rfl
@[simp] theorem State.modQueue_parts (s : State) (p q : Nat) (f : Queue → Queue) : (s.modQueue p q f).parts = s.parts := rfl
@[simp] theorem State.modQueue_queues (s : State) (p q : Nat) (f : Queue → Queue) : (s.modQueue p q f).queues = s.queues.put (256 * p + q) (f (s.queues.get (256 * p + q))) := rfl
@[simp] theorem State.modQueue_kernels (s : State) (p q : Nat) (f : Queue → Queue) : (s.modQueue p q f).kernels = s.kernels := rfl
@[simp] theorem State.modQueue_ranges (s : State) (p q : Nat) (f : Queue → Queue) : (s.modQueue p q f).ranges = s.ranges := rfl
@[simp] theorem State.modQueue_rr (s : State) (p q : Nat) (f : Queue → Queue) : (s.modQueue p q f).rr = s.rr := rfl
@[simp] theorem State.modQueue_rounds (s : State) (p q : Nat) (f : Queue → Queue) : (s.modQueue p q f).rounds = s.rounds := rfl
@[simp] theorem State.modQueue_frames (s : State) (p q : Nat) (f : Queue → Queue) : (s.modQueue p q f).frames = s.frames := rfl
@[simp] theorem State.modQueue_ctxs (s : State) (p q : Nat) (f : Queue → Queue) : (s.modQueue p q f).ctxs = s.ctxs := rfl
@[simp] theorem State.modQueue_pend (s : State) (p q : Nat) (f : Queue → Queue) : (s.modQueue p q f).pend = s.pend := rfl
@[simp] theorem State.modQueue_kreqs (s : State) (p q : Nat) (f : Queue → Queue) : (s.modQueue p q f).kreqs = s.kreqs := rfl
@[simp] theorem State.modQueue_watches (s : State) (p q : Nat) (f : Queue → Queue) : (s.modQueue p q f).watches = s.watches := rfl
@[simp] theorem State.modQueue_heavies (s : State) (p q : Nat) (f : Queue → Queue) : (s.modQueue p q f).heavies = s.heavies := rfl
@[simp] theorem State.modQueue_remotes (s : State) (p q : Nat) (f : Queue → Queue) : (s.modQueue p q f).remotes = s.remotes := rfl
@[simp] theorem State.modQueue_answers (s : State) (p q : Nat) (f : Queue → Queue) : (s.modQueue p q f).answers = s.answers := rfl
@[simp] theorem State.modQueue_stops (s : State) (p q : Nat) (f : Queue → Queue) : (s.modQueue p q f).stops = s.stops := rfl
@[simp] theorem State.modQueue_sseqs (s : State) (p q : Nat) (f : Queue → Queue) : (s.modQueue p q f).sseqs = s.sseqs := rfl
@[simp] theorem State.modQueue_begun (s : State) (p q : Nat) (f : Queue → Queue) : (s.modQueue p q f).begun = s.begun := rfl
@[simp] theorem State.modQueue_triples (s : State) (p q : Nat) (f : Queue → Queue) : (s.modQueue p q f).triples = s.triples := rfl
@[simp] theorem State.modQueue_fabricOut (s : State) (p q : Nat) (f : Queue → Queue) : (s.modQueue p q f).fabricOut = s.fabricOut := rfl
@[simp] theorem State.modQueue_loop (s : State) (p q : Nat) (f : Queue → Queue) : (s.modQueue p q f).loop = s.loop := rfl
@[simp] theorem State.modQueue_hostOut (s : State) (p q : Nat) (f : Queue → Queue) : (s.modQueue p q f).hostOut = s.hostOut := rfl
@[simp] theorem State.modQueue_devtime (s : State) (p q : Nat) (f : Queue → Queue) : (s.modQueue p q f).devtime = s.devtime := rfl
@[simp] theorem State.modQueue_locked (s : State) (p q : Nat) (f : Queue → Queue) : (s.modQueue p q f).locked = s.locked := rfl
@[simp] theorem State.modQueue_slew (s : State) (p q : Nat) (f : Queue → Queue) : (s.modQueue p q f).slew = s.slew := rfl
@[simp] theorem State.modQueue_everLocked (s : State) (p q : Nat) (f : Queue → Queue) : (s.modQueue p q f).everLocked = s.everLocked := rfl
@[simp] theorem State.modQueue_setup (s : State) (p q : Nat) (f : Queue → Queue) : (s.modQueue p q f).setup = s.setup := rfl
@[simp] theorem State.modQueue_err (s : State) (p q : Nat) (f : Queue → Queue) : (s.modQueue p q f).err = s.err := rfl
@[simp] theorem State.modQueue_mbox (s : State) (p q : Nat) (f : Queue → Queue) : (s.modQueue p q f).mbox = s.mbox := rfl
@[simp] theorem State.modQueue_ap (s : State) (p q : Nat) (f : Queue → Queue) : (s.modQueue p q f).ap = s.ap := rfl
@[simp] theorem State.modQueue_mons (s : State) (p q : Nat) (f : Queue → Queue) : (s.modQueue p q f).mons = s.mons := rfl
@[simp] theorem State.modQueue_ports (s : State) (p q : Nat) (f : Queue → Queue) : (s.modQueue p q f).ports = s.ports := rfl
@[simp] theorem State.modQueue_d2dDown (s : State) (p q : Nat) (f : Queue → Queue) : (s.modQueue p q f).d2dDown = s.d2dDown := rfl
@[simp] theorem State.modQueue_images (s : State) (p q : Nat) (f : Queue → Queue) : (s.modQueue p q f).images = s.images := rfl
@[simp] theorem State.modQueue_accepted (s : State) (p q : Nat) (f : Queue → Queue) : (s.modQueue p q f).accepted = s.accepted := rfl
@[simp] theorem State.modQueue_floor (s : State) (p q : Nat) (f : Queue → Queue) : (s.modQueue p q f).floor = s.floor := rfl
@[simp] theorem State.modQueue_pkg (s : State) (p q : Nat) (f : Queue → Queue) : (s.modQueue p q f).pkg = s.pkg := rfl
@[simp] theorem State.modQueue_input (s : State) (p q : Nat) (f : Queue → Queue) : (s.modQueue p q f).input = s.input := rfl
@[simp] theorem State.modQueue_up (s : State) (p q : Nat) (f : Queue → Queue) : (s.modQueue p q f).up = s.up := rfl
@[simp] theorem State.modQueue_throttle (s : State) (p q : Nat) (f : Queue → Queue) : (s.modQueue p q f).throttle = s.throttle := rfl
@[simp] theorem State.modQueue_fresh (s : State) (p q : Nat) (f : Queue → Queue) : (s.modQueue p q f).fresh = s.fresh := rfl
@[simp] theorem State.modQueue_nextId (s : State) (p q : Nat) (f : Queue → Queue) : (s.modQueue p q f).nextId = s.nextId := rfl
@[simp] theorem State.modQueue_agenda (s : State) (p q : Nat) (f : Queue → Queue) : (s.modQueue p q f).agenda = s.agenda := rfl
@[simp] theorem State.modQueue_focus (s : State) (p q : Nat) (f : Queue → Queue) : (s.modQueue p q f).focus = s.focus := rfl

-- addPend
@[simp] theorem State.addPend_mem (s : State) (p : Pending) : (s.addPend p).mem = s.mem := rfl
@[simp] theorem State.addPend_side (s : State) (p : Pending) : (s.addPend p).side = s.side := rfl
@[simp] theorem State.addPend_badLines (s : State) (p : Pending) : (s.addPend p).badLines = s.badLines := rfl
@[simp] theorem State.addPend_loose (s : State) (p : Pending) : (s.addPend p).loose = s.loose := rfl
@[simp] theorem State.addPend_sealedKv (s : State) (p : Pending) : (s.addPend p).sealedKv = s.sealedKv := rfl
@[simp] theorem State.addPend_upsets (s : State) (p : Pending) : (s.addPend p).upsets = s.upsets := rfl
@[simp] theorem State.addPend_warps (s : State) (p : Pending) : (s.addPend p).warps = s.warps := rfl
@[simp] theorem State.addPend_wgs (s : State) (p : Pending) : (s.addPend p).wgs = s.wgs := rfl
@[simp] theorem State.addPend_quads (s : State) (p : Pending) : (s.addPend p).quads = s.quads := rfl
@[simp] theorem State.addPend_cores (s : State) (p : Pending) : (s.addPend p).cores = s.cores := rfl
@[simp] theorem State.addPend_clusters (s : State) (p : Pending) : (s.addPend p).clusters = s.clusters := rfl
@[simp] theorem State.addPend_halves (s : State) (p : Pending) : (s.addPend p).halves = s.halves := rfl
@[simp] theorem State.addPend_parts (s : State) (p : Pending) : (s.addPend p).parts = s.parts := rfl
@[simp] theorem State.addPend_queues (s : State) (p : Pending) : (s.addPend p).queues = s.queues := rfl
@[simp] theorem State.addPend_kernels (s : State) (p : Pending) : (s.addPend p).kernels = s.kernels := rfl
@[simp] theorem State.addPend_ranges (s : State) (p : Pending) : (s.addPend p).ranges = s.ranges := rfl
@[simp] theorem State.addPend_rr (s : State) (p : Pending) : (s.addPend p).rr = s.rr := rfl
@[simp] theorem State.addPend_rounds (s : State) (p : Pending) : (s.addPend p).rounds = s.rounds := rfl
@[simp] theorem State.addPend_frames (s : State) (p : Pending) : (s.addPend p).frames = s.frames := rfl
@[simp] theorem State.addPend_ctxs (s : State) (p : Pending) : (s.addPend p).ctxs = s.ctxs := rfl
@[simp] theorem State.addPend_pend (s : State) (p : Pending) : (s.addPend p).pend = s.pend ++ [{ p with id := s.nextId }] := rfl
@[simp] theorem State.addPend_kreqs (s : State) (p : Pending) : (s.addPend p).kreqs = s.kreqs := rfl
@[simp] theorem State.addPend_watches (s : State) (p : Pending) : (s.addPend p).watches = s.watches := rfl
@[simp] theorem State.addPend_heavies (s : State) (p : Pending) : (s.addPend p).heavies = s.heavies := rfl
@[simp] theorem State.addPend_remotes (s : State) (p : Pending) : (s.addPend p).remotes = s.remotes := rfl
@[simp] theorem State.addPend_answers (s : State) (p : Pending) : (s.addPend p).answers = s.answers := rfl
@[simp] theorem State.addPend_stops (s : State) (p : Pending) : (s.addPend p).stops = s.stops := rfl
@[simp] theorem State.addPend_sseqs (s : State) (p : Pending) : (s.addPend p).sseqs = s.sseqs := rfl
@[simp] theorem State.addPend_begun (s : State) (p : Pending) : (s.addPend p).begun = s.begun := rfl
@[simp] theorem State.addPend_triples (s : State) (p : Pending) : (s.addPend p).triples = s.triples := rfl
@[simp] theorem State.addPend_fabricOut (s : State) (p : Pending) : (s.addPend p).fabricOut = s.fabricOut := rfl
@[simp] theorem State.addPend_loop (s : State) (p : Pending) : (s.addPend p).loop = s.loop := rfl
@[simp] theorem State.addPend_hostOut (s : State) (p : Pending) : (s.addPend p).hostOut = s.hostOut := rfl
@[simp] theorem State.addPend_devtime (s : State) (p : Pending) : (s.addPend p).devtime = s.devtime := rfl
@[simp] theorem State.addPend_locked (s : State) (p : Pending) : (s.addPend p).locked = s.locked := rfl
@[simp] theorem State.addPend_slew (s : State) (p : Pending) : (s.addPend p).slew = s.slew := rfl
@[simp] theorem State.addPend_everLocked (s : State) (p : Pending) : (s.addPend p).everLocked = s.everLocked := rfl
@[simp] theorem State.addPend_setup (s : State) (p : Pending) : (s.addPend p).setup = s.setup := rfl
@[simp] theorem State.addPend_err (s : State) (p : Pending) : (s.addPend p).err = s.err := rfl
@[simp] theorem State.addPend_mbox (s : State) (p : Pending) : (s.addPend p).mbox = s.mbox := rfl
@[simp] theorem State.addPend_ap (s : State) (p : Pending) : (s.addPend p).ap = s.ap := rfl
@[simp] theorem State.addPend_mons (s : State) (p : Pending) : (s.addPend p).mons = s.mons := rfl
@[simp] theorem State.addPend_ports (s : State) (p : Pending) : (s.addPend p).ports = s.ports := rfl
@[simp] theorem State.addPend_d2dDown (s : State) (p : Pending) : (s.addPend p).d2dDown = s.d2dDown := rfl
@[simp] theorem State.addPend_images (s : State) (p : Pending) : (s.addPend p).images = s.images := rfl
@[simp] theorem State.addPend_accepted (s : State) (p : Pending) : (s.addPend p).accepted = s.accepted := rfl
@[simp] theorem State.addPend_floor (s : State) (p : Pending) : (s.addPend p).floor = s.floor := rfl
@[simp] theorem State.addPend_pkg (s : State) (p : Pending) : (s.addPend p).pkg = s.pkg := rfl
@[simp] theorem State.addPend_input (s : State) (p : Pending) : (s.addPend p).input = s.input := rfl
@[simp] theorem State.addPend_up (s : State) (p : Pending) : (s.addPend p).up = s.up := rfl
@[simp] theorem State.addPend_throttle (s : State) (p : Pending) : (s.addPend p).throttle = s.throttle := rfl
@[simp] theorem State.addPend_fresh (s : State) (p : Pending) : (s.addPend p).fresh = s.fresh := rfl
@[simp] theorem State.addPend_nextId (s : State) (p : Pending) : (s.addPend p).nextId = s.nextId + 1 := rfl
@[simp] theorem State.addPend_agenda (s : State) (p : Pending) : (s.addPend p).agenda = s.agenda := rfl
@[simp] theorem State.addPend_focus (s : State) (p : Pending) : (s.addPend p).focus = s.focus := rfl

-- Reading a record back
theorem State.quad_modQuad (s : State) (j k : Nat) (f : Quad → Quad) :
    (s.modQuad k f).quad j = if j = k then f (s.quad k) else s.quad j := Table.get_put s.quads j k (f (s.quads.get k))
theorem State.core_modCore (s : State) (j k : Nat) (f : Core → Core) :
    (s.modCore k f).core j = if j = k then f (s.core k) else s.core j := Table.get_put s.cores j k (f (s.cores.get k))
theorem State.cluster_modCluster (s : State) (j k : Nat) (f : Cluster → Cluster) :
    (s.modCluster k f).cluster j = if j = k then f (s.cluster k) else s.cluster j := Table.get_put s.clusters j k (f (s.clusters.get k))
theorem State.half_modHalf (s : State) (j k : Nat) (f : HalfDie → HalfDie) :
    (s.modHalf k f).half j = if j = k then f (s.half k) else s.half j := Table.get_put s.halves j k (f (s.halves.get k))
theorem State.part_modPart (s : State) (j k : Nat) (f : Partition → Partition) :
    (s.modPart k f).part j = if j = k then f (s.part k) else s.part j := Table.get_put s.parts j k (f (s.parts.get k))
theorem State.kernel_modKernel (s : State) (j k : Nat) (f : Kernel → Kernel) :
    (s.modKernel k f).kernel j = if j = k then f (s.kernel k) else s.kernel j := Table.get_put s.kernels j k (f (s.kernels.get k))
theorem State.ctx_modCtx (s : State) (j k : Nat) (f : Context → Context) :
    (s.modCtx k f).ctx j = if j = k then f (s.ctx k) else s.ctx j := Table.get_put s.ctxs j k (f (s.ctxs.get k))
theorem State.warp_modWarp (s : State) (j k : Nat) (f : Warp → Warp) :
    (s.modWarp k f).warp j = if j = k then f (s.warp k) else s.warp j := Table.get_put s.warps j k (f (s.warps.get k))
theorem State.queue_modQueue (s : State) (p q : Nat) (f : Queue → Queue) : (s.modQueue p q f).queue p q = f (s.queue p q) :=
  Table.get_put_same _ _ _
theorem Warp.thread_modThread (w : Warp) (j l : Nat) (f : Thread → Thread) :
    (w.modThread l f).thread j = if j = l then f (w.thread l) else w.thread j := Table.get_put w.threads j l (f (w.thread l))
theorem State.thread_modThread (s : State) (j i k l : Nat) (f : Thread → Thread) :
    (s.modThread k l f).thread j i = if j = k ∧ i = l then f (s.thread k l) else s.thread j i := by
  unfold State.thread State.modThread
  rw [State.warp_modWarp]
  by_cases h : j = k
  · subst h; rw [if_pos rfl, Warp.thread_modThread]; simp only [true_and]
  · rw [if_neg h, if_neg (fun x => h x.1)]

end Sys2Proof.Machine
end

