-- ==== Sys2Proof/Laws/Group.lean ====
section
/-! SUPPORT. What a group does to its bundle: a group with no failure to take runs its body and finishes; a group all of whose
threads complete changes threads, the quadrant and nothing else. -/
namespace Sys2Proof.Machine

-- Frames compose ------------------------------------------------------------------------------------------------------

theorem State.frame_refl (s : State) : s.frame s := ⟨rfl, fun _ => rfl, fun _ => ⟨rfl, fun _ => rfl⟩⟩
theorem State.frame_trans {s t u : State} (h : s.frame t) (i : t.frame u) : s.frame u :=
  ⟨i.1.trans h.1, fun q => (i.2.1 q).trans (h.2.1 q), fun k => ⟨(i.2.2 k).1.trans (h.2.2 k).1, fun l => ((i.2.2 k).2 l).trans ((h.2.2 k).2 l)⟩⟩
theorem State.elemsKept_refl (s : State) (es : List Elem) : s.elemsKept s es := fun _ _ _ _ _ => rfl
theorem State.elemsKept_trans {s t u : State} {es : List Elem} (h : s.elemsKept t es) (i : t.elemsKept u es) : s.elemsKept u es :=
  fun k r l hl hn => (i k r l hl hn).trans (h k r l hl hn)
theorem State.elemsKept_mono {s t : State} {es fs : List Elem} (h : s.elemsKept t es) (hs : ∀ e ∈ es, e ∈ fs) : s.elemsKept t fs :=
  fun k r l hl hn => h k r l hl (fun hm => hn (hs _ hm))

theorem State.still_refl (s : State) : s.still s := ⟨rfl, fun _ => rfl, fun _ => ⟨rfl, fun _ => rfl⟩⟩
theorem State.still_trans {s t u : State} (h : s.still t) (i : t.still u) : s.still u :=
  ⟨i.1.trans h.1, fun q => (i.2.1 q).trans (h.2.1 q), fun k => ⟨(i.2.2 k).1.trans (h.2.2 k).1, fun l => ((i.2.2 k).2 l).trans ((h.2.2 k).2 l)⟩⟩
theorem State.still_frame {s t : State} (h : s.still t) : s.frame t := by
  refine ⟨h.1, h.2.1, fun k => ⟨?_, fun l => ?_⟩⟩
  · have e := congrArg Warp.rest (h.2.2 k).1
    exact e
  · have e := congrArg Thread.rest ((h.2.2 k).2 l)
    exact e
theorem State.still_elems {s t : State} (h : s.still t) (es : List Elem) : s.elemsKept t es := by
  intro k row lane _ _
  have e := congrArg (fun w => Warp.elem w row lane) (h.2.2 k).1
  exact e
theorem State.still_nf {s t : State} (h : s.still t) (k : Nat) : (t.warp k).nf = (s.warp k).nf := by
  have e := congrArg Warp.nf (h.2.2 k).1
  exact e
theorem State.still_tags {s t : State} (h : s.still t) (k : Nat) : (t.warp k).tags = (s.warp k).tags := by
  have e := congrArg Warp.tags (h.2.2 k).1
  exact e
theorem State.still_draw {s t : State} (h : s.still t) (k l : Nat) : (t.thread k l).draw = (s.thread k l).draw := by
  have e := congrArg Thread.draw ((h.2.2 k).2 l)
  exact e
/-- Changing a thread's PC or state. -/
theorem State.still_modThread (s : State) (k l : Nat) (f : Thread → Thread) (hf : ∀ t, (f t).still = t.still) : s.still (s.modThread k l f) := by
  refine ⟨rfl, fun _ => rfl, fun j => ⟨?_, fun i => ?_⟩⟩
  · unfold State.modThread
    rw [State.warp_modWarp]
    by_cases h : j = k
    · subst h; rw [if_pos rfl]; rfl
    · rw [if_neg h]
  · rw [State.thread_modThread]
    by_cases h : j = k ∧ i = l
    · rw [if_pos h, hf, h.1, h.2]
    · rw [if_neg h]
/-- Changing a quadrant within its frame. -/
theorem State.still_modQuad (s : State) (q : Nat) (f : Quad → Quad) (hf : ∀ x, (f x).rest = x.rest) : s.still (s.modQuad q f) := by
  refine ⟨rfl, fun j => ?_, fun _ => ⟨rfl, fun _ => rfl⟩⟩
  rw [State.quad_modQuad]
  by_cases h : j = q
  · subst h; rw [if_pos rfl, hf]
  · rw [if_neg h]

/-- Changing a warp within its frame. -/
theorem State.frame_modWarp (s : State) (k : Nat) (f : Warp → Warp) (hr : ∀ w, (f w).rest = w.rest)
    (ht : ∀ w l, ((f w).thread l).rest = (w.thread l).rest) : s.frame (s.modWarp k f) := by
  refine ⟨rfl, fun _ => rfl, fun j => ?_⟩
  have e := State.warp_modWarp s j k f
  by_cases h : j = k
  · subst h; rw [if_pos rfl] at e
    exact ⟨by rw [e, hr], fun l => by unfold State.thread; rw [e, ht]⟩
  · rw [if_neg h] at e
    exact ⟨by rw [e], fun l => by unfold State.thread; rw [e]⟩
/-- Changing a thread's PC, state or draw counter. -/
theorem State.frame_modThread (s : State) (k l : Nat) (f : Thread → Thread) (hf : ∀ t, (f t).rest = t.rest) : s.frame (s.modThread k l f) := by
  refine State.frame_modWarp s k _ (fun _ => rfl) (fun w j => ?_)
  rw [Warp.thread_modThread]
  by_cases h : j = l
  · subst h; rw [if_pos rfl, hf]
  · rw [if_neg h]
/-- Changing a quadrant within its frame. -/
theorem State.frame_modQuad (s : State) (q : Nat) (f : Quad → Quad) (hf : ∀ x, (f x).rest = x.rest) : s.frame (s.modQuad q f) := by
  refine ⟨rfl, fun j => ?_, fun _ => ⟨rfl, fun _ => rfl⟩⟩
  rw [State.quad_modQuad]
  by_cases h : j = q
  · subst h; rw [if_pos rfl, hf]
  · rw [if_neg h]
/-- Changing threads leaves the register rows. -/
theorem State.elem_modThread (s : State) (k l j : Nat) (f : Thread → Thread) (row lane : Nat) :
    ((s.modThread k l f).warp j).elem row lane = (s.warp j).elem row lane := by
  unfold State.modThread
  rw [State.warp_modWarp]
  by_cases h : j = k
  · subst h; rw [if_pos rfl]; rfl
  · rw [if_neg h]

-- The group that issues -----------------------------------------------------------------------------------------------------

theorem State.group_some {s : State} {c : Ctl} {n : Nat} {g : Grp} (h : s.group c n = some g) :
    g.q = s.focus ∧ g.set = g.acts ∧ g.n = n ∧ g.ctl = c ∧ g.acts ≠ [] ∧ ∀ a ∈ g.acts, (s.thread a.1 a.2).st = .issuing := by
  unfold State.group at h
  cases hb : (s.quad s.focus).bundle with
  | none => rw [hb] at h; simp at h
  | some b =>
    rw [hb] at h
    simp only at h
    generalize he : List.filterMap (fun (e : Nat × Nat) => if (s.thread e.2 e.1).st = .issuing then some (e.2, e.1) else none)
      (Table.map b.members fun _ k => k) = acts at h
    cases acts with
    | nil => simp at h
    | cons a r =>
      simp only [Option.some.injEq] at h
      subst h
      refine ⟨rfl, rfl, rfl, rfl, by simp, fun x hx => ?_⟩
      simp only at hx
      rw [← he, List.mem_filterMap] at hx
      obtain ⟨e, _, hx⟩ := hx
      by_cases hs : (s.thread e.2 e.1).st = .issuing
      · simp only [hs, if_true, Option.some.injEq] at hx; subst hx; exact hs
      · simp [hs] at hx

theorem State.deferred_nil {s : State} {g : Grp} (h : ∀ a ∈ g.acts, (s.thread a.1 a.2).defer = []) : s.deferred g = [] := by
  unfold State.deferred
  rw [List.filterMap_eq_nil_iff]
  intro a ha
  simp [h a ha]
theorem State.takeDeferred_id {s : State} {g : Grp} (h : ∀ a ∈ g.acts, (s.thread a.1 a.2).defer = []) : s.takeDeferred g = s := by
  unfold State.takeDeferred
  generalize g.acts = l at h
  induction l with
  | nil => rfl
  | cons a r ih =>
    rw [List.foldl_cons, h a (by simp)]
    exact ih (fun b hb => h b (by simp [hb]))

/-- A group with no failure to take runs its body and finishes. -/
theorem issue_eq {c : Ctl} {n : Nat} {s : State} {g : Grp} (h : s.issues c n g)
    (body : Grp → State → State × List ((Nat × Nat) × Fate)) :
    issue c n s body = .next ((body g s).1.finish g (body g s).2) := by
  obtain ⟨hg, _, hd⟩ := h
  have hd : ∀ a ∈ g.acts, (s.thread a.1 a.2).defer = [] := fun a ha => (hd a ha).2
  unfold issue
  rw [hg]
  simp only [State.deferred_nil hd, State.takeDeferred_id hd]
  have hne : g.acts.isEmpty = false := by
    have := (State.group_some hg).2.2.2.2.1
    cases hx : g.acts with
    | nil => exact absurd hx this
    | cons a r => rfl
  simp [hne]

/-- Every instruction word's meaning answers a next state where it is an issue. -/
theorem issue_next (c : Ctl) (n : Nat) (s : State) (body : Grp → State → State × List ((Nat × Nat) × Fate)) :
    ∃ t, issue c n s body = .next t := by
  unfold issue
  cases s.group c n with
  | none => exact ⟨_, rfl⟩
  | some g => exact ⟨_, rfl⟩

-- The end of a group whose threads complete ------------------------------------------------------------------------------------

/-- The threads of a list go on at a PC of their own. -/
theorem State.foldl_done (pc : Nat × Nat → DWord) (l : List (Nat × Nat)) (s : State) :
    let t := (l.map (fun a => (a, Fate.done (pc a)))).foldl State.applyFate s
    s.still t ∧ (∀ k i, (t.thread k i).st = (s.thread k i).st)
      ∧ (∀ k i, (k, i) ∈ l → (t.thread k i).pc = pc (k, i)) ∧ (∀ k i, (k, i) ∉ l → t.thread k i = s.thread k i) := by
  induction l generalizing s with
  | nil => exact ⟨s.still_refl, fun _ _ => rfl, fun _ _ h => by simp at h, fun _ _ _ => rfl⟩
  | cons a r ih =>
    obtain ⟨f, t, m, n⟩ := ih (s.modThread a.1 a.2 (fun t => { t with pc := pc a }))
    simp only [List.map_cons, List.foldl_cons]
    have h0 : s.still (s.modThread a.1 a.2 (fun t => { t with pc := pc a })) := State.still_modThread s _ _ _ (fun _ => rfl)
    have hs : ∀ k i, (s.modThread a.1 a.2 (fun t => { t with pc := pc a })).thread k i
        = if k = a.1 ∧ i = a.2 then { s.thread a.1 a.2 with pc := pc a } else s.thread k i :=
      fun k i => State.thread_modThread s k i a.1 a.2 _
    refine ⟨State.still_trans h0 f, ?_, ?_, ?_⟩
    · intro k i
      refine (t k i).trans ?_
      rw [hs]; split
      · rename_i h; rw [h.1, h.2]
      · rfl
    · intro k i hm
      by_cases hr : (k, i) ∈ r
      · exact m k i hr
      · have ha : (k, i) = a := by simpa [hr] using hm
        subst ha
        refine (congrArg Thread.pc (n k i hr)).trans ?_
        rw [hs, if_pos ⟨rfl, rfl⟩]
    · intro k i hm
      have h1 : (k, i) ∉ r := fun h => hm (List.mem_cons_of_mem _ h)
      have h2 : (k, i) ≠ a := fun h => hm (by simp [h])
      refine (n k i h1).trans ?_
      rw [hs, if_neg (fun h => h2 (by rw [h.1, h.2]))]

/-- What closing a bundle may do to a thread: an ISSUING one becomes READY. -/
def Thread.closed (t u : Thread) : Prop := u = t ∨ (t.st = .issuing ∧ u = { t with st := .ready })
theorem Thread.closed_trans {t u v : Thread} (h : t.closed u) (i : u.closed v) : t.closed v := by
  rcases h with rfl | ⟨ht, rfl⟩
  · exact i
  · rcases i with rfl | ⟨hu, _⟩
    · exact .inr ⟨ht, rfl⟩
    · exact absurd hu (by simp)

/-- Members still ISSUING become READY. -/
theorem State.foldl_ready (l : List (Nat × Nat)) (s : State) :
    let t := l.foldl (fun s a => if (s.thread a.1 a.2).st = .issuing then s.modThread a.1 a.2 (fun t => { t with st := .ready }) else s) s
    s.still t ∧ (∀ k i, (s.thread k i).closed (t.thread k i)) ∧ (∀ k i, (k, i) ∉ l → t.thread k i = s.thread k i) := by
  induction l generalizing s with
  | nil => exact ⟨s.still_refl, fun _ _ => .inl rfl, fun _ _ _ => rfl⟩
  | cons a r ih =>
    simp only [List.foldl_cons]
    by_cases hi : (s.thread a.1 a.2).st = .issuing
    · rw [if_pos hi]
      obtain ⟨f, p, n⟩ := ih (s.modThread a.1 a.2 (fun t => { t with st := .ready }))
      have h0 : s.still (s.modThread a.1 a.2 (fun t => { t with st := .ready })) := State.still_modThread s _ _ _ (fun _ => rfl)
      have hs : ∀ k i, (s.modThread a.1 a.2 (fun t => { t with st := .ready })).thread k i
          = if k = a.1 ∧ i = a.2 then { s.thread a.1 a.2 with st := .ready } else s.thread k i :=
        fun k i => State.thread_modThread s k i a.1 a.2 _
      refine ⟨State.still_trans h0 f, fun k i => Thread.closed_trans ?_ (p k i), fun k i hm => ?_⟩
      · rw [hs]; split
        · rename_i h; rw [h.1, h.2]; exact .inr ⟨hi, rfl⟩
        · exact .inl rfl
      · refine (n k i (fun h => hm (List.mem_cons_of_mem _ h))).trans ?_
        rw [hs, if_neg (fun h => hm (by rw [h.1, h.2]; simp))]
    · rw [if_neg hi]
      obtain ⟨f, p, n⟩ := ih s
      exact ⟨f, p, fun k i hm => n k i (fun h => hm (List.mem_cons_of_mem _ h))⟩

/-- Closing the bundle of a group. -/
theorem State.closeBundle_spec (s : State) (g : Grp) :
    s.still (s.closeBundle g) ∧ (∀ k i, (s.thread k i).closed ((s.closeBundle g).thread k i))
      ∧ (∀ k i, (k, i) ∉ g.set → (s.closeBundle g).thread k i = s.thread k i) := by
  obtain ⟨f, p, n⟩ := State.foldl_ready g.set s
  exact ⟨State.still_trans f (State.still_modQuad _ _ _ (fun _ => rfl)), p, n⟩

theorem State.retireIfDead_id {s : State} {k l : Nat} (hl : l < 32) (h : ((s.thread k l).st).alive = true) : s.retireIfDead k = s := by
  unfold State.retireIfDead
  cases hf : s.warps.find k with
  | none => rfl
  | some w =>
    have hw : s.warp k = w := by
      unfold State.warp
      generalize s.warps = t at hf
      induction t with
      | nil => simp [Table.find] at hf
      | cons e r ih =>
        obtain ⟨a, v⟩ := e
        by_cases ha : a = k
        · simpa [Table.find, Table.get, ha] using hf
        · simp only [Table.find, Table.get, ha, if_false] at hf ⊢; exact ih hf
    have : w.aliveLanes.isEmpty = false := by
      have hm : l ∈ w.aliveLanes := by
        unfold Warp.aliveLanes
        rw [List.mem_filter, List.mem_range]
        exact ⟨hl, by rw [← hw]; exact h⟩
      cases hx : w.aliveLanes with
      | nil => rw [hx] at hm; simp at hm
      | cons => rfl
    simp [this]

/-- Fates given thread by thread, by ascending lane, are those of the same threads in another order (R439). -/
theorem byLane_map (f : Nat × Nat → Fate) (l : List (Nat × Nat)) :
    ∃ r : List (Nat × Nat), byLane (l.map (fun a => (a, f a))) = r.map (fun a => (a, f a)) ∧ ∀ a, a ∈ r ↔ a ∈ l := by
  refine ⟨(List.range 32).flatMap (fun i => l.filter (fun a => a.2 == i)) ++ l.filter (fun a => decide (32 ≤ a.2)), ?_, fun a => ?_⟩
  · simp only [byLane, List.map_append, List.map_flatMap, List.filter_map, Function.comp_def]
  · simp only [List.mem_append, List.mem_flatMap, List.mem_range, List.mem_filter, beq_iff_eq, decide_eq_true_eq]
    constructor
    · rintro (⟨_, _, h, _⟩ | ⟨h, _⟩) <;> exact h
    · intro h
      by_cases ha : a.2 < 32
      · exact .inl ⟨a.2, ha, h, rfl⟩
      · exact .inr ⟨h, by omega⟩
/-- A group all of whose threads complete: they stand at their next PC, and nothing else changes but the quadrant's cycle and
bundle. -/
theorem State.finish_all {s : State} {g : Grp} (pc : Nat × Nat → DWord) (l : List (Nat × Nat)) (hmem : ∀ a, a ∈ l ↔ a ∈ g.acts)
    (hset : g.set = g.acts) (hl : ∀ a ∈ g.acts, a.2 < 32) (hi : ∀ a ∈ g.acts, (s.thread a.1 a.2).st = .issuing) :
    let t := s.finish g (l.map (fun a => (a, Fate.done (pc a))))
    s.still t ∧ s.passed t g pc := by
  obtain ⟨r, hr, hmr⟩ := byLane_map (fun a => .done (pc a)) l
  obtain ⟨f, st, m, n⟩ := State.foldl_done pc r s
  replace hmem : ∀ a, a ∈ r ↔ a ∈ g.acts := fun a => (hmr a).trans (hmem a)
  simp only [State.finish, hr]
  generalize (r.map (fun a => (a, Fate.done (pc a)))).foldl State.applyFate s = s1 at *
  generalize (!(s1.quad g.q).stall.isEmpty) = held
  generalize hs2 : s1.modQuad g.q _ = s2
  have f2 : s1.still s2 := by rw [← hs2]; exact State.still_modQuad _ _ _ (fun _ => rfl)
  have th2 : ∀ k i, s2.thread k i = s1.thread k i := fun k i => by rw [← hs2]; rfl
  generalize ((g.ctl.bell || _) || _) = b
  generalize hs3 : (if b = true then s2.closeBundle g else s2) = s3
  have h3 : s2.still s3 ∧ (∀ k i, (s2.thread k i).closed (s3.thread k i))
      ∧ (∀ k i, (k, i) ∉ g.set → s3.thread k i = s2.thread k i) := by
    rw [← hs3]; split
    · exact State.closeBundle_spec s2 g
    · exact ⟨s2.still_refl, fun _ _ => .inl rfl, fun _ _ _ => rfl⟩
  generalize hs4 : (if held = true then s1 else s3) = s4
  have h4 : s1.still s4 ∧ (∀ k i, (s1.thread k i).closed (s4.thread k i))
      ∧ (∀ k i, (k, i) ∉ g.set → s4.thread k i = s1.thread k i) := by
    rw [← hs4]; split
    · exact ⟨s1.still_refl, fun _ _ => .inl rfl, fun _ _ _ => rfl⟩
    · exact ⟨State.still_trans f2 h3.1, fun k i => th2 k i ▸ h3.2.1 k i, fun k i hk => (h3.2.2 k i hk).trans (th2 k i)⟩
  obtain ⟨f3, p3, n3⟩ := h4
  have hst : ∀ a ∈ g.acts, (s4.thread a.1 a.2).pc = pc a ∧ ((s4.thread a.1 a.2).st = .issuing ∨ (s4.thread a.1 a.2).st = .ready) := by
    intro a ha
    have hs : (s1.thread a.1 a.2).st = .issuing := by rw [st, hi a ha]
    have hp : (s1.thread a.1 a.2).pc = pc a := by rw [m a.1 a.2 ((hmem _).2 ha)]
    rcases p3 a.1 a.2 with h | ⟨_, h⟩
    · rw [h]; exact ⟨hp, .inl hs⟩
    · rw [h]; exact ⟨hp, .inr rfl⟩
  have hr : ∀ ks : List Nat, (∀ k ∈ ks, ∃ a ∈ g.acts, a.1 = k) → ks.foldl State.retireIfDead s4 = s4 := by
    intro ks
    induction ks with
    | nil => intro _; rfl
    | cons k r ih =>
      intro hk
      obtain ⟨a, ha, rfl⟩ := hk k (by simp)
      have : s4.retireIfDead a.1 = s4 := State.retireIfDead_id (hl a ha) (by rcases (hst a ha).2 with h | h <;> rw [h] <;> rfl)
      rw [List.foldl_cons, this]
      exact ih (fun k hk' => hk k (by simp [hk']))
  have hw : g.warps.foldl State.retireIfDead s4 = s4 := by
    apply hr
    intro k hk
    unfold Grp.warps at hk
    rw [List.mem_eraseDups, List.mem_map] at hk
    obtain ⟨a, ha, rfl⟩ := hk
    exact ⟨a, hset ▸ ha, rfl⟩
  rw [hw]
  refine ⟨State.still_trans f f3, hst, ?_⟩
  intro k i hk
  rw [n3 k i (hset ▸ hk), n k i (fun h => hk ((hmem _).1 h))]
theorem State.finish_done {s : State} {g : Grp} (pc : Nat × Nat → DWord) (hset : g.set = g.acts) (hl : ∀ a ∈ g.acts, a.2 < 32)
    (hi : ∀ a ∈ g.acts, (s.thread a.1 a.2).st = .issuing) :
    let t := s.finish g (g.acts.map (fun a => (a, Fate.done (pc a))))
    s.still t ∧ s.passed t g pc := State.finish_all pc g.acts (fun _ => Iff.rfl) hset hl hi
/-- A group whose body lets every thread complete. -/
theorem issue_passes {c : Ctl} {n : Nat} {s u : State} {g : Grp} {body : Grp → State → State × List ((Nat × Nat) × Fate)}
    (pc : Nat × Nat → DWord) (l : List (Nat × Nat)) (h : s.issues c n g)
    (hb : body g s = (u, l.map (fun a => (a, Fate.done (pc a))))) (hmem : ∀ a, a ∈ l ↔ a ∈ g.acts)
    (hi : ∀ a ∈ g.acts, (u.thread a.1 a.2).st = .issuing) : ∃ t, issue c n s body = .next t ∧ u.still t ∧ u.passed t g pc := by
  refine ⟨_, issue_eq h body, ?_⟩
  rw [hb]
  exact State.finish_all pc l hmem (State.group_some h.1).2.1 (fun a ha => (h.2.2 a ha).1) hi
/-- Nothing keeps back a group all of whose threads would complete. -/
theorem State.keptBack_done {s : State} {g : Grp} {fs : List ((Nat × Nat) × Fate)} (h : ∀ e ∈ fs, ∃ pc, e.2 = .done pc) :
    s.keptBack g fs = none := by
  have h1 : fs.any (fun e => e.2.interlocked) = false := by
    rw [List.any_eq_false]; intro e he; obtain ⟨pc, hd⟩ := h e he; simp [hd, Fate.interlocked]
  have h2 : fs.any (fun e => e.2.heavy) = false := by
    rw [List.any_eq_false]; intro e he; obtain ⟨pc, hd⟩ := h e he; simp [hd, Fate.heavy]
  have h3 : lightsOf fs = [] := by
    unfold lightsOf
    rw [List.filterMap_eq_nil_iff]; intro e he; obtain ⟨pc, hd⟩ := h e he; rw [hd]
  simp only [State.keptBack, h1, h2, h3, Bool.false_eq_true, if_false]
/-- A per-warp instruction all of whose warps go on runs each of them in turn (R110). -/
theorem runWarps_done {g : Grp} {s : State} {plan : State → Nat → Fate} {run : State → Nat → State × List ((Nat × Nat) × Fate)}
    (h : ∀ k ∈ g.actWarps, ∃ pc, plan s k = .done pc) :
    runWarps g s plan run
      = g.actWarps.foldl (fun r k => ((run r.1 k).1, r.2 ++ (run r.1 k).2)) (s, ([] : List ((Nat × Nat) × Fate))) := by
  unfold runWarps
  have h1 : s.keptBack g ((g.actWarps.map (fun k => (k, plan s k))).flatMap (fun p => g.all p.1 p.2)) = none :=
    State.keptBack_done (by
      intro e he
      rw [List.mem_flatMap] at he
      obtain ⟨p, hp, he⟩ := he
      rw [List.mem_map] at hp
      obtain ⟨k, hk, rfl⟩ := hp
      obtain ⟨pc, hd⟩ := h k hk
      rw [hd] at he
      unfold Grp.all at he
      rw [List.mem_map] at he
      obtain ⟨a, _, rfl⟩ := he
      exact ⟨pc, rfl⟩)
  simp only [h1]
  generalize (s, ([] : List ((Nat × Nat) × Fate))) = r
  generalize g.actWarps = ks at h
  induction ks generalizing r with
  | nil => rfl
  | cons k ks ih =>
    obtain ⟨pc, he⟩ := h k (by simp)
    simp only [List.map_cons, List.foldl_cons, he]
    exact ih _ (fun j hj => h j (by simp [hj]))

end Sys2Proof.Machine
end

