-- ==== Sys2Proof/Laws/Regs.lean ====
section
/-! SUPPORT. Register instructions: what their sources read, what their writes change, and that an open group of them
completes (R81, R82, R116). -/
namespace Sys2Proof.Machine

-- Waiting and trapping --------------------------------------------------------------------------------------------------

theorem State.elemsWhy_calm {s : State} {es : List Elem} (h : s.calm es) : s.elemsWhy es = none := by
  have h1 : es.flatMap (fun e => s.pendElem e.1 e.2.1 e.2.2) = [] := by
    rw [List.flatMap_eq_nil_iff]; exact fun e he => (h e he).1
  have h2 : es.flatMap (fun e => ((s.warp e.1).movedOf [e.2.1]).map (fun b => e.1 * 8 + b)) = [] := by
    rw [List.flatMap_eq_nil_iff]; intro e he; rw [(h e he).2]; rfl
  unfold State.elemsWhy
  rw [h1, h2]
theorem State.interlocks_calm {s : State} {g : Grp} {els : Nat × Nat → List Elem} (h : ∀ a ∈ g.acts, s.calm (els a)) :
    s.interlocks g els = none := by
  unfold State.interlocks
  rw [if_neg]
  simp only [List.any_eq_true, not_exists, not_and]
  intro a ha
  rw [State.elemsWhy_calm (h a ha)]; simp
theorem State.elemsFault_open {s : State} {g : Grp} {rs ws : List Elem} (h : s.open g rs ws) : s.elemsFault g rs ws = none := by
  unfold State.elemsFault
  have h1 : (rs ++ ws).all s.elemHeld = true := List.all_eq_true.2 h.2.2
  have h2 : rs.any (s.elemTraps g) = false := by
    rw [List.any_eq_false]
    intro e he
    unfold State.elemTraps
    rw [h.2.1 e he]; simp
  rw [h1, h2]; rfl
theorem State.ripe_mono {s : State} {g : Grp} {es fs : List Elem} (h : s.ripe g fs) (hs : ∀ e ∈ es, e ∈ fs) : s.ripe g es :=
  fun e he => h e (hs e he)

-- Reading ---------------------------------------------------------------------------------------------------------------

theorem State.readElem_ripe {s : State} {g : Grp} {e : Elem} (h : s.elemEarly g e = false) :
    s.readElem g e = ((s.warp e.1).elem e.2.1 e.2.2, s) := by unfold State.readElem; rw [h]; rfl
theorem State.readElems_ripe {s : State} {g : Grp} {es : List Elem} (h : s.ripe g es) : s.readElems g es = (s.elemsVal es, s) := by
  induction es with
  | nil => rfl
  | cons e r ih =>
    unfold State.readElems
    rw [State.readElem_ripe (h e (by simp))]
    simp only [ih (State.ripe_mono h (fun x hx => List.mem_cons_of_mem _ hx))]
    rfl
theorem State.readAll_ripe {s : State} {g : Grp} {a : Nat × Nat} {rds : List Rd} (h : s.ripe g (rds.flatMap (s.rdElems g a))) :
    s.readAll g a rds = (rds.map (s.source g a), s) := by
  induction rds with
  | nil => rfl
  | cons r rest ih =>
    rw [List.flatMap_cons] at h
    unfold State.readAll
    rw [State.readElems_ripe (State.ripe_mono h (fun x hx => List.mem_append_left _ hx))]
    simp only [ih (State.ripe_mono h (fun x hx => List.mem_append_right _ hx))]
    rfl
theorem State.evalThread_open {s : State} {g : Grp} {rds : List Rd} {d : Option Wr} {f : Nat × Nat → List DWord → Res} {a : Nat × Nat}
    (h : s.open g (rds.flatMap (s.rdElems g a)) (s.wrElems a d)) : s.evalThread g rds d f a = (f a (rds.map (s.source g a)), s) := by
  have he : (rds.flatMap (s.rdElems g a)).any (s.elemEarly g) = false := by
    rw [List.any_eq_false]; intro e he; rw [h.2.1 e he]; simp
  unfold State.evalThread
  rw [State.elemsFault_open h]
  simp only [State.readAll_ripe h.2.1, he]
  rfl
theorem State.evalAll_open {s : State} {g : Grp} {rds : List Rd} {d : Option Wr} {f : Nat × Nat → List DWord → Res} {l : List (Nat × Nat)}
    (h : ∀ a ∈ l, s.open g (rds.flatMap (s.rdElems g a)) (s.wrElems a d)) :
    s.evalAll g rds d f l = (l.map (fun a => (a, f a (rds.map (s.source g a)))), s) := by
  induction l with
  | nil => rfl
  | cons a r ih =>
    unfold State.evalAll
    rw [State.evalThread_open (h a (by simp))]
    simp only [ih (fun b hb => h b (by simp [hb]))]
    rfl

-- Threads keep their place ------------------------------------------------------------------------------------------------

/-- Threads keep their states, those outside a list everything. -/
def State.stays (s t : State) (l : List (Nat × Nat)) : Prop :=
  (∀ k i, (t.thread k i).st = (s.thread k i).st) ∧ ∀ k i, (k, i) ∉ l → t.thread k i = s.thread k i
theorem State.stays_refl (s : State) (l : List (Nat × Nat)) : s.stays s l := ⟨fun _ _ => rfl, fun _ _ _ => rfl⟩
theorem State.stays_trans {s t u : State} {l : List (Nat × Nat)} (h : s.stays t l) (i : t.stays u l) : s.stays u l :=
  ⟨fun k j => (i.1 k j).trans (h.1 k j), fun k j hn => (i.2 k j hn).trans (h.2 k j hn)⟩
theorem State.stays_mono {s t : State} {l m : List (Nat × Nat)} (h : s.stays t l) (hs : ∀ a ∈ l, a ∈ m) : s.stays t m :=
  ⟨h.1, fun k j hn => h.2 k j (fun hm => hn (hs _ hm))⟩
/-- The elements a field names depend on the thread's window and mode alone. -/
theorem State.fieldElems_frame {s t : State} (h : s.frame t) (u : Nat × Nat) (n : Nat) (p : Bool) : t.fieldElems u n p = s.fieldElems u n p := by
  have := (h.2.2 u.1).2 u.2
  have h1 : (t.thread u.1 u.2).rest.tmode = (s.thread u.1 u.2).rest.tmode := by rw [this]
  have h2 : (t.thread u.1 u.2).rest.wb = (s.thread u.1 u.2).rest.wb := by rw [this]
  simp only [Thread.rest] at h1 h2
  unfold State.fieldElems rowOf
  rw [h1, h2]
theorem State.wrElems_frame {s t : State} (h : s.frame t) (a : Nat × Nat) (d : Option Wr) : t.wrElems a d = s.wrElems a d := by
  cases d with
  | none => rfl
  | some d => exact State.fieldElems_frame h a d.n d.pair
theorem State.elemsVal_congr {s t : State} {es : List Elem} (h : ∀ e ∈ es, (t.warp e.1).elem e.2.1 e.2.2 = (s.warp e.1).elem e.2.1 e.2.2) :
    t.elemsVal es = s.elemsVal es := by
  induction es with
  | nil => rfl
  | cons e r ih =>
    unfold State.elemsVal
    rw [h e (by simp), ih (fun x hx => h x (by simp [hx]))]

-- Writing -----------------------------------------------------------------------------------------------------------------

theorem Warp.elem_writeElem (w : Warp) (row lane : Nat) (v : Word) (r l : Nat) (hl : lane < 32) (hj : l < 32) :
    (w.writeElem row lane v).elem r l = if r = row ∧ l = lane then v else w.elem r l := by
  unfold Warp.elem Warp.writeElem Warp.setElem
  simp only
  rw [Table.get_put]
  by_cases h : r = row ∧ l = lane
  · rw [if_pos h, if_pos (by rw [h.1, h.2])]
  · rw [if_neg h, if_neg]
    unfold elemKey
    intro e
    exact h ⟨by omega, by omega⟩
-- What register instructions change, step by step -------------------------------------------------------------------------

theorem State.tagsAre_refl (s : State) : s.tagsAre s [] := fun _ _ => rfl
theorem State.tagsAre_trans {s t u : State} {es fs : List Elem} (h : s.tagsAre t es) (i : t.tagsAre u fs) : s.tagsAre u (es ++ fs) := by
  intro k row
  rw [i k row, h k row, List.any_append]
  by_cases h1 : (es.any fun e => e.1 == k && e.2.1 == row) = true <;> by_cases h2 : (fs.any fun e => e.1 == k && e.2.1 == row) = true <;>
    simp [h1, h2]
theorem State.flagsAre_refl (s : State) (nf : Nat × Nat → Bool) (n : Nat) : s.flagsAre s [] nf n := fun k => ⟨by simp, fun l => by simp⟩
theorem State.flagsAre_trans {s t u : State} {l m : List (Nat × Nat)} {nf : Nat × Nat → Bool} {n : Nat} (h : s.flagsAre t l nf n)
    (i : t.flagsAre u m nf n) (hd : ∀ a ∈ l, a ∉ m) : s.flagsAre u (l ++ m) nf n := by
  intro k
  refine ⟨by rw [(i k).1, (h k).1, List.any_append, Bool.or_assoc], fun j => ?_⟩
  rw [(i k).2, (h k).2]
  by_cases h1 : (k, j) ∈ l
  · have := hd _ h1
    simp [h1, this]
  · by_cases h2 : (k, j) ∈ m <;> simp [h1, h2]

/-- Rows of a list are written, with their tags; threads of a list take draws and set NF; the rest is the frame. -/
def State.effect (s t : State) (es : List Elem) (l : List (Nat × Nat)) (nf : Nat × Nat → Bool) (n : Nat) : Prop :=
  s.frame t ∧ s.stays t l ∧ s.elemsKept t es ∧ s.tagsAre t es ∧ s.flagsAre t l nf n
theorem State.effect_refl (s : State) (nf : Nat × Nat → Bool) (n : Nat) : s.effect s [] [] nf n :=
  ⟨s.frame_refl, s.stays_refl _, s.elemsKept_refl _, s.tagsAre_refl, s.flagsAre_refl nf n⟩
theorem State.effect_trans {s t u : State} {es fs : List Elem} {l m : List (Nat × Nat)} {nf : Nat × Nat → Bool} {n : Nat}
    (h : s.effect t es l nf n) (i : t.effect u fs m nf n) (hd : ∀ a ∈ l, a ∉ m) : s.effect u (es ++ fs) (l ++ m) nf n :=
  ⟨State.frame_trans h.1 i.1,
   State.stays_trans (State.stays_mono h.2.1 (fun _ hx => List.mem_append_left _ hx)) (State.stays_mono i.2.1 (fun _ hx => List.mem_append_right _ hx)),
   State.elemsKept_trans (State.elemsKept_mono h.2.2.1 (fun _ hx => List.mem_append_left _ hx))
     (State.elemsKept_mono i.2.2.1 (fun _ hx => List.mem_append_right _ hx)),
   State.tagsAre_trans h.2.2.2.1 i.2.2.2.1, State.flagsAre_trans h.2.2.2.2 i.2.2.2.2 hd⟩
/-- Then steps that change neither rows nor flags. -/
theorem State.effect_quiet {s t u : State} {es : List Elem} {l : List (Nat × Nat)} {nf : Nat × Nat → Bool} {n : Nat}
    (h : s.effect t es l nf n) (i : t.effect u [] [] nf n) : s.effect u es l nf n := by
  have := State.effect_trans h i (fun _ _ hm => by simp at hm)
  simpa using this

theorem State.writeFixed_spec (s : State) (g : Grp) (lat : Nat) (e : Elem) (v : Word) (nf : Nat × Nat → Bool) (n : Nat) (hl : e.2.2 < 32) :
    let t := s.writeFixed g lat e v
    s.effect t [e] [] nf n ∧ (t.warp e.1).elem e.2.1 e.2.2 = v := by
  have f1 : s.frame (s.modWarp e.1 (fun w => w.writeElem e.2.1 e.2.2 v)) :=
    State.frame_modWarp s _ _ (fun _ => rfl) (fun _ _ => rfl)
  have hw : ∀ k, (s.writeFixed g lat e v).warp k = if k = e.1 then (s.warp e.1).writeElem e.2.1 e.2.2 v else s.warp k :=
    fun k => State.warp_modWarp s k e.1 (fun w => w.writeElem e.2.1 e.2.2 v)
  have ht : ∀ k i, (s.writeFixed g lat e v).thread k i = s.thread k i := by
    intro k i
    unfold State.thread
    rw [hw]; split
    · rename_i h; rw [h]; rfl
    · rfl
  refine ⟨⟨State.frame_trans f1 (State.frame_modQuad _ _ _ (fun _ => rfl)), ⟨fun k i => by rw [ht], fun k i _ => ht k i⟩, ?_, ?_, ?_⟩, ?_⟩
  · intro k r l hj hn
    rw [hw]; split
    · rename_i h
      rw [Warp.elem_writeElem _ _ _ _ _ _ hl hj, if_neg, h]
      exact fun h2 => hn (by rw [h, h2.1, h2.2]; simp)
    · rfl
  · intro k row
    rw [hw]
    by_cases hk : k = e.1
    · subst hk
      rw [if_pos rfl]
      unfold Warp.writeElem Warp.setElem
      simp only [List.any_cons, List.any_nil, Bool.or_false, beq_self_eq_true, Bool.true_and, beq_iff_eq]
      rw [Table.get_put]
      by_cases hr : row = e.2.1
      · rw [if_pos hr, if_pos hr.symm]
      · rw [if_neg hr, if_neg (fun h => hr h.symm)]
    · rw [if_neg hk]
      simp; intro h; exact absurd h.symm hk
  · intro k
    refine ⟨?_, fun l => by rw [ht]; simp⟩
    rw [hw]; split
    · rename_i h; rw [h]; simp [Warp.writeElem, Warp.setElem]
    · simp
  · rw [hw, if_pos rfl, Warp.elem_writeElem _ _ _ _ _ _ hl hl, if_pos ⟨rfl, rfl⟩]

/-- Draws and NF of one thread. -/
theorem State.sideRes_spec (s : State) (a : Nat × Nat) (r : Res) (nf : Nat × Nat → Bool) (n : Nat) (hn : nf a = r.nf) (hd : r.draws = n) :
    s.effect (s.sideRes a r) [] [a] nf n := by
  have h1 : ∃ t, (if r.draws = 0 then s else s.modThread a.1 a.2 (fun t => { t with draw := advance t.draw r.draws })) = t
      ∧ s.frame t ∧ s.stays t [a] ∧ s.elemsKept t [] ∧ s.tagsAre t [] ∧ (∀ k, (t.warp k).nf = (s.warp k).nf)
      ∧ ∀ k l, (t.thread k l).draw = if (k, l) ∈ [a] ∧ n ≠ 0 then advance (s.thread k l).draw n else (s.thread k l).draw := by
    refine ⟨_, rfl, ?_⟩
    by_cases h0 : r.draws = 0
    · rw [if_pos h0]
      exact ⟨s.frame_refl, s.stays_refl _, s.elemsKept_refl _, s.tagsAre_refl, fun _ => rfl, fun k l => by simp [← hd, h0]⟩
    · rw [if_neg h0]
      refine ⟨State.frame_modThread s _ _ _ (fun _ => rfl), ⟨fun k i => ?_, fun k i hn => ?_⟩,
        fun k row lane _ _ => State.elem_modThread s _ _ k _ row lane, fun k row => ?_, fun k => ?_, fun k l => ?_⟩
      · rw [State.thread_modThread]; split
        · rename_i h; rw [h.1, h.2]
        · rfl
      · rw [State.thread_modThread, if_neg (fun h => hn (by rw [h.1, h.2]; simp))]
      · unfold State.modThread; rw [State.warp_modWarp]; split
        · rename_i h; rw [h]; rfl
        · rfl
      · unfold State.modThread; rw [State.warp_modWarp]; split
        · rename_i h; rw [h]; rfl
        · rfl
      · rw [State.thread_modThread]
        by_cases h : k = a.1 ∧ l = a.2
        · rw [if_pos h, if_pos ⟨by rw [h.1, h.2]; simp, by omega⟩, hd, h.1, h.2]
        · rw [if_neg h, if_neg]
          intro hm
          simp only [List.mem_singleton] at hm
          exact h ⟨by rw [← hm.1], by rw [← hm.1]⟩
  obtain ⟨t, ht, f, st, el, tg, hnf, hdr⟩ := h1
  have hs : s.sideRes a r = if r.nf then t.modWarp a.1 (fun w => { w with nf := true }) else t := by
    unfold State.sideRes; simp only [ht]
  rw [hs]
  by_cases hf : r.nf = true
  · rw [if_pos hf]
    have hw : ∀ k, (t.modWarp a.1 (fun w => { w with nf := true })).warp k = if k = a.1 then { t.warp a.1 with nf := true } else t.warp k :=
      fun k => State.warp_modWarp t k a.1 _
    have htt : ∀ k i, (t.modWarp a.1 (fun w => { w with nf := true })).thread k i = t.thread k i := by
      intro k i
      unfold State.thread
      rw [hw]; split
      · rename_i h; rw [h]; rfl
      · rfl
    refine ⟨State.frame_trans f (State.frame_modWarp t _ _ (fun _ => rfl) (fun _ _ => rfl)),
      ⟨fun k i => by rw [htt]; exact st.1 k i, fun k i hh => by rw [htt]; exact st.2 k i hh⟩, fun k row l hj hh => ?_, fun k row => ?_, fun k => ⟨?_, fun l => ?_⟩⟩
    · rw [← el k row l hj hh, hw]; split
      · rename_i h; rw [h]; rfl
      · rfl
    · rw [← tg k row, hw]; split
      · rename_i h; rw [h]
      · rfl
    · rw [hw]
      by_cases hk : k = a.1
      · rw [if_pos hk]; simp [hk, hn, hf]
      · rw [if_neg hk, hnf]; simp; intro h; exact absurd h.symm hk
    · rw [htt, hdr]
  · rw [if_neg hf]
    refine ⟨f, st, el, tg, fun k => ⟨?_, fun l => hdr k l⟩⟩
    rw [hnf]; simp [hn, hf]

/-- A write of one element, or of the two of a pair. -/
theorem State.writeElems_spec (s : State) (g : Grp) (lat : Nat) (a : Nat × Nat) (d : Wr) (v : DWord) (nf : Nat × Nat → Bool) (m : Nat)
    (hl : a.2 < 32) :
    let t := s.writeElems g lat (s.wrElems a (some d)) v
    s.effect t (s.wrElems a (some d)) [] nf m
      ∧ t.elemsVal (s.wrElems a (some d)) = if d.pair then v else (v.setWidth 32).setWidth 64 := by
  obtain ⟨n, pair⟩ := d
  simp only [State.wrElems, State.fieldElems]
  generalize hrow : rowOf (s.thread a.1 a.2) n = r
  cases pair with
  | false =>
    obtain ⟨f, e⟩ := State.writeFixed_spec s g lat (a.1, r, a.2) (v.setWidth 32) nf m hl
    refine ⟨f, ?_⟩
    simp only [if_false, Bool.false_eq_true, State.writeElems, State.elemsVal]
    rw [e]
    simp
  | true =>
    obtain ⟨f, e⟩ := State.writeFixed_spec s g lat (a.1, r, a.2) (v.setWidth 32) nf m hl
    obtain ⟨f2, e2⟩ := State.writeFixed_spec (s.writeFixed g lat (a.1, r, a.2) (v.setWidth 32)) g lat (a.1, r + 1, a.2) ((v >>> 32).setWidth 32) nf m hl
    refine ⟨State.effect_trans f f2 (fun _ hx => by simp at hx), ?_⟩
    simp only [if_true, State.writeElems, State.elemsVal]
    rw [e2, f2.2.2.1 a.1 r a.2 hl (by simp), e]
    ext i hi
    simp only [BitVec.getElem_or, BitVec.getElem_setWidth, BitVec.getElem_shiftLeft, BitVec.getLsbD_setWidth, BitVec.getLsbD_ushiftRight]
    by_cases h : i < 32
    · simp [h, BitVec.getLsbD_eq_getElem hi]
    · have h1 : i - 32 < 32 := by omega
      have h2 : 32 + (i - 32) = i := by omega
      simp [h, h1, h2, BitVec.getLsbD_eq_getElem hi]

theorem State.fieldElems_lane (s : State) (u : Nat × Nat) (n : Nat) (p : Bool) : ∀ e ∈ s.fieldElems u n p, e.2.2 = u.2 := by
  intro e he
  unfold State.fieldElems at he
  cases p <;> simp at he
  · rw [he]
  · rcases he with h | h <;> rw [h]
theorem State.wrElems_lane (s : State) (a : Nat × Nat) (d : Option Wr) : ∀ e ∈ s.wrElems a d, e.2.2 = a.2 := by
  cases d with
  | none => intro e he; simp [State.wrElems] at he
  | some d => exact State.fieldElems_lane s a d.n d.pair

/-- Threads of distinct lanes write their results one after another. -/
theorem State.writeAll_spec (g : Grp) (lat : Nat) (d : Option Wr) (r : Nat × Nat → Res) (m : Nat) (l : List (Nat × Nat)) (s : State)
    (hn : (l.map Prod.snd).Nodup) (hl : ∀ a ∈ l, a.2 < 32) (hd : ∀ a ∈ l, (r a).draws = m) :
    let t := l.foldl (fun s a => s.writeRes g lat d a (r a)) s
    s.effect t (l.flatMap (fun a => s.wrElems a d)) l (fun a => (r a).nf) m
      ∧ ∀ a ∈ l, ∀ w, d = some w → t.elemsVal (s.wrElems a d) = if w.pair then (r a).val else ((r a).val.setWidth 32).setWidth 64 := by
  induction l generalizing s with
  | nil => exact ⟨s.effect_refl _ _, fun a ha => by simp at ha⟩
  | cons a rest ih =>
    simp only [List.foldl_cons]
    have ha : a.2 < 32 := hl a (by simp)
    have h1 : s.effect (s.writeElems g lat (s.wrElems a d) (r a).val) (s.wrElems a d) [] (fun a => (r a).nf) m
        ∧ ∀ w, d = some w → (s.writeElems g lat (s.wrElems a d) (r a).val).elemsVal (s.wrElems a d)
            = if w.pair then (r a).val else ((r a).val.setWidth 32).setWidth 64 := by
      cases d with
      | none => exact ⟨s.effect_refl _ _, fun w h => by simp at h⟩
      | some w =>
        obtain ⟨f1, v1⟩ := State.writeElems_spec s g lat a w (r a).val (fun a => (r a).nf) m ha
        exact ⟨f1, fun w' h => by cases h; exact v1⟩
    obtain ⟨f1, v1⟩ := h1
    have f2 := State.sideRes_spec (s.writeElems g lat (s.wrElems a d) (r a).val) a (r a) (fun a => (r a).nf) m rfl (hd a (by simp))
    have hw : s.writeRes g lat d a (r a) = (s.writeElems g lat (s.wrElems a d) (r a).val).sideRes a (r a) := rfl
    rw [← hw] at f2
    have F : s.effect (s.writeRes g lat d a (r a)) (s.wrElems a d) [a] (fun a => (r a).nf) m := by
      simpa using State.effect_trans f1 f2 (fun _ hx => by simp at hx)
    rw [List.map_cons, List.nodup_cons] at hn
    obtain ⟨f3, v3⟩ := ih (s.writeRes g lat d a (r a)) hn.2 (fun b hb => hl b (by simp [hb])) (fun b hb => hd b (by simp [hb]))
    have hwr : ∀ b, (s.writeRes g lat d a (r a)).wrElems b d = s.wrElems b d := fun b => State.wrElems_frame F.1 b _
    simp only [hwr] at f3 v3
    have hna : ∀ b ∈ rest, b ≠ a := fun b hb h => hn.1 (by rw [← h]; exact List.mem_map_of_mem hb)
    refine ⟨?_, ?_⟩
    · have := State.effect_trans F f3 (fun b hb hm => by simp at hb; exact hna b hm hb)
      simpa [List.flatMap_cons] using this
    · intro b hb w hdw
      by_cases hr : b ∈ rest
      · exact v3 b hr w hdw
      · have hb : b = a := by simpa [hr] using hb
        subst hb
        rw [← v1 w hdw]
        apply State.elemsVal_congr
        intro e he
        have hlane : e.2.2 = b.2 := State.wrElems_lane s b _ e he
        have h3 := f3.2.2.1 e.1 e.2.1 e.2.2 (by omega) (by
          rw [List.mem_flatMap]
          rintro ⟨x, hx, hm⟩
          have : e.2.2 = x.2 := State.wrElems_lane s x _ _ hm
          exact hn.1 (List.mem_map.2 ⟨x, hx, by omega⟩))
        rw [h3]
        exact f2.2.2.1 e.1 e.2.1 e.2.2 (by omega) (by simp)

/-- Moving blocks and noting accesses leaves rows, flags and threads. -/
theorem State.modWarp_quiet (s : State) (k : Nat) (f : Warp → Warp) (nf : Nat × Nat → Bool) (n : Nat)
    (h : ∀ w, ∃ x y, f w = { w with xlast := x, xmoved := y }) : s.effect (s.modWarp k f) [] [] nf n := by
  have hw : ∀ j, (s.modWarp k f).warp j = if j = k then f (s.warp k) else s.warp j := fun j => State.warp_modWarp s j k f
  have ht : ∀ j i, (s.modWarp k f).thread j i = s.thread j i := by
    intro j i
    unfold State.thread
    rw [hw]; split
    · rename_i e; obtain ⟨x, y, hf⟩ := h (s.warp k); rw [hf, e]; rfl
    · rfl
  refine ⟨State.frame_modWarp s k f (fun w => ?_) (fun w l => ?_), ⟨fun j i => by rw [ht], fun j i _ => ht j i⟩, fun j r l _ _ => ?_,
    fun j row => ?_, fun j => ⟨?_, fun l => by rw [ht]; simp⟩⟩
  · obtain ⟨x, y, hf⟩ := h w; rw [hf]; rfl
  · obtain ⟨x, y, hf⟩ := h w; rw [hf]; rfl
  · rw [hw]; split
    · rename_i e; obtain ⟨x, y, hf⟩ := h (s.warp k); rw [hf, e]; rfl
    · rfl
  · rw [hw]; split
    · rename_i e; obtain ⟨x, y, hf⟩ := h (s.warp k); rw [hf, e]; rfl
    · rfl
  · rw [hw]; split
    · rename_i e; obtain ⟨x, y, hf⟩ := h (s.warp k); rw [hf, e]; simp
    · simp
theorem State.spill_spec (q n : Nat) (s : State) (nf : Nat × Nat → Bool) (m : Nat) : s.effect (s.spill q n) [] [] nf m := by
  induction n generalizing s with
  | zero => exact s.effect_refl _ _
  | succ n ih =>
    unfold State.spill
    split
    · cases s.lruBlock q with
      | none => exact s.effect_refl _ _
      | some kb =>
        obtain ⟨k, b⟩ := kb
        exact State.effect_quiet (State.modWarp_quiet s k (fun w => { w with xmoved := w.xmoved ||| BitVec.ofNat 8 (2 ^ b) }) nf m (fun w => ⟨_, _, rfl⟩)) (ih _)
    · exact s.effect_refl _ _
theorem State.settleRows_spec (s : State) (g : Grp) (es : List Elem) (nf : Nat × Nat → Bool) (m : Nat) :
    s.effect (s.settleRows g es) [] [] nf m := by
  unfold State.settleRows
  simp only
  split
  · exact s.effect_refl _ _
  · have h : ∀ (l : List Elem) (s : State), s.effect (l.foldl (fun s e => s.modWarp e.1 (fun w => w.touch (s.quad g.q).cycle [e.2.1])) s) [] [] nf m := by
      intro l
      induction l with
      | nil => exact fun s => s.effect_refl _ _
      | cons e r ih =>
        intro s
        exact State.effect_quiet (State.modWarp_quiet s e.1 (fun w => w.touch (s.quad g.q).cycle [e.2.1]) nf m (fun w => ⟨_, _, rfl⟩)) (ih _)
    exact State.effect_quiet (h _ s) (State.spill_spec g.q 64 _ nf m)

/-- The end of a group after an effect. -/
theorem State.effect_still {s t u : State} {es : List Elem} {l : List (Nat × Nat)} {nf : Nat × Nat → Bool} {n : Nat}
    (h : s.effect t es l nf n) (i : t.still u) : s.frame u ∧ s.elemsKept u es ∧ s.tagsAre u es ∧ s.flagsAre u l nf n := by
  obtain ⟨f, _, e, tg, fl⟩ := h
  refine ⟨State.frame_trans f (State.still_frame i), State.elemsKept_trans e (State.still_elems i es), fun k row => ?_, fun k => ⟨?_, fun l => ?_⟩⟩
  · rw [State.still_tags i]; exact tg k row
  · rw [State.still_nf i]; exact (fl k).1
  · rw [State.still_draw i]; exact (fl k).2 l

-- The shapes ----------------------------------------------------------------------------------------------------------------

/-- A fixed-latency register instruction whose operands are open completes (R81, R116). -/
theorem regOp_writes {c : Ctl} {n lat m : Nat} {rds : List Rd} {d : Option Wr} {s : State} {g : Grp}
    {f : Grp → State → Nat × Nat → List DWord → Res} (h : s.issues c n g)
    (ho : ∀ a ∈ g.acts, s.open g (rds.flatMap (s.rdElems g a)) (s.wrElems a d))
    (hf : ∀ a ∈ g.acts, (f g s a (rds.map (s.source g a))).fault = none)
    (hd : ∀ a ∈ g.acts, (f g s a (rds.map (s.source g a))).draws = m) :
    ∃ t, regOp c n lat rds d s f = .next t
      ∧ s.settles t g (g.acts.flatMap (fun a => s.wrElems a d)) (fun a => (f g s a (rds.map (s.source g a))).nf) m
      ∧ s.passed t g (fun a => ((f g s a (rds.map (s.source g a))).pc.getD g.next))
      ∧ ∀ a ∈ g.acts, ∀ w, d = some w → t.elemsVal (s.wrElems a d)
          = if w.pair then (f g s a (rds.map (s.source g a))).val else ((f g s a (rds.map (s.source g a))).val.setWidth 32).setWidth 64 := by
  obtain ⟨hq, hset, _, _, _, hi⟩ := State.group_some h.1
  refine ⟨_, issue_eq h _, ?_⟩
  have e1 : s.interlocks g (fun a => rds.flatMap (s.rdElems g a) ++ s.wrElems a d) = none := State.interlocks_calm (fun a ha => (ho a ha).1)
  simp only [e1, State.evalAll_open ho]
  generalize hr : (fun a => f g s a (rds.map (s.source g a))) = r
  have hr' : ∀ a, f g s a (rds.map (s.source g a)) = r a := fun a => by rw [← hr]
  simp only [hr'] at hf hd ⊢
  have e2 : (g.acts.map (fun a => (a, r a))).foldl (fun s x => if x.2.fault.isNone then s.writeRes g lat d x.1 x.2 else s) s
      = g.acts.foldl (fun s a => s.writeRes g lat d a (r a)) s := by
    have : ∀ (l : List (Nat × Nat)) (s : State), (∀ a ∈ l, (r a).fault = none) →
        (l.map (fun a => (a, r a))).foldl (fun s x => if x.2.fault.isNone then s.writeRes g lat d x.1 x.2 else s) s
          = l.foldl (fun s a => s.writeRes g lat d a (r a)) s := by
      intro l
      induction l with
      | nil => intro _ _; rfl
      | cons a rest ih =>
        intro s hl
        simp only [List.map_cons, List.foldl_cons, hl a (by simp), Option.isNone_none, if_true]
        exact ih _ (fun b hb => hl b (by simp [hb]))
    exact this g.acts s hf
  have e3 : (g.acts.map (fun a => (a, r a))).map (fun x => (x.1, x.2.fate g)) = g.acts.map (fun a => (a, Fate.done ((r a).pc.getD g.next))) := by
    rw [List.map_map]
    apply List.map_congr_left
    intro a ha
    simp only [Function.comp, Res.fate, hf a ha]
  rw [e2, e3]
  obtain ⟨f1, v1⟩ := State.writeAll_spec g lat d r m g.acts s h.2.1 (fun a ha => (h.2.2 a ha).1) hd
  generalize g.acts.foldl (fun s a => s.writeRes g lat d a (r a)) s = t1 at *
  have f2 := State.settleRows_spec t1 g (g.acts.flatMap fun a => rds.flatMap (s.rdElems g a) ++ s.wrElems a d) (fun a => (r a).nf) m
  generalize t1.settleRows g (g.acts.flatMap fun a => rds.flatMap (s.rdElems g a) ++ s.wrElems a d) = t2 at *
  have F := State.effect_quiet f1 f2
  obtain ⟨f3, p3⟩ := State.finish_done (s := t2) (g := g) (fun a => (r a).pc.getD g.next) hset (fun a ha => (h.2.2 a ha).1)
    (fun a ha => by rw [F.2.1.1, hi a ha])
  refine ⟨State.effect_still F f3, ⟨p3.1, fun k l hk => ?_⟩, ?_⟩
  · rw [p3.2 k l hk, F.2.1.2 k l hk]
  · intro a ha w hw
    rw [← v1 a ha w hw]
    apply State.elemsVal_congr
    intro e he
    have hlane : e.2.2 < 32 := by rw [State.wrElems_lane s a _ e he]; exact (h.2.2 a ha).1
    rw [State.still_elems f3 [] e.1 e.2.1 e.2.2 hlane (by simp), f2.2.2.1 e.1 e.2.1 e.2.2 hlane (by simp)]
/-- An instruction whose meaning is a register operation with one value computes that value. -/
theorem computes_regOp {i : Instr} {c : Ctl} {n : Nat} (lat : Nat) {rds : List Rd} {d : Wr} {val : List DWord → DWord}
    (h : ∀ s, exec i s = regOp c n lat rds (some d) s fun _ _ _ vs => { val := val vs }) : Computes i c n rds d val := by
  intro s g hi ho
  obtain ⟨t, e, st, p, v⟩ := regOp_writes (lat := lat) (m := 0) (f := fun _ _ _ vs => { val := val vs }) hi ho (fun _ _ => rfl) (fun _ _ => rfl)
  exact ⟨t, by rw [h, e], st, p, fun a ha => v a ha d rfl⟩
/-- A floating-point instruction computes what its function gives. -/
theorem computesFp_fpOp {i : Instr} {c : Ctl} {p : Option Pfx} (lat : Nat) {nd : Nat} {rds : List Rd} {d : VReg}
    {f : Pfx → (Nat → Mode) → List DWord → Word × Bool} (h : ∀ s, exec i s = fpOp c p lat nd rds d s f) : ComputesFp i c p nd rds d f := by
  intro s g hi ho
  obtain ⟨t, e, st, ps, v⟩ := regOp_writes (lat := lat) (m := if (pfxOr p).rnd = .sr then nd else 0) hi ho
    (f := fun _ s a vs =>
      let q := pfxOr p
      let r := f q (fun i => Rnd.mode q.rnd (s.drawAt a.1 a.2 i)) vs
      { val := r.1.setWidth 64, nf := r.2, draws := if q.rnd = .sr then nd else 0 }) (fun _ _ => rfl) (fun _ _ => rfl)
  exact ⟨t, by rw [h]; exact e, st, ps, fun a ha => v a ha _ rfl⟩

end Sys2Proof.Machine
end

