-- ==== Sys2Proof/Tests/Slice0.lean ====
section
/-! SUPPORT. Tests: ill-formed instructions refused, words of the manual's examples decoded, a state that meets the hypotheses of each
statement, and single steps. -/
open Sys2Proof Sys2Proof.Machine
namespace Sys2Proof.Tests
set_option Elab.async false

-- Small states ---------------------------------------------------------------------------------------------------------------------------

/-- The placed context's tables lie apart from the placed page. -/
def spaced (s : State) : State := { s with ctxs := s.ctxs.modify 1 (fun c => { c with cb := setFld c.cb 0 64 0x80000 }) }
/-- One thread in lane 0 of warp slot 0, its quadrant focused, the root of its context's tables at 0x80000. -/
def one : State := spaced { State.reset.placeThread with focus := 0 }
/-- The group that thread issues next, of n words. -/
def grp (n : Nat) (c : Ctl := ⟨false, 0⟩) : Grp := ⟨0, [(0, 0)], [(0, 0)], 0x10000, n, c, n - 1⟩
/-- Rows of lane 0 hold words. -/
def rows (s : State) (vs : List (Nat × Word)) : State :=
  s.modWarp 0 (fun w => { w with vreg := vs.foldl (fun t v => t.put (32 * v.1) v.2) w.vreg })
/-- Uniform registers of warp slot 0 hold words. -/
def unis (s : State) (vs : List (Nat × Word)) : State :=
  s.modWarp 0 (fun w => { w with sreg := vs.foldl (fun t v => t.put v.1 v.2) w.sreg })
/-- The workgroup changed. -/
def inWg (s : State) (f : Workgroup → Workgroup) : State := s.modWg 0 f
/-- The context has a handler at 0x10100. -/
def handled (s : State) : State := { s with ctxs := s.ctxs.modify 1 (fun c => { c with cb := setFld c.cb 64 64 0x10100 }) }
/-- A second thread, in lane 1, ready elsewhere. -/
def two : State := one.modWarp 0 (fun w => { w with threads := w.threads.put 1 { (default : Thread) with pc := 0x10080, wb := 16, st := .ready } })
/-- A second warp, in slot 16. -/
def pair : State := (inWg one (fun g => { g with nw := 2 })).modWarp 16 (fun w => { w with
  wid := 1, wg := 0, threads := [(0, { (default : Thread) with pc := 0x10080, wb := 16, st := .ready })] })


-- Small lemmas ---------------------------------------------------------------------------------------------------------------------------

/-- An access of an agent that passes its checks, in the terms of the statements. -/
theorem agent_at {s : State} {ctx : Nat} {va : DWord} {k : AccKind} {e : Acc} {pa mt : Nat} (h : s.access .agent ctx 128 va k = .ok e)
    (ht : e.t = .mem pa mt) : s.agentAt ctx va k pa := ⟨e, mt, by simp [State.agentAccess, h], ht⟩
/-- An answer that is no error has its two parts. -/
theorem ok_pair {e a b : Type} {x : Except e (a × b)} (h : x.isOk = true) : ∃ u v, x = .ok (u, v) := by
  cases x with
  | error _ => simp [Except.isOk, Except.toBool] at h
  | ok y => exact ⟨y.1, y.2, rfl⟩
/-- A key that a table does not list reads as the default. -/
theorem get_other {α : Type} [Inhabited α] (t : Table α) (k : Nat) (h : k ∉ t.keys) : t.get k = default := by
  induction t with
  | nil => rfl
  | cons e r ih =>
    simp only [Table.keys, List.map_cons, List.mem_cons, not_or] at h
    simp only [Table.get]
    rw [if_neg (fun x => h.1 x.symm)]
    exact ih h.2
/-- Bytes that no key of a memory lists read as 0. -/
theorem read_blank (m : Memory) (a n : Nat) (h : ∀ k ∈ Table.keys m, k < a ∨ a + n ≤ k) : m.read a n = 0 := by
  induction n generalizing a with
  | zero => rfl
  | succ n ih =>
    have : m.byte a = 0 := get_other m a (fun x => by have := h a x; omega)
    simp only [Memory.read, this]
    rw [ih (a + 1) (fun k hk => by have := h k hk; omega)]; rfl
/-- A line with no byte listed is whole. -/
theorem blank_line (s : State) (n : Nat) (hm : ∀ k ∈ Table.keys s.mem, k / 128 ≠ n) (hs : ∀ k ∈ Table.keys s.side, k / 16 ≠ n) (hb : s.badLines = []) :
    s.lineBad n = none := by
  have side : ∀ j w, j + w ≤ 16 → s.side.read (16 * n + j) w = 0 := fun j w hw => read_blank _ _ _ (fun k hk => by have := hs k hk; omega)
  have z : s.line n = { data := 0, tag := 0, scales := 0 } := by
    simp only [State.line, side 6 1 (by omega), side 7 8 (by omega), read_blank s.mem (128 * n) 128 (fun k hk => by have := hm k hk; omega)]
    rfl
  have c : check16 { data := 0, tag := 0, scales := 0 } = 0#16 := by decide +kernel
  simp [State.lineBad, z, State.chk, side 4 2 (by omega), hb]
  exact c
/-- Bytes that lie apart from every table are no entries. -/
theorem untabled_of {s : State} {a n : Nat} (h : ∀ t ∈ s.tablesOf (fun _ _ => true), t.1 + t.2 ≤ a / 8 * 8 ∨ a + n ≤ t.1) : s.untabled a n := by
  intro w hw
  simp only [wordsOf, List.mem_map, List.mem_range] at hw
  obtain ⟨i, hi, rfl⟩ := hw
  simp only [inTables, List.any_eq_false, Bool.and_eq_true, decide_eq_true_eq]
  intro t ht
  have := h t ht
  omega
-- What the hypotheses of each statement are met by ---------------------------------------------------------------------------------------

/-- The hypotheses of `Computes` and `ComputesFp`. -/
def Meets (c : Ctl) (n : Nat) (rds : List Rd) (d : Wr) : Prop :=
  ∃ (s : State) (g : Grp), s.issues c n g ∧ ∀ a ∈ g.acts, s.open g (rds.flatMap (s.rdElems g a)) (s.wrElems a (some d))
/-- A prefix with neighbours, modifiers and stochastic rounding. -/
def fullPfx : Pfx := ⟨.left, .wrap, .right, .clamp, true, true, true, true, true, true, .sr, true⟩
theorem meets_three : Meets ⟨false, 0⟩ 1 [srcA none 1, srcB none 2, own 47] { n := 47 } :=
  ⟨one, grp 1, by simp only [State.issues, State.open, State.calm, State.ripe]; decide +kernel⟩
theorem meets_two_prefixed : Meets ⟨true, 7⟩ 2 [srcA (some fullPfx) 0, srcB (some fullPfx) 16] { n := 63 } :=
  ⟨one, grp 2 ⟨true, 7⟩, by simp only [State.issues, State.open, State.calm, State.ripe]; decide +kernel⟩
theorem meets_three_prefixed : Meets ⟨true, 7⟩ 2 [srcA (some fullPfx) 0, srcB (some fullPfx) 16, own 63] { n := 63 } :=
  ⟨one, grp 2 ⟨true, 7⟩, by simp only [State.issues, State.open, State.calm, State.ripe]; decide +kernel⟩
theorem meets_two : Meets ⟨false, 0⟩ 1 [srcA none 1, srcB none 1] { n := 1 } :=
  ⟨one, grp 1, by simp only [State.issues, State.open, State.calm, State.ripe]; decide +kernel⟩
theorem meets_one : Meets ⟨false, 0⟩ 1 [own 5] { n := 4 } ∧ Meets ⟨false, 0⟩ 1 [] { n := 0 } :=
  ⟨⟨one, grp 1, by simp only [State.issues, State.open, State.calm, State.ripe]; decide +kernel⟩,
    one, grp 1, by simp only [State.issues, State.open, State.calm, State.ripe]; decide +kernel⟩
theorem meets_long : Meets ⟨false, 0⟩ 2 [own 5] { n := 4 } ∧ Meets ⟨false, 0⟩ 2 [] { n := 0 } :=
  ⟨⟨one, grp 2, by simp only [State.issues, State.open, State.calm, State.ripe]; decide +kernel⟩,
    one, grp 2, by simp only [State.issues, State.open, State.calm, State.ripe]; decide +kernel⟩
theorem meets_pair : Meets ⟨false, 0⟩ 1 [ownPair 62] { n := 62, pair := true } ∧ Meets ⟨false, 0⟩ 1 [ownPair 2, ownPair 4] { n := 2, pair := true } :=
  ⟨⟨one, grp 1, by simp only [State.issues, State.open, State.calm, State.ripe]; decide +kernel⟩,
    one, grp 1, by simp only [State.issues, State.open, State.calm, State.ripe]; decide +kernel⟩
theorem witness_IntegerThreeRegister : Meets ⟨false, 0⟩ 1 [srcA none 1, srcB none 1] { n := 1 }
    ∧ Meets ⟨true, 7⟩ 2 [srcA (some fullPfx) 0, srcB (some fullPfx) 16, own 63] { n := 63 } := ⟨meets_two, meets_three_prefixed⟩
theorem witness_BitFields : Meets ⟨false, 0⟩ 1 [srcA none 1, srcB none 2, own 47] { n := 47 }
    ∧ Meets ⟨true, 7⟩ 2 [srcA (some fullPfx) 0, srcB (some fullPfx) 16] { n := 63 } := ⟨meets_three, meets_two_prefixed⟩
theorem witness_IntegerImmediateUnary : (Meets ⟨false, 0⟩ 1 [own 5] { n := 4 } ∧ Meets ⟨false, 0⟩ 1 [] { n := 0 })
    ∧ (Meets ⟨false, 0⟩ 2 [own 5] { n := 4 } ∧ Meets ⟨false, 0⟩ 2 [] { n := 0 }) ∧ Meets ⟨false, 0⟩ 1 [ownPair 62] { n := 62, pair := true } :=
  ⟨meets_one, meets_long, meets_pair.1⟩
theorem witness_IntegerPairs : Meets ⟨false, 0⟩ 1 [ownPair 2, ownPair 4] { n := 2, pair := true } := meets_pair.2
theorem witness_FloatArithmetic : Meets ⟨false, 0⟩ 1 [srcA none 1, srcB none 2, own 47] { n := 47 }
    ∧ Meets ⟨true, 7⟩ 2 [srcA (some fullPfx) 0, srcB (some fullPfx) 16] { n := 63 } := ⟨meets_three, meets_two_prefixed⟩
theorem witness_FloatFunctions : Meets ⟨true, 7⟩ 2 [srcA (some fullPfx) 0, own 63] { n := 63 } ∧ Meets ⟨false, 0⟩ 1 [srcA none 5] { n := 4 } :=
  ⟨⟨one, grp 2 ⟨true, 7⟩, by simp only [State.issues, State.open, State.calm, State.ripe]; decide +kernel⟩,
    one, grp 1, by simp only [State.issues, State.open, State.calm, State.ripe]; decide +kernel⟩
theorem witness_FloatPacked : Meets ⟨true, 7⟩ 2 [srcA (some fullPfx) 0, srcB (some fullPfx) 16, own 63] { n := 63 } := meets_three_prefixed
theorem witness_LeaAddresses : Meets ⟨false, 0⟩ 1 [ownPair 62, own 3] { n := 0, pair := true } :=
  ⟨one, grp 1, by simp only [State.issues, State.open, State.calm, State.ripe]; decide +kernel⟩
theorem witness_NopOnlyAdvances : one.issues ⟨true, 7⟩ 1 (grp 1 ⟨true, 7⟩) ∧ majorOf 0x06800003 = 0x34 := by
  simp only [State.issues]; decide +kernel

/-- A warp flag pending count of five. -/
def counted (q : Word) : State := (unis one [(9, q)]).modWarp 0 (fun w => { w with rsltseq := 5 })
theorem witness_UniformResults :
    (one.issues ⟨false, 0⟩ 1 (grp 1) ∧ one.uniOpen (grp 1) [0, 29] [30]) ∧ (one.issues ⟨false, 0⟩ 2 (grp 2) ∧ one.uniOpen (grp 2) [] [30])
    ∧ (one.uniOpen (grp 1) [30] [] ∧ ∀ x ∈ (grp 1).acts, one.open (grp 1) [] (one.wrElems x (some { n := 63 })))
    ∧ (one.uniOpen (grp 1) [] [30] ∧ ∀ x ∈ (grp 1).acts, one.open (grp 1) (one.fieldElems (0, 0) 63 false) [])
    ∧ ((counted 5).issues ⟨false, 0⟩ 1 (grp 1) ∧ (counted 5).uniOpen (grp 1) [9] []
        ∧ ∀ x ∈ (grp 1).acts, (((counted 5).warp x.1).rsltseq - (((counted 5).warp x.1).s 9).setWidth 16).toNat < 2 ^ 15)
    ∧ ((counted 6).issues ⟨false, 0⟩ 1 (grp 1) ∧ (counted 6).uniOpen (grp 1) [9] []
        ∧ ∀ x ∈ (grp 1).acts, ¬ (((counted 6).warp x.1).rsltseq - (((counted 6).warp x.1).s 9).setWidth 16).toNat < 2 ^ 15) := by
  simp only [State.issues, State.open, State.calm, State.ripe, State.uniOpen]; and_intros <;> decide +kernel
/-- A target in the pair v8. -/
def aimed : State := rows one [(8, 0xFFFFFFFC), (9, 0x7FFF)]
theorem witness_Transfers :
    (one.issues ⟨true, 0⟩ 1 (grp 1 ⟨true, 0⟩) ∧ one.uniOpen (grp 1 ⟨true, 0⟩) [7] []
      ∧ ∀ x ∈ (grp 1).acts, one.open (grp 1 ⟨true, 0⟩) (one.rdElems (grp 1 ⟨true, 0⟩) x (own 7)) [])
    ∧ (one.issues ⟨true, 0⟩ 2 (grp 2 ⟨true, 0⟩) ∧ ∀ x ∈ (grp 2).acts, one.open (grp 2 ⟨true, 0⟩) [] (one.wrElems x (some { n := 62, pair := true })))
    ∧ (aimed.issues ⟨true, 0⟩ 1 (grp 1 ⟨true, 0⟩) ∧ ∀ x ∈ (grp 1).acts,
        aimed.open (grp 1 ⟨true, 0⟩) (aimed.rdElems (grp 1 ⟨true, 0⟩) x (ownPair 8)) []
          ∧ (aimed.source (grp 1 ⟨true, 0⟩) x (ownPair 8)).toNat % 4 = 0) := by
  simp only [State.issues, State.open, State.calm, State.ripe, State.uniOpen]; decide +kernel
theorem witness_ThreadsExit :
    (two.issues ⟨true, 0⟩ 1 (grp 1 ⟨true, 0⟩)
      ∧ (∀ a ∈ (grp 1).acts, two.kreqs.all (fun r => !(r.slot == a.1 && r.lane == a.2)) = true ∧ two.hasRemote a.1 a.2 = false)
      ∧ ∀ a ∈ (grp 1).acts, ∃ l < 32, (a.1, l) ∉ (grp 1).acts ∧ (two.thread a.1 l).st.alive = true)
    ∧ (one.issues ⟨true, 0⟩ 1 (grp 1 ⟨true, 0⟩) ∧ one.kreqs.all (fun r => r.slot != 0) = true ∧ one.hasRemote 0 0 = false
      ∧ (∀ j < 32, j ≠ 0 → (one.thread 0 j).st.alive = false) ∧ (one.wgOf 0).nw = 1 ∧ (one.wgOf 0).retired = 0 ∧ (one.warp 0).wid < 32
      ∧ (one.kernelOf 0).repeatable = false) := by
  simp only [State.issues]; decide +kernel
theorem witness_CrossLane :
    (one.issues ⟨false, 0⟩ 2 (grp 2) ∧ ∀ x ∈ (grp 2).acts,
      one.open (grp 2) (one.rdElems (grp 2) x (srcA (some fullPfx) 5) ++ one.rdElems (grp 2) x (own 6)) (one.wrElems x (some { n := 63 })))
    ∧ (one.issues ⟨false, 0⟩ 1 (grp 1) ∧ ∀ x ∈ (grp 1).acts, one.open (grp 1) (one.rdElems (grp 1) x (own 47)) (one.wrElems x (some { n := 4 })))
    ∧ ((grp 1).acts = (one.warp 0).liveLanes.map (fun l => (0, l)) ∧ (∀ x ∈ (grp 1).acts, one.open (grp 1) (one.rdElems (grp 1) x (own 63)) [])
      ∧ one.redvs 0 < 4) := by
  simp only [State.issues, State.open, State.calm, State.ripe]; decide +kernel
/-- A row whose tag is E4M3 of blocks. -/
def tagged : State := one.modWarp 0 (fun w => { w with tags := w.tags.put 5 1 })
theorem witness_BlockInstructions :
    (tagged.issues ⟨false, 0⟩ 1 (grp 1) ∧ tagged.whole (grp 1) 0
      ∧ tagged.rowsOpen (grp 1) 0 ((List.range 4).map (fun j => tagged.rowAt 0 (5 + j))) ((List.range 2).map (fun j => tagged.rowAt 0 (60 + j))))
    ∧ ((((tagged.warp 0).row (tagged.rowAt 0 5)).getD 8 0).toNat % 16 < 10)
    ∧ (3 : BitVec 3).toNat < tagBlocks ((tagged.warp 0).tags.get (tagged.rowAt 0 5)).toNat := by
  simp only [State.issues, State.whole, State.rowsOpen]; decide +kernel
theorem witness_ControlRegisters : one.issues ⟨false, 0⟩ 1 (grp 1) ∧ ∀ x ∈ (grp 1).acts,
    one.open (grp 1) [] (one.wrElems x (some { n := 63 })) ∧ one.open (grp 1) (one.fieldElems x 63 false) [] := by
  simp only [State.issues, State.open, State.calm, State.ripe]; decide +kernel
/-- The workgroup may hold eight extended blocks; its warp holds those of a mask. -/
def extended (held : BitVec 8) : State := (inWg one (fun g => { g with xb := 8 })).modWarp 0 (fun w => { w with xheld := held })
theorem witness_WindowAndBlocks :
    ((extended 0).issues ⟨false, 0⟩ 1 (grp 1) ∧ (∀ x ∈ (grp 1).acts, x.1 = 0) ∧ (7 : BitVec 3).toNat < ((extended 0).wgOf 0).xb
      ∧ ((extended 0).warp 0).xheld.getLsbD 7 = false ∧ (∀ x ∈ (grp 1).acts, (extended 0).open (grp 1) [] ((extended 0).wrElems x (some { n := 63 })))
      ∧ (∀ x ∈ (grp 1).acts, (extended 0).calm ((extended 0).wrElems x (some { n := 63 }))) ∧ ((extended 0).quad 0).xq = []
      ∧ 1 ≤ (extended 0).exfree 0)
    ∧ ((extended 128).issues ⟨false, 0⟩ 1 (grp 1) ∧ ((extended 128).warp 0).xheld.getLsbD 7 = true
      ∧ ∀ x ∈ (grp 1).acts, (extended 128).open (grp 1) [] ((extended 128).wrElems x (some { n := 63 })))
    ∧ (let s := (extended 0).modQuad 0 (fun q => { q with xq := [(1, 0)] })
       s.issues ⟨false, 0⟩ 1 (grp 1) ∧ (s.quad 0).xq ≠ [] ∧ ∀ x ∈ (grp 1).acts, s.open (grp 1) [] (s.wrElems x (some { n := 63 }))) := by
  simp only [State.issues, State.open, State.calm, State.ripe]; decide +kernel
theorem witness_WindowAndBlocks_released : ∀ row, 64 + 32 * 7 ≤ row ∧ row < 96 + 32 * 7 → (extended 128).pendRow 0 row = [] := by
  intro row _; rfl
theorem witness_TrapEntry : (handled one).issues ⟨false, 0⟩ 1 (grp 1)
    ∧ ∀ x ∈ (grp 1).acts, ((handled one).thread x.1 x.2).tmode = false ∧ ((handled one).ctx ((handled one).kernelOf x.1).ctx).tvec ≠ 0 := by
  simp only [State.issues]; decide +kernel
/-- The thread is in trap mode, to return to 0x10040. -/
def trapped (s : State) : State := s.modThread 0 0 (fun t => { t with tmode := true, tepc := 0x10040, tcause := 5 })
theorem witness_ThreadHalts : ∀ s ∈ [two, trapped (handled two)],
    s.issues ⟨false, 0⟩ 1 (grp 1) ∧ (∃ j < 32, j ≠ 0 ∧ (s.thread 0 j).st.alive = true) ∧ s.watches = []
    ∧ ((s.thread 0 0).tmode = true ∨ (s.ctx (s.kernelOf 0).ctx).tvec = 0) ∧ (s.kernelOf 0).ctx < 2 ^ 16 ∧ (s.wgOf 0).idx < 2 ^ 24
    ∧ (s.warp 0).wid < 32 ∧ 0 < 2 ^ 15 ∧ (s.kernelOf 0).queue < 256 ∧ (s.ctx (s.kernelOf 0).ctx).fabase % 128 = 0
    ∧ (s.mem.read (s.ctx (s.kernelOf 0).ctx).fabase 4 + 2 ^ 32 - s.mem.read ((s.ctx (s.kernelOf 0).ctx).fabase + 4) 4) % 2 ^ 32 < 4096
    ∧ s.lineBad ((s.ctx (s.kernelOf 0).ctx).fabase / 128) = none := by
  simp only [State.issues]; decide +kernel
theorem witness_ExceptionReturn :
    ((trapped one).issues ⟨true, 0⟩ 1 (grp 1 ⟨true, 0⟩)
      ∧ ∀ x ∈ (grp 1).acts, ((trapped one).thread x.1 x.2).tmode = true ∧ ((trapped one).thread x.1 x.2).tepc.toNat % 4 = 0)
    ∧ ((handled one).issues ⟨true, 0⟩ 1 (grp 1 ⟨true, 0⟩)
      ∧ ∀ x ∈ (grp 1).acts, ((handled one).thread x.1 x.2).tmode = false ∧ ((handled one).ctx ((handled one).kernelOf x.1).ctx).tvec ≠ 0) := by
  simp only [State.issues]; decide +kernel
/-- A reduction of the thread is outstanding. -/
def reducing : State := { one with kreqs := [⟨0, 0, 0, 0x20000, .add, false, 1, 0x20000, 0, 0, false⟩] }
theorem witness_OrderingInstructions :
    (one.issues ⟨false, 0⟩ 1 (grp 1) ∧ (∀ x ∈ (grp 1).acts, one.outstanding x.1 x.2 = false ∧ one.tilePending x.1 = false
      ∧ one.open (grp 1) (one.rdElems (grp 1) x (own 63)) []))
    ∧ (reducing.issues ⟨false, 0⟩ 1 (grp 1) ∧ ∀ x ∈ (grp 1).acts, reducing.outstanding x.1 x.2 = true) := by
  simp only [State.issues, State.open, State.calm, State.ripe]; decide +kernel
/-- A workgroup of two warps and one roster beside the homeroom, whose members are a mask. -/
def rostered (members : Word) : State := inWg pair (fun g => { g with nrost := 1, rosters := g.rosters.put 1 { (default : Roster) with st := .standing, members, phase := 7 } })
theorem witness_Rosters_call : let s := rostered 1
    s.issues ⟨false, 0⟩ 1 (grp 1) ∧ (grp 1).acts = (s.warp 0).aliveLanes.map (fun l => (0, l))
    ∧ (∀ x ∈ (grp 1).acts, (s.thread x.1 x.2).tmode = false ∧ s.quiet x) ∧ 1 ≤ (s.wgOf 0).nrost ∧ (s.kernelOf 0).repeatable = false
    ∧ s.slotOf (s.warp 0).wg (s.warp 0).wid = some 0 ∧ (s.rosterAt 0 1).st ≠ .unused
    ∧ (s.rosterAt 0 1).members = (1 : Word) <<< (s.warp 0).wid ∧ (∀ x ∈ (grp 1).acts, s.open (grp 1) [] (s.wrElems x (some { n := 8 }))) := by
  simp only [State.issues, State.open, State.calm, State.ripe, State.quiet]; decide +kernel
theorem witness_Rosters_wait : let s := rows (rostered 3) [(9, 7), (10, 8)]
    s.issues ⟨false, 0⟩ 1 (grp 1) ∧ (grp 1).acts = (s.warp 0).aliveLanes.map (fun l => (0, l))
    ∧ (∀ x ∈ (grp 1).acts, (s.thread x.1 x.2).tmode = false ∧ s.quiet x) ∧ s.slotOf (s.warp 0).wg (s.warp 0).wid = some 0
    ∧ (s.rosterAt 0 1).st = .standing ∧ (s.rosterAt 0 1).members.getLsbD 0 = true
    ∧ (∃ w < 32, w ≠ 0 ∧ (s.rosterAt 0 1).members.getLsbD w = true ∧ s.arrived 0 (s.rosterAt 0 1) w = false)
    ∧ (∀ x ∈ (grp 1).acts, s.open (grp 1) (s.fieldElems x 9 false) [] ∧ s.open (grp 1) (s.fieldElems x 10 false) []
      ∧ ((s.rosterAt 0 1).phase - (s.elemsVal (s.fieldElems x 9 false)).setWidth 16).toNat < 2 ^ 15
      ∧ ¬ ((s.rosterAt 0 1).phase - (s.elemsVal (s.fieldElems x 10 false)).setWidth 16).toNat < 2 ^ 15) := by
  simp only [State.issues, State.open, State.calm, State.ripe, State.quiet]; decide +kernel
theorem witness_Rosters_trap : let s := trapped two
    s.issues ⟨false, 0⟩ 1 (grp 1) ∧ (s.thread 0 0).tmode = true ∧ (∃ j < 32, j ≠ 0 ∧ (s.thread 0 j).st.alive = true) ∧ s.watches = [] := by
  simp only [State.issues]; decide +kernel
-- Memory ---------------------------------------------------------------------------------------------------------------------------------

/-- The thread with the address in v8 and v9, and a word in v10. -/
def at8 (v : Word) (s : State := one) : State := rows s [(8, v), (9, 0), (10, 5)]
/-- What an access of the placed page finds. -/
def acc (va : DWord) : Acc := ⟨va, .mem va.toNat 0, placedTrans⟩
/-- The kernel is repeatable. -/
def repeated (s : State) : State := { s with kernels := s.kernels.modify 0 (fun k => { k with line0 := setFld k.line0 609 1 1 }) }

theorem witness_GlobalLoads : let s := at8 0x1FFFC
    s.solo ⟨false, 0⟩ 1 (grp 1) (0, 0) ∧ s.open (grp 1) (s.fieldElems (0, 0) 8 true) (s.dataElems (0, 0) 63 .z32)
    ∧ s.access (.lane 0 0) (s.ctxOf 0) (widthBytes .z32) (s.elemsVal (s.fieldElems (0, 0) 8 true)) (loadKind .z32) = .ok (acc 0x1FFFC)
    ∧ (acc 0x1FFFC).t = .mem 0x1FFFC 0 ∧ s.sees 0 .plain 0x1FFFC 0 { data := 0, tag := 0, scales := 0 } := by
  simp only [State.solo, State.issues, State.open, State.calm, State.ripe, State.quiet]
  and_intros <;> decide +kernel
theorem witness_GlobalStores : let s := at8 0x10200
    s.solo ⟨false, 0⟩ 1 (grp 1) (0, 0) ∧ s.open (grp 1) (s.fieldElems (0, 0) 8 true ++ s.dataElems (0, 0) 62 .z64) [] ∧ s.repeatableOf 0 = false
    ∧ s.access (.lane 0 0) (s.ctxOf 0) (widthBytes .z64) (s.elemsVal (s.fieldElems (0, 0) 8 true)) (storeKind .z64) = .ok (acc 0x10200)
    ∧ (acc 0x10200).t = .mem 0x10200 0 ∧ s.mergeBad 0x10200 0 = none ∧ s.unwatched 0x10200 8 ∧ s.unkept 0x10200 8 := by
  simp only [State.solo, State.issues, State.open, State.calm, State.ripe, State.quiet, State.unwatched, State.unkept, State.untabled]; decide +kernel
/-- The placed page as an I/O page. -/
def ioTrans : Trans := { placedTrans with leaf := placedLeaf ||| 0x600 }
theorem witness_GlobalStores_io : let s := { (repeated (at8 0x10200)) with clusters := one.clusters.modify 0 (fun c => { c with tlb := [ioTrans] }) }
    s.solo ⟨false, 0⟩ 1 (grp 1) (0, 0) ∧ s.repeatableOf 0 = true ∧ s.mergeBad 0x10200 3 = none ∧ s.unkept 0x10200 4
    ∧ s.access (.lane 0 0) (s.ctxOf 0) (widthBytes .z32) (s.elemsVal (s.fieldElems (0, 0) 8 true)) (storeKind .z32) = .ok ⟨0x10200, .mem 0x10200 3, ioTrans⟩ := by
  simp only [State.solo, State.issues, State.quiet, State.unkept, State.untabled]; decide +kernel
theorem witness_GlobalStores_buffered : let s := repeated (at8 0x10200)
    s.solo ⟨false, 0⟩ 1 (grp 1) (0, 0) ∧ s.open (grp 1) (s.fieldElems (0, 0) 8 true ++ s.dataElems (0, 0) 62 .z64) [] ∧ s.repeatableOf 0 = true
    ∧ s.access (.lane 0 0) (s.ctxOf 0) (widthBytes .z64) (s.elemsVal (s.fieldElems (0, 0) 8 true)) (storeKind .z64) = .ok (acc 0x10200)
    ∧ (acc 0x10200).t = .mem 0x10200 0 ∧ (0 : Nat) ≠ 3 ∧ s.bufRoom 0 (acc 0x10200).t = true := by
  simp only [State.solo, State.issues, State.open, State.calm, State.ripe, State.quiet]; decide +kernel
theorem witness_AccessTraps : let s := handled (at8 0x10201)
    s.solo ⟨false, 0⟩ 1 (grp 1) (0, 0) ∧ (s.thread 0 0).tmode = false ∧ (s.ctx (s.kernelOf 0).ctx).tvec ≠ 0
    ∧ s.open (grp 1) (s.fieldElems (0, 0) 8 true ++ s.dataElems (0, 0) 62 .z64) []
    ∧ (s.elemsVal (s.fieldElems (0, 0) 8 true)).toNat % widthBytes .z64 ≠ 0 := by
  simp only [State.solo, State.issues, State.open, State.calm, State.ripe, State.quiet]; decide +kernel
/-- The placed page without write permission. -/
def unwritable (s : State) : State :=
  { s with clusters := s.clusters.modify 0 (fun c => { c with tlb := [{ placedTrans with leaf := placedLeaf &&& ~~~0x40#64 }] }) }
theorem witness_AccessTraps_write : let s := unwritable (handled (at8 0x10208))
    s.solo ⟨false, 0⟩ 1 (grp 1) (0, 0) ∧ (s.thread 0 0).tmode = false ∧ (s.ctx (s.kernelOf 0).ctx).tvec ≠ 0
    ∧ s.open (grp 1) (s.fieldElems (0, 0) 8 true ++ s.dataElems (0, 0) 62 .z64) []
    ∧ (s.elemsVal (s.fieldElems (0, 0) 8 true)).toNat % widthBytes .z64 = 0 ∧ canonical (s.elemsVal (s.fieldElems (0, 0) 8 true)) = true
    ∧ let tr := { placedTrans with leaf := placedLeaf &&& ~~~0x40#64 }
      s.heldTrans 0 0 (s.ctxOf 0) (s.elemsVal (s.fieldElems (0, 0) 8 true)) = some tr ∧ tr.leaf.getLsbD 6 = false := by
  simp only [State.solo, State.issues, State.open, State.calm, State.ripe, State.quiet]; decide +kernel
/-- A scratchpad region of 512 bytes. -/
def padded (s : State) : State := inWg s (fun g => { g with scr := 512 })
/-- The hypotheses of `ScratchpadAccess` at an address. -/
def PadAt (v : Word) : Prop := let s := padded (at8 v)
    s.solo ⟨false, 0⟩ 1 (grp 1) (0, 0) ∧ (s.elemsVal (s.fieldElems (0, 0) 8 false)).toNat % widthBytes .z32 = 0
    ∧ (s.elemsVal (s.fieldElems (0, 0) 8 false)).toNat + widthBytes .z32 ≤ (s.wgOf 0).scr
    ∧ s.open (grp 1) (s.fieldElems (0, 0) 8 false) (s.dataElems (0, 0) 63 .z32)
    ∧ s.open (grp 1) (s.fieldElems (0, 0) 8 false ++ s.dataElems (0, 0) 63 .z32) []
theorem witness_ScratchpadAccess : PadAt 0 := by
  simp only [PadAt, State.solo, State.issues, State.open, State.calm, State.ripe, State.quiet]; decide +kernel
theorem witness_ScratchpadAccess_last : PadAt 508 := by
  simp only [PadAt, State.solo, State.issues, State.open, State.calm, State.ripe, State.quiet]; decide +kernel
/-- A shape of one dimension of four words at a base, in memory or the scratchpad. -/
def shapeRec (base : Nat) (pad : Bool) : LineBits :=
  setFld (setFld (setFld (setFld (setFld (setFld 0 0 64 base) 64 3 1) 72 3 4) 88 1 (if pad then 1 else 0)) 128 32 4) 384 64 4
def shaped (base : Nat) (pad : Bool) (coord : Word) : State :=
  (padded (rows one [(8, coord)])).modWarp 0 (fun w => { w with shapes := w.shapes.put 7 (shapeRec base pad) })
theorem witness_ShapedAccess : let s := shaped 0x10200 false 3
    let r := shapeRec 0x10200 false
    s.solo ⟨false, 0⟩ 1 (grp 1) (0, 0) ∧ (s.warp 0).shapes.find 7 = some r ∧ s.pendShape 0 7 = [] ∧ 8 + shpRank r ≤ 128
    ∧ (shpWidth r = .z64 → (63 : VReg).toNat % 2 = 0)
    ∧ (List.range (shpRank r)).all (fun j => decide (0 ≤ ((s.warp 0).elem (rowOf (s.thread 0 0) (8 + j)) 0).toInt)
        && decide (((s.warp 0).elem (rowOf (s.thread 0 0) (8 + j)) 0).toInt < shpDim r j)) = true
    ∧ shpSpace r = false ∧ s.open (grp 1) (s.coordElems (0, 0) 8 (shpRank r)) (s.dataElems (0, 0) 63 (shpWidth r))
    ∧ s.open (grp 1) (s.coordElems (0, 0) 8 (shpRank r) ++ s.dataElems (0, 0) 63 (shpWidth r)) [] ∧ s.repeatableOf 0 = false
    ∧ s.access (.lane 0 0) (s.ctxOf 0) 4 0x1020C (loadKind .z32) = .ok (acc 0x1020C)
    ∧ s.access (.lane 0 0) (s.ctxOf 0) 4 0x1020C (storeKind (storeWidth .z32)) = .ok (acc 0x1020C)
    ∧ s.sees 0 .plain 0x1020C 0 { data := 0, tag := 0, scales := 0 } ∧ s.mergeBad 0x1020C 0 = none ∧ s.unwatched 0x1020C 4 ∧ s.unkept 0x1020C 4 := by
  simp only [State.solo, State.issues, State.open, State.calm, State.ripe, State.quiet, State.unwatched, State.unkept, State.untabled]
  and_intros <;> decide +kernel
theorem witness_ShapedAccess_pad : let s := shaped 496 true 3
    let r := shapeRec 496 true
    s.solo ⟨false, 0⟩ 1 (grp 1) (0, 0) ∧ (s.warp 0).shapes.find 7 = some r ∧ shpSpace r = true
    ∧ (List.range (shpRank r)).all (fun j => decide (0 ≤ ((s.warp 0).elem (rowOf (s.thread 0 0) (8 + j)) 0).toInt)
        && decide (((s.warp 0).elem (rowOf (s.thread 0 0) (8 + j)) 0).toInt < shpDim r j)) = true
    ∧ shpBase r + ((List.range (shpRank r)).map (fun j => ((s.warp 0).elem (rowOf (s.thread 0 0) (8 + j)) 0).toInt * shpStride r j)).sum = 508
    ∧ 508 + 4 ≤ (s.wgOf 0).scr ∧ (s.wgOf 0).spanAt 508 = shpSwz r
    ∧ s.open (grp 1) (s.coordElems (0, 0) 8 (shpRank r)) (s.dataElems (0, 0) 63 (shpWidth r))
    ∧ s.open (grp 1) (s.coordElems (0, 0) 8 (shpRank r) ++ s.dataElems (0, 0) 63 (shpWidth r)) [] := by
  simp only [State.solo, State.issues, State.open, State.calm, State.ripe, State.quiet]; decide +kernel
/-- The hypotheses of the last clause of `ShapedAccess` at a coordinate. -/
def OutsideAt (v : Word) : Prop := let s := shaped 0x10200 false v
    let r := shapeRec 0x10200 false
    s.solo ⟨false, 0⟩ 1 (grp 1) (0, 0) ∧ shpClip r = false
    ∧ (List.range (shpRank r)).all (fun j => decide (0 ≤ ((s.warp 0).elem (rowOf (s.thread 0 0) (8 + j)) 0).toInt)
        && decide (((s.warp 0).elem (rowOf (s.thread 0 0) (8 + j)) 0).toInt < shpDim r j)) = false
theorem witness_ShapedAccess_outside : OutsideAt 4 := by
  simp only [OutsideAt, State.solo, State.issues, State.quiet]; decide +kernel
theorem witness_ShapedAccess_below : OutsideAt 0xFFFFFFFF := by
  simp only [OutsideAt, State.solo, State.issues, State.quiet]; decide +kernel
theorem witness_LineAccess : let s := at8 0x1FF80
    s.issues ⟨false, 0⟩ 1 (grp 1) ∧ s.whole (grp 1) 0 ∧ (∀ x ∈ (grp 1).acts, s.quiet x) ∧ (acc 0x1FF80).t = .mem 0x1FF80 0
    ∧ s.open (grp 1) (s.fieldElems (0, (s.warp 0).liveLanes.headD 0) 8 true) [] ∧ s.rowsOpen (grp 1) 0 [] [s.rowAt 0 63]
    ∧ s.rowsOpen (grp 1) 0 [s.rowAt 0 63] [] ∧ s.repeatableOf 0 = false ∧ s.unwatched (0x1FF80 / 128 * 128) 128 ∧ s.unkept 0x1FF80 128
    ∧ s.access (.lane 0 0) (s.ctxOf 0) 128 (s.elemsVal (s.fieldElems (0, 0) 8 true)) lineLoadKind = .ok (acc 0x1FF80)
    ∧ s.access (.lane 0 0) (s.ctxOf 0) 128 (s.elemsVal (s.fieldElems (0, 0) 8 true)) lineStoreKind = .ok (acc 0x1FF80)
    ∧ s.sees 0 .plain 0x1FF80 0 { data := 0, tag := 0, scales := 0 } := by
  simp only [State.issues, State.whole, State.rowsOpen, State.open, State.calm, State.ripe, State.quiet, State.unwatched, State.unkept, State.untabled]
  and_intros <;> decide +kernel
theorem witness_LineAccess_uniform : let s := unis one [(28, 0x1FF80), (29, 0)]
    s.issues ⟨false, 0⟩ 1 (grp 1) ∧ (∀ x ∈ (grp 1).acts, x.1 = 0 ∧ s.quiet x) ∧ s.uniOpen (grp 1) [28, 29] [30, 31]
    ∧ (28 : SReg).toNat % 2 = 0 ∧ (30 : SReg).toNat % 2 = 0 ∧ s.pendShape 0 7 = []
    ∧ s.access (.lane 0 0) (s.ctxOf 0) (widthBytes .z64) ((s.warp 0).sPair 28) (loadKind .z64) = .ok (acc 0x1FF80)
    ∧ s.sees 0 .fabric 0x1FF80 0 { data := 0, tag := 0, scales := 0 } := by
  simp only [State.issues, State.uniOpen, State.quiet]
  and_intros <;> decide +kernel
/-- A line that holds a shape record. -/
def shapeLine : State := (unis one [(28, 0x1FF80), (29, 0)]).putLine (0x1FF80 / 128) { data := shapeRec 0x10200 false, tag := 0, scales := 0 }
theorem witness_LineAccess_shape : let s := shapeLine
    s.issues ⟨false, 0⟩ 1 (grp 1) ∧ (∀ x ∈ (grp 1).acts, x.1 = 0 ∧ s.quiet x) ∧ s.uniOpen (grp 1) [28, 29] [] ∧ s.pendShape 0 7 = []
    ∧ s.access (.lane 0 0) (s.ctxOf 0) 128 ((s.warp 0).sPair 28) lineLoadKind = .ok (acc 0x1FF80)
    ∧ s.sees 0 .plain 0x1FF80 0 { data := shapeRec 0x10200 false, tag := 0, scales := 0 } ∧ shapeValid (s.seenLine 0 (acc 0x1FF80).t
      { data := shapeRec 0x10200 false, tag := 0, scales := 0 }).data = true := by
  simp only [State.issues, State.uniOpen, State.quiet]
  and_intros <;> decide +kernel
theorem witness_LineAccess_space : let s := padded (rows one [(8, 512)])
    s.issues ⟨false, 0⟩ 1 (grp 1) ∧ s.open (grp 1) (s.fieldElems (0, 0) 8 false) []
    ∧ ∀ x ∈ (grp 1).acts, s.open (grp 1) [] (s.wrElems x (some { n := 63 })) := by
  simp only [State.issues, State.open, State.calm, State.ripe]; decide +kernel
theorem witness_CacheInstructions : let s := at8 0x1FFFF
    s.solo ⟨false, 0⟩ 1 (grp 1) (0, 0) ∧ s.open (grp 1) (s.fieldElems (0, 0) 8 true) []
    ∧ s.access (.lane 0 0) (s.ctxOf 0) 1 (s.elemsVal (s.fieldElems (0, 0) 8 true)) prefKind = .ok (acc 0x1FFFF)
    ∧ s.access (.lane 0 0) (s.ctxOf 0) 1 (s.elemsVal (s.fieldElems (0, 0) 8 true)) cmoKind = .ok (acc 0x1FFFF)
    ∧ (s.l1 (coreOf 0)).find (0x1FFFF / 128) = none ∧ s.lineFault (0x1FFFF / 128) = none
    ∧ ({ s with badLines := [0x1FFFF / 128] } : State).lineFault (0x1FFFF / 128) ≠ none := by
  simp only [State.solo, State.issues, State.open, State.calm, State.ripe, State.quiet]; decide +kernel
theorem witness_Atomics : let s := at8 0x1FFF8
    s.solo ⟨false, 0⟩ 1 (grp 1) (0, 0) ∧ s.open (grp 1) (s.fieldElems (0, 0) 8 true ++ s.atomElems (0, 0) 60 true (KOp.cas == .cas)) []
    ∧ s.open (grp 1) (s.fieldElems (0, 0) 8 true ++ s.atomElems (0, 0) 63 false (KOp.add == .cas)) []
    ∧ s.access (.lane 0 0) (s.ctxOf 0) 8 (s.elemsVal (s.fieldElems (0, 0) 8 true)) atomKind = .ok (acc 0x1FFF8)
    ∧ s.lineFault (0x1FFF8 / 128) = none ∧ s.unwatched 0x1FFF8 8 ∧ s.unkept 0x1FFF8 8 := by
  simp only [State.solo, State.issues, State.open, State.calm, State.ripe, State.quiet, State.unwatched, State.unkept, State.untabled]; decide +kernel
/-- The hypotheses of `Reductions`. -/
def RedAt (s : State) : Prop :=
    s.solo ⟨false, 0⟩ 1 (grp 1) (0, 0) ∧ s.open (grp 1) (s.fieldElems (0, 0) 8 true ++ s.fieldElems (0, 0) 62 (KOp.addZ64 == .addZ64)) []
    ∧ s.access (.lane 0 0) (s.ctxOf 0) 8 (s.elemsVal (s.fieldElems (0, 0) 8 true)) atomKind = .ok (acc 0x1FFF8)
theorem witness_Reductions : RedAt (at8 0x1FFF8) ∧ (at8 0x1FFF8).repeatableOf 0 = false := by
  simp only [RedAt, State.solo, State.issues, State.open, State.calm, State.ripe, State.quiet]; decide +kernel
theorem witness_Reductions_buffered : RedAt (repeated (at8 0x1FFF8)) ∧ (repeated (at8 0x1FFF8)).repeatableOf 0 = true
    ∧ (repeated (at8 0x1FFF8)).bufRoom 0 (acc 0x1FFF8).t = true := by
  simp only [RedAt, State.solo, State.issues, State.open, State.calm, State.ripe, State.quiet]; decide +kernel
/-- What `WaitsAndQueues` asks of a waiting thread whose word is v, with 0 at the address. -/
def WaitAt (v : Word) : Prop := let s := rows (at8 0x10200) [(10, v)]
    s.solo ⟨false, 0⟩ 1 (grp 1) (0, 0) ∧ s.open (grp 1) (s.fieldElems (0, 0) 8 true ++ s.fieldElems (0, 0) 10 false) []
    ∧ s.access (.lane 0 0) (s.ctxOf 0) 4 (s.elemsVal (s.fieldElems (0, 0) 8 true)) waitKind = .ok (acc 0x10200)
    ∧ s.lineFault (0x10200 / 128) = none ∧ (s.elemsVal (s.fieldElems (0, 0) 10 false)).setWidth 32 = v ∧ BitVec.ofNat 32 (s.mem.read 0x10200 4) = 0
theorem witness_WaitsAndQueues_passes : WaitAt 0 ∧ ((0 : Word) - 0).toNat < 2 ^ 31 := by
  simp only [WaitAt, State.solo, State.issues, State.open, State.calm, State.ripe, State.quiet]; decide +kernel
theorem witness_WaitsAndQueues_waits : WaitAt 1 ∧ ¬ ((0 : Word) - 1).toNat < 2 ^ 31 := by
  simp only [WaitAt, State.solo, State.issues, State.open, State.calm, State.ripe, State.quiet]; decide +kernel
theorem witness_WaitsAndQueues_half : WaitAt 0x80000000 ∧ ¬ ((0 : Word) - 0x80000000).toNat < 2 ^ 31 := by
  simp only [WaitAt, State.solo, State.issues, State.open, State.calm, State.ripe, State.quiet]; decide +kernel
/-- The placed page as sync memory. -/
def syncTrans : Trans := { placedTrans with leaf := placedLeaf ||| 0x200 }
def synced (s : State) : State := { s with clusters := s.clusters.modify 0 (fun c => { c with tlb := [syncTrans] }) }
/-- A work queue of two items at 0x10400 with some head, tail and closed bit, and an item in v10 and v11. -/
def queued (head tail closed : Nat) (item hi : Word) : State :=
  ((((rows (synced (at8 0x10400)) [(10, item), (11, hi)]).pokeDev 0x10400 4 head).pokeDev 0x10404 4 tail).pokeDev 0x1040C 1 (16 + closed))
/-- The hypotheses of the queue clauses of `WaitsAndQueues` with a count. -/
def QueueAt (s : State) (count : Nat) : Prop :=
    let cap := 2 ^ (s.mem.read (0x10400 + 12) 1 / 16)
    s.solo ⟨false, 0⟩ 1 (grp 1) (0, 0) ∧ 0x10400 % 128 = 0 ∧ s.watches = []
    ∧ s.access (.lane 0 0) (s.ctxOf 0) 128 (s.elemsVal (s.fieldElems (0, 0) 8 true)) queueKind = .ok ⟨0x10400, .mem 0x10400 1, syncTrans⟩ ∧ s.lineFault (0x10400 / 128) = none
    ∧ 2 ≤ cap ∧ cap ≤ 2 ^ 12 ∧ 0x10400 + 128 + 8 * cap ≤ 0x10400 + (syncTrans.base + syncTrans.size - (0x10400 : DWord).toNat)
    ∧ (s.mem.read 0x10404 4 + 2 ^ 32 - s.mem.read 0x10400 4) % 2 ^ 32 = count ∧ count ≤ cap
    ∧ s.open (grp 1) (s.fieldElems (0, 0) 8 true ++ s.fieldElems (0, 0) 10 true) [] ∧ s.open (grp 1) (s.fieldElems (0, 0) 8 true) (s.fieldElems (0, 0) 10 true)
    ∧ populated (0x10400 + 128) = true ∧ s.lineFault ((0x10400 + 128) / 128) = none ∧ s.unkept 0x10400 128 ∧ s.unkept (0x10400 + 128) 8
theorem witness_CacheInstructions_sync : let s := synced (at8 0x1FFFF)
    s.solo ⟨false, 0⟩ 1 (grp 1) (0, 0) ∧ (1 : Nat) ≠ 0 ∧ (1 : Nat) ≠ 2
    ∧ s.access (.lane 0 0) (s.ctxOf 0) 1 (s.elemsVal (s.fieldElems (0, 0) 8 true)) cmoKind = .ok ⟨0x1FFFF, .mem 0x1FFFF 1, syncTrans⟩ := by
  simp only [State.solo, State.issues, State.quiet]; decide +kernel
theorem witness_WaitsAndQueues_empty : QueueAt (queued 0 0 0 3 0) 0 ∧ (queued 0 0 0 3 0).mem.read 0x1040C 1 % 2 ≠ 1 := by
  simp only [QueueAt, State.solo, State.issues, State.open, State.calm, State.ripe, State.quiet, State.unkept, State.untabled]; and_intros <;> decide +kernel
theorem witness_WaitsAndQueues_full : QueueAt (queued 0 2 0 3 0) 2 := by
  simp only [QueueAt, State.solo, State.issues, State.open, State.calm, State.ripe, State.quiet, State.unkept, State.untabled]; and_intros <;> decide +kernel
theorem witness_WaitsAndQueues_closed : QueueAt (queued 0 0 1 3 0) 0 ∧ (queued 0 0 1 3 0).mem.read 0x1040C 1 % 2 = 1 := by
  simp only [QueueAt, State.solo, State.issues, State.open, State.calm, State.ripe, State.quiet, State.unkept, State.untabled]; and_intros <;> decide +kernel
theorem witness_WaitsAndQueues_close : QueueAt (queued 0 1 0 0xFFFFFFFF 0xFFFFFFFF) 1
    ∧ let s := queued 0 1 0 0xFFFFFFFF 0xFFFFFFFF
      s.elemsVal (s.fieldElems (0, 0) 10 true) = qClosed := by
  simp only [QueueAt, State.solo, State.issues, State.open, State.calm, State.ripe, State.quiet, State.unkept, State.untabled]; and_intros <;> decide +kernel
-- Tiles, the matrix unit, engines, KV pages --------------------------------------------------------------------------------------------

/-- The workgroup holds every tile, of shape one row of one line in E4M3. -/
def tiled (s : State) : State := inWg s (fun g => { g with held := 0xFFFF, mshp := g.mshp.put 15 0x1000 })
/-- The warp is a member of roster 1, bound to matrix context 1 where `b`. -/
def matrixed (b : Bool) : State :=
  let s := inWg (tiled one) (fun g => { g with nrost := 1, rosters := g.rosters.put 1 { (default : Roster) with st := .standing, members := 1, bound := if b then some 1 else none } })
  if b then s.modMatrix 0 1 (fun m => { m with roster := some (0, 1) }) else s
theorem witness_TileAccess_pad : let s := padded (rows (tiled one) [(8, 384), (9, 0), (10, 128)])
    let elem := fun (i : Nat) => s.fieldElems (0, (s.warp 0).liveLanes.headD 0) (8 + i) false
    s.issues ⟨false, 0⟩ 1 (grp 1) ∧ s.whole (grp 1) 0 ∧ (∀ x ∈ (grp 1).acts, s.quiet x) ∧ s.tileHeld 0 15 = true ∧ s.tileBusy (s.warp 0).wg 15 = false
    ∧ (∀ i < 3, ∀ e ∈ elem i, s.elemHeld e = true) ∧ (s.elemsVal (elem 2)).toNat % 128 = 0 ∧ (s.elemsVal (elem 0)).toNat % 128 = 0
    ∧ s.open (grp 1) (elem 0 ++ elem 2) [] ∧ shLines (s.tileShape 0 15) = 1 ∧ (s.elemsVal (elem 0)).toNat + 128 ≤ (s.wgOf 0).scr := by
  simp only [State.issues, State.whole, State.open, State.calm, State.ripe, State.quiet]; decide +kernel
theorem witness_TileAccess_memory : let s := rows (tiled one) [(8, 0x1FF80), (9, 0), (10, 128)]
    let elem := fun (i : Nat) => s.fieldElems (0, (s.warp 0).liveLanes.headD 0) (8 + i) false
    s.issues ⟨false, 0⟩ 1 (grp 1) ∧ s.whole (grp 1) 0 ∧ s.tileHeld 0 3 = true ∧ s.tileBusy (s.warp 0).wg 3 = false ∧ s.open (grp 1) (elem 0 ++ elem 1 ++ elem 2) []
    ∧ shLines (s.tileShape 0 3) = 1 ∧ shTag (s.tileShape 0 3) = 0
    ∧ s.access (.lane 0 0) (s.ctxOf 0) 128 0x1FF80 lineLoadKind = .ok (acc 0x1FF80) ∧ s.access (.lane 0 0) (s.ctxOf 0) 128 0x1FF80 lineStoreKind = .ok (acc 0x1FF80)
    ∧ (s.l1 (coreOf 0)).length + (s.core (s.l1Home (coreOf 0))).copies.length + 1 ≤ s.l1Lines (coreOf 0) ∧ s.repeatableOf 0 = false ∧ s.unwatched 0x1FF80 128 ∧ s.unkept 0x1FF80 128 ∧ s.sees 0 .plain 0x1FF80 0 { data := 0, tag := 0, scales := 0 } := by
  simp only [State.issues, State.whole, State.open, State.calm, State.ripe, State.unwatched, State.unkept, State.untabled]
  and_intros <;> decide +kernel
theorem witness_TileAccess_shape : let s := unis (tiled one) [(5, 0x9000 + 0x3F + 0x300)]
    let x := (s.warp 0).s 5
    s.issues ⟨false, 0⟩ 1 (grp 1) ∧ s.tileHeld 0 3 = true ∧ s.tileBusy (s.warp 0).wg 3 = false ∧ (∀ u ∈ (grp 1).acts, u.1 = 0) ∧ s.uniOpen (grp 1) [5] []
    ∧ x.toNat / 2 ^ 12 % 16 < 10 ∧ x.toNat / 2 ^ 16 = 0 ∧ x.toNat / 2 ^ 10 % 4 = 0 ∧ (x.toNat % 256 + 1) * (x.toNat / 256 % 4 + 1) ≤ 256 := by
  simp only [State.issues, State.uniOpen]; decide +kernel
/-- A warp waits for a matrix context, which is free. -/
def converting : State := ((matrixed false).modCore 0 (fun c => { c with mconvQ := [(0, 1)] })).modThread 0 0 (fun t => { t with st := .waiting, why := .mconv 1 })
theorem witness_MatrixContexts_grant : let s := converting
    (s.core 0).mconvQ = [(0, 1)] ∧ s.memberOf 0 1 = true ∧ (s.wgOf 0).core = 0 ∧ (s.rosterAt 0 1).bound = none ∧ (s.matrix 0 0).roster = none := by
  decide +kernel
theorem witness_MatrixContexts_free : let s := matrixed false
    s.issues ⟨false, 0⟩ 1 (grp 1) ∧ (∀ x ∈ (grp 1).acts, x.1 = 0) ∧ s.rosterDeclared 0 1 = true ∧ (s.wgOf 0).core = 0 ∧ s.memberOf 0 1 = true
    ∧ (s.rosterAt 0 1).bound = none ∧ (s.core 0).mconvQ = [] ∧ (s.matrix 0 1).roster = none
    ∧ (∀ x ∈ (grp 1).acts, s.open (grp 1) [] (s.wrElems x (some { n := 127 - 80 }))) := by
  simp only [State.issues, State.open, State.calm, State.ripe]; decide +kernel
theorem witness_MatrixContexts_taken : let s := ((matrixed false).modMatrix 0 0 (fun m => { m with roster := some (9, 0) })).modMatrix 0 1 (fun m => { m with roster := some (9, 1) })
    s.issues ⟨false, 0⟩ 1 (grp 1) ∧ (s.rosterAt 0 1).bound = none ∧ s.memberOf 0 1 = true ∧ (s.matrix 0 0).roster ≠ none ∧ (s.matrix 0 1).roster ≠ none := by
  simp only [State.issues]; decide +kernel
/-- A waiter is in the queue though a context is free. -/
theorem witness_MatrixContexts_queued : let s := (matrixed false).modCore 0 (fun c => { c with mconvQ := [(16, 1)] })
    s.issues ⟨false, 0⟩ 1 (grp 1) ∧ (s.rosterAt 0 1).bound = none ∧ s.memberOf 0 1 = true ∧ (s.core 0).mconvQ ≠ [] ∧ (s.matrix 0 0).roster = none := by
  simp only [State.issues]; decide +kernel
theorem witness_MatrixContexts_bound : let s := matrixed true
    s.issues ⟨false, 0⟩ 1 (grp 1) ∧ s.rosterDeclared 0 1 = true ∧ s.memberOf 0 1 = true ∧ (s.rosterAt 0 1).bound = some 1
    ∧ (grp 1).acts = (s.warp 0).liveLanes.map (fun l => (0, l)) ∧ (s.rosterAt 0 1).gath = [] ∧ (∀ j < 2, (s.matrix 0 j).ops = []) ∧ (s.rosterAt 0 1).fails.get 0 = [] := by
  simp only [State.issues]; decide +kernel
theorem witness_MatrixContexts_failed : let s := handled ((matrixed true).modRoster 0 1 (fun r => { r with fails := r.fails.put 0 [⟨0, 4, 0, 0⟩] }))
    s.issues ⟨false, 0⟩ 1 (grp 1) ∧ (s.rosterAt 0 1).bound = some 1 ∧ (s.rosterAt 0 1).fails.get 0 = [⟨0, 4, 0, 0⟩] ∧ (s.ctx (s.kernelOf 0).ctx).tvec ≠ 0
    ∧ (s.rosterAt 0 1).gath = [] ∧ ∀ j < 2, (s.matrix 0 j).ops = [] := by
  simp only [State.issues]; decide +kernel
theorem witness_JointIssue : let s := unis (matrixed true) [(56, 0xC01)]
    s.issues ⟨false, 0⟩ 1 (grp 1) ∧ s.whole (grp 1) 0 ∧ s.rosterDeclared 0 1 = true ∧ s.memberOf 0 1 = true ∧ (s.rosterAt 0 1).bound ≠ none
    ∧ (s.rosterAt 0 1).issued.get 0 ≤ (s.rosterAt 0 1).started ∧ s.tileHeld 0 15 = true
    ∧ s.uniOpen (grp 1) ([56, 57, 58, 59, 60, 61, 62].map (BitVec.ofNat 6)) [] ∧ s.uniOpen (grp 1) ([28, 29, 30, 31].map (BitVec.ofNat 6)) [] := by
  simp only [State.issues, State.whole, State.uniOpen]; decide +kernel
theorem witness_JointIssue_rows : let s := unis (matrixed true) [(56, 1), (60, 1)]
    let rs := (List.range (drnLines (((s.warp 0).s 56).toNat % 16) (((s.warp 0).s 60).toNat % 512))).map (fun j => s.rowAt 0 63 + j)
    s.rowsOpen (grp 1) 0 [] rs ∧ rs = [63] := by
  simp only [State.rowsOpen]; decide +kernel
theorem witness_MatrixOperations_start : let s := (matrixed true).modRoster 0 1 (fun r => { r with issued := r.issued.put 0 1, gath := [⟨0, .mldw 15, [], none, 0, false, false⟩] })
    (s.roster 0 1).bound = some 1 ∧ (s.roster 0 1).gath ≠ [] ∧ (s.roster 0 1).members ≠ 0
    ∧ ∀ w < 32, (s.roster 0 1).members.getLsbD w = true → (s.roster 0 1).started < (s.roster 0 1).issued.get w := by
  decide +kernel
/-- A started operation of the roster, with the registers it captured. -/
def opOf (i : MIns) (vs : List Word) : MatOp := {
  id := 0, wg := 0, slot := 1, kernel := 0, widx := 0, caps := [⟨0, i, vs, none, 0, false, false⟩], members := [0]
  tiles := [(14, ⟨0x1000, some []⟩), (15, ⟨0x1000, some []⟩)], tainted := false, born := 0 }
/-- An operation of the roster has started; a latch of one column is held or not. -/
def operating (i : MIns) (latch : Bool) (vs : List Word := []) : State := (matrixed true).modMatrix 0 1 (fun m => { m with
  ops := [opOf i vs], latch := if latch then some ⟨1, 4, [List.replicate 4 ⟨127, 0⟩]⟩ else none })
theorem witness_MatrixOperations_latch : ((operating (.mldw 15) false).matrix 0 1).ops.length = 1 ∧ shTag 0x1000 = 1 ∧ shRows 0x1000 ≤ 128 := by
  decide +kernel
theorem witness_MatrixOperations_multiply : let s := operating (.mma false 15) true
    ∃ l, (s.matrix 0 1).latch = some l ∧ l.kb ≤ tagBlocks (shTag 0x1000) * shWidth 0x1000 ∧ l.cols.length ≤ 128 ∧ ∀ col ∈ l.cols, col.length = l.kb :=
  ⟨_, rfl, by decide +kernel, by decide +kernel, by decide +kernel⟩
theorem witness_MatrixOperations_nothing : let s := operating (.mma true 15) false
    (s.matrix 0 1).latch = none ∧ (s.wgs.find 0).isSome = true ∧ (s.roster 0 1).st ≠ .unused ∧ (opOf (.mma true 15) []).born = (s.roster 0 1).born := by
  decide +kernel
/-- A command line at 0x1FF80, addressed by s28. -/
def commanded (l : LineBits) : State := (unis one [(28, 0x1FF80), (29, 0)]).putLine (0x1FF80 / 128) { data := l, tag := 0, scales := 0 }
/-- The hypotheses of `EngineIssue` on a command line. -/
def Commands (s : State) (l : LineBits) : Prop :=
    s.issues ⟨false, 0⟩ 1 (grp 1) ∧ (∀ x ∈ (grp 1).acts, x.1 = 0 ∧ s.quiet x) ∧ s.uniOpen (grp 1) [28, 29] [] ∧ s.uniOpen (grp 1) [] [30] ∧ s.watches = []
    ∧ s.access (.lane 0 (((grp 1).acts.map Prod.snd).headD 0)) (s.ctxOf 0) 128 ((s.warp 0).sPair 28) {} = .ok (acc 0x1FF80)
    ∧ s.sees 0 .plain 0x1FF80 0 { data := l, tag := 0, scales := 0 }
/-- A command line: KIND, SCOPE .pkg, fields. -/
def cmdLine (kind : Nat) (fs : List (Nat × Nat × Nat)) : LineBits := fs.foldl (fun l f => setFld l f.1 f.2.1 f.2.2) (BitVec.ofNat 1024 (4 + 256 * kind))
def copyLine : LineBits := cmdLine 0 [(0, 3, 2), (128, 64, 0x10200), (192, 64, 0x10280), (320, 16, 1), (336, 16, 1)]
def gathLine (op : Nat) : LineBits := cmdLine op [(64, 64, 0x300000), (48, 16, 9), (128, 64, 0x200004), (192, 32, 1), (224, 64, 0x280000), (288, 32, 128), (320, 32, 5), (352, 5, 1), (384, 64, 0x240000)]
def collLine : LineBits := cmdLine 3 [(64, 64, 0x300000), (128, 64, 0x200000), (192, 64, 0x280000), (256, 64, 0x240000), (352, 11, 1), (374, 2, 2), (384, 32, 1)]
def repLine : LineBits := cmdLine 4 [(64, 64, 0x300000), (128, 64, 0x200000), (192, 64, 0x200000), (256, 64, 0x240000), (352, 11, 1), (376, 6, 2), (384, 32, 1), (416, 32, 1),
  (448, 8, 0), (456, 8, 1), (464, 8, 2), (608, 32, 0x3F800000), (640, 32, 0x3F800000), (672, 32, 0x3F800000)]
theorem witness_EngineIssue_copy : Commands (commanded copyLine) copyLine ∧ cpyValid copyLine ((commanded copyLine).wgOf 0).scr 1 = true
    ∧ (((commanded copyLine).cluster 0).chans.get 15).queue.length < 8 := by
  simp only [Commands, State.issues, State.uniOpen, State.quiet]
  and_intros <;> decide +kernel
theorem witness_EngineIssue_valid : gsValid (gathLine 1) 1 = true ∧ gsValid (gathLine 2) 2 = true ∧ collValid collLine = true ∧ repValid repLine = true := by
  decide +kernel
/-- The context maps every address below 512 MiB to itself. -/
def mapped (s : State) : State :=
  (({ s with ctxs := s.ctxs.modify 1 (fun c => { c with cb := setFld c.cb 0 64 0x40000 }) }).putLine (0x40000 / 128) { data := 0x60001, tag := 0, scales := 0 }).putLine
    (0x60000 / 128) { data := 0x18C7, tag := 0, scales := 0 }
/-- The translation of that mapping for its first pages. -/
def mapTrans : Trans := { ctx := 1, base := 0, size := 2 ^ 29, leaf := 0x18C7, pte := 0x60000, count := 0 }
/-- Context 1's access of an agent through that mapping finds its address in this package. -/
theorem maps_at {s : State} {va v : DWord} {pa : Nat} {k : AccKind} (h : s.access .agent 1 128 va k = .ok ⟨v, .mem pa 0, mapTrans⟩) : s.agentAt 1 va k pa :=
  agent_at (mt := 0) h rfl
/-- The line so read, intact. -/
theorem maps_sees {s : State} {va : DWord} {l : Line} (h : s.access .agent 1 128 va lineLoadKind = .ok ⟨va, .mem va.toNat 0, mapTrans⟩)
    (f : s.lineFault (va.toNat / 128) = none ∧ s.line (va.toNat / 128) = l) : s.agentSees 1 va l := ⟨va.toNat, maps_at h, f⟩
theorem witness_mapped : (mapped one).agentAt 1 0x200000 lineLoadKind 0x200000 ∧ (mapped one).lineFault (0x200000 / 128) = none :=
  ⟨maps_at (v := 0x200000) (by decide +kernel), by decide +kernel⟩
/-- What `MatrixResults` asks of the context: its oldest operation, started, of which nothing is undefined. -/
def Finishing (s : State) (p : MatOp) (i : MIns) (vs : List Word) : Prop :=
  (s.matrix 0 1).ops = [p] ∧ p.caps ≠ [] ∧ (∀ u ∈ p.caps, u.ins = i ∧ u.vals = vs ∧ u.early = false) ∧ p.tainted = false ∧ (s.matrix 0 1).leaving = false
def mmvVals : List Word := [0x200000, 0, 0x10001, 0]
def multiplying : State := (mapped (operating (.mmv 2 1 15) false mmvVals)).putLine (0x200000 / 128) { data := 0, tag := 1, scales := 0 }
theorem witness_MatrixResults_mmv : Finishing multiplying (opOf (.mmv 2 1 15) mmvVals) (.mmv 2 1 15) mmvVals
    ∧ (multiplying.kernel 0).ctx = 1 ∧ (shTag 0x1000, shLines 0x1000 / 1, tagBlocks 1, rateOf 1) = (1, 1, 4, 2) := by
  refine ⟨⟨rfl, ?_, ?_, rfl, ?_⟩, ?_⟩ <;> decide +kernel
theorem witness_MatrixResults_weights : multiplying.agentSees 1 (0x200000 + BitVec.ofNat 64 (0 * 0 + 128 * 0)) { data := 0, tag := 1, scales := 0 } :=
  maps_sees (by decide +kernel) (by decide +kernel)
def paired : Latch := ⟨1, 4, [List.replicate 4 ⟨127, 0⟩]⟩
theorem witness_MatrixResults_mdual : let s := operating (.mdual false false 14 15) true
    Finishing s (opOf (.mdual false false 14 15) []) (.mdual false false 14 15) [] ∧ (s.matrix 0 1).latch = some paired ∧ (∀ col ∈ paired.cols, col.length = paired.kb)
    ∧ shRows 0x1000 * (32 * paired.kb) ≤ 32768 ∧ paired.kb ≤ tagBlocks (shTag 0x1000) * shWidth 0x1000 := by
  refine ⟨⟨rfl, ?_, ?_, rfl, ?_⟩, rfl, ?_⟩ <;> decide +kernel
/-- FMT 1, MODE 4, ZERO; one row of BANK from row 0; BASE 0x280000. -/
def drnVals : List Word := [0x1101, 0, 0, 0, 1, 0x280000, 0]
theorem witness_MatrixResults_mdrn : let s := operating (.drnT false 15 0) false drnVals
    Finishing s (opOf (.drnT false 15 0) drnVals) (.drnT false 15 0) drnVals ∧ (s.wgs.find 0).isSome = true ∧ (s.roster 0 1).st ≠ .unused
    ∧ (opOf (.drnT false 15 0) drnVals).born = (s.roster 0 1).born ∧ (s.matrix 0 (1 - 1)).ops = []
    ∧ (blockLines 1 (List.replicate 4 ([], 0))).length ≤ shLines 0x1000 := by
  refine ⟨⟨rfl, ?_, ?_, rfl, ?_⟩, ?_⟩ <;> decide +kernel
def landingOp : MatOp := { opOf (.drnV false 7 0) drnVals with caps := [⟨0, .drnV false 7 0, drnVals, some 7, 0, false, false⟩] }
def drainingRows : State :=
  { (operating (.drnV false 7 0) false drnVals).modMatrix 0 1 (fun m => { m with ops := [landingOp] }) with pend := [{ Pending.empty 0 with id := 7, regs := [(0, 0)] }] }
theorem witness_MatrixResults_rows : Finishing drainingRows landingOp (.drnV false 7 0) drnVals ∧ landingOp.members.Nodup ∧ (landingOp.caps.filterMap Capture.pend).Nodup
    ∧ (drainingRows.pend.map Pending.id).Nodup ∧ 0 ∈ landingOp.members := by
  refine ⟨⟨rfl, ?_, ?_, rfl, ?_⟩, ?_⟩ <;> decide +kernel
def drainingMemory : State := mapped (operating (.drnM false 0) false drnVals)
theorem witness_MatrixResults_memory : Finishing drainingMemory (opOf (.drnM false 0) drnVals) (.drnM false 0) drnVals
    ∧ drainingMemory.unkept 0x280000 128 ∧ 0x280000 % 128 = 0 := by
  refine ⟨⟨rfl, ?_, ?_, rfl, ?_⟩, ?_⟩
  all_goals (try simp only [State.unkept, State.untabled]); decide +kernel
theorem witness_MatrixResults_base : drainingMemory.agentAt 1 ((0 : Word) ++ (0x280000 : Word) + BitVec.ofNat 64 (128 * 0)) lineStoreKind 0x280000 :=
  maps_at (v := 0x280000) (by decide +kernel)
/-- A KV page in frame 5 with its header line in frame 7, one token of it stored; its address in s28, a token range in s30. -/
def kvHdr0 : LineBits := setFld (setFld (setFld (setFld 0 0 1 1) 528 16 1) 544 16 1) 560 4 1
def kvTr : Trans := { ctx := 1, base := 0x50000, size := 0x10000, leaf := 0x51C43, pte := 0, count := 0 }
def kvTh : Trans := { ctx := 1, base := 0x70000, size := 0x10000, leaf := 0x71D43, pte := 8, count := 0 }
def kvd : State :=
  let s := (unis (tiled one) [(28, 0x50000), (29, 0), (30, 0x10000)]).modWarp 0 (fun w => { w with tags := w.tags.put 63 1 })
  let s := { s with ctxs := s.ctxs.modify 1 (fun c => { c with cb := setFld c.cb 448 64 0x70000 }), clusters := s.clusters.modify 0 (fun c => { c with tlb := [kvTr, kvTh] }) }
  (s.putLine (0x70280 / 128) { data := kvHdr0, tag := 0, scales := 0 }).putLine (0x50000 / 128) { data := 0, tag := 1, scales := 0 }
/-- The page its instructions find. -/
def kvPg : KvPage := { va := 0x50000, pa := 0x50000, hva := 0x70280, hpa := 0x70280, tr := kvTr, th := kvTh }
theorem witness_KvInstructions : let s := kvd
    let h := (s.line (kvPg.hpa / 128)).data
    s.issues ⟨false, 0⟩ 1 (grp 1) ∧ s.whole (grp 1) 0 ∧ kvPg.hpa % 128 = 0 ∧ kvPg.pa % 2 ^ 16 = 0 ∧ s.lineFault (kvPg.hpa / 128) = none ∧ hdrValid h = true
    ∧ hdrConverting h = false ∧ s.watches = [] ∧ s.uniOpen (grp 1) [28, 29, 30] [31] ∧ s.uniOpen (grp 1) [28, 29] [30]
    ∧ s.rowsOpen (grp 1) 0 [] [s.rowAt 0 63] ∧ s.rowsOpen (grp 1) 0 [s.rowAt 0 63] [] ∧ hdrSealed h = false ∧ hdrAcnt h < 512 ∧ populated (kvPg.pa + 128 * hdrAcnt h) = true
    ∧ ((s.warp 0).rowLine (s.rowAt 0 63)).tag.toNat = hdrFmt h ∧ kvPg.hpa / 2 ^ 16 ≠ kvPg.pa / 2 ^ 16
    ∧ s.untabled kvPg.hpa 128 ∧ s.untabled (kvPg.pa + 128 * hdrAcnt h) 128 := by
  simp only [State.issues, State.whole, State.uniOpen, State.rowsOpen, State.untabled]; and_intros <;> decide +kernel
theorem witness_KvInstructions_page : let s := kvd
    (s.kvCk 0 0 ((s.warp 0).sPair 28) false false = .ok kvPg ∧ s.kvCk 0 0 ((s.warp 0).sPair 28) true false = .ok kvPg) ∧ s.kvCk 0 0 ((s.warp 0).sPair 28) true true = .ok kvPg := by
  decide +kernel
theorem witness_KvInstructions_load : let s := inWg kvd (fun g => { g with mshp := g.mshp.put 15 0x1000 })
    let h := (s.line (kvPg.hpa / 128)).data
    s.tileHeld 0 15 = true ∧ s.tileBusy (s.warp 0).wg 15 = false ∧ kvShape (s.tileShape 0 15) 1 = true
    ∧ ∃ rows nf, s.kvRows kvPg h (shTag (s.tileShape 0 15)) (((List.range 1).map (0 + ·)).filter (fun i => h.getLsbD i)) = .ok (rows, nf) := by
  exact ⟨by decide +kernel, by decide +kernel, by decide +kernel, ok_pair (by decide +kernel)⟩
theorem witness_KvInstructions_sealed : let s := { kvd.putLine (0x70280 / 128) { data := setFld kvHdr0 564 1 1, tag := 0, scales := 0 } with sealedKv := [(0x70280 / 128, 5)] }
    let h := (s.line (kvPg.hpa / 128)).data
    hdrValid h = true ∧ hdrConverting h = false ∧ hdrSealed h = true ∧ s.lineFault (kvPg.hpa / 128) = none ∧ (kvPg.hpa / 128, kvPg.pa / 2 ^ 16) ∈ s.sealedKv := by
  decide +kernel
/-- An engine command of context 1. -/
def engCmd (l : LineBits) : EngCmd := { (default : EngCmd) with line := l, ctx := 1, bpl := 1 }
/-- A copy of the line at 0x200000 to 0x280000, running in channel 15 of cluster 0. -/
def copying : State := (mapped one).modCluster 0 (fun c => { c with chans := c.chans.put 15 { (default : Chan) with st := 1, queue :=
  [engCmd (cmdLine 0 [(0, 3, 2), (128, 64, 0x200000), (192, 64, 0x280000), (320, 16, 1), (336, 16, 1)])] } })
theorem copying_at : copying.agentAt 1 0x280000 lineStoreKind 0x280000 := maps_at (v := 0x280000) (by decide +kernel)
theorem copying_sees : copying.agentSees 1 0x200000 { data := 0, tag := 0, scales := 0 } := maps_sees (by decide +kernel) (by decide +kernel)
theorem witness_EngineWork_copy : let x := ((copying.cluster 0).chans.get 15).queue.headD default
    copying.watches = [] ∧ x.aborted = false ∧ ((copying.cluster 0).chans.get 15).st ≠ 2 ∧ x.doneLines = 0 ∧ x.tag = none ∧ x.nf = false ∧ cpyOpc x.line = 0
    ∧ cpyNrows x.line = 1 ∧ cpyNcols x.line = 1 ∧ cpySspace x.line = false ∧ cpyDspace x.line = false ∧ cpySrc x.line = 0x200000 ∧ cpyDst x.line = 0x280000
    ∧ copying.unkept 0x280000 128 := by
  simp only [State.unkept, State.untabled]; decide +kernel
/-- A gather or a scatter of one row, queued at half-die 0; the index is 0. -/
def gathering (op : Nat) : State := (mapped one).modHalf 0 (fun h => { h with gs := [engCmd (gathLine op)] })
theorem gathering_at : (gathering 1).agentAt 1 0x240000 lineStoreKind 0x240000 ∧ (gathering 2).agentAt 1 0x280000 lineStoreKind 0x280000 :=
  ⟨maps_at (v := 0x240000) (by decide +kernel), maps_at (v := 0x280000) (by decide +kernel)⟩
theorem gathering_sees : (gathering 1).agentSees 1 (lineVa (gsIdx (gathLine 1))) { data := 0, tag := 0, scales := 0 }
    ∧ (gathering 1).agentSees 1 0x280000 { data := 0, tag := 0, scales := 0 } := by
  constructor <;> exact maps_sees (by decide +kernel) (by decide +kernel)
/-- The line at an address written by an agent. -/
def put0 (s : State) (pd : Nat) : State := s.agentPut (.mem pd 0) { data := 0, tag := 0, scales := 0 }
/-- A command may write at an address, and then, from the state that this leaves, its completion record. -/
def RecordAfter (s s1 : State) (x : EngCmd) (pd : Nat) : Prop :=
  s1.agentAt 1 (cmdCrec x.line) lineStoreKind 0x300000 ∧ s.unkept pd 128 ∧ s1.unkept 0x300000 128
theorem gathering_record : RecordAfter (gathering 1) (put0 (gathering 1) 0x240000) (engCmd (gathLine 1)) 0x240000 := by
  simp only [RecordAfter, State.unkept, State.untabled]
  exact ⟨maps_at (v := 0x300000) (by decide +kernel), by decide +kernel⟩
theorem witness_EngineWork_gather : let o := gathLine 1
    gsCount o = 1 ∧ gsRlines o = 1 ∧ (gsIdx o).toNat % 4 = 0 ∧ 0 < gsTrows o ∧ cmdKind o = 1 ∧ gsTable o 0 0 = 0x280000 ∧ gsPacked o 0 0 = 0x240000 ∧ 0x300000 / 128 ≠ 0x240000 / 128 := by
  decide +kernel
theorem witness_EngineWork_scatter : let o := gathLine 2
    cmdKind o = 2 ∧ gsRop o = 0 ∧ gsPacked o 0 0 = 0x240000 ∧ gsTable o 0 0 = 0x280000 := by decide +kernel
/-- A rank table of one entry, a buffer of a package, and a command of a group of one rank queued at half-die 0. -/
def grouped (buf peer : Nat) (coll rep : List EngCmd) : State :=
  ((mapped one).putLine (0x240000 / 128) { data := BitVec.ofNat 1024 (buf + peer * 2 ^ 128), tag := 0, scales := 0 }).modHalf 0 (fun h => { h with coll, rep })
def gatherAll : EngCmd := engCmd (setFld collLine 192 64 0x280000)
/-- What `EngineWork` asks of the memory of a group of one rank, its window at 0x280000. -/
def GroupSees (s : State) (o : LineBits) : Prop :=
  s.agentSees 1 (grpRtab o) { data := 0x280000, tag := 0, scales := 0 } ∧ s.agentSees 1 (grpSbuf o) { data := 0, tag := 0, scales := 0 }
    ∧ s.agentAt 1 0x280000 lineStoreKind 0x280000
theorem witness_EngineWork_collect_memory : GroupSees (grouped 0x280000 0 [gatherAll] []) gatherAll.line ∧ (grouped 0x280000 0 [gatherAll] []).stops = []
    ∧ RecordAfter (grouped 0x280000 0 [gatherAll] []) (put0 (put0 (grouped 0x280000 0 [gatherAll] []) 0x280000) 0x280000) gatherAll 0x280000 := by
  simp only [RecordAfter, State.unkept, State.untabled]
  exact ⟨⟨maps_sees (by decide +kernel) (by decide +kernel), maps_sees (by decide +kernel) (by decide +kernel), maps_at (v := 0x280000) (by decide +kernel)⟩, rfl,
    maps_at (v := 0x300000) (by decide +kernel), by decide +kernel⟩
theorem witness_EngineWork_collect : let s := grouped 0x280000 0 [gatherAll] []
    let o := gatherAll.line
    s.groupCmds 0 3 0 0 = [(0, gatherAll)] ∧ s.groupCmds 0 4 0 0 = [] ∧ grpNrank o = 1 ∧ grpRank o = 0 ∧ bf (0x280000 : LineBits) 128 10 = s.pkg
    ∧ BitVec.ofNat 16 (bf (0x280000 : LineBits) 144 16) = (s.ctx 1).fasn ∧ collCop o = 2 ∧ collNl o = 1 ∧ collFmt o = 0 ∧ grpDbuf o = 0x280000 := by
  decide +kernel
theorem witness_EngineWork_repart_memory : GroupSees (grouped 0x280000 0 [] [engCmd repLine]) repLine ∧ RecordAfter (grouped 0x280000 0 [] [engCmd repLine])
      ((grouped 0x280000 0 [] [engCmd repLine]).fillPut (.mem 0x280000 0) (.bytes 0 ((lineBytes [{ data := 0, tag := 0, scales := 0 }]).take (repSize repLine)))) (engCmd repLine) 0x280000
    ∧ (grouped 0x280000 0 [] [engCmd repLine]).agentSees 1 0x280000 { data := 0, tag := 0, scales := 0 } := by
  simp only [RecordAfter, State.unkept, State.untabled]
  exact ⟨⟨maps_sees (by decide +kernel) (by decide +kernel), maps_sees (by decide +kernel) (by decide +kernel), maps_at (v := 0x280000) (by decide +kernel)⟩,
    ⟨maps_at (v := 0x300000) (by decide +kernel), by decide +kernel⟩, maps_sees (by decide +kernel) (by decide +kernel)⟩
theorem witness_EngineWork_repart : let x := engCmd repLine
    let s := grouped 0x280000 0 [] [x]
    let o := x.line
    s.groupCmds 0 4 0 0 = [(0, x)] ∧ s.groupCmds 0 3 0 0 = [] ∧ repNrec o = 1 ∧ 1 ≤ repRcap o ∧ repSize o ≤ 128 ∧ 16 ≤ repSize o ∧ (grpSbuf o).toNat % 128 = 0 ∧ grpDbuf o = grpSbuf o
    ∧ meets 0x280000 (grpSbuf o) (repRcap o * repSize o) (repSize o) = false ∧ grpNrank o = 1 ∧ grpRank o = 0 := by
  decide +kernel
/-- A copy command of an operation, its lines at 0x200000 and 0x280000, of which only the last line is left; its source lines carry a tag. -/
def lastLine (opc fmt rows cols bpl dl : Nat) : EngCmd := { engCmd (cmdLine 0 [(0, 3, 2), (128, 64, 0x200000), (192, 64, 0x280000), (256, 32, 128), (288, 32, 128),
  (320, 16, cols), (336, 16, rows), (352, 3, opc), (356, 4, fmt)]) with bpl, doneLines := dl }
def lastCopy (x : EngCmd) (tag n : Nat) : State := (List.range n).foldl (fun s r => s.putLine (0x200000 / 128 + r) { data := 0, tag := BitVec.ofNat 4 tag, scales := 0 })
  ((mapped one).modCluster 0 (fun c => { c with chans := c.chans.put 15 { (default : Chan) with st := 1, queue := [x] } }))
/-- The conditions of `EngineResults` on the command, but for the lines it reads. -/
def CopyEnds (x : EngCmd) (tag n pd : Nat) : Prop := let s := lastCopy x tag n
  s.watches = [] ∧ x.aborted = false ∧ ((s.cluster 0).chans.get 15).queue = [x] ∧ ((s.cluster 0).chans.get 15).st ≠ 2 ∧ x.ctx = 1
    ∧ x.doneLines + 1 = cpyDrows x.line * cpyDcols x.line x.bpl ∧ cpySspace x.line = false ∧ cpyDspace x.line = false ∧ x.tag = none
    ∧ cpyAccepts (cpyOpc x.line) tag = true ∧ s.unkept pd 128 ∧ cpyOverlaps x (x.doneLines / cpyDcols x.line x.bpl) (x.doneLines % cpyDcols x.line x.bpl) = false
    ∧ pd / 128 ≠ (0xC90400000 + 32 * 15) / 128 ∧ s.slotOf x.wg x.wid = some 0
theorem witness_EngineResults_plain : CopyEnds (lastLine 0 0 1 1 1 0) 0 1 0x280000 := by
  simp only [CopyEnds, State.unkept, State.untabled]; and_intros <;> decide +kernel
theorem witness_EngineResults_quantise : CopyEnds (lastLine 1 8 1 2 1 0) 9 2 0x280000 := by
  simp only [CopyEnds, State.unkept, State.untabled]; and_intros <;> decide +kernel
theorem witness_EngineResults_dequantise : CopyEnds (lastLine 2 0 1 1 2 1) 7 1 0x280080 ∧ (2 : Nat) = tagBlocks 7 := by
  simp only [CopyEnds, State.unkept, State.untabled]; and_intros <;> decide +kernel
theorem witness_EngineResults_transpose : CopyEnds (lastLine 3 0 32 1 1 31) 0 0 0x280F80 := by
  simp only [CopyEnds, State.unkept, State.untabled]; and_intros <;> decide +kernel
theorem witness_EngineResults_rescale : CopyEnds (lastLine 4 0 1 1 1 0) 6 1 0x280000 := by
  simp only [CopyEnds, State.unkept, State.untabled]; and_intros <;> decide +kernel
theorem witness_EngineResults_lines (k : Nat) (h : k < 32) :
    (lastCopy (lastLine 3 0 32 1 1 31) 0 0).agentSees 1 (0x200000 + BitVec.ofNat 64 (k * 128 + 128 * 0)) { data := 0, tag := 0, scales := 0 } := by
  have f : ∀ k < 32, (lastCopy (lastLine 3 0 32 1 1 31) 0 0).access .agent 1 128 (0x200000 + BitVec.ofNat 64 (k * 128 + 128 * 0)) lineLoadKind
      = .ok ⟨0x200000 + BitVec.ofNat 64 (k * 128 + 128 * 0), .mem (0x200000 + BitVec.ofNat 64 (k * 128 + 128 * 0)).toNat 0, mapTrans⟩
      ∧ (lastCopy (lastLine 3 0 32 1 1 31) 0 0).lineFault ((0x200000 + BitVec.ofNat 64 (k * 128 + 128 * 0)).toNat / 128) = none
      ∧ (lastCopy (lastLine 3 0 32 1 1 31) 0 0).line ((0x200000 + BitVec.ofNat 64 (k * 128 + 128 * 0)).toNat / 128) = { data := 0, tag := 0, scales := 0 } := by decide +kernel
  exact maps_sees (f k h).1 (f k h).2
theorem witness_EngineResults_place : (lastCopy (lastLine 3 0 32 1 1 31) 0 0).agentAt 1 (0x280000 + BitVec.ofNat 64 (31 * 128 + 128 * 0)) lineStoreKind 0x280F80 :=
  maps_at (v := 0x280F80) (by decide +kernel)
/-- A scatter with .fadd of one row, row 0 of its table. -/
def adding : LineBits := setFld (gathLine 2) 358 2 1
def scattering : State := (mapped one).modHalf 0 (fun h => { h with gs := [engCmd adding] })
theorem witness_EngineResults_scatter : cmdKind adding = 2 ∧ gsRop adding = 1 ∧ gsCount adding = 1 ∧ gsRlines adding = 1 ∧ (gsIdx adding).toNat % 4 = 0 ∧ 0 < gsTrows adding
    ∧ gsPacked adding 0 0 = 0x240000 ∧ gsTable adding 0 0 = 0x280000 ∧ scattering.unkept 0x280000 128 ∧ scattering.slotOf 0 0 = some 0 := by
  simp only [State.unkept, State.untabled]; and_intros <;> decide +kernel
theorem witness_EngineResults_scatter_memory : scattering.agentSees 1 (lineVa (gsIdx adding)) { data := 0, tag := 0, scales := 0 }
    ∧ scattering.agentSees 1 0x240000 { data := 0, tag := 0, scales := 0 } ∧ scattering.agentSees 1 0x280000 { data := 0, tag := 0, scales := 0 }
    ∧ scattering.agentAt 1 0x280000 lineStoreKind 0x280000 :=
  ⟨maps_sees (by decide +kernel) (by decide +kernel), maps_sees (by decide +kernel) (by decide +kernel), maps_sees (by decide +kernel) (by decide +kernel),
    maps_at (v := 0x280000) (by decide +kernel)⟩
theorem witness_EngineResults_scatter_record : ((put0 scattering 0x280000).engNF (engCmd adding) false).agentAt 1 (cmdCrec adding) lineStoreKind 0x300000
    ∧ ((put0 scattering 0x280000).engNF (engCmd adding) false).unkept 0x300000 128 :=
  ⟨maps_at (v := 0x300000) (by decide +kernel), by simp only [State.unkept, State.untabled]; decide +kernel⟩
/-- Two ranks of a collective here, of two lines of FP32 each: inputs at 0x200000 and 0x208000, windows at 0x210000 and 0x218000, outputs at
0x220000 and 0x228000. -/
def rankCmd (cop r : Nat) : EngCmd := { engCmd (cmdLine 3 [(64, 64, 0x300000 + 0x1000 * r), (128, 64, 0x200000 + 0x8000 * r), (192, 64, 0x220000 + 0x8000 * r),
  (256, 64, 0x240000), (320, 16, 4), (336, 16, 6), (352, 11, 2), (364, 10, r), (374, 2, cop), (376, 4, 9), (384, 32, 2)]) with id := r }
def paired2 (cop : Nat) : State :=
  [0x200000, 0x200080, 0x208000, 0x208080].foldl (fun s a => s.putLine (a / 128) { data := 0, tag := 9, scales := 0 })
    (((mapped one).putLine (0x240000 / 128) { data := BitVec.ofNat 1024 (0x210000 + 0x218000 * 2 ^ 256), tag := 0, scales := 0 }).modHalf 0 (fun h => { h with
      coll := [rankCmd cop 0, rankCmd cop 1] }))
/-- What rank r has read and exchanges. -/
def pairedRank (cop r : Nat) : LocalRank :=
  let z : Line := { data := 0, tag := 9, scales := 0 }
  ⟨0, rankCmd cop r, [{ data := BitVec.ofNat 1024 (0x210000 + 0x218000 * 2 ^ 256), tag := 0, scales := 0 }], ⟨r, 3, 9, 2, 2, [0x2DA8], 0, (rankCmd cop r).line, 0, 0, [z, z], []⟩, 0⟩
def pairedRanks (cop : Nat) : List LocalRank := [pairedRank cop 0, pairedRank cop 1]
theorem witness_EngineResults_group : ∀ cop ≤ 1, (paired2 cop).watches = [] ∧ (paired2 cop).stops = []
    ∧ (paired2 cop).groupCmds 0 3 4 6 = [(0, rankCmd cop 0), (0, rankCmd cop 1)] ∧ (paired2 cop).groupCmds 0 4 4 6 = [] := by decide +kernel
theorem witness_EngineResults_read : (paired2 1).kindRanks ([(0, rankCmd 1 0), (0, rankCmd 1 1)].map (3, ·)) = (.ok ((pairedRanks 1).map (3, ·)), paired2 1) := by decide +kernel
theorem witness_EngineResults_ranks : ∀ cop ≤ 1, mismatchedRanks ((pairedRanks cop).map (·.told)) = false ∧ allRanks ((pairedRanks cop).map (·.told)) 2 = true
    ∧ (∀ r ∈ pairedRanks cop, r.told.cause = 0 ∧ r.cmd.ctx = 1 ∧ grpNrank r.cmd.line = 2 ∧ collCop r.cmd.line = cop ∧ ∀ i < 2, (paired2 cop).localEntry r i = true) := by
  decide +kernel
theorem witness_EngineResults_input : (paired2 1).agentAt 1 0x208080 lineLoadKind 0x208080 := maps_at (v := 0x208080) (by decide +kernel)
theorem witness_EngineResults_window : (paired2 1).agentAt 1 0x218080 lineStoreKind 0x218080 := maps_at (v := 0x218080) (by decide +kernel)
theorem witness_EngineResults_output : (paired2 1).agentAt 1 0x228000 lineStoreKind 0x228000 := maps_at (v := 0x228000) (by decide +kernel)
theorem witness_EngineResults_unkept : ∀ pd ∈ [0x218080, 0x228000], (paired2 1).unkept pd 128 := by
  simp only [State.unkept, State.untabled]; decide +kernel
/-- A group whose destination is at an address nothing maps and whose window lies in package 5. -/
def stopping : State := grouped 0x40000000 5 [engCmd (setFld collLine 192 64 0x40000000)] []
def stopLine : Line := { data := 0x40000000 + 5 * 2 ^ 128, tag := 0, scales := 0 }
def stopped : LocalRank :=
  let x := engCmd (setFld collLine 192 64 0x40000000)
  let told : RankIn := ⟨0, 3, 0, 1, 1, [check16 stopLine], 0, x.line, 0, 0, [{ data := 0, tag := 0, scales := 0 }], []⟩
  ⟨0, x, [stopLine], told, 0⟩
theorem stopping_reads : stopping.ranksRead 3 [(0, stopped.cmd)] = (.ok [stopped], stopping) := by decide +kernel
theorem stopping_record : stopping.free.2.agentAt 1 (cmdCrec stopped.cmd.line) lineStoreKind 0x300000 := maps_at (v := 0x300000) (by decide +kernel)
theorem stopping_shut : stopping.agentAccess 1 128 (lineVa (grpDbuf stopped.cmd.line)) lineStoreKind = (.fault (pf 5 0x40000000), stopping) := by
  have h : stopping.access .agent 1 128 (lineVa (grpDbuf stopped.cmd.line)) lineStoreKind = .fault (pf 5 0x40000000) := by decide +kernel
  simp [State.agentAccess, h, pf]
theorem witness_EngineWork_stop : stopping.groupCmds 0 3 0 0 = [(0, stopped.cmd)] ∧ stopping.groupCmds 0 4 0 0 = [] ∧ stopping.windowAgent stopped = none
    ∧ ceilDiv ((grpDbuf stopped.cmd.line).toNat % 128 + stopped.destBytes 3) 128 = 1 ∧ stopping.watches = [] ∧ stopping.unkept 0x300000 128 := by
  simp only [State.unkept, State.untabled]; decide +kernel
-- Events ---------------------------------------------------------------------------------------------------------------------------------

/-- A result pending into v5 of lane 0. -/
def pendingOne : State := one.addPend { Pending.empty 0 with regs := [(elemKey 5 0, 7)] }
theorem witness_QuadrantEvents_lands : let p := pendingOne.pend.headD (Pending.empty 0)
    pendingOne.pend.find? (fun e => e.id == p.id) = some p ∧ pendingOne.landable p = true ∧ (p.regs.map Prod.fst).Nodup ∧ (p.sregs.map Prod.fst).Nodup
    ∧ (p.rowMeta.map Prod.fst).Nodup := by decide +kernel
/-- A tile's new contents pending, no operation naming it. -/
theorem witness_QuadrantEvents_tile : let s := State.addPend (tiled one) { Pending.empty 0 with tile := some (15, []) }
    let p := s.pend.headD (Pending.empty 0)
    s.pend.find? (fun e => e.id == p.id) = some p ∧ s.landable p = true ∧ p.tile = some (15, []) ∧ s.opsOf (s.warp p.slot).wg = [] ∧ s.gathering (s.warp p.slot).wg = [] := by
  decide +kernel
theorem witness_QuadrantEvents_kettle : reducing.lineFault (0x20000 / 128) = none
    ∧ kop .add false (BitVec.ofNat 64 (reducing.mem.read 0x20000 4)) 1 0 = some 1 ∧ reducing.unwatched 0x20000 4 ∧ reducing.unkept 0x20000 4 := by
  simp only [State.unwatched, State.unkept, State.untabled]; decide +kernel
/-- Warp slot 0 asks for extended slot 7. -/
def asking : State := ((extended 0).modQuad 0 (fun q => { q with xq := [(0, 7)] })).modThread 0 0 (fun t => { t with st := .waiting, why := .extBlock 7 5 })
theorem witness_QuadrantEvents_grant : (asking.quad 0).xq = [(0, 7)] ∧ asking.exfree 0 ≠ 0 ∧ (asking.thread 0 0).st.alive = true
    ∧ ∀ d, (asking.thread 0 0).why = .extBlock 7 d → (asking.warp 0).holds (rowOf (asking.thread 0 0) d) = true := by
  refine ⟨by decide +kernel, by decide +kernel, by decide +kernel, fun d h => ?_⟩
  have : (asking.thread 0 0).why = .extBlock 7 5 := by decide +kernel
  cases this.symm.trans h; decide +kernel
/-- Extended slot 7 of warp slot 0 lies in the overflow area. -/
def movedOut : State := ((extended 128).modWarp 0 (fun w => { w with xmoved := 128 })).modThread 0 0 (fun t => { t with st := .interlocked, why := .moved [7] })
theorem witness_QuadrantEvents_back : (movedOut.warp 0).xmoved.getLsbD 7 = true ∧ movedOut.blockAwaited 0 7 = true
    ∧ 0 ≤ (movedOut.modWarp 0 (fun w => { w with xmoved := w.xmoved &&& ~~~((1 : BitVec 8) <<< 7) })).freeGranules (0 / 16) := by decide +kernel
/-- Quadrant 0's issue slot is free and both its threads are ready. -/
def arbitrated : State := (two.modThread 0 0 (fun t => { t with st := .ready })).modQuad 0 (fun q => { q with bundle := none })
/-- Only the two threads of warp slot 0 are ready. -/
theorem arbitrated_ready (k l : Nat) (h : (arbitrated.thread k l).st = .ready) : k = 0 ∧ l < 2 := by
  by_cases hk : k = 0
  · subst hk
    refine ⟨rfl, ?_⟩
    by_contra hl
    have : (arbitrated.warp 0).threads.keys = [0, 1] := by decide +kernel
    have e : (arbitrated.thread 0 l) = default := get_other _ _ (by rw [this]; simp; omega)
    rw [e] at h
    exact absurd h (by decide)
  · have : arbitrated.warps.keys = [0] := by decide +kernel
    have e : arbitrated.warp k = default := get_other _ _ (by rw [this]; simpa using hk)
    have : (arbitrated.thread k l) = default := by simp only [State.thread, e]; rfl
    rw [this] at h
    exact absurd h (by decide)
theorem witness_QuadrantEvents_round : (arbitrated.quad 0).bundle = none ∧ arbitrated.throttle = false ∧ Table.sortedFrom 0 arbitrated.warps = true
    ∧ Table.sortedFrom 0 (arbitrated.warp 0).threads = true ∧ arbitrated.stopped (arbitrated.warp 0).wg = false
    ∧ (arbitrated.warp 0).yheld = false ∧ (arbitrated.thread 0 0).pc = 0x10000 ∧ (arbitrated.thread 0 1).pc = 0x10080
    ∧ (∀ l < 2, (arbitrated.thread 0 l).age < 64 ∧ (arbitrated.thread 0 l).st = .ready) := by decide +kernel
/-- A workgroup of a kernel of one warp that has a range of two, held by cluster 47 or by the chip. -/
def ranged (h : Holder) (st : KState) : State :=
  let s := State.reset.placeThread
  { s with
    halves := (List.range 8).map (fun h => (h, { (default : HalfDie) with member := true })), warps := [], wgs := [], quads := [], clusters := []
    kernels := [(0, { (default : Kernel) with ctx := 1, st, line0 := setFld 0 551 25 2 })], ranges := [⟨h, 0, 0, 0, 2, 3⟩] }
theorem witness_WorkgroupMoves_place : let s := ranged (.cluster 47) .running
    let need := (s.kernel 0).need 3
    (s.ctx (s.kernel 0).ctx).runs = true ∧ s.frames = [] ∧ (s.kernel 0).repeatable = false ∧ s.fits need 376 = true ∧ s.q0Of 376 need = some 0 := by
  decide +kernel
/-- The workgroup of `one` is to be saved, its context with a frame slot. -/
def saving : State := inWg { ({ one with ctxs := one.ctxs.modify 1 (fun c => { c with cb := setFld c.cb 368 16 1 }) } : State).modQuad 0 (fun q => { q with bundle := none }) with watches := [] }
  (fun g => { g with save := some ⟨2, 0, 0⟩ })
theorem witness_WorkgroupMoves_save : (saving.wgs.get 0).save = some ⟨2, 0, 0⟩ ∧ (saving.wgs.find 0).isSome = true ∧ saving.freeFrames (saving.kernel 0).ctx = [0] ∧ saving.saveable 0 = true
    ∧ (saving.wgs.get 0).doomed = false := by decide +kernel
/-- A saved workgroup, ready, of one warp. -/
def savedOne : State :=
  let s := ranged .chip .running
  { s with frames := [{ (default : Frame) with ctx := 1, id := 5, wg := { (default : Workgroup) with kernel := 0, nw := 1 }
                                               warps := [(0, { (default : Warp) with wg := 5, threads := [(0, { (default : Thread) with st := .saved })] })], ready := true }] }
theorem witness_WorkgroupMoves_restore : let f := savedOne.frames.headD default
    savedOne.frames.length = 1 ∧ f.ready = true ∧ (savedOne.ctx f.ctx).runs = true ∧ savedOne.frameCore f = some 0 ∧ savedOne.q0Of 0 (savedOne.frameNeed f) = some 0
    ∧ (∀ e ∈ f.warps, e.2.wid = e.1 ∧ e.2.wg = f.id) ∧ f.wg.bound = [] ∧ f.pends = [] ∧ f.torn = false
    ∧ savedOne.newFirst (savedOne.kernel f.wg.kernel).part f.wg.prio = false := by decide +kernel
/-- One kernel of context 1 in a state, with packet fields and a record; the clock is locked at 5. -/
def kernelIn (st : KState) (fs : List (Nat × Nat × Nat)) : State :=
  let s := { (ranged .chip st) with ranges := [], devtime := 5, locked := true, everLocked := true }
  { s with kernels := [(0, { (default : Kernel) with ctx := 1, st, pidx := 9, line0 := fs.foldl (fun l f => setFld l f.1 f.2.1 f.2.2) 0 })] }
theorem witness_KernelStates_arm : let s := kernelIn .pending [(36, 1, 1), (64, 64, 6)]
    (s.kernel 0).st = .pending ∧ (s.kernel 0).isTimed = true ∧ s.mayPass 0 = true ∧ s.locked = true ∧ (s.kernel 0).late = false ∧ s.devtime < (s.kernel 0).time := by decide +kernel
theorem witness_KernelStates_release : let s := (kernelIn .armed [(36, 1, 1), (64, 64, 5)]).modKernel 0 (fun k => { k with timed := true })
    (s.kernel 0).st = .armed ∧ (s.kernel 0).timed = true ∧ s.locked = true ∧ (s.ctx (s.kernel 0).ctx).runs = true ∧ (s.kernel 0).released = false
    ∧ (s.kernel 0).time ≤ s.devtime := by decide +kernel
theorem witness_KernelStates_distribute : let s := mapped (kernelIn .pending [(832, 64, 0x200000)])
    let s1 := s.modKernel 0 (fun r => { r with record := 0 })
    (s.kernel 0).st = .pending ∧ (s.kernel 0).isTimed = false ∧ s.mayPass 0 = true ∧ (s.kernel 0).repeatable = false
    ∧ s.agentSees 1 (s.kernel 0).rrec { data := 0, tag := 0, scales := 0 } ∧ recordOk 0 = true ∧ s1.emptied.fits ((s1.kernel 0).need 0) 0 = true ∧ 0 ∈ s.partCores 0 :=
  ⟨by decide +kernel, by decide +kernel, by decide +kernel, by decide +kernel,
    ⟨0x200000, agent_at (e := ⟨0x200000, .mem 0x200000 0, mapTrans⟩) (mt := 0) (by decide +kernel) rfl, by decide +kernel, by decide +kernel⟩,
    by decide +kernel, by decide +kernel, by decide +kernel⟩
theorem witness_KernelStates_drain : let s := mapped (kernelIn .draining [(960, 64, 0x200008)])
    (s.kernel 0).st = .draining ∧ (s.kernel 0).written = false ∧ s.cmdsOf 0 = false ∧ (s.kernel 0).partials = [] ∧ (s.kernel 0).aborting = none ∧ s.unanswered 1 = false ∧ (s.kernel 0).csig ≠ 0
    ∧ s.access .agent 1 8 (s.kernel 0).csig (storeKind .z64) = .ok ⟨0x200008, .mem 0x200008 0, mapTrans⟩ ∧ s.lineBad (0x200008 / 128) = none
    ∧ s.unwatched 0x200008 8 ∧ s.unkept 0x200008 8 := by
  simp only [State.unwatched, State.unkept, State.untabled]; decide +kernel
/-- A kernel whose workgroups fill a core, in a partition of some half-dies. -/
def filling (h : Holder) (hs : List Nat) : State :=
  let s := ranged h .distributing
  { s with halves := hs.map (fun h => (h, { (default : HalfDie) with member := true })), kernels := s.kernels.map (fun _ k => { k with record := setFld 0 8 20 524288 }) }
theorem witness_KernelStates_handout : let s := filling .chip [0]
    (s.ctx (s.kernel 0).ctx).runs = true ∧ s.roundNow 0 .chip 0 = [(.die 0, 48)] := by decide +kernel
theorem witness_KernelStates_steal : let s := filling (.die 3) [0, 6]
    Holder.die 0 ∈ s.children 0 .chip ∧ Holder.die 3 ∈ s.children 0 .chip ∧ 0 < s.admitted 0 (s.holderCores 0 (.die 0)) := by decide +kernel
theorem witness_QueueCommands : let s := ((kernelIn .running []).modQueue 0 0 (fun q => { q with st := 1, cfg := 0x10000 })).modKernel 0 (fun k => { k with spent := 1000000 })
    s.kernelAt 0 0 9 = some 0 ∧ s.oldest 0 0 = some 0 ∧ (s.kernel 0).st ∈ [KState.distributing, .running, .draining] ∧ (s.queue 0 0).wdt = 1
    ∧ (s.queue 0 0).wdact ≠ 2 ∧ 1000000 * (s.queue 0 0).wdt ≤ (s.kernel 0).spent ∧ (s.kernel 0).sent = false
    ∧ (s.kernel 0).applying = false ∧ (s.kernel 0).aborting = none := by decide +kernel
/-- A queue of partition 0 in a state, its base at 0x200000 and its head published. -/
def fetching (st : Nat) : State := ({ mapped one with devtime := 25600 } : State).modQueue 0 255 (fun q => { q with st, widx := 0, ridx := 0xFFFFFFFF, retries := 63, base := 0x200000, cfg := setFld 4 48 16 1 |>.setWidth 64 })
def launch0 : LineBits := [(0, 32, 0xFFFFFFFF), (32, 4, 1), (551, 25, 1), (736, 32, 128), (672, 64, 0x10000), (768, 64, 0x10000)].foldl (fun l f => setFld l f.1 f.2.1 f.2.2) 0
theorem witness_PacketReads : (∀ st ∈ [1, 2], let s := fetching st
    let x := s.queue 0 255
    x.st = st ∧ x.retries = 63 ∧ x.widx ≠ x.ridx ∧ x.readAt + 100 * 2 ^ min (x.retries + 1) 8 ≤ s.devtime ∧ (s.ctx x.ctx).boundTo 0 = true ∧ (s.ctx x.ctx).st ≠ .faulted ∧ (s.part 0).resetting = false
    ∧ x.base + BitVec.ofNat 64 (256 * (x.ridx.toNat % 2 ^ x.logsz)) = 0x200F00)
    ∧ launchOk launch0 (setFld 0 992 32 0xFFFFFFFF) = true ∧ nopOk (setFld 0 32 4 2) 0 = true ∧ launchOk 0 0 = false ∧ nopOk 0 1 = false := by
  decide +kernel
theorem witness_PacketReads_lines : (fetching 1).agentSees 1 0x200F00 { data := 0, tag := 0, scales := 0 } ∧ (fetching 2).agentSees 1 0x200F80 { data := 0, tag := 0, scales := 0 } :=
  ⟨⟨0x200F00, agent_at (e := ⟨0x200F00, .mem 0x200F00 0, mapTrans⟩) (mt := 0) (by decide +kernel) rfl, by decide +kernel, by decide +kernel⟩,
    ⟨0x200F80, agent_at (e := ⟨0x200F80, .mem 0x200F80 0, mapTrans⟩) (mt := 0) (by decide +kernel) rfl, by decide +kernel, by decide +kernel⟩⟩
/-- A packet at the head, whole and good. -/
def published : State := (((fetching 1).putLine (0x200F00 / 128) { data := launch0, tag := 0, scales := 0 }).putLine (0x200F80 / 128) { data := setFld 0 992 32 0xFFFFFFFF, tag := 0, scales := 0 })
theorem witness_PacketReads_good : published.agentSees 1 0x200F00 { data := launch0, tag := 0, scales := 0 }
    ∧ launch0.extractLsb' 0 32 = (published.queue 0 255).ridx ∧ launch0.extractLsb' 32 4 = 1 :=
  ⟨⟨0x200F00, agent_at (e := ⟨0x200F00, .mem 0x200F00 0, mapTrans⟩) (mt := 0) (by decide +kernel) rfl, by decide +kernel, by decide +kernel⟩,
    by decide +kernel, by decide +kernel⟩
-- Setup, the host, power ---------------------------------------------------------------------------------------------------------------------

/-- The setup window holds a command for a context: not begun, or under way. -/
def setupOp (s : State) (op ctx : Nat) (begun : Bool) (line : LineBits := 0) : State := { s with setup := { s.setup with busy := true, begun, op, ctx, line } }
/-- Context 3 in a state of its life, in partition 0 of half-die 0. -/
def ctxIn (st : CState) : State := { State.reset with halves := [(0, { (default : HalfDie) with member := true })], ctxs := [(3, { (default : Context) with st })] }
/-- A control block within its limits, whose fault area of 63 MiB lies in partition 0. -/
def goodCb : LineBits := setFld (setFld (setFld 0 368 16 1) 288 32 63) 192 64 0x100000
theorem witness_ContextCommands_create : let s := setupOp (ctxIn .unused) 1 3 false
    (s.setup.busy = true ∧ s.setup.begun = false ∧ s.setup.op = 1 ∧ s.setup.ctx = 3) ∧ cbOk 0 = false ∧ cbOk goodCb = true ∧ (s.ctx 3).st = .unused
    ∧ (∀ e ∈ s.ctxs, ¬ (e.1 ≠ 3 ∧ e.2.st ≠ .unused ∧ e.2.st ≠ .tornDown ∧ e.2.fasn = bf goodCb 256 16)) := by decide +kernel
theorem witness_ContextCommands_taken : let s := setupOp (ctxIn .created) 1 2 false
    (s.ctx 2).st = .unused ∧ (∃ e ∈ s.ctxs, e.1 ≠ 2 ∧ e.2.st ≠ .unused ∧ e.2.st ≠ .tornDown ∧ e.2.fasn = bf goodCb 256 16) ∧ (s.ctx 3).st ≠ .unused ∧ (s.ctx 3).st ≠ .tornDown := by
  decide +kernel
theorem witness_ContextCommands_bind : let s := setupOp { (ctxIn .created) with ctxs := [(3, { (default : Context) with st := .created, cb := goodCb })] } 2 3 false
    s.setup.op = 2 ∧ (0 : LineBits) >>> 3 = 0 ∧ s.partExists 0 = true ∧ s.partExists 7 = false ∧ (s.ctx 3).st = .created ∧ s.faultPlace (s.ctx 3).cb 0 = true
    ∧ ¬ (s.ctx 3).fasize < s.faultArea (s.ctx 3).cb 0
    ∧ s.faultPlace (setFld goodCb 192 64 (2 ^ 38)) 0 = false ∧ bf (setFld goodCb 288 32 52) 288 32 < s.faultArea (setFld goodCb 288 32 52) 0 := by decide +kernel
theorem witness_ContextCommands_suspend : ((setupOp (ctxIn .suspended) 3 3 false).ctx 3).st = .suspended ∧ ((setupOp (ctxIn .active) 3 3 false).ctx 3).st = .active
    ∧ (let s := setupOp { (ctxIn .active) with ctxs := [(3, { (default : Context) with st := .active, suspending := true })] } 3 3 true
       (s.ctx 3).suspending = true ∧ s.setup.busy = true ∧ s.setup.begun = true ∧ ∀ e ∈ s.wgs, (s.kernel e.2.kernel).ctx ≠ 3) := by decide +kernel
theorem witness_ContextCommands_resume : let s := setupOp { (ctxIn .suspended) with locked := true, devtime := 5, kernels := [(7, { (default : Kernel) with ctx := 3, st := .armed, timed := true, line0 := setFld (setFld 0 36 1 1) 64 64 5 })] } 4 3 false
    (s.ctx 3).st = .suspended ∧ (∃ e ∈ s.kernels, e.2.ctx = 3 ∧ e.2.st.live = true) ∧ ((s.kernel 7).st = .armed ∧ (s.kernel 7).isTimed = true ∧ (s.ctx 3).suspAt < (s.kernel 7).time ∧ (s.kernel 7).time ≤ s.devtime)
    ∧ ((setupOp (ctxIn .suspended) 4 3 false).kernels = []) := by decide +kernel
theorem witness_ContextCommands_teardown : ((setupOp (ctxIn .faulted) 5 3 false).ctx 3).st ≠ .unused ∧ ((setupOp (ctxIn .faulted) 5 3 false).ctx 3).st ≠ .tornDown
    ∧ ((setupOp (ctxIn .tornDown) 5 3 false).ctx 3).st = .tornDown
    ∧ (let s := setupOp { (ctxIn .faulted) with ctxs := [(3, { (default : Context) with st := .faulted, tearing := true })] } 5 3 true
       (s.ctx 3).tearing = true ∧ s.setup.op = 5 ∧ s.ctxBusy 3 = false) := by decide +kernel
theorem witness_ContextCommands_keys : ((0xF : LineBits).extractLsb' 4 124 = 0 ∧ (0xF : LineBits).extractLsb' 256 768 = 0)
    ∧ ((0xF : LineBits).extractLsb' 4 60 = 0 ∧ cbRsv 0xF = true ∧ tvecOk 0xF = true) ∧ cbRsv (setFld 0 640 384 1) = false := by decide +kernel
/-- Half-dies 0 and 1 hold partition 0, which resets or not. -/
def parted (resetting : Bool) : State := { State.reset with
  halves := [(0, { (default : HalfDie) with member := true }), (1, { (default : HalfDie) with member := true })], parts := [(0, { (default : Partition) with resetting })] }
theorem witness_PartitionCommands_reset : (parted false).partExists 0 = true ∧ (parted false).partExists 7 = false ∧ ((parted true).part 0).resetting = true
    ∧ ((setupOp (parted false) 8 0 false).setup.op = 8 ∧ (setupOp (parted true) 8 0 true).setup.begun = true) := by decide +kernel
theorem witness_PartitionCommands_link : let s := { (parted false) with halves := [(0, { (default : HalfDie) with member := true }), (2, { (default : HalfDie) with member := true })] }
    s.d2dDown.contains (4 * 0 + 1) = false ∧ (∃ h ∈ s.partHalves 0, h / 2 = 0) ∧ (∃ h ∈ s.partHalves 0, h / 2 = 1) := by decide +kernel
theorem witness_PartitionCommands_channel : let l : LineBits := 383 + 15 * 2 ^ 16
    l.extractLsb' 9 7 = 0 ∧ l >>> 20 = 0 ∧ bf l 0 9 < 384 ∧ (setupOp (parted false) 9 0 false).setup.op = 9 := by decide +kernel
/-- A layout: partition 0 of half-dies 0 and 1, partition 2 of half-die 2. -/
def goodLayout : LineBits := 0x828080
theorem witness_PartitionCommands_layout : let s := setupOp (parted false) 10 0 false
    layValid goodLayout = true ∧ layValid 0x80 = true ∧ layValid 0x81 = false
    ∧ (∀ h < 8, ¬ (((s.half h).member ≠ layMember goodLayout h ∨ (layMember goodLayout h = true ∧ (s.half h).part ≠ layPart goodLayout h)) ∧ s.halfBound h = true))
    ∧ (s.half 2).member ≠ layMember goodLayout 2 := by decide +kernel
theorem witness_PartitionCommands_bound : let s := setupOp { (parted false) with ctxs := [(3, { (default : Context) with st := .bound })] } 10 0 false
    ∃ h < 8, ((s.half h).member ≠ layMember 0x80 h ∨ (layMember 0x80 h = true ∧ (s.half h).part ≠ layPart 0x80 h)) ∧ s.halfBound h = true :=
  ⟨1, by decide, by decide +kernel⟩
theorem witness_PartitionCommands_complete : let s := setupOp (parted false) 10 0 true goodLayout
    s.setup.begun = true ∧ layMember s.setup.line 2 = true ∧ (s.half 2).member = false ∧ s.partHalves (layPart s.setup.line 2) = [] := by decide +kernel
/-- The mailbox holds a command; slot 1 was accepted. -/
def mailed (op : Nat) (accepted : Option Nat) : State := { State.reset with mbox := { State.reset.mbox with busy := true, op }, accepted }
theorem witness_MailboxCommands : ((mailed 5 none).mbox.busy = true ∧ (mailed 5 none).mbox.op = 5 ∧ (mailed 2 none).accepted = none ∧ (mailed 2 (some 1)).accepted ≠ none)
    ∧ (let b : List Byte := [1, 0, 0, 0, 0, 1, 0, 0, 0, 0x0F, 0, 0]
       (leField b 0 1 < 2 ∧ leField b 4 4 % 256 = 0 ∧ 1 ≤ leField b 8 4 ∧ leField b 8 4 ≤ 3840) ∧ (mailed 5 (some 1)).accepted = some (leField b 0 1)
       ∧ (mailed 5 (some 0)).accepted ≠ some (leField b 0 1)) ∧ ¬ leField ([2] : List Byte) 0 1 < 2 := by decide +kernel
/-- Power is on, an image was accepted, and half-die 7 is in partition 0. -/
def powered (line : Bool) : State :=
  { State.reset with
    up := true, accepted := some 0, halves := [(7, { (default : HalfDie) with member := true })]
    ap := { State.reset.ap with nowBase := 0x7000000000, nowLine := line } }
theorem witness_HostRegisters : ((powered false).up = true ∧ (powered false).accepted ≠ none)
    ∧ (setupOp (powered false) 1 0 false).setup.busy = true ∧ ((mailed 5 none).up = false ∧ (mailed 5 none).accepted = none) := by decide +kernel
/-- The narrowest and the last of the narrow writes of a register. -/
theorem witness_HostRegisters_narrow : 0x10FFFF8 % 8 = 0 ∧ (1 ∈ [1, 2, 4] ∧ 7 % 1 = 0 ∧ 7 < 8) ∧ (2 ∈ [1, 2, 4] ∧ 6 % 2 = 0 ∧ 6 < 8) ∧ (4 ∈ [1, 2, 4] ∧ 4 % 4 = 0 ∧ 4 < 8) ∧ 0 % 4 = 0 := by
  decide
/-- A write of the last byte of ERRBASE changes that byte alone (R7, R467). -/
theorem test_narrow_write : (match exec (.registerWrite (0x8001001000 + 7) 1 0x7F) (powered false) with
    | .next t => t.err.base
    | _ => 0) = 0x7F00000000000000 := by decide +kernel
theorem witness_HostAccesses_data : let s := powered false
    let base := s.ap.nowBase.toNat
    s.up = true ∧ s.accepted ≠ none ∧ s.ap.nowLine = false ∧ 100 + 28 ≤ 2 ^ 36 ∧ (base + 100) % 128 + 28 ≤ 128
    ∧ (base / 128 * 128 < 2 ^ 39 ∧ base % 2 ^ 36 < 54000000000 ∧ (s.half (base / 2 ^ 36)).member = true) ∧ s.lineBad (base / 128) = none
    ∧ ¬ ((base + 0xFFFFFFFFF) % 2 ^ 36 < 54000000000) ∧ s.unkept (base + 100) 28 := by simp only [State.unkept, State.untabled]; decide +kernel
theorem witness_HostAccesses_bad : let s := { (powered false) with side := [(16 * (0x7000000000 / 128) + 4, 1)] }
    s.lineBad (0x7000000000 / 128) = some 1 ∧ (s.half (0x7000000000 / 2 ^ 36)).part < 8 := by decide +kernel
/-- The view of a line of zeros, with its check. -/
def zeroView : List Byte := List.replicate 128 0 ++ [0, 0, 0, 0] ++ leBytes 12 (sideBytes { data := 0, tag := 0, scales := 0 }) ++ List.replicate 112 0
theorem witness_HostAccesses_line : let s := powered true
    s.ap.nowLine = true ∧ 256 % 256 = 0 ∧ s.lineBad (0x7000000000 / 128 + 1) = none ∧ zeroView.length = 256 ∧ (viewLine zeroView).2 = true
    ∧ ([] : List Byte).length ≠ 256 ∧ homeHalf (128 * (0x7000000000 / 128 + 1)) < 8 ∧ s.unkept (128 * (0x7000000000 / 128 + 1)) 128 := by
  simp only [State.unkept, State.untabled]; decide +kernel
theorem witness_PowerAndPorts : (let s := { State.reset with input := .valid }
      s.input = .valid ∧ s.up = false) ∧ (powered false).up = true
    ∧ (let s := { (powered false) with ports := [(14, ⟨.up, 0⟩), (15, ⟨.training, 0⟩), (0, ⟨.replay, 0⟩)], devtime := 100000000 }
       (s.ports.get 14).st = .up ∧ (s.half (14 / 2)).part < 8 ∧ s.remotes = [] ∧ (s.ports.get 15).st = .training ∧ (s.ports.get 0).st = .replay)
    ∧ (let s := { (powered false) with ports := [(3, ⟨.down, 0⟩)], devtime := 100000000 }
       (s.ports.get 3).st = .down ∧ (s.ports.get 3).since + 100000000 ≤ s.devtime) := by decide +kernel
-- The fabric, pages --------------------------------------------------------------------------------------------------------------------------------

/-- Context 1 exports under FASN 0 with key 0 in slot 15, on a clock that has been locked. -/
def exporting (s : State) : State := { s with everLocked := true, ctxs := s.ctxs.modify 1 (fun c => { c with keys := [(15, 0)] }) }
/-- A pass over the first 8 × 2^27 bytes from a base, with rights and MAC. -/
def goodPass (rights base : Nat) : DWord :=
  let lo := 7 + base * 2 ^ 8 + rights * 2 ^ 33 + 15 * 2 ^ 36
  BitVec.ofNat 64 (lo + 2 ^ 40 * passMac 0 lo 5 0)
/-- A request of package 5 for the line at 0x200000. -/
def asks (opc : BitVec 5) (rights : Nat) : Request :=
  { (default : Request) with
    va := 0x200000, speer := 5, opc, pass := goodPass rights 0, sseq := 0, side := sideBeat { data := 0, tag := 0, scales := 0 }, check := maskCheck 0, path := 3 }
/-- The conditions on a request's pass in `FabricRequests`. -/
def Passes (s : State) (opc : Nat) (q : Request) (n : Nat) : Prop :=
    s.ctxOfFasn 0 q.fasn = some 1
    ∧ ((s.ctx 1).keys.find (q.pass.extractLsb' 36 4).toNat = some 0
        ∧ passMac 0 (q.pass.extractLsb' 0 40).toNat q.speer.toNat q.fasn.toNat = (q.pass.extractLsb' 40 24).toNat)
    ∧ (s.everLocked = true ∧ ((q.pass.extractLsb' 20 13).toNat + 2 ^ 13 - s.devtime / 1000000 % 2 ^ 13) % 2 ^ 13 < 2 ^ 12)
    ∧ q.pass.getLsbD (if opc = 1 ∨ opc = 6 then 33 else if opc = 2 ∨ opc = 3 then 34 else 35) = true
    ∧ ((q.pass.extractLsb' 8 12).toNat * 2 ^ 27 ≤ q.va.toNat
        ∧ q.va.toNat + n ≤ (q.pass.extractLsb' 8 12).toNat * 2 ^ 27 + ((q.pass.extractLsb' 0 8).toNat + 1) * 2 ^ 27)
    ∧ ((opc = 2 → (beatLine q.data q.side).2 = true) ∧ (opc = 3 → maskCheck (q.data &&& BitVec.ofNat 1024 (maskBits q.mask)) = q.check))
theorem witness_FabricRequests_read : Passes (exporting (mapped one)) 1 (asks 1 1) 128 := by
  simp only [Passes]; decide +kernel
theorem witness_FabricRequests_write : Passes (exporting (mapped one)) 2 (asks 2 2) 128 := by
  simp only [Passes]; decide +kernel
theorem witness_FabricRequests_masked : Passes (exporting (mapped one)) 3 (asks 3 2) 128 := by
  simp only [Passes]; decide +kernel
theorem witness_FabricRequests_atomic : Passes (exporting (mapped one)) 4 (asks 4 4) 4 := by
  simp only [Passes]; decide +kernel
theorem witness_FabricRequests_home : let s := exporting (mapped one)
    (s.half 0).member = true ∧ (s.part 0).resetting = false ∧ (asks 1 1).restart = false ∧ (s.triple 0 (asks 1 1)).cached 0 = none ∧ (s.triple 0 (asks 1 1)).held = []
    ∧ (s.triple 0 (asks 1 1)).asked = [] ∧ (s.triple 0 (asks 1 1)).ahead = [] ∧ (s.triple 0 (asks 1 1)).cnt = [] ∧ (s.triple 0 (asks 1 1)).low = 0
    ∧ s.access .agent 1 128 0x200000 (reqKind (asks 1 1)) = .ok ⟨0x200000, .mem 0x200000 0, mapTrans⟩
    ∧ s.access .agent 1 128 0x200000 (reqKind (asks 2 2)) = .ok ⟨0x200000, .mem 0x200000 0, mapTrans⟩
    ∧ s.access .agent 1 4 0x200000 (reqKind (asks 4 4)) = .ok ⟨0x200000, .mem 0x200000 0, mapTrans⟩ ∧ s.lineFault (0x200000 / 128) = none
    ∧ s.unkept 0x200000 128 := by
  simp only [State.unkept, State.untabled]; decide +kernel
theorem witness_FabricRequests_clean : ((asks 2 2).kop = 0 ∧ (asks 2 2).w64 = false ∧ (asks 2 2).side.extractLsb' 0 32 = 0) ∧ ({ (asks 1 1) with w64 := true } : Request).w64 ≠ false
    ∧ (sideBeat { data := 0, tag := 0, scales := 0 } ||| 1).extractLsb' 0 32 ≠ 0 := by decide +kernel
theorem witness_FabricRequests_refused : let s := exporting (mapped one)
    (let q := { (asks 1 1) with fasn := 9 }
     ∀ e ∈ s.ctxs, ¬(e.2.boundTo 0 = true ∧ e.2.fasn = q.fasn.toNat)) ∧ (s.ctx 1).keys.find 14 = none
    ∧ (let q := { (asks 1 1) with pass := goodPass 2 0 }
       q.pass.getLsbD 33 = false) ∧ (let q := { (asks 1 1) with pass := goodPass 1 1 }
       ¬ (q.pass.extractLsb' 8 12).toNat * 2 ^ 27 ≤ q.va.toNat) ∧ (beatLine 1 0).2 = false
    ∧ ({ (asks 1 1) with ofl := true, sseq := 1 } : Request).sseq ≠ (s.triple 0 (asks 1 1)).low := by decide +kernel
theorem witness_FabricRequests_tables : ((exporting (mapped one)).pokeDev 0x60000 8 8).translate .agent 1 0x200000 = .heavy 0x60000
    ∧ ((exporting (mapped one)).pokeDev 0x60000 8 0).translate .agent 1 0x200000 = .fault (pf 5 0x200000) := by decide +kernel
theorem witness_FabricRequests_leaf : (let s := (exporting (mapped one)).pokeDev 0x60000 8 0x18D7
      s.translate .agent 1 0x200000 = .ok { mapTrans with leaf := 0x18D7 } ∧ leafMode 0x18D7 ≠ 0)
    ∧ (let s := (exporting (mapped one)).pokeDev 0x60000 8 0x1887
      s.translate .agent 1 0x200000 = .ok { mapTrans with leaf := 0x1887 } ∧ s.grant { mapTrans with leaf := 0x1887 } 0x200000 (reqKind (asks 2 2)) = .fault (pf 6 0x200000)) := by
  decide +kernel
theorem witness_FabricRequests_again : let s := (exporting (mapped one)).setTriple 0 (asks 1 1) { ((exporting (mapped one)).triple 0 (asks 1 1)) with cache := [(0, default)] }
    (s.triple 0 (asks 1 1)).cached 0 = some default := by decide +kernel
theorem witness_FabricRequests_past : let s := exporting (mapped one)
    let x := (s.setTriple 0 (asks 1 1) { s.triple 0 (asks 1 1) with first := some (asks 1 1) }).triple 0 (asks 1 1)
    x.first ≠ none ∧ x.cached 0xFFFF = none ∧ 2 ^ 15 ≤ ((0xFFFF : BitVec 16) - x.low).toNat ∧ ((asks 1 1).sseq - x.low).toNat < 2 ^ 15 := by decide +kernel
/-- A reduction held behind number 0 has passed its checks: it is performed though the key has gone since, with which number 0
is refused (R419, R424, R429). -/
theorem test_held_is_not_checked_again :
    (let s := { mapped one with everLocked := true }
     let f : HeldReq := ⟨0, { asks 5 4 with sseq := 1, ofl := true, opnd := 3 }, 1, 0x200000, 0, 1⟩
     let t := (s.setTriple 0 (asks 1 1) { s.triple 0 (asks 1 1) with held := [f] }).reqArrive 0 (asks 1 1)
     (t.mem.read 0x200000 4, (t.triple 0 (asks 1 1)).low, (t.triple 0 (asks 1 1)).held)) = (3, 2, []) := by decide +kernel
/-- A packet of thread 0 to package 5, filling v5; what it is for may vary. -/
def theRemote (want : Want) (opc : BitVec 5) (held : Bool) : Remote := {
  id := 77, hd := 0, stream := 2, peer := 5, req := { (asks opc 1) with dpeer := 5, path := 0 }, slot := 0, lane := 0, pend := some 0, want, patch := []
  ctx := 1, passix := 0, first := 0, last := 0, held, stamp := 0, wg := 0, commit := false, acq := false, ro := false }
/-- It is under way. -/
def outward (want : Want) (opc : BitVec 5) (held : Bool) : State :=
  let s := State.addPend one { Pending.empty 0 with regs := [(elemKey 5 0, 0)], remote := true }
  { s with ports := [(1, ⟨.up, 0⟩)], devtime := 64000000, remotes := [theRemote want opc held] }
/-- An answer of package 5 to it. -/
def answer (opc : BitVec 5) (code : BitVec 8) : Response := { (default : Response) with
  rpeer := 5, stream := 2, opc, code, va := 0x200000, side := sideBeat { data := 0, tag := 0, scales := 0 } }
theorem witness_FabricAnswers : let s := outward (.load 4 .z32 (elemKey 5 0)) 1 false
    let x := theRemote (.load 4 .z32 (elemKey 5 0)) 1 false
    s.remotes = [x] ∧ (answer 17 0).dpeer.toNat = s.pkg ∧ (answer 17 0).shd.toNat = x.hd ∧ (answer 17 0).stream.toNat = x.stream ∧ (answer 17 0).rpeer.toNat = x.peer
    ∧ x.req.dpeer.toNat = x.peer ∧ x.held = false ∧ (answer 17 0).sseq = x.req.sseq ∧ x.pend = some 0 ∧ s.pend.map Pending.id = [0] ∧ x.patch = [] ∧ x.req.opc = 1
    ∧ (beatLine (answer 17 0).data (answer 17 0).side).2 = true ∧ (beatLine (answer 17 0).data (answer 17 0).side).1.tag.toNat < 10 ∧ (beatLine 1 0).2 = false
    ∧ s.pend.map Pending.regs = [[(elemKey 5 0, 0)]]
    ∧ (answer 17 0).side.extractLsb' 0 32 = 0 ∧ (answer 19 6).pcnt.extractLsb' 0 8 = 0 ∧ ((answer 19 6).code ≠ 8 ∧ (answer 19 6).code ≠ 10)
    ∧ ({ (answer 17 0) with side := 1 } : Response).side.extractLsb' 0 32 ≠ 0 ∧ ({ (answer 19 6) with pcnt := 255 } : Response).pcnt.extractLsb' 0 8 ≠ 0 := by decide +kernel
/-- A packet of an engine's work. -/
theorem witness_FabricAnswers_agent : let x := { theRemote (.agent (.work 3 0)) 1 false with lane := 32, pend := none }
    x.want = .agent (.work 3 0) ∧ x.held = false ∧ (answer 17 0).sseq = x.req.sseq ∧ x.patch = [] ∧ x.req.opc = 1 := ⟨rfl, rfl, by decide +kernel, rfl, rfl⟩
theorem witness_FabricAnswers_paths : let s := outward .nothing 1 true
    let x := theRemote .nothing 1 true
    x.held = true ∧ (answer 20 0).sseq = x.req.fasn ∧ (answer 20 0).va &&& ~~~0xFFFF#64 = x.req.va &&& ~~~0xFFFF#64 ∧ x.peer ≠ s.pkg ∧ s.upPaths x.hd = [1]
    ∧ x.last + 4000000 ≤ s.devtime ∧ x.first + 64000000 ≤ s.devtime ∧ (answer 20 0).code = 0 ∧ (answer 20 0).pcnt.extractLsb' 0 8 = 0 := by decide +kernel
/-- Half-die 0 serves partition 0; a queue of its memory processor holds one item, CAPLOG 11. -/
def served (d : Nat) (it : DWord) : State :=
  ((mapped one).putLine (d / 128) { data := 2 ^ 32 + 176 * 2 ^ 96, tag := 0, scales := 0 }).putLine (d / 128 + 1) { data := it.setWidth 1024, tag := 0, scales := 0 }
/-- A sweep of context 1's first page, its word at 0x200200. -/
def sweepReq : LineBits := [(0, 16, 1), (32, 32, 1), (128, 48, 0x200200), (192, 32, 7)].foldl (fun l f => setFld l f.1 f.2.1 f.2.2) 0
theorem witness_PageItems_sweep : let s := (served (serviceQueue 0) 0x200001).putLine (0x200000 / 128) { data := sweepReq, tag := 0, scales := 0 }
    s.headItem (serviceQueue 0) = some 0x200001 ∧ (s.half 0).member = true ∧ (s.half 0).part < 8 ∧ (s.part 0).resetting = false ∧ itemKind 0x200001 = 1
    ∧ s.itemOk 0 0x200001 = true ∧ itemAddr 0x200001 / 128 ≠ serviceQueue 0 / 128 ∧ s.lineBad (itemAddr 0x200001 / 128) = none
    ∧ s.sweepOk 0 (s.line (itemAddr 0x200001 / 128)).data = true ∧ bf sweepReq 128 48 / 128 ≠ serviceQueue 0 / 128 ∧ s.unkept (serviceQueue 0) 128
    ∧ s.lineBad (bf sweepReq 128 48 / 128) = none ∧ s.unkept (bf sweepReq 128 48) 4 := by
  simp only [State.unkept, State.untabled]; decide +kernel
theorem witness_PageItems_dropped : (served (serviceQueue 0) 0x200001).sweepOk 0 ((served (serviceQueue 0) 0x200001).line (0x200000 / 128)).data = false := by
  decide +kernel
theorem witness_PageItems_reserved : (served (serviceQueue 0) 0xF).headItem (serviceQueue 0) = some 0xF ∧ itemKind 0xF ∉ [1, 2, 3, 4]
    ∧ (served (serviceQueue 0) 0x200011).headItem (serviceQueue 0) = some 0x200011 ∧ itemKind 0x200011 = 1 ∧ (served (serviceQueue 0) 0x200011).itemOk 0 0x200011 = false := by
  decide +kernel
theorem witness_PageItems_free : let s := (served (serviceQueue 0) 0x200002).modHalf 0 (fun h => { h with converted := [0x20] })
    s.headItem (serviceQueue 0) = some 0x200002 ∧ s.itemOk 0 0x200002 = true ∧ s.itemOk 0 0x200082 = false ∧ s.itemOk 0 0x200003 = true ∧ itemKind 0x200003 = 3
    ∧ (itemAddr 0x200002 / 2 ^ 16) ∈ (s.half (homeHalf (itemAddr 0x200002))).converted := by decide +kernel
theorem witness_PageItems_release : let s := { (reducing.modPart 0 (fun p => { p with quar := [⟨0, 0x200002, 0⟩] })) with kreqs := [⟨0, 0, 0, 0x20000, .add, false, 1, 0x20000, 1, 0, false⟩] }
    (s.part 0).quar = [⟨0, 0x200002, 0⟩] ∧ (∀ x ∈ s.stamps 0, 0 < x) ∧ (s.half 0).member = true ∧ (s.half 0).part = 0
    ∧ (∀ r ∈ reducing.kreqs, r.part = 0 → r.stamp ≤ 0) := by decide +kernel
theorem witness_PageItems_return : let s := (served (returnQueue 0) 0).modHalf 0 (fun h => { h with returns := [0x200002] })
    let d := returnQueue 0
    (s.half 0).returns = [0x200002] ∧ (0x200002 : DWord) ≠ qEmpty ∧ (0x200002 : DWord) ≠ qClosed ∧ qValid s d (d + queueBytes) = true ∧ qIsClosed s d = false
    ∧ qCount s d ≠ qCap s d ∧ s.lineFault (d / 128) = none
    ∧ populated (qItem s d (qTail s d)) = true ∧ s.lineFault (qItem s d (qTail s d) / 128) = none ∧ s.unkept d queueBytes := by
  simp only [State.unkept, State.untabled]; decide +kernel
/-- A mint request of context 1 for its first 2^27 bytes, for package 5, its pass to go to 0x280000. -/
def mintReq (n : Nat) : LineBits := [(0, 64, n), (133, 3, 1), (136, 4, 15), (140, 12, 1), (152, 10, 5), (176, 16, 1), (192, 48, 0x280000)].foldl (fun l f => setFld l f.1 f.2.1 f.2.2) 0
theorem witness_PageItems_mint : let s := exporting ((served (mintQueue 0) 0x200006).putLine (0x200000 / 128) { data := mintReq (2 ^ 27), tag := 0, scales := 0 })
    let l := (s.line (0x200000 / 128)).data
    s.everLocked = true ∧ s.headItem (mintQueue 0) = some 0x200006 ∧ itemKind 0x200006 = 6 ∧ s.itemOk 0 0x200006 = true ∧ s.mintOk 0 l = true ∧ s.mintOk 0 (mintReq 5) = false
    ∧ bf l 192 48 % 16 = 0 ∧ s.inPart 0 (bf l 192 48) 16 = true ∧ s.lineBad (bf l 192 48 / 128) = none ∧ s.lineBad (0x200000 / 128) = none
    ∧ (s.ctx 1).keys.find (bf l 136 4) = some 0 ∧ s.unkept (mintQueue 0) 128 ∧ s.unkept (bf l 192 48) 16 := by
  simp only [State.unkept, State.untabled]; decide +kernel
/-- The bundle of quadrant 0 waits for A and D of an entry that holds a leaf. -/
def stalled (leaf : Nat) : State :=
  ((mapped one).pokeDev 0x60000 8 leaf).modQuad 0 (fun q => { q with stall := [⟨0x60000, 2 ^ 29, true, 1, 0x200000, storeKind .z32⟩] })
theorem witness_PageFaults_light : (∀ leaf ∈ [0xC7, 0x87], let s := stalled leaf
    ∃ l, (s.quad 0).stall = [l] ∧ List.flatMap (fun (e : Nat × Quad) => e.2.stall) s.quads = [l] ∧ l.pte = 0x60000 ∧ l.pte % 8 = 0 ∧ s.lineBad (l.pte / 128) = none
      ∧ s.loose.contains (l.pte / 8) = false ∧ s.stillGrants (s.mem.read l.pte 8) l = (leaf == 0xC7)) := by
  intro leaf _ s
  refine ⟨⟨0x60000, 2 ^ 29, true, 1, 0x200000, storeKind .z32⟩, ?_⟩
  rcases List.mem_pair.mp ‹_› with rfl | rfl <;> decide +kernel
theorem witness_PageFaults_heavy : let s := { (mapped one) with heavies := [⟨0x60000, 0, [(5, 0x200000, 9)], []⟩] }
    s.processorUp (homeHalf 0x60000) = true ∧ (BitVec.ofNat 64 (s.entry 0x60000)).getLsbD 0 = true ∧ ((5 : BitVec 10).toNat ≠ s.pkg) ∧ ∀ g ∈ s.wgs, g.2.save = none := by decide +kernel
/-- A leaf of mode 3 over 64 KiB at VA 0x10000, in tables at 0x40000, 0x60000, 0x61000 and 0x61800; the migration queue lies at 0x70000. -/
def migrating : State :=
  let line := fun (d : LineBits) => ({ data := d, tag := 0, scales := 0 } : Line)
  let s := (((mapped one).putLine (0x60000 / 128) (line 0x61001)).putLine (0x61000 / 128) (line 0x61801)).putLine (0x61800 / 128) (line (0x18F3 * 2 ^ 64 + 0x71AC3 * 2 ^ 448))
  let s := { s with
    ctxs := s.ctxs.modify 1 (fun c => { c with cb := setFld (setFld c.cb 512 64 0x70000) 352 16 1 })
    clusters := s.clusters.modify 0 (fun c => { c with tlb := [{ placedTrans with leaf := 0x18F3, pte := 0x61808, count := 1 }] }) }
  (s.putLine (0x70000 / 128) (line (2 ^ 32 + 16 * 2 ^ 96))).putLine (0x70080 / 128) (line 0x200000)
/-- A context's migration queue that an agent may reach and that is valid. -/
theorem queue_at {s : State} {c pa mt : Nat} {v : DWord} {tr : Trans} (h : s.access .agent c 128 (s.ctx c).migq queueKind = .ok ⟨v, .mem pa mt, tr⟩) (z : (s.ctx c).migq ≠ 0)
    (q : qValid s pa (pa + (tr.base + tr.size - (s.ctx c).migq.toNat)) = true) : s.migrationQueue c = (some (pa, pa + (tr.base + tr.size - (s.ctx c).migq.toNat)), s) := by
  have z : ¬(s.ctx c).migq = 0#64 := z
  simp [State.migrationQueue, State.agentAccess, h, z, q]
theorem witness_PageFaults_queue : ∃ pe, migrating.migrationQueue 1 = (some (0x70000, pe), migrating) :=
  ⟨_, queue_at (v := 0x70000) (mt := 1) (tr := ⟨1, 0x70000, 0x10000, 0x71AC3, 0x61838, 0, false⟩) (by decide +kernel) (by decide +kernel) (by decide +kernel)⟩
theorem witness_PageFaults_request : migrating.access .agent 1 128 0x70000 queueKind = .ok ⟨0x70000, .mem 0x70000 1, ⟨1, 0x70000, 0x10000, 0x71AC3, 0x61838, 0, false⟩⟩
    ∧ qValid migrating 0x70000 0x80000 = true ∧ qCount migrating 0x70000 ≠ 0 ∧ migrating.itemBad 0x70000 (qHead migrating 0x70000) = false := by
  decide +kernel
theorem witness_PageFaults_leaf : (migrating.cluster 0).tlb.find? (fun t => t.hits 1 0x10000 && t.migrates (migrating.ctx 1).migth)
      = some { placedTrans with leaf := 0x18F3, pte := 0x61808, count := 1 }
    ∧ (let it := (migrating.qpop 0x70000).1
       it = 0x200000 ∧ it ≠ qEmpty ∧ it ≠ qClosed ∧ it.extractLsb' 0 16 = 0 ∧ it.extractLsb' 48 16 = 0 ∧ migrating.inPart (migrating.half 0).part it.toNat (2 ^ 16) = true)
    ∧ (migrating.qpop 0x70000).2.walk 1 0x10000 = .leaf { placedTrans with leaf := 0x18F3, pte := 0x61808, count := 0 } ∧ leafMode 0x18F3 = 3
    ∧ (migrating.qpop 0x70000).2.lineFault (0x61808 / 128) = none := by decide +kernel
/-- A migration whose leaf is held; its answers. -/
def held : State := ((mapped one).pokeDev 0x61808 8 0x18FA).modHalf 0 (fun h => { h with migrations := [⟨9, 1, 0x10000, 0x61808, 0x18F3, 0x20⟩] })
/-- What package 5 has answered to its requests: every line, or a refusal of the first. -/
def allTold : List AgentAns := (List.range 512).map (fun n =>
  { hd := 0, key := .work 9 n, va := 0x10000 + BitVec.ofNat 64 (128 * n), fault := none, line := some { data := 0, tag := 0, scales := 0 } })
def oneRefused : List AgentAns := [{ hd := 0, key := .work 9 0, va := 0x10000, fault := some (pf 8 0x10000 1), line := none }]
theorem witness_PageFaults_migration : (held.half 0).migrations = [⟨9, 1, 0x10000, 0x61808, 0x18F3, 0x20⟩] ∧ held.lineFault (0x61808 / 128) = none
    ∧ held.entry 0x61808 = (holdLeaf 0x18F3).toNat ∧ (held.ctx 1).migq = 0 ∧ 0x61808 / 2 ^ 16 ≠ 0x20 ∧ (0x61808 + 7) / 2 ^ 16 ≠ 0x20
    ∧ (held.ctx 1).fabase + 2 ^ 20 ≤ 0x100000 := by decide +kernel
theorem witness_PageFaults_frame : held.unkept (0x20 * 2 ^ 16) (2 ^ 16) :=
  ⟨by decide +kernel, by decide +kernel, by decide +kernel, by decide +kernel, untabled_of (by decide +kernel)⟩
theorem witness_PageFaults_failed : (∃ a, oneRefused.find? (fun a => a.hd == 0 && a.key == .work 9 0 && a.va == 0x10000 + BitVec.ofNat 64 (128 * 0)) = some a
    ∧ a.fault ≠ none) ∧ held.answers = [] := ⟨⟨_, rfl, by decide⟩, by decide +kernel⟩
theorem witness_PageFaults_answered (n : Nat) (hn : n < 512) :
    ∃ a, allTold.find? (fun a => a.hd == 0 && a.key == .work 9 n && a.va == 0x10000 + BitVec.ofNat 64 (128 * n)) = some a
      ∧ a.fault = none ∧ a.line = some { data := 0, tag := 0, scales := 0 } := by
  obtain ⟨a, ha⟩ := Option.isSome_iff_exists.mp (List.find?_isSome (xs := allTold)
    (p := fun a => a.hd == 0 && a.key == .work 9 n && a.va == 0x10000 + BitVec.ofNat 64 (128 * n)) |>.mpr
      ⟨_, List.mem_map.mpr ⟨n, List.mem_range.mpr hn, rfl⟩, by simp⟩)
  obtain ⟨m, -, rfl⟩ := List.mem_map.mp (List.mem_of_find?_eq_some ha)
  exact ⟨_, ha, rfl, rfl⟩
/-- A sealed page of one token, old enough to be staged, or staged. -/
def steeping (staging : Bool) : State :=
  let s := { kvd with devtime := 5000000, ctxs := kvd.ctxs.modify 1 (fun c => { c with cb := setFld c.cb 320 32 5 }) }
  let s := s.putLine (0x70280 / 128) { data := setFld kvHdr0 564 1 1, tag := 0, scales := 0 }
  s.modHalf 0 (fun h => { h with steeper := [{ frame := 5, ctx := 1, hdr := 0x70280, staging, image := if staging then List.replicate 256 default else [] }] })
theorem witness_PageFaults_steep : let h := ((steeping false).line (0x70280 / 128)).data
    0x70280 / 2 ^ 16 ≠ 5 ∧ (steeping false).lineBad (0x70280 / 128) = none ∧ hdrValid h = true ∧ hdrFmt h = 1 ∧ ((steeping false).ctx 1).kvage = 5
    ∧ 5 ≤ (steeping false).devtime / 1000000 - hdrAge h
    ∧ ((steeping false).half 0).steeper.find? (fun y => y.frame == 5 && !y.staging) = some { frame := 5, ctx := 1, hdr := 0x70280, staging := false, image := [] }
    ∧ ((steeping true).half 0).steeper.any (fun y => y.frame == 5 && y.staging && y.image.length == 256) = true
    ∧ (steeping false).untabled (0x70280 / 128 * 128) 128 := by
  simp only [State.untabled]; decide +kernel
theorem witness_PageFaults_page : (steeping true).untabled (5 * 2 ^ 16) (2 ^ 15) := untabled_of (by decide +kernel)
theorem witness_PageFaults_lines (i : Nat) (h : i < 512) : populated (128 * (5 * 512 + i)) = true ∧ (steeping false).lineBad (5 * 512 + i) = none := by
  refine ⟨by simp only [populated, Bool.and_eq_true, decide_eq_true_eq]; omega, ?_⟩
  by_cases h0 : i = 0
  · subst h0; decide +kernel
  · have m : ∀ k ∈ (steeping false).mem.keys, k / 128 = 0x70280 / 128 ∨ k / 128 = 0x50000 / 128 := by decide +kernel
    have d : ∀ k ∈ (steeping false).side.keys, k / 16 = 0x70280 / 128 ∨ k / 16 = 0x50000 / 128 := by decide +kernel
    refine blank_line _ _ (fun k hk => ?_) (fun k hk => ?_) (by decide +kernel)
    · have := m k hk; omega
    · have := d k hk; omega
-- Encoding, steps -----------------------------------------------------------------------------------------------------------------------------------

theorem witness_EncodeThenDecode : wellFormed (.addiLong ⟨true, 7⟩ 63 63 0x8000000) = true ∧ encode (.addiLong ⟨true, 7⟩ 63 63 0x8000000) ≠ [] ∧ majorOf 0 ≠ 0x7F := by
  decide +kernel
/-- One thread whose page holds a word. -/
def coded (w : Word) : State := State.reset.withFetchWord 32 w.toNat
theorem coded_holds (w : Word) (h : (coded w).lineBad (0x10000 / 128) = none) (m : BitVec.ofNat 32 ((coded w).mem.read 0x10000 4) = w)
    (x : (coded w).translate (.fetch 0) 1 0x10000 = .ok placedTrans) (g : (coded w).grant placedTrans 0x10000 { ex := true } = .ok (.mem 0x10000 0))
    (c : (coded w).ctxOf 0 = 1) : (coded w).holdsCode 0 0x10000 w :=
  ⟨placedTrans, 0x10000, 0, by rw [c]; exact x, by decide, g, h, m⟩
theorem witness_StepRunsDecoded : let s := coded 0x0020C082
    s.agenda = [] ∧ s.nextQuad = some 0 ∧ ({ s with focus := 0 } : State).group ⟨false, 0⟩ 1 = some (grp 1) ∧ (grp 1).acts ≠ []
    ∧ needsSecondWord 0x0020C082 = false ∧ s.lineBad (0x10000 / 128) = none ∧ BitVec.ofNat 32 (s.mem.read 0x10000 4) = 0x0020C082
    ∧ s.translate (.fetch 0) 1 0x10000 = .ok placedTrans ∧ s.grant placedTrans 0x10000 { ex := true } = .ok (.mem 0x10000 0)
    ∧ decodeWords 0x0020C082 none = .ok (.add ⟨false, 0⟩ none 3 1 2, 1) ∧ s.overruns 1 (groupBell (0x0020C082, none) 1) = false := by decide +kernel
theorem witness_StepRunsDecoded_agenda : ({ one with agenda := [.inputRestored] } : State).agenda = [.inputRestored] ∧ exec .inputRestored one = .next { one with input := .valid } := by
  exact ⟨rfl, rfl⟩
theorem witness_StepRunsDecoded_after : ∀ slew ∈ [(0 : Int), 1, -1], let u := { one with slew }
    u.slew = slew ∧ u.rostersWith (fun r => r.st == .calling) = [] ∧ u.rostersWith Roster.startable = [] ∧ (∀ e ∈ u.wgs, e.2.ended = false)
    ∧ (∀ e ∈ u.warps, e.2.leaving = []) ∧ u.upsets = [] := by decide +kernel
theorem witness_ActiveContextsHaveWork : ∃ t, step { State.reset with agenda := [.inputRestored] } = .next t := ⟨_, rfl⟩
-- Words ---------------------------------------------------------------------------------------------------------------------------------

/-- A word, its BELL set and STALL 3, decodes to an instruction. -/
def Reads (w : Word) (i : Instr) : Prop := decodeWords w (some 0) = .ok (i, 1)
/-- Words of the encoding tables, integer: major, function and fields in the places of R64 to R78. -/
theorem test_wordsInteger0 :
    Reads 0xB020C286 (.add ⟨true, 3⟩ none 3 5 6)
    ∧ Reads 0xB040C286 (.sub ⟨true, 3⟩ none 3 5 6)
    ∧ Reads 0xB060C286 (.mul ⟨true, 3⟩ none 3 5 6)
    ∧ Reads 0xB080C286 (.mulhS32 ⟨true, 3⟩ none 3 5 6)
    ∧ Reads 0xB0A0C286 (.mulhZ32 ⟨true, 3⟩ none 3 5 6)
    ∧ Reads 0xB0C0C286 (.mad ⟨true, 3⟩ none 3 5 6)
    ∧ Reads 0xB0E0C286 (.andn ⟨true, 3⟩ none 3 5 6)
    ∧ Reads 0xB100C286 (.and ⟨true, 3⟩ none 3 5 6)
    ∧ Reads 0xB120C286 (.or ⟨true, 3⟩ none 3 5 6)
    ∧ Reads 0xB140C286 (.xor ⟨true, 3⟩ none 3 5 6)
    ∧ Reads 0xB160C286 (.shl ⟨true, 3⟩ none 3 5 6)
    ∧ Reads 0xB180C286 (.shr ⟨true, 3⟩ none 3 5 6) := by
  simp only [Reads]; decide +kernel
/-- Words of the encoding tables, integer: major, function and fields in the places of R64 to R78. -/
theorem test_wordsInteger1 :
    Reads 0xB1A0C286 (.sar ⟨true, 3⟩ none 3 5 6)
    ∧ Reads 0xB1C0C286 (.rotl ⟨true, 3⟩ none 3 5 6)
    ∧ Reads 0xB1E0C286 (.sel ⟨true, 3⟩ none 3 5 6)
    ∧ Reads 0xB200C286 (.minS32 ⟨true, 3⟩ none 3 5 6)
    ∧ Reads 0xB220C286 (.minZ32 ⟨true, 3⟩ none 3 5 6)
    ∧ Reads 0xB240C286 (.maxS32 ⟨true, 3⟩ none 3 5 6)
    ∧ Reads 0xB260C286 (.maxZ32 ⟨true, 3⟩ none 3 5 6)
    ∧ Reads 0xB280C286 (.cmpS32 ⟨true, 3⟩ none 3 5 6)
    ∧ Reads 0xB2A0C286 (.cmpZ32 ⟨true, 3⟩ none 3 5 6)
    ∧ Reads 0xB2C0C286 (.bfxS32 ⟨true, 3⟩ none 3 5 6)
    ∧ Reads 0xB2E0C286 (.bfxZ32 ⟨true, 3⟩ none 3 5 6)
    ∧ Reads 0xB300C286 (.bfi ⟨true, 3⟩ none 3 5 6) := by
  simp only [Reads]; decide +kernel
/-- Words of the encoding tables, integer: major, function and fields in the places of R64 to R78. -/
theorem test_wordsInteger2 :
    Reads 0xB3218506 (.lea ⟨true, 3⟩ 6 10 6) := by
  simp only [Reads]; decide +kernel
/-- Words of the encoding tables, unary and pair: major, function and fields in the places of R64 to R78. -/
theorem test_wordsUnaryPairs0 :
    Reads 0xB340C280 (.mov ⟨true, 3⟩ 3 5)
    ∧ Reads 0xB340C281 (.not ⟨true, 3⟩ 3 5)
    ∧ Reads 0xB340C282 (.neg ⟨true, 3⟩ 3 5)
    ∧ Reads 0xB340C283 (.abs ⟨true, 3⟩ 3 5)
    ∧ Reads 0xB340C284 (.clz ⟨true, 3⟩ 3 5)
    ∧ Reads 0xB340C285 (.ctz ⟨true, 3⟩ 3 5)
    ∧ Reads 0xB340C286 (.popc ⟨true, 3⟩ 3 5)
    ∧ Reads 0xB340C287 (.brev ⟨true, 3⟩ 3 5)
    ∧ Reads 0xB3418508 (.movZ64 ⟨true, 3⟩ 6 10)
    ∧ Reads 0xB3418509 (.notZ64 ⟨true, 3⟩ 6 10)
    ∧ Reads 0xB341850A (.negS64 ⟨true, 3⟩ 6 10)
    ∧ Reads 0xB341850B (.absS64 ⟨true, 3⟩ 6 10) := by
  simp only [Reads]; decide +kernel
/-- Words of the encoding tables, unary and pair: major, function and fields in the places of R64 to R78. -/
theorem test_wordsUnaryPairs1 :
    Reads 0xB361850C (.addS64 ⟨true, 3⟩ 6 10 12)
    ∧ Reads 0xB361850D (.subS64 ⟨true, 3⟩ 6 10 12)
    ∧ Reads 0xB361858C (.mulS64 ⟨true, 3⟩ 6 10 12)
    ∧ Reads 0xB361858D (.shlZ64 ⟨true, 3⟩ 6 10 12)
    ∧ Reads 0xB361C50C (.shrZ64 ⟨true, 3⟩ 6 10 12)
    ∧ Reads 0xB361C50D (.sarS64 ⟨true, 3⟩ 6 10 12)
    ∧ Reads 0xB361C58C (.minS64 ⟨true, 3⟩ 6 10 12)
    ∧ Reads 0xB361C58D (.minZ64 ⟨true, 3⟩ 6 10 12)
    ∧ Reads 0xB381850C (.maxS64 ⟨true, 3⟩ 6 10 12)
    ∧ Reads 0xB381850D (.maxZ64 ⟨true, 3⟩ 6 10 12)
    ∧ Reads 0xB381858C (.cmpS64 ⟨true, 3⟩ 6 10 12)
    ∧ Reads 0xB381858D (.cmpZ64 ⟨true, 3⟩ 6 10 12) := by
  simp only [Reads]; decide +kernel
/-- Words of the encoding tables, unary and pair: major, function and fields in the places of R64 to R78. -/
theorem test_wordsUnaryPairs2 :
    Reads 0xB381C50C (.andZ64 ⟨true, 3⟩ 6 10 12)
    ∧ Reads 0xB381C50D (.orZ64 ⟨true, 3⟩ 6 10 12)
    ∧ Reads 0xB381C58C (.xorZ64 ⟨true, 3⟩ 6 10 12) := by
  simp only [Reads]; decide +kernel
/-- Words of the encoding tables, immediate and lane: major, function and fields in the places of R64 to R78. -/
theorem test_wordsImmediateLanes0 :
    Reads 0xB3A0C2C1 (.addi ⟨true, 3⟩ 3 5 0x41)
    ∧ Reads 0xB3C0C2C1 (.andi ⟨true, 3⟩ 3 5 0x41)
    ∧ Reads 0xB3E0C2C1 (.ori ⟨true, 3⟩ 3 5 0x41)
    ∧ Reads 0xB400C2C1 (.xori ⟨true, 3⟩ 3 5 0x41)
    ∧ Reads 0xB420C29F (.shli ⟨true, 3⟩ 3 5 31)
    ∧ Reads 0xB420C2BF (.shri ⟨true, 3⟩ 3 5 31)
    ∧ Reads 0xB420C2DF (.sari ⟨true, 3⟩ 3 5 31)
    ∧ Reads 0xB440E001 (.movi ⟨true, 3⟩ 3 0x2001)
    ∧ Reads 0xB460E001 (.movh ⟨true, 3⟩ 3 0x2001)
    ∧ Reads 0xB480C286 (.shfl ⟨true, 3⟩ none 3 5 6)
    ∧ Reads 0xB4A0C280 (.voteAll ⟨true, 3⟩ 3 5)
    ∧ Reads 0xB4A0C281 (.voteAny ⟨true, 3⟩ 3 5) := by
  simp only [Reads]; decide +kernel
/-- Words of the encoding tables, immediate and lane: major, function and fields in the places of R64 to R78. -/
theorem test_wordsImmediateLanes1 :
    Reads 0xB4A0C282 (.voteBallot ⟨true, 3⟩ 3 5)
    ∧ Reads 0xB4A0C283 (.voteEq ⟨true, 3⟩ 3 5)
    ∧ Reads 0xB4A0C288 (.popxIncl ⟨true, 3⟩ 3 5)
    ∧ Reads 0xB4A0C289 (.popxExcl ⟨true, 3⟩ 3 5)
    ∧ Reads 0xB4A00294 (.redv ⟨true, 3⟩ .maxZ32 5) := by
  simp only [Reads]; decide +kernel
/-- Words of the encoding tables, uniform and control: major, function and fields in the places of R64 to R78. -/
theorem test_wordsUniformControl0 :
    Reads 0xB500C286 (.sadd ⟨true, 3⟩ 3 5 6)
    ∧ Reads 0xB500C2C6 (.ssub ⟨true, 3⟩ 3 5 6)
    ∧ Reads 0xB500E286 (.sand ⟨true, 3⟩ 3 5 6)
    ∧ Reads 0xB500E2C6 (.sor ⟨true, 3⟩ 3 5 6)
    ∧ Reads 0xB510C286 (.sxor ⟨true, 3⟩ 3 5 6)
    ∧ Reads 0xB510C2C6 (.sshl ⟨true, 3⟩ 3 5 6)
    ∧ Reads 0xB510E286 (.sshr ⟨true, 3⟩ 3 5 6)
    ∧ Reads 0xB510E2C6 (.scmp ⟨true, 3⟩ 3 5 6)
    ∧ Reads 0xB520C280 (.smov ⟨true, 3⟩ 3 5)
    ∧ Reads 0xB520C281 (.bcast ⟨true, 3⟩ 3 5)
    ∧ Reads 0xB520C282 (.vtos ⟨true, 3⟩ 3 5)
    ∧ Reads 0xB5200283 (.swaitq ⟨true, 3⟩ 5) := by
  simp only [Reads]; decide +kernel
/-- Words of the encoding tables, uniform and control: major, function and fields in the places of R64 to R78. -/
theorem test_wordsUniformControl1 :
    Reads 0xB540E001 (.smovi ⟨true, 3⟩ 3 0x2001)
    ∧ Reads 0xB5618556 (.sld ⟨true, 3⟩ true .die 6 10)
    ∧ Reads 0xB6100001 (.bra ⟨true, 3⟩ 0x100001)
    ∧ Reads 0xB6215401 (.brc ⟨true, 3⟩ 5 .lt 0x401)
    ∧ Reads 0xB6415401 (.bru ⟨true, 3⟩ 5 .lt 0x401)
    ∧ Reads 0xB661A001 (.call ⟨true, 3⟩ 6 0x2001)
    ∧ Reads 0xB6800500 (.jmpi ⟨true, 3⟩ 10)
    ∧ Reads 0xB6800501 (.ret ⟨true, 3⟩ 10)
    ∧ Reads 0xB6800002 (.exit ⟨true, 3⟩)
    ∧ Reads 0xB6800003 (.nop ⟨true, 3⟩) := by
  simp only [Reads]; decide +kernel
/-- Words of the encoding tables, floating-point: major, function and fields in the places of R64 to R78. -/
theorem test_wordsFloat0 :
    Reads 0xB700C286 (.fadd ⟨true, 3⟩ none 3 5 6)
    ∧ Reads 0xB720C286 (.fsub ⟨true, 3⟩ none 3 5 6)
    ∧ Reads 0xB740C286 (.fmul ⟨true, 3⟩ none 3 5 6)
    ∧ Reads 0xB760C286 (.ffma ⟨true, 3⟩ none 3 5 6)
    ∧ Reads 0xB780C286 (.fmin ⟨true, 3⟩ none 3 5 6)
    ∧ Reads 0xB7A0C286 (.fmax ⟨true, 3⟩ none 3 5 6)
    ∧ Reads 0xB7C0C286 (.fcmp ⟨true, 3⟩ none 3 5 6)
    ∧ Reads 0xB7E0C286 (.fscl ⟨true, 3⟩ none 3 5 6)
    ∧ Reads 0xB800C280 (.fabs ⟨true, 3⟩ none 3 5)
    ∧ Reads 0xB800C281 (.fneg ⟨true, 3⟩ none 3 5)
    ∧ Reads 0xB800C282 (.frnd ⟨true, 3⟩ none 3 5)
    ∧ Reads 0xB800C283 (.frcp ⟨true, 3⟩ none 3 5) := by
  simp only [Reads]; decide +kernel
/-- Words of the encoding tables, floating-point: major, function and fields in the places of R64 to R78. -/
theorem test_wordsFloat1 :
    Reads 0xB800C284 (.frsq ⟨true, 3⟩ none 3 5)
    ∧ Reads 0xB800C285 (.fsqrt ⟨true, 3⟩ none 3 5)
    ∧ Reads 0xB800C286 (.fexp2 ⟨true, 3⟩ none 3 5)
    ∧ Reads 0xB800C287 (.flog2 ⟨true, 3⟩ none 3 5)
    ∧ Reads 0xB800C288 (.fclass ⟨true, 3⟩ none 3 5)
    ∧ Reads 0xB820C2B9 (.fcvtToFormat ⟨true, 3⟩ none .bf16 1 3 5)
    ∧ Reads 0xB820C2BD (.fcvtToF32 ⟨true, 3⟩ none .bf16 1 3 5)
    ∧ Reads 0xB840C286 (.hadd2F16 ⟨true, 3⟩ none 3 5 6)
    ∧ Reads 0xB860C286 (.hadd2Bf16 ⟨true, 3⟩ none 3 5 6)
    ∧ Reads 0xB880C286 (.hmul2F16 ⟨true, 3⟩ none 3 5 6)
    ∧ Reads 0xB8A0C286 (.hmul2Bf16 ⟨true, 3⟩ none 3 5 6)
    ∧ Reads 0xB8C0C286 (.hfma2F16 ⟨true, 3⟩ none 3 5 6) := by
  simp only [Reads]; decide +kernel
/-- Words of the encoding tables, floating-point: major, function and fields in the places of R64 to R78. -/
theorem test_wordsFloat2 :
    Reads 0xB8E0C286 (.hfma2Bf16 ⟨true, 3⟩ none 3 5 6)
    ∧ Reads 0xB900C286 (.dot4E4m3 ⟨true, 3⟩ none 3 5 6)
    ∧ Reads 0xB920C286 (.dot4E5m2 ⟨true, 3⟩ none 3 5 6)
    ∧ Reads 0xB940C286 (.dot4S8 ⟨true, 3⟩ none 3 5 6) := by
  simp only [Reads]; decide +kernel
/-- Words of the encoding tables, block and memory: major, function and fields in the places of R64 to R78. -/
theorem test_wordsBlocksMemory0 :
    Reads 0xB960C280 (.bamax ⟨true, 3⟩ 3 5)
    ∧ Reads 0xB960C281 (.scget ⟨true, 3⟩ 3 5)
    ∧ Reads 0xB960C282 (.scset ⟨true, 3⟩ 3 5)
    ∧ Reads 0xB960C003 (.srdraw ⟨true, 3⟩ 3)
    ∧ Reads 0xB980C2A8 (.scsel ⟨true, 3⟩ .e5m2 .fit 3 5)
    ∧ Reads 0xB9A0C2AC (.qpack ⟨true, 3⟩ .e5m2 .fit .sr 3 5)
    ∧ Reads 0xB9C0C285 (.qunpk ⟨true, 3⟩ 5 3 5)
    ∧ Reads 0xB9E18288 (.topk ⟨true, 3⟩ 8 6 5)
    ∧ Reads 0xBA00C529 (.ldg ⟨true, 3⟩ .z16 .pkg true 3 10)
    ∧ Reads 0xBA20C529 (.stg ⟨true, 3⟩ .z16 .pkg true 3 10)
    ∧ Reads 0xBA40C2A2 (.lds ⟨true, 3⟩ .z16 true 3 5)
    ∧ Reads 0xBA60C2A2 (.sts ⟨true, 3⟩ .z16 true 3 5) := by
  simp only [Reads]; decide +kernel
/-- Words of the encoding tables, block and memory: major, function and fields in the places of R64 to R78. -/
theorem test_wordsBlocksMemory1 :
    Reads 0xBA80C2E5 (.ldt ⟨true, 3⟩ 6 .cluster true 3 5)
    ∧ Reads 0xBAA0C2E5 (.stt ⟨true, 3⟩ 6 .cluster true 3 5)
    ∧ Reads 0xBAC0C50B (.ldl ⟨true, 3⟩ .fabric true 3 10)
    ∧ Reads 0xBAE0C50B (.stl ⟨true, 3⟩ .fabric true 3 10)
    ∧ Reads 0xBB018500 (.ldsr ⟨true, 3⟩ 6 10)
    ∧ Reads 0xBB20C285 (.salloc ⟨true, 3⟩ 5 3 5)
    ∧ Reads 0xBB400508 (.pref ⟨true, 3⟩ .l2 10)
    ∧ Reads 0xBB40052C (.cinv ⟨true, 3⟩ .die 10)
    ∧ Reads 0xBB40054C (.cwb ⟨true, 3⟩ .die 10) := by
  simp only [Reads]; decide +kernel
/-- Words of the encoding tables, Kettle and order: major, function and fields in the places of R64 to R78. -/
theorem test_wordsKettleOrder0 :
    Reads 0xBC00C52C (.atm ⟨true, 3⟩ .maxZ32 .pkg 3 10)
    ∧ Reads 0xBC210504 (.atm64 ⟨true, 3⟩ .add .pkg 4 10)
    ∧ Reads 0xBC40C52C (.red ⟨true, 3⟩ .maxZ32 .pkg 3 10)
    ∧ Reads 0xBC60C540 (.waitge ⟨true, 3⟩ .pkg 3 10)
    ∧ Reads 0xBC60C548 (.waiteq ⟨true, 3⟩ .pkg 3 10)
    ∧ Reads 0xBC818540 (.qpush ⟨true, 3⟩ .pkg 6 10)
    ∧ Reads 0xBC818548 (.qpop ⟨true, 3⟩ .pkg 6 10)
    ∧ Reads 0xBCA00005 (.fence ⟨true, 3⟩ .fabric)
    ∧ Reads 0xBCA00200 (.oprdy ⟨true, 3⟩)
    ∧ Reads 0xBCA0C400 (.yield ⟨true, 3⟩ 3)
    ∧ Reads 0xBCA0C60B (.cpwp ⟨true, 3⟩ 3 11)
    ∧ Reads 0xBCC0000B (.rjoin ⟨true, 3⟩ 11) := by
  simp only [Reads]; decide +kernel
/-- Words of the encoding tables, Kettle and order: major, function and fields in the places of R64 to R78. -/
theorem test_wordsKettleOrder1 :
    Reads 0xBCC0020B (.rleave ⟨true, 3⟩ 11)
    ∧ Reads 0xBCC0040B (.roll ⟨true, 3⟩ 11)
    ∧ Reads 0xBCC0C60B (.rolla ⟨true, 3⟩ 3 11)
    ∧ Reads 0xBCC1480B (.rollw ⟨true, 3⟩ 5 11) := by
  simp only [Reads]; decide +kernel
/-- Words of the encoding tables, window, tile and matrix: major, function and fields in the places of R64 to R78. -/
theorem test_wordsWindowMatrix0 :
    Reads 0xBCE00013 (.winb ⟨true, 3⟩ 19)
    ∧ Reads 0xBCE0C205 (.xacq ⟨true, 3⟩ 3 5)
    ∧ Reads 0xBCE0C405 (.xtry ⟨true, 3⟩ 3 5)
    ∧ Reads 0xBCE00605 (.xrel ⟨true, 3⟩ 5)
    ∧ Reads 0xBCE0C801 (.fstat ⟨true, 3⟩ true 3)
    ∧ Reads 0xBD024A07 (.mld ⟨true, 3⟩ false .die true 9 20)
    ∧ Reads 0xBD224A07 (.mst ⟨true, 3⟩ false .die true 9 20)
    ∧ Reads 0xBD42C4C0 (.mma ⟨true, 3⟩ true 11 9)
    ∧ Reads 0xBD62CA69 (.mmv ⟨true, 3⟩ 11 20 6 9)
    ∧ Reads 0xBD8AC486 (.mdual ⟨true, 3⟩ false true 11 9 6)
    ∧ Reads 0xBDA24596 (.mdrnT ⟨true, 3⟩ true 9 11 6)
    ∧ Reads 0xBDA0C5A6 (.mdrnV ⟨true, 3⟩ false 3 11 6) := by
  simp only [Reads]; decide +kernel
/-- Words of the encoding tables, window, tile and matrix: major, function and fields in the places of R64 to R78. -/
theorem test_wordsWindowMatrix1 :
    Reads 0xBDA005D6 (.mdrnM ⟨true, 3⟩ true 11 6)
    ∧ Reads 0xBDC0C00B (.mshp ⟨true, 3⟩ 3 11)
    ∧ Reads 0xBDC2C200 (.mzero ⟨true, 3⟩ 11)
    ∧ Reads 0xBDC0040B (.mconv ⟨true, 3⟩ 11)
    ∧ Reads 0xBDC0060B (.mdiss ⟨true, 3⟩ 11)
    ∧ Reads 0xBDC2480B (.mldw ⟨true, 3⟩ 9 11)
    ∧ Reads 0xBDC00A0B (.mwait ⟨true, 3⟩ 11)
    ∧ Reads 0xBDC0CC0B (.mstat ⟨true, 3⟩ 3 11) := by
  simp only [Reads]; decide +kernel
/-- Words of the encoding tables, engine, KV and system: major, function and fields in the places of R64 to R78. -/
theorem test_wordsEnginesSystem0 :
    Reads 0xBE00C50D (.cpy ⟨true, 3⟩ 13 3 10)
    ∧ Reads 0xBE000510 (.gath ⟨true, 3⟩ 10)
    ∧ Reads 0xBE000520 (.scat ⟨true, 3⟩ 10)
    ∧ Reads 0xBE000530 (.coll ⟨true, 3⟩ 10)
    ∧ Reads 0xBE000540 (.repart ⟨true, 3⟩ 10)
    ∧ Reads 0xBE224A01 (.kvld ⟨true, 3⟩ true 9 20)
    ∧ Reads 0xBE40CA00 (.kvapp ⟨true, 3⟩ 3 20)
    ∧ Reads 0xBE40C520 (.kvevict ⟨true, 3⟩ 3 10)
    ∧ Reads 0xBE400540 (.kvseal ⟨true, 3⟩ 10)
    ∧ Reads 0xBE40C560 (.kvhdr ⟨true, 3⟩ 3 10)
    ∧ Reads 0xBF00C00C (.crd ⟨true, 3⟩ 3 0xC)
    ∧ Reads 0xBF21400C (.cwr ⟨true, 3⟩ 5 0xC) := by
  simp only [Reads]; decide +kernel
/-- Words of the encoding tables, engine, KV and system: major, function and fields in the places of R64 to R78. -/
theorem test_wordsEnginesSystem1 :
    Reads 0xBF4001F5 (.trap ⟨true, 3⟩ 0x1F5)
    ∧ Reads 0xBF400200 (.eret ⟨true, 3⟩)
    ∧ Reads 0xBF4005F5 (.brk ⟨true, 3⟩ 0x1F5) := by
  simp only [Reads]; decide +kernel
/-- Groups of two words: long immediates (R65, R68) and an operand-modifier prefix (R66); BELL and STALL stand in the last word. -/
theorem test_wordsLong :
    decodeWords 0x03A0C2C1 (some 0xBFF00002) = .ok ((.addiLong ⟨true, 3⟩ 3 5 0x8000141), 2)
    ∧ decodeWords 0x03C0C2C1 (some 0xBFF00002) = .ok ((.andiLong ⟨true, 3⟩ 3 5 0x8000141), 2)
    ∧ decodeWords 0x03E0C2C1 (some 0xBFF00002) = .ok ((.oriLong ⟨true, 3⟩ 3 5 0x8000141), 2)
    ∧ decodeWords 0x0400C2C1 (some 0xBFF00002) = .ok ((.xoriLong ⟨true, 3⟩ 3 5 0x8000141), 2)
    ∧ decodeWords 0x0440E001 (some 0xBFE30005) = .ok ((.moviLong ⟨true, 3⟩ 3 0xC0016001), 2)
    ∧ decodeWords 0x0540E001 (some 0xBFE30005) = .ok ((.smoviLong ⟨true, 3⟩ 3 0xC0016001), 2)
    ∧ decodeWords 0x0661A001 (some 0xBFE30005) = .ok ((.callLong ⟨true, 3⟩ 6 0xC0016001), 2)
    ∧ decodeWords 0x0FCD3FC8 (some 0xB760C286) = .ok ((.ffma ⟨true, 3⟩ (some fullPfx) 3 5 6), 2) := by
  decide +kernel
/-- Words that no encoding allows: a reserved FN, COND, width and operation, an odd pair, a set unused bit, BELL before the last word, a prefix
where R67 allows none. -/
theorem test_wordsRefused :
    (decodeWords 0x03400600 (some 0)).isOk = true ∧ (decodeWords 0x0340060C (some 0)).isOk = false ∧ (decodeWords 0x03404188 (some 0)).isOk = false
    ∧ (decodeWords 0x05000000 (some 0)).isOk = true ∧ (decodeWords 0x0680000F (some 0)).isOk = false
    ∧ (decodeWords 0x83A08168 (some 0x0FE00007)).isOk = false ∧ (decodeWords 0x0FC00000 (some 0x03A08168)).isOk = false
    ∧ (decodeWords 0x0FC00000 (some 0x0FC00000)).isOk = false ∧ (decodeWords 0x0020C082 none).isOk = true ∧ (decodeWords 0x03A08168 none).isOk = false := by
  decide +kernel
-- Ill-formed terms -----------------------------------------------------------------------------------------------------------------------------

def c0 : Ctl := ⟨false, 0⟩
def signed : Pfx := ⟨.own, .zero, .own, .zero, true, false, false, false, false, false, .rne, false⟩
def addend : Pfx := ⟨.own, .zero, .own, .zero, false, false, true, false, false, false, .rne, false⟩
def rounded : Pfx := ⟨.own, .zero, .own, .zero, false, false, false, false, false, false, .rtz, false⟩
def neighB : Pfx := ⟨.own, .zero, .left, .zero, false, false, false, false, false, false, .rne, false⟩
def signedB : Pfx := ⟨.own, .zero, .own, .zero, false, true, false, false, false, false, .rne, false⟩
/-- For each limit of WellFormed, a term that breaks it and a term beside it that does not. -/
theorem test_illFormed_pfx :
    [Instr.add c0 (some signed) 1 2 3, .shfl c0 (some neighB) 1 2 3, .fadd c0 (some addend) 1 2 3, .fmin c0 (some rounded) 1 2 3, .fscl c0 (some signedB) 1 2 3,
      .ffma c0 none 1 2 3, .frnd c0 (some neighB) 1 2, .fabs c0 (some rounded) 1 2, .dot4S8 c0 (some signed) 1 2 3].map wellFormed
    = [false, false, false, false, false, true, false, false, false] := by decide +kernel
theorem test_illFormed_pairs :
    [Instr.lea c0 1 2 3, .movZ64 c0 2 3, .addS64 c0 2 4 5, .sld c0 true .plain 3 2, .sld c0 false .plain 3 2, .call c0 3 0, .callLong c0 3 0, .jmpi c0 5, .ret c0 5,
      .topk c0 1 3 2, .ldg c0 .z64 .plain false 3 2, .ldg c0 .z32 .plain false 3 3, .lds c0 .z64 false 3 2, .ldl c0 .plain false 2 3, .ldsr c0 0 3, .pref c0 .l1 3,
      .waitge c0 .plain 1 3, .qpush c0 .plain 3 2, .cpy c0 0 1 3, .kvseal c0 3].map wellFormed
    = [false, false, false, false, true, false, false, false, false, false, false, false, false, false, false, false, false, false, false, false] := by decide +kernel
theorem test_illFormed_codes :
    [Instr.fcvtToFormat c0 none .bf16 2 1 2, .fcvtToFormat c0 none .bf16 1 1 2, .qpack c0 .e2m1 .floor .rne 1 121, .qpack c0 .e2m1 .floor .rne 1 120, .topk c0 9 2 2, .topk c0 0 2 2,
      .stg c0 .s8 .plain false 1 2, .sts c0 .s16 false 1 2, .salloc c0 7 1 2, .atm c0 .addZ64 .plain 2 2, .atm c0 .cas .plain 1 2, .atm64 c0 .sub .plain 2 2,
      .atm64 c0 .cas .plain 2 4, .atm64 c0 .cas .plain 4 2, .red c0 .swap .plain 1 2, .red c0 .addZ64 .plain 1 2, .winb c0 20, .winb c0 19].map wellFormed
    = [false, true, false, true, false, false, false, false, false, false, false, false, false, true, false, false, false, true] := by decide +kernel
theorem test_illFormed_tiles :
    [Instr.mld c0 true .pkg false 1 4, .mld c0 true .plain true 1 4, .mld c0 false .pkg true 1 4, .mst c0 false .plain false 1 5, .mmv c0 1 2 0 1, .kvld c0 false 1 2, .kvapp c0 1 6,
      .crd c0 1 0x006, .cwr c0 1 0x207, .crd c0 1 0x207].map wellFormed
    = [false, false, true, false, false, false, false, false, true, true] := by decide +kernel
-- Single steps, with results the manual states --------------------------------------------------------------------------------------------------

/-- What holds after one step. -/
def after {α : Type} (s : State) (d : α) (f : State → α) : α := match step s with
  | .next t => f t
  | _ => d
/-- Lane 0's register n after one step of a word with registers set. -/
def gives (w : Word) (vs : List (Nat × Word)) (n : Nat) : Word := after (rows (coded w) vs) 0xDEAD (fun t => (t.warp 0).elem n 0)
/-- Words pending for v(n) of lane 0 after one step. -/
def promised (s : State) (n : Nat) : List Word :=
  after s [] (fun t => t.pend.flatMap (fun p => (p.regs.filter (fun e => e.1 == elemKey n 0)).map Prod.snd))
/-- R40's nine bytes. -/
theorem test_check16 : crcBytes 0 0x393837363534333231 9 = 0xD0DB := by decide +kernel
/-- The example below R122. -/
theorem test_bfx : gives 0x02E0C082 [(1, 0xF0A0), (2, 0x0804)] 3 = 0xA ∧ gives 0x02E0C082 [(1, 0xF0A0), (2, 0x0808)] 3 = 0xF0
    ∧ gives 0x02C0C082 [(1, 0xF0A0), (2, 0x0808)] 3 = 0xFFFFFFF0 := by decide +kernel
/-- The example below R125. -/
theorem test_movh : gives 0x04610FF0 [] 4 = 0x3FC00000 := by decide +kernel
theorem test_add_wraps : gives 0x0020C082 [(1, 0xFFFFFFFF), (2, 2)] 3 = 1 := by decide +kernel
theorem test_cmp_signed : gives 0x02808307 [(6, 0xFFFFFFFF), (7, 0)] 2 = 0xFFFFFFFF ∧ gives 0x02A08307 [(6, 0xFFFFFFFF), (7, 0)] 2 = 1 := by decide +kernel
theorem test_mad_own_destination : gives 0x00C24205 [(4, 3), (5, 5), (9, 7)] 9 = 22 := by decide +kernel
/-- "One period, encoded": 1.5 squared, and its negated product with 2.25 added to 2.25. -/
theorem test_fmul_ffma : gives 0x07424408 [(8, 0x3FC00000)] 9 = 0x40100000
    ∧ after (rows (State.reset.withFetchWord 64 (0x0FCA1010 + 0x07624409 * 2 ^ 32)) [(8, 0x3FC00000), (9, 0x40100000)]) 0 (fun t => (t.warp 0).elem 9 0) = 0xBF900000 := by
  decide +kernel
/-- "Prefix counts and a warp sum", of one thread. -/
theorem test_redv : after (rows (coded 0x04A00390) [(7, 496)]) none (fun t => (t.pend.headD (Pending.empty 0)).rslt) = some 496 := by decide +kernel
theorem test_popx : gives 0x04A14188 [(3, 7)] 5 = 3 := by decide +kernel
/-- "A TRAP and its handler": cause 0x09, TINFO 42, TEPC behind the word. -/
theorem test_trap : after (handled (coded 0x0F40002A)) (0, 0, 0, 0) (fun t => ((t.thread 0 0).tcause.toNat, (t.thread 0 0).tinfo.toNat, (t.thread 0 0).tepc.toNat,
    (t.thread 0 0).pc.toNat)) = (9, 42, 0x10004, 0x10100) := by decide +kernel
theorem test_branch : after (rows (coded 0x8621CFFD) [(7, 1)]) 0 (fun t => (t.thread 0 0).pc.toNat) = 0x10000 - 12
    ∧ after (rows (coded 0x8621CFFD) [(7, 0)]) 0 (fun t => (t.thread 0 0).pc.toNat) = 0x10004 := by decide +kernel
theorem test_uniform : after (unis (coded 0x050081C4) [(3, 5), (4, 7)]) 0 (fun t => (t.warp 0).s 2) = 0xFFFFFFFE := by decide +kernel
theorem test_load : promised ((rows (coded 0x0A00C440) [(8, 0x10200), (9, 0)]).pokeDev 0x10200 4 0x89ABCDEF) 3 = [0x89ABCDEF] := by decide +kernel
theorem test_store : after (rows (spaced (coded 0x0A20C440)) [(8, 0x10200), (9, 0), (3, 0x89ABCDEF)]) 0 (fun t => t.mem.read 0x10200 4) = 0x89ABCDEF := by decide +kernel
theorem test_exit : after (coded 0x86800002) .absent (fun t => (t.thread 0 0).st) = .exited ∨ after (coded 0x86800002) true (fun t => (t.warps.find 0).isSome) = false := by
  decide +kernel
/-- R79: an unassigned major is the illegal instruction, cause 1. -/
theorem test_illegal : after (handled (coded 0)) 0 (fun t => (t.thread 0 0).tcause.toNat) = 1 := by decide +kernel
/-- R456's example: log mode, LO 7. -/
theorem test_monitor : after { State.reset with mons := [(0, { (default : Monitor) with cfg := BitVec.ofNat 64 (7 * 2 ^ 32 + 2 ^ 26 + 2 ^ 23 + 2 ^ 8) })], agenda := [.monitorSample 0 0 300, .monitorSample 0 0 100] } []
      (fun t => after t [] (fun t => (List.range 4).map (fun b => ((t.mons.get 0).bins.get b).toNat))) = [1, 0, 1, 0] := by decide +kernel
/-- All 32 threads of a warp, at the placed page. -/
def full (w : Word) : State := let s := coded w
  (s.modWarp 0 (fun x => { x with threads := (List.range 32).map (fun l => (l, s.thread 0 0)) })).modQuad 0 (fun q =>
    { q with bundle := some ⟨(List.range 32).map (fun l => (l, 0)), false, 0⟩ })
/-- Registers of several lanes. -/
def lanes (s : State) (vs : List (Nat × Nat × Word)) : State :=
  s.modWarp 0 (fun w => { w with vreg := vs.foldl (fun t v => t.put (elemKey v.1 v.2.1) v.2.2) w.vreg })
/-- "Packing, reading back and ranking". -/
theorem test_qpack : after (lanes (full 0x09A20A18) ([(20, 0, 0x41BA0000), (20, 1, 0x3F800000), (20, 2, 0xC0A80000), (22, 0, 0x7F800000)]
      ++ (List.range 32).map (fun l => (21, l, 0x3F800000)))) (0, [], false) (fun t => let p := t.pend.headD (Pending.empty 0)
        (((p.regs.lookup (elemKey 8 0)).getD 0).toNat, p.rowMeta, (t.warp 0).nf))
    = (0x00EA587C, [(8, 1, 0x7FFF777B)], true) := by decide +kernel
theorem test_topk : after (lanes (full 0x09E38604) [(12, 0, 0x41C00000), (12, 1, 0x3F800000), (12, 2, 0xC0A00000)]) [] (fun t =>
    (List.range 4).map (fun l => ((t.pend.headD (Pending.empty 0)).regs.lookup (elemKey 15 l)).getD 9)) = [0, 1, 3, 4] := by decide +kernel
end Sys2Proof.Tests
end

section
/-! SUPPORT. The register window as the host writes and reads it (R7, R454, R467): which part of the window answers, what a narrow
write makes of a register, that no register write reaches memory; monitors (R456, R457) and the aperture's registers (R463). -/
namespace Sys2Proof.Machine

-- Which offsets answer (R459) ------------------------------------------------------------------------------------

theorem State.responds_of_accepted {s : State} (hup : s.up = true) (hacc : s.accepted ≠ none) (o : Nat) : s.responds o = true := by
  simp [State.responds, hup, Option.isSome_iff_ne_none.mpr hacc]

/-- Before an image is accepted the mailbox alone may answer. -/
theorem State.responds_of_not_accepted {s : State} (h : s.up = false ∨ s.accepted = none) {o : Nat} (ho : o < 0x1002000 ∨ 0x1003000 ≤ o) :
    s.responds o = false := by
  rcases h with hup | hacc
  · simp [State.responds, hup]
  · simp [State.responds, hacc]; omega

theorem narrow_le_eight {len : Nat} (hlen : len ∈ [1, 2, 4]) : len ≤ 8 := by
  simp only [List.mem_cons, List.not_mem_nil, or_false] at hlen; omega

theorem devAccess_whole {o : Nat} (ho : o % 8 = 0) : devAccess (0x8000000000 + o) 8 = true := by
  simp [devAccess]; omega

theorem devAccess_narrow {o i len : Nat} (ho : o % 8 = 0) (hlen : len ∈ [1, 2, 4]) (hi : i % len = 0) :
    devAccess (0x8000000000 + o + i) len = true := by
  simp only [List.mem_cons, List.not_mem_nil, or_false] at hlen
  rcases hlen with rfl | rfl | rfl <;> simp [devAccess] <;> omega

-- Bytes of a register (R467) --------------------------------------------------------------------------------------

/-- Replacing w bits of a number from bit a on, as a sum of the bits above, between and below. -/
theorem replace_field_eq (r a w x : Nat) :
    r - r / 2 ^ a % 2 ^ w * 2 ^ a + x * 2 ^ a = 2 ^ a * (2 ^ w * (r / 2 ^ a / 2 ^ w) + x) + r % 2 ^ a := by
  have hr := Nat.div_add_mod r (2 ^ a)
  have hq := Nat.div_add_mod (r / 2 ^ a) (2 ^ w)
  have hsum : r = 2 ^ a * (2 ^ w * (r / 2 ^ a / 2 ^ w)) + r / 2 ^ a % 2 ^ w * 2 ^ a + r % 2 ^ a := by
    calc r = 2 ^ a * (2 ^ w * (r / 2 ^ a / 2 ^ w) + r / 2 ^ a % 2 ^ w) + r % 2 ^ a := by rw [hq, hr]
      _ = _ := by ring
  rw [Nat.mul_add, Nat.mul_comm (2 ^ a) x]
  omega

/-- A bit of a register of which some bytes were replaced: the new value's inside them, the old one's outside. -/
theorem getLsbD_regMerge (r : DWord) (i w x j : Nat) (hj : j < 64) :
    (regMerge r i w x).getLsbD j = if 8 * i ≤ j ∧ j - 8 * i < 8 * w then x.testBit (j - 8 * i) else r.getLsbD j := by
  rw [regMerge, regBytes, bf, fld, replace_field_eq, BitVec.getLsbD_ofNat,
    Nat.testBit_two_pow_mul_add _ (Nat.mod_lt _ (Nat.two_pow_pos _)), Nat.testBit_two_pow_mul_add _ (Nat.mod_lt _ (Nat.two_pow_pos _)),
    decide_eq_true hj, Bool.true_and]
  by_cases hlo : j < 8 * i
  · have : ¬ 8 * i ≤ j := by omega
    simp [hlo, this, Nat.testBit_mod_two_pow, BitVec.testBit_toNat]
  · by_cases hw : j - 8 * i < 8 * w
    · simp [hlo, hw, Nat.testBit_mod_two_pow, Nat.le_of_not_lt hlo]
    · have : j - 8 * i - 8 * w + 8 * w + 8 * i = j := by omega
      simp [hlo, hw, Nat.testBit_div_two_pow, this, BitVec.testBit_toNat]

/-- A narrow write in terms of the mask of its bytes. -/
theorem regMerge_eq_mask (r v : DWord) (i w : Nat) (hw : 8 * w ≤ 64) :
    let m : DWord := (BitVec.ofNat 64 (2 ^ (8 * w) - 1)) <<< (8 * i)
    regMerge r i w v.toNat = (r &&& ~~~m) ||| ((v <<< (8 * i)) &&& m) := by
  intro m
  refine BitVec.eq_of_getLsbD_eq fun j hj => ?_
  have hm : m.getLsbD j = true ↔ 8 * i ≤ j ∧ j - 8 * i < 8 * w := by
    simp only [m, BitVec.getLsbD_shiftLeft, BitVec.getLsbD_ofNat, Nat.testBit_two_pow_sub_one, Bool.and_eq_true, Bool.not_eq_true',
      decide_eq_true_eq, decide_eq_false_iff_not]
    omega
  rw [getLsbD_regMerge r i w v.toNat j hj, BitVec.getLsbD_or, BitVec.getLsbD_and, BitVec.getLsbD_and, BitVec.getLsbD_not]
  by_cases h : 8 * i ≤ j ∧ j - 8 * i < 8 * w
  · have hge : ¬ j < 8 * i := by omega
    rw [if_pos h, hm.mpr h, BitVec.getLsbD_shiftLeft]
    simp only [BitVec.testBit_toNat, hj, hge, decide_true, decide_false, Bool.not_false, Bool.not_true, Bool.and_false, Bool.true_and,
      Bool.false_or, Bool.and_true]
  · rw [if_neg h, Bool.eq_false_iff.mpr (mt hm.mp h)]
    simp only [hj, decide_true, Bool.not_false, Bool.and_true, Bool.and_false, Bool.or_false]

theorem regMerge_whole (r v : DWord) : regMerge r 0 8 v.toNat = v := by
  refine BitVec.eq_of_getLsbD_eq fun j hj => ?_
  rw [getLsbD_regMerge r 0 8 v.toNat j hj, if_pos (by omega)]
  exact BitVec.testBit_toNat v

theorem regBytes_one (r : DWord) (i : Nat) : BitVec.ofNat 8 (regBytes r i 1) = r.extractLsb' (8 * i) 8 := by
  apply BitVec.eq_of_toNat_eq
  simp [regBytes, bf, fld, Nat.shiftRight_eq_div_pow]

-- Register writes leave memory alone ------------------------------------------------------------------------------

@[simp] theorem State.report_mem (s : State) (cls detail addr ctx die : Nat) (part : Option Nat) :
    (s.report cls detail addr ctx die part).mem = s.mem := by
  unfold State.report; dsimp only; split <;> rfl

@[simp] theorem State.queueCause_mem (s : State) (p q cause : Nat) : (s.queueCause p q cause).mem = s.mem := by
  simp [State.queueCause]

@[simp] theorem State.queueError_mem (s : State) (p q cause : Nat) (n : Word) : (s.queueError p q cause n).mem = s.mem := by
  simp [State.queueError]

@[simp] theorem State.dropSlot_mem (s : State) (p q : Nat) : (s.dropSlot p q).mem = s.mem := rfl

theorem State.doorbell_mem (s : State) (p q : Nat) (w : Word) : (s.doorbell p q w).mem = s.mem := by
  simp only [State.doorbell]; split_ifs <;> simp

theorem State.queueEnable_mem (s : State) (p q : Nat) : (s.queueEnable p q).mem = s.mem := by
  simp only [State.queueEnable]; split_ifs <;> simp

theorem State.queueDisable_mem (s : State) (p q : Nat) : (s.queueDisable p q).mem = s.mem := by
  simp only [State.queueDisable]; split_ifs <;> simp

theorem State.queueResume_mem (s : State) (p q : Nat) : (s.queueResume p q).mem = s.mem := by
  simp only [State.queueResume]; split_ifs <;> simp

theorem State.queueSkip_mem (s : State) (p q : Nat) : (s.queueSkip p q).mem = s.mem := by
  simp only [State.queueSkip]; split_ifs <;> simp

theorem State.qctl_mem (s : State) (p q v : Nat) : (s.qctl p q v).mem = s.mem := by
  unfold State.qctl
  split
  · exact s.queueEnable_mem p q
  · exact s.queueDisable_mem p q
  · exact s.queueResume_mem p q
  · exact s.queueSkip_mem p q
  · rfl

theorem State.abort_mem (s : State) (k cause : Nat) : (s.abort k cause).mem = s.mem := by
  simp only [State.abort]; split_ifs <;> simp

theorem State.kcmd_mem (s : State) (p : Nat) (v : DWord) : (s.kcmd p v).mem = s.mem := by
  unfold State.kcmd
  split_ifs
  · unfold State.kcmdAbort; split
    · exact s.abort_mem _ 10
    · rfl
  · unfold State.kcmdPrio; split <;> rfl
  · rfl

theorem State.queueWindowWrite_mem (s : State) (p off : Nat) (v : DWord) : (s.queueWindowWrite p off v).mem = s.mem := by
  unfold State.queueWindowWrite
  split
  · dsimp only
    split
    · exact s.doorbell_mem ..
    · split <;> rfl
    · split <;> rfl
    · exact s.qctl_mem ..
    · rfl
  · split
    · exact s.kcmd_mem p v
    · rfl

theorem State.setcmd_mem (s : State) (v : DWord) : (s.setcmd v).mem = s.mem := by
  simp only [State.setcmd]; split_ifs <;> rfl

theorem State.mbcmd_mem (s : State) (v : DWord) : (s.mbcmd v).mem = s.mem := by
  simp only [State.mbcmd]; split_ifs <;> rfl

theorem State.apertureWrite_mem (s : State) (off : Nat) (v : DWord) : (s.apertureWrite off v).mem = s.mem := by
  unfold State.apertureWrite; split_ifs <;> rfl

/-- Wherever in the window a register stands, a write of it stores nothing in memory. -/
theorem State.devWrite_mem (s : State) (o : Nat) (v : DWord) : (s.devWrite o v).mem = s.mem := by
  unfold State.devWrite
  split
  · exact s.queueWindowWrite_mem ..
  split
  · split
    · rfl
    · exact s.setcmd_mem v
    · rfl
  split
  · rfl
  split
  · split
    · rfl
    · exact s.mbcmd_mem v
    · rfl
  split
  · exact s.apertureWrite_mem ..
  split
  · rfl
  · split <;> rfl

theorem State.setcmd_of_busy {s : State} (h : s.setup.busy = true) (v : DWord) : s.setcmd v = s := by
  simp [State.setcmd, h]

/-- The registers a write leaves as they are: read-only ones, and offsets where the window has none. -/
theorem State.devWrite_ignored (s : State) (v : DWord) {o : Nat}
    (ho : o ∈ [0x1000010, 0x1001010, 0x1001020, 0x1002010, 0x1003010, 0x1000018, 0x1004000, 0x10FFFF8]) : s.devWrite o v = s := by
  simp only [List.mem_cons, List.not_mem_nil, or_false] at ho
  rcases ho with rfl | rfl | rfl | rfl | rfl | rfl | rfl | rfl <;> rfl

-- Accesses of the window (R467) -----------------------------------------------------------------------------------

theorem exec_registerWrite (s : State) (pa x : Nat) {len : Nat} (hlen : len ≤ 8) :
    exec (.registerWrite pa len x) s = .next (s.regWrite pa len x) := by
  change Host.Outcome.next (if len ≤ 8 then _ else _) = _
  rw [if_pos hlen]

section
variable {s : State} (hup : s.up = true) (hacc : s.accepted ≠ none) {o : Nat} (ho : o % 8 = 0)
include hup hacc ho

theorem exec_registerWrite_whole (v : DWord) :
    exec (.registerWrite (0x8000000000 + o) 8 v.toNat) s = .next (s.devWrite o v) := by
  have hoff : 0x8000000000 + o - 0x8000000000 = o := by omega
  have hreg : o / 8 * 8 = o := by omega
  rw [exec_registerWrite s _ _ (Nat.le_refl 8)]
  simp only [State.regWrite, hoff, hreg, ho, devAccess_whole ho, s.responds_of_accepted hup hacc, regMerge_whole, Bool.and_self, if_true]

/-- A narrow write is a write of the whole register with its bytes replaced. -/
theorem exec_registerWrite_narrow {i len : Nat} (hlen : len ∈ [1, 2, 4]) (hi : i % len = 0) (hi8 : i < 8) (x : Nat) :
    exec (.registerWrite (0x8000000000 + o + i) len x) s = .next (s.devWrite o (regMerge (s.devReg o) i len x)) := by
  have hoff : 0x8000000000 + o + i - 0x8000000000 = o + i := by omega
  have hreg : (o + i) / 8 * 8 = o := by omega
  have hbyte : (o + i) % 8 = i := by omega
  rw [exec_registerWrite s _ _ (narrow_le_eight hlen)]
  simp only [State.regWrite, hoff, hreg, hbyte, devAccess_narrow ho hlen hi, s.responds_of_accepted hup hacc,
    Bool.and_self, if_true]

theorem exec_hostRead_whole :
    exec (.hostRead true o 8) s
      = .next { s with hostOut := s.hostOut ++ [.data ((List.range 8).map (fun i => (s.devReg o).extractLsb' (8 * i) 8))] } := by
  have hbytes : s.regRead o 8 = (List.range 8).map (fun i => (s.devReg o).extractLsb' (8 * i) 8) := by
    refine List.map_congr_left fun i hi => ?_
    have hi8 : i < 8 := List.mem_range.mp hi
    rw [show (o + i) / 8 * 8 = o by omega, show (o + i) % 8 = i by omega, regBytes_one]
  change Host.Outcome.next (s.hostRegs o 8) = _
  simp [State.hostRegs, s.responds_of_accepted hup hacc, devAccess_whole ho, hbytes, State.tellHost]

end

theorem State.regWrites_two (s : State) (pa x : Nat) :
    s.regWrites pa x 2 = (s.regWrite pa 8 (x % 2 ^ 64)).regWrite (pa + 8) 8 (x / 2 ^ 64 % 2 ^ 64) := rfl

theorem exec_registerWrite_sixteen (s : State) (pa x : Nat) :
    exec (.registerWrite pa 16 x) s = .next ((s.regWrite pa 8 (x % 2 ^ 64)).regWrite (pa + 8) 8 (x / 2 ^ 64 % 2 ^ 64)) := by
  change Host.Outcome.next (if 16 ≤ 8 then s.regWrite pa 16 x else if 16 % 8 = 0 then s.regWrites pa x 2 else s) = _
  rw [if_neg (by decide), if_pos rfl, State.regWrites_two]

/-- A write of 16 bytes is two of 8, the lower first. -/
theorem exec_registerWrite_pair (s : State) (o : Nat) (v w : DWord) :
    exec (.registerWrite (0x8000000000 + o) 16 (v.toNat + 2 ^ 64 * w.toNat)) s
      = match exec (.registerWrite (0x8000000000 + o) 8 v.toNat) s with
        | .next t => exec (.registerWrite (0x8000000000 + (o + 8)) 8 w.toNat) t
        | r => r := by
  have hlow : (v.toNat + 2 ^ 64 * w.toNat) % 2 ^ 64 = v.toNat := by omega
  have hhigh : (v.toNat + 2 ^ 64 * w.toNat) / 2 ^ 64 % 2 ^ 64 = w.toNat := by omega
  rw [exec_registerWrite_sixteen, hlow, hhigh, Nat.add_assoc, exec_registerWrite s _ _ (Nat.le_refl 8)]
  exact (exec_registerWrite _ _ _ (Nat.le_refl 8)).symm

-- Monitors (R456, R457) -------------------------------------------------------------------------------------------

theorem satInc_eq {w : Nat} (x : BitVec w) : satInc x = if x = BitVec.allOnes w then x else x + 1 := by
  have hfull : x.toNat + 1 = 2 ^ w ↔ x = BitVec.allOnes w := by
    rw [← BitVec.toNat_inj, BitVec.toNat_allOnes]
    have := Nat.two_pow_pos w
    omega
  simp only [satInc, hfull]

/-- The lowest bin in log mode holds the samples below 2 to the LO, 0 among them. -/
theorem Monitor.bin_eq (m : Monitor) (v : Nat) : m.bin v =
    if m.cfg.getLsbD 26 then (if v < 2 ^ bf m.cfg 32 32 then 0 else Nat.min 15 (Nat.log2 v - bf m.cfg 32 32 + 1))
    else if v < bf m.cfg 32 32 then 0 else Nat.min 15 ((v - bf m.cfg 32 32) / 2 ^ bf m.cfg 27 5) := by
  have hlow : (v = 0 ∨ Nat.log2 v < m.lo) ↔ v < 2 ^ bf m.cfg 32 32 := by
    rcases Nat.eq_zero_or_pos v with rfl | hv
    · simp
    · have hne : v ≠ 0 := Nat.ne_of_gt hv
      simp [hne, Nat.log2_lt hne, Monitor.lo]
  simp only [Monitor.bin, hlow]
  rfl

theorem Monitor.sample_eq (m : Monitor) (v : Word) : m.sample v =
    if m.cfg.getLsbD 23 = true ∧ m.cfg.getLsbD 25 = false ∧ 1 ≤ bf m.cfg 8 8 ∧ bf m.cfg 8 8 ≤ 8 then
      { m with
        min := if v < m.min then v else m.min, max := if m.max < v then v else m.max
        cnt := if m.cnt = BitVec.allOnes 64 then m.cnt else m.cnt + 1
        bins := m.bins.put (m.bin v.toNat)
          (if m.bins.get (m.bin v.toNat) = BitVec.allOnes 32 then m.bins.get (m.bin v.toNat) else m.bins.get (m.bin v.toNat) + 1) }
    else m := by
  have hgate : (m.enabled && !m.frozen && decide (1 ≤ m.src) && decide (m.src ≤ 8)) = true
      ↔ m.cfg.getLsbD 23 = true ∧ m.cfg.getLsbD 25 = false ∧ 1 ≤ bf m.cfg 8 8 ∧ bf m.cfg 8 8 ≤ 8 := by
    simp only [Bool.and_eq_true, Bool.not_eq_true', decide_eq_true_eq, and_assoc]
    rfl
  simp only [Monitor.sample, hgate, satInc_eq, BitVec.lt_def]

/-- CLEAR starts the statistics anew and is not kept. -/
theorem Monitor.configure_clear (m : Monitor) (v : DWord) :
    m.configure (v ||| 0x1000000) = ⟨v &&& 0xFFFFFFFFFE80FFFF#64, 0xFFFFFFFF, 0, 0, []⟩ := by
  have hset : (v ||| 0x1000000#64).getLsbD 24 = true := by simp
  have hkeep : (v ||| 0x1000000#64) &&& 0xFFFFFFFFFE80FFFF#64 = v &&& 0xFFFFFFFFFE80FFFF#64 := by
    rw [BitVec.and_comm, BitVec.and_or_distrib_left, BitVec.and_comm, show 0xFFFFFFFFFE80FFFF#64 &&& 0x1000000#64 = 0#64 from rfl, BitVec.or_zero]
  simp only [Monitor.configure, moncfgMask, BitVec.ofNat_eq_ofNat]
  rw [if_pos hset, hkeep]

/-- A change of one monitor leaves the others and the rest of the state. -/
theorem State.modMon_spec (s : State) (d k : Nat) (f : Monitor → Monitor) :
    s.modMon d k f = { s with mons := (s.modMon d k f).mons }
    ∧ (s.modMon d k f).mons.get (64 * d + k) = f (s.mons.get (64 * d + k))
    ∧ ∀ n, n ≠ 64 * d + k → (s.modMon d k f).mons.get n = s.mons.get n :=
  ⟨rfl, Table.get_put_same .., fun _ hn => Table.get_put_ne _ _ hn⟩

theorem exec_monitorSample (s : State) {d k : Nat} (hd : d < 4) (hk : k < 64) (v : Word) :
    exec (.monitorSample d k v) s = .next (s.modMon d k (fun m => m.sample v)) := by
  change execMonitorSample d k v s = _
  simp [execMonitorSample, hd, hk]

theorem exec_monitorClear (s : State) {d k : Nat} (hd : d < 4) (hk : k < 64) (v : DWord) :
    exec (.monitorClear d k v) s
      = .next (if s.responds 0x1100000 then s.modMon d k (fun m => m.configure (v ||| 0x1000000)) else s) := by
  change execMonitorClear d k v s = _
  simp [execMonitorClear, hd, hk]

-- The aperture's registers (R463) -----------------------------------------------------------------------------------

theorem exec_apertureConfigWrite (s : State) (off : Nat) (v : DWord) :
    exec (.apertureConfigWrite off v) s = .next (if s.responds 0x1003000 then s.apertureWrite off v else s) := rfl

-- Before an image is accepted -----------------------------------------------------------------------------------------

theorem exec_registerWrite_unanswered {s : State} (h : s.up = false ∨ s.accepted = none) {o len : Nat} (ho : o < 0x1002000 ∨ 0x1003000 ≤ o)
    (hlen : len ≤ 8) (x : Nat) : exec (.registerWrite (0x8000000000 + o) len x) s = .next s := by
  have hoff : 0x8000000000 + o - 0x8000000000 = o := by omega
  rw [exec_registerWrite s _ _ hlen]
  simp [State.regWrite, hoff, State.responds_of_not_accepted h ho]

-- The obligation's parts ------------------------------------------------------------------------------------------------

/-- What a host's write of a whole register changes, register by register. -/
theorem exec_registerWrite_registers {s : State} (hup : s.up = true) (hacc : s.accepted ≠ none) (o : Nat) (v : DWord) (ho : o % 8 = 0) :
    ∃ t, exec (.registerWrite (0x8000000000 + o) 8 v.toNat) s = .next t ∧ t.mem = s.mem
      ∧ (o = 0x1000000 → t = { s with setup := { s.setup with arg := v &&& ~~~0x7F#64 } })
      ∧ (o = 0x1000008 → s.setup.busy = true → t = s)
      ∧ (o = 0x1001000 → t = { s with err := { s.err with base := v &&& ~~~0x7F#64 } })
      ∧ (o = 0x1001008 → t = { s with err := { s.err with cfg := v &&& 0x11F#64 } })
      ∧ (o = 0x1001018 → t = { s with err := { s.err with ridx := v.setWidth 32 } })
      ∧ (o = 0x1001028 → t = { s with err := { s.err with cecnt := s.err.cecnt &&& ~~~(v.setWidth 32) } })
      ∧ (o = 0x1002000 → t = { s with mbox := { s.mbox with buf := v &&& ~~~0xFFF#64 } })
      ∧ (o ∈ [0x1000010, 0x1001010, 0x1001020, 0x1002010, 0x1003010, 0x1000018, 0x1004000, 0x10FFFF8] → t = s) := by
  refine ⟨s.devWrite o v, exec_registerWrite_whole hup hacc ho v, s.devWrite_mem o v, ?setarg, ?setcmd, ?errbase, ?errcfg, ?errridx, ?cecnt,
    ?mbbuf, s.devWrite_ignored v⟩
  case setcmd => rintro rfl hbusy; exact State.setcmd_of_busy hbusy v
  all_goals rintro rfl; rfl

theorem exec_monitorSample_spec (s : State) (d k : Nat) (v : Word) (hd : d < 4) (hk : k < 64) :
    ∃ t, exec (.monitorSample d k v) s = .next t ∧ t = { s with mons := t.mons } ∧ (∀ n, n ≠ 64 * d + k → t.mons.get n = s.mons.get n)
      ∧ t.mons.get (64 * d + k) = (s.mons.get (64 * d + k)).sample v := by
  obtain ⟨hrest, hsame, hother⟩ := s.modMon_spec d k (fun m => m.sample v)
  exact ⟨_, exec_monitorSample s hd hk v, hrest, hother, hsame⟩

theorem exec_monitorClear_spec {s : State} (hup : s.up = true) (hacc : s.accepted ≠ none) (d k : Nat) (v : DWord) (hd : d < 4) (hk : k < 64) :
    ∃ t, exec (.monitorClear d k v) s = .next t ∧ t = { s with mons := t.mons }
      ∧ t.mons.get (64 * d + k) = ⟨v &&& 0xFFFFFFFFFE80FFFF#64, 0xFFFFFFFF, 0, 0, []⟩ ∧ ∀ n, n ≠ 64 * d + k → t.mons.get n = s.mons.get n := by
  obtain ⟨hrest, hsame, hother⟩ := s.modMon_spec d k (fun m => m.configure (v ||| 0x1000000))
  refine ⟨_, ?_, hrest, hsame.trans (Monitor.configure_clear _ v), hother⟩
  rw [exec_monitorClear s hd hk, s.responds_of_accepted hup hacc, if_pos rfl]

theorem exec_apertureConfigWrite_spec {s : State} (hup : s.up = true) (hacc : s.accepted ≠ none) (v : DWord) :
    exec (.apertureConfigWrite 0 v) s = .next { s with ap := { s.ap with base := v &&& 0xFFFFC0000000#64, applied := false, wrote := true } }
    ∧ exec (.apertureConfigWrite 8 v) s = .next { s with ap := { s.ap with line := v.getLsbD 0, applied := false, wrote := true } } := by
  constructor <;> rw [exec_apertureConfigWrite, s.responds_of_accepted hup hacc] <;> rfl

/-- Where the module does not answer, no write of a register outside the mailbox, of the aperture or of a monitor does anything. -/
theorem exec_unanswered {s : State} (h : s.up = false ∨ s.accepted = none) (v : DWord) :
    (∀ o len, (o < 0x1002000 ∨ 0x1003000 ≤ o) → len ≤ 8 → exec (.registerWrite (0x8000000000 + o) len v.toNat) s = .next s)
    ∧ (∀ off, exec (.apertureConfigWrite off v) s = .next s) ∧ ∀ d k, d < 4 → k < 64 → exec (.monitorClear d k v) s = .next s := by
  refine ⟨fun o len ho hlen => exec_registerWrite_unanswered h ho hlen _, fun off => ?_, fun d k hd hk => ?_⟩
  · rw [exec_apertureConfigWrite, State.responds_of_not_accepted h (.inr (by omega))]; rfl
  · rw [exec_monitorClear s hd hk, State.responds_of_not_accepted h (.inr (by omega))]; rfl

/-- Settles O45: each clause is the lemma above about its instruction; a narrow write's merged value is the masked one. -/
theorem hostRegisters : Obligations.HostRegisters := by
  unfold Obligations.HostRegisters
  intro s
  refine ⟨fun hup hacc => ⟨exec_registerWrite_registers hup hacc, fun o i len v ho hlen hi hi8 => ?narrow⟩,
    fun hup hacc o ho => ⟨exec_hostRead_whole hup hacc ho, exec_registerWrite_pair s o⟩, fun d k v hd hk => ?sample,
    fun d k v hup hacc => exec_monitorClear_spec hup hacc d k v, fun v hup hacc => exec_apertureConfigWrite_spec hup hacc v,
    exec_unanswered, rfl⟩
  case narrow =>
    have hw : 8 * len ≤ 64 := Nat.mul_le_mul_left 8 (narrow_le_eight hlen)
    intro m
    rw [exec_registerWrite_narrow hup hacc ho hlen hi hi8, exec_registerWrite_whole hup hacc ho]
    exact congrArg (fun x => Host.Outcome.next (s.devWrite o x)) (regMerge_eq_mask _ v i len hw)
  case sample =>
    obtain ⟨t, hexec, hrest, hother, hmon⟩ := exec_monitorSample_spec s d k v hd hk
    refine ⟨t, hexec, hrest, hother, ?_⟩
    rw [hmon, Monitor.sample_eq, Monitor.bin_eq]

end Sys2Proof.Machine
end

section
/-! SUPPORT. The machine right after reset (R37, R464): what it lists, and that its lines of zeros match their checks. -/
namespace Sys2Proof

theorem Memory.read_nil (a n : Nat) : Memory.read [] a n = 0 := by
  induction n generalizing a with
  | zero => rfl
  | succ n ih => rw [Memory.read, ih]; rfl

namespace Machine

theorem State.reset_line (n : Nat) : State.reset.line n = { data := 0, tag := 0, scales := 0 } := by
  change Line.mk (BitVec.ofNat 1024 (Memory.read [] (128 * n) 128)) (BitVec.ofNat 4 (Memory.read [] (16 * n + 6) 1))
    (BitVec.ofNat 64 (Memory.read [] (16 * n + 7) 8)) = _
  simp only [Memory.read_nil]
  rfl

theorem State.reset_chk (n : Nat) : State.reset.chk n = 0 := congrArg (BitVec.ofNat 16) (Memory.read_nil (16 * n + 4) 2)

/-- No zero byte moves the remainder from 0 (R40). -/
theorem crcBytes_zero (n : Nat) : crcBytes 0 0 n = 0 := by cases n <;> rfl

theorem check16_zero : check16 { data := 0, tag := 0, scales := 0 } = 0 := by
  simp only [check16, BitVec.ofNat_eq_ofNat, BitVec.toNat_zero, crcBytes_zero, crcByte, Nat.add_zero, if_true]

theorem State.reset_lineBad (n : Nat) : State.reset.lineBad n = none := by
  have hgood : State.reset.badLines.contains n = false := rfl
  rw [State.lineBad, hgood, if_neg Bool.false_ne_true, State.reset_line, State.reset_chk, check16_zero, if_pos rfl]

/-- Settles O58: no table lists anything, so each record reads as its default; lines are those of zeros. -/
theorem resetState : Obligations.ResetState := by
  unfold Obligations.ResetState
  intro s
  have hctx : s.ctxsOk := fun e he => nomatch he
  have hlines : ∀ n, s.line n = { data := 0, tag := 0, scales := 0 } ∧ s.lineBad n = none :=
    fun n => ⟨State.reset_line n, State.reset_lineBad n⟩
  have hhalves : ∀ h, (s.half h).member = false := fun _ => rfl
  have hports : ∀ n, (s.ports.get n).st = .disabled := fun _ => rfl
  have hqueues : ∀ p q, s.queue p q = { (default : Queue) with widx := 0, ridx := 0, base := 0, cfg := 0, erridx := 0, retries := 0, cause := 0, st := 0 } :=
    fun _ _ => rfl
  refine ⟨rfl, hctx, hlines, hhalves, rfl, rfl, rfl, rfl, rfl, rfl, rfl, rfl, rfl, rfl, rfl, rfl, hports, hqueues, ?registers⟩
  case registers => exact ⟨rfl, rfl, rfl, rfl, rfl, rfl, rfl, rfl, rfl, rfl, rfl, fun _ => rfl⟩

end Machine
end Sys2Proof
end

section
/-! SUPPORT. The error record a report writes (R455): its fields stand where the layout says, and nothing else changes. -/
namespace Sys2Proof.Machine

theorem put_lt {x v lo n : Nat} (hx : x < 2 ^ lo) (hv : v < 2 ^ n) : put x lo v < 2 ^ (lo + n) := by
  calc x + v * 2 ^ lo < (v + 1) * 2 ^ lo := by rw [Nat.succ_mul]; omega
    _ ≤ 2 ^ n * 2 ^ lo := Nat.mul_le_mul_right _ hv
    _ = 2 ^ (lo + n) := by rw [Nat.pow_add, Nat.mul_comm]

theorem fld_put_same {x v lo n : Nat} (hx : x < 2 ^ lo) (hv : v < 2 ^ n) : fld (put x lo v) lo n = v := by
  rw [fld, put, Nat.add_mul_div_right _ _ (Nat.two_pow_pos lo), Nat.div_eq_of_lt hx, Nat.zero_add, Nat.mod_eq_of_lt hv]

/-- A field written above another leaves it. -/
theorem fld_put_above {k lo n : Nat} (x v : Nat) (h : lo + n ≤ k) : fld (put x k v) lo n = fld x lo n := by
  obtain ⟨j, rfl⟩ := Nat.exists_eq_add_of_le h
  have hsplit : put x (lo + n + j) v = x + v * 2 ^ j * 2 ^ n * 2 ^ lo := by rw [put]; ring
  rw [fld, fld, hsplit, Nat.add_mul_div_right _ _ (Nat.two_pow_pos lo), Nat.add_mul_mod_self_right]

theorem bf_ofNat {k w x : Nat} (lo n : Nat) (hk : k ≤ w) (hx : x < 2 ^ k) : bf (BitVec.ofNat w x) lo n = fld x lo n := by
  rw [bf, BitVec.toNat_ofNat, Nat.mod_eq_of_lt (Nat.lt_of_lt_of_le hx (Nat.pow_le_pow_right (by decide) hk))]

/-- A report changes the error window and what was done toward the host. -/
theorem State.report_eq (s : State) (cls detail addr ctx die : Nat) (part : Option Nat) :
    s.report cls detail addr ctx die part
      = { s with err := (s.report cls detail addr ctx die part).err, hostOut := (s.report cls detail addr ctx die part).hostOut } := by
  unfold State.report; dsimp only; split <;> rfl

/-- The fields of an error record, as `State.report` lays them out from bit 0 on (R455). -/
def errFields (n die : Nat) (part : Option Nat) (cls ctx detail addr time : Nat) : Nat :=
  put (put (put (put (put (put (put (put (put 0 0 (n % 2 ^ 26)) 26 die) 28 (if part.isSome then 1 else 0)) 29 (part.getD 0)) 40 cls) 48 ctx)
    64 (detail % 2 ^ 64)) 128 (addr % 2 ^ 64)) 192 (time % 2 ^ 64)

/-- Where die, partition, class and context fit their fields, class, index and time read back. -/
theorem errFields_spec {n die cls ctx : Nat} {part : Option Nat} (detail addr time : Nat) (hcls : cls < 2 ^ 8) (hdie : die < 2 ^ 2)
    (hpart : part.getD 0 < 2 ^ 11) (hctx : ctx < 2 ^ 16) :
    let x := errFields n die part cls ctx detail addr time
    x < 2 ^ 256 ∧ fld x 40 8 = cls ∧ fld x 0 26 = n % 2 ^ 26 ∧ fld x 192 64 = time % 2 ^ 64 := by
  have hmod (x k : Nat) : x % 2 ^ k < 2 ^ k := Nat.mod_lt _ (Nat.two_pow_pos k)
  have hbit : (if part.isSome then 1 else 0 : Nat) < 2 ^ 1 := by split <;> decide
  have hidx := put_lt (x := 0) (lo := 0) Nat.one_pos (hmod n 26)
  have hbelow := put_lt (put_lt (put_lt hidx hdie) hbit) hpart
  have haddr := put_lt (put_lt (put_lt (put_lt hbelow hcls) hctx) (hmod detail 64)) (hmod addr 64)
  refine ⟨put_lt haddr (hmod time 64), ?cls, ?idx, fld_put_same haddr (hmod time 64)⟩
  case cls => simp (disch := decide) only [errFields, fld_put_above]; exact fld_put_same hbelow hcls
  case idx => simp (disch := decide) only [errFields, fld_put_above]; exact fld_put_same Nat.one_pos (hmod n 26)

/-- A report leaves a record of its class, or counts it as lost, where die, partition, class and context fit their fields. -/
theorem State.report_records (s : State) {cls die ctx : Nat} {part : Option Nat} (detail addr : Nat) (hcls : cls < 2 ^ 8) (hdie : die < 2 ^ 2)
    (hpart : part.getD 0 < 2 ^ 11) (hctx : ctx < 2 ^ 16) : s.records (s.report cls detail addr ctx die part) cls := by
  unfold State.records State.report
  dsimp only
  by_cases hroom : s.err.cfg.getLsbD 8 = true ∧ (s.err.widx - s.err.ridx).toNat < 2 ^ bf s.err.cfg 0 5
  · rw [if_pos hroom, if_pos (by simpa using hroom)]
    obtain ⟨hlt, hclass, hidx, htime⟩ := errFields_spec (n := s.err.widx.toNat) detail addr s.devtime hcls hdie hpart hctx
    have hfield (lo n : Nat) := bf_ofNat lo n (by decide : 256 ≤ 1024) hlt
    exact ⟨_, (hfield 40 8).trans hclass, (hfield 0 26).trans hidx, (hfield 192 64).trans htime, rfl, rfl⟩
  · rw [if_neg hroom, if_neg (by simpa using hroom)]
    exact ⟨rfl, rfl⟩

end Sys2Proof.Machine
end

section
/-! SUPPORT. Bring-up, the end of power, the power limits and the states of a port (R29 to R31, R426, R459, R461, R464). -/
namespace Sys2Proof.Machine

-- Power that ends (R29, R461) ----------------------------------------------------------------------------------------

/-- Power is gone with the input in a state: nothing is held but what flash holds. -/
def State.dark (s t : State) (x : Input) : Prop :=
  (t.floor = s.floor ∧ t.images = s.images) ∧ t.up = false ∧ t.input = x ∧ t.mem = [] ∧ t.side = [] ∧ t.warps = []
    ∧ t.wgs = [] ∧ t.kernels = [] ∧ t.ctxs = [] ∧ t.halves = [] ∧ t.queues = [] ∧ t.ports = []

theorem State.powerOff_dark (s : State) (x : Input) : s.dark (s.powerOff x) x :=
  ⟨⟨rfl, rfl⟩, rfl, rfl, rfl, rfl, rfl, rfl, rfl, rfl, rfl, rfl, rfl⟩

/-- A record does not change what the loss of power leaves. -/
theorem State.report_powerOff_dark (s : State) (cls detail addr ctx die : Nat) (part : Option Nat) (x : Input) :
    s.dark ((s.report cls detail addr ctx die part).powerOff x) x := by
  rw [s.report_eq]
  exact State.powerOff_dark _ x

/-- Power that ends with a record of class 0x0A. -/
theorem State.report_powerOff (s : State) (detail : Nat) {die : Nat} (hdie : die < 4) (x : Input) :
    ∃ u, s.dark ((s.report 0xA detail 0 0 die none).powerOff x) x ∧ s.records u 0x0A
      ∧ ((s.report 0xA detail 0 0 die none).powerOff x).hostOut = u.hostOut :=
  ⟨_, s.report_powerOff_dark .., s.report_records detail 0 (by decide) hdie (by decide) (by decide), rfl⟩

theorem exec_inputOvervoltage (s : State) : ∃ t u, (exec .inputOvervoltage s = .next t ∧ s.dark t .high) ∧ s.records u 0x0A ∧ t.hostOut = u.hostOut := by
  obtain ⟨u, hdark, hrec, hout⟩ := s.report_powerOff (Config.errDetail 0xA [0]) (by decide : 0 < 4) .high
  exact ⟨_, u, ⟨rfl, hdark⟩, hrec, hout⟩

/-- What a shutdown with power on leaves. -/
theorem State.shutdown_spec {s : State} (hup : s.up = true) (source value : Nat) {die : Nat} (hdie : die < 4) :
    ∃ u, s.dark (s.shutdown source value die) .off ∧ s.records u 0x0A ∧ (s.shutdown source value die).hostOut = u.hostOut := by
  rw [State.shutdown, if_pos hup]
  exact s.report_powerOff _ hdie .off

theorem exec_ceilingShutdown {s : State} (hup : s.up = true) (source value : BitVec 32) :
    ∃ t u, (exec (.ceilingShutdown source value) s = .next t ∧ s.dark t .off) ∧ s.records u 0x0A ∧ t.hostOut = u.hostOut := by
  obtain ⟨u, hdark, hrec, hout⟩ := State.shutdown_spec hup source.toNat value.toNat (by decide : 0 < 4)
  exact ⟨_, u, ⟨rfl, hdark⟩, hrec, hout⟩

theorem exec_thermalShutdown {s : State} (hup : s.up = true) {die : Nat} (hdie : die < 4) (value : BitVec 32) :
    ∃ t u, (exec (.thermalShutdown die value) s = .next t ∧ s.dark t .off) ∧ s.records u 0x0A ∧ t.hostOut = u.hostOut := by
  obtain ⟨u, hdark, hrec, hout⟩ := State.shutdown_spec hup (0x100 + die) value.toNat hdie
  have hexec : exec (.thermalShutdown die value) s = .next (s.shutdown (0x100 + die) value.toNat die) := by
    change execThermalShutdown die value s = _
    rw [execThermalShutdown, if_neg (Nat.not_le.mpr hdie)]
  exact ⟨_, u, ⟨hexec, hdark⟩, hrec, hout⟩

-- The two image slots (R459) -------------------------------------------------------------------------------------------

/-- The ROM accepts the image of a slot (R459). -/
def State.slotGood (s : State) (j : Nat) : Prop :=
  (s.images.get j).st ≠ 0 ∧ Config.imageVerified (s.images.get j).bytes = true ∧ s.floor ≤ Config.imageVersion (s.images.get j).bytes

/-- The state of a slot, as IMGSTAT shows it, is noted (R460). -/
def State.markSlot (s : State) (j st : Nat) : State := { s with images := s.images.put j { s.images.get j with st } }

theorem State.imageStep_eq_none (s : State) (j : Nat) : s.imageStep j = none ↔
    Config.imageVerified (s.images.get j).bytes = true ∧ s.floor ≤ Config.imageVersion (s.images.get j).bytes := by
  unfold State.imageStep
  cases hv : Config.imageVerified (s.images.get j).bytes <;> simp [hv, BitVec.le_def]

theorem State.slotGood_iff (s : State) (j : Nat) : s.slotGood j ↔ (s.images.get j).st ≠ 0 ∧ s.imageStep j = none := by
  rw [State.imageStep_eq_none, State.slotGood]

/-- Verification of a slot: an empty one is passed over, a bad one rejected with a record; a good one is accepted, and configures the
module where none was accepted before. -/
theorem State.verifySlot_cases (s : State) (j : Nat) :
    ((s.images.get j).st = 0 ∧ s.verifySlot j = s)
    ∨ ((s.images.get j).st ≠ 0 ∧ ¬s.slotGood j ∧ ∃ d, s.verifySlot j = (s.markSlot j 2).report 0xB d 0 0 0 none)
    ∨ (s.slotGood j ∧ s.accepted ≠ none ∧ s.verifySlot j = s.markSlot j 1)
    ∨ (s.slotGood j ∧ s.accepted = none ∧ ∃ f, s.floor ≤ f ∧ s.verifySlot j
        = { s.markSlot j 1 with accepted := some j, pkg := (Config.imagePackage (s.images.get j).bytes).toNat, floor := f }) := by
  by_cases hst : (s.images.get j).st = 0
  · exact .inl ⟨hst, by rw [State.verifySlot, if_pos hst]⟩
  refine .inr ?_
  cases hstep : s.imageStep j with
  | some k =>
    have hbad : ¬s.slotGood j := fun h => by simp [(s.slotGood_iff j).mp h] at hstep
    exact .inl ⟨hst, hbad, Config.errDetail 0xB [j, k], by simp only [State.verifySlot, if_neg hst, hstep]; rfl⟩
  | none =>
    have hgood : s.slotGood j := (s.slotGood_iff j).mpr ⟨hst, hstep⟩
    cases hacc : s.accepted with
    | some i => exact .inr (.inl ⟨hgood, nofun, by simp [State.verifySlot, hst, hstep, hacc, State.markSlot]⟩)
    | none =>
      refine .inr (.inr ⟨hgood, rfl, _, ?floor, by simp only [State.verifySlot, if_neg hst, hstep, hacc]; rfl⟩)
      case floor => split <;> simp_all [BitVec.le_def]

theorem State.markSlot_st (s : State) (i j st : Nat) : ((s.markSlot j st).images.get i).st = if i = j then st else (s.images.get i).st := by
  rw [State.markSlot, Table.get_put]; split <;> rfl

theorem State.markSlot_bytes (s : State) (i j st : Nat) : ((s.markSlot j st).images.get i).bytes = (s.images.get i).bytes := by
  rw [State.markSlot, Table.get_put]; split
  · next h => rw [h]
  · rfl

theorem State.report_images (s : State) (cls detail addr ctx die : Nat) (part : Option Nat) :
    (s.report cls detail addr ctx die part).images = s.images := by rw [s.report_eq]

/-- What verification changes. -/
theorem State.verifySlot_frame (s : State) (j : Nat) : s.verifySlot j = { s with
    err := (s.verifySlot j).err, hostOut := (s.verifySlot j).hostOut, images := (s.verifySlot j).images
    accepted := (s.verifySlot j).accepted, pkg := (s.verifySlot j).pkg, floor := (s.verifySlot j).floor } := by
  obtain ⟨-, h⟩ | ⟨-, -, d, h⟩ | ⟨-, -, h⟩ | ⟨-, -, f, -, h⟩ := s.verifySlot_cases j
  all_goals rw [h]
  · rw [State.report_eq]; rfl
  · rfl
  · rfl

theorem State.verifySlot_floor (s : State) (j : Nat) : s.floor ≤ (s.verifySlot j).floor := by
  obtain ⟨-, h⟩ | ⟨-, -, d, h⟩ | ⟨-, -, h⟩ | ⟨-, -, f, hf, h⟩ := s.verifySlot_cases j
  all_goals rw [h]
  · exact BitVec.le_refl _
  · rw [State.report_eq]; exact BitVec.le_refl _
  · exact BitVec.le_refl _
  · exact hf

theorem State.verifySlot_bytes (s : State) (i j : Nat) : ((s.verifySlot j).images.get i).bytes = (s.images.get i).bytes := by
  obtain ⟨-, h⟩ | ⟨-, -, d, h⟩ | ⟨-, -, h⟩ | ⟨-, -, f, -, h⟩ := s.verifySlot_cases j
  all_goals rw [h]
  · rw [State.report_images, State.markSlot_bytes]
  · exact s.markSlot_bytes i j 1
  · exact s.markSlot_bytes i j 1

/-- The state of another slot is as it was; of the slot itself, 1 where it is accepted, else 2, and 0 where it is empty. -/
theorem State.verifySlot_st_other (s : State) {i j : Nat} (hij : i ≠ j) : ((s.verifySlot j).images.get i).st = (s.images.get i).st := by
  obtain ⟨-, h⟩ | ⟨-, -, d, h⟩ | ⟨-, -, h⟩ | ⟨-, -, f, -, h⟩ := s.verifySlot_cases j
  all_goals rw [h]
  · rw [State.report_images, State.markSlot_st, if_neg hij]
  · rw [State.markSlot_st, if_neg hij]
  · exact (s.markSlot_st i j 1).trans (if_neg hij)

/-- A good slot, where none was accepted before, configures the module. -/
theorem State.verifySlot_accepts {s : State} {j : Nat} (hgood : s.slotGood j) (hnone : s.accepted = none) :
    (s.verifySlot j).accepted = some j ∧ (s.verifySlot j).pkg = (Config.imagePackage (s.images.get j).bytes).toNat
      ∧ ((s.verifySlot j).images.get j).st = 1 := by
  obtain ⟨hst, -⟩ | ⟨-, hbad, -⟩ | ⟨-, hacc, -⟩ | ⟨-, -, f, -, h⟩ := s.verifySlot_cases j
  · exact absurd hst hgood.1
  · exact absurd hgood hbad
  · exact absurd hnone hacc
  · rw [h]; exact ⟨rfl, rfl, (s.markSlot_st j j 1).trans (if_pos rfl)⟩

/-- A slot that is not good configures nothing. -/
theorem State.verifySlot_rejects {s : State} {j : Nat} (hbad : ¬s.slotGood j) :
    (s.verifySlot j).accepted = s.accepted ∧ (s.verifySlot j).floor = s.floor
      ∧ ((s.verifySlot j).images.get j).st = if (s.images.get j).st = 0 then 0 else 2 := by
  obtain ⟨hst, h⟩ | ⟨hst, -, d, h⟩ | ⟨hgood, -⟩ | ⟨hgood, -⟩ := s.verifySlot_cases j
  · rw [h, if_pos hst]; exact ⟨rfl, rfl, hst⟩
  · rw [h, if_neg hst, State.report_images, State.markSlot_st, if_pos rfl, State.report_eq]; exact ⟨rfl, rfl, rfl⟩
  · exact absurd hgood hbad
  · exact absurd hgood hbad

/-- Where an image was accepted before, the module stays as that one configures it. -/
theorem State.verifySlot_of_accepted {s : State} (j : Nat) (hacc : s.accepted ≠ none) :
    (s.verifySlot j).accepted = s.accepted ∧ (s.verifySlot j).pkg = s.pkg := by
  obtain ⟨-, h⟩ | ⟨-, -, d, h⟩ | ⟨-, -, h⟩ | ⟨-, hnone, -⟩ := s.verifySlot_cases j
  · rw [h]; exact ⟨rfl, rfl⟩
  · rw [h, State.report_eq]; exact ⟨rfl, rfl⟩
  · rw [h]; exact ⟨rfl, rfl⟩
  · exact absurd hnone hacc

/-- Verification of one slot leaves another good or bad where it leaves the floor. -/
theorem State.slotGood_verifySlot {s : State} {i j : Nat} (hij : i ≠ j) (hfloor : (s.verifySlot j).floor = s.floor) :
    (s.verifySlot j).slotGood i ↔ s.slotGood i := by
  rw [State.slotGood, State.slotGood, s.verifySlot_st_other hij, s.verifySlot_bytes, hfloor]

-- Bring-up (R464) --------------------------------------------------------------------------------------------------------

/-- The module as the ROM finds it at bring-up. -/
def State.verified (s : State) : State := ((s.powerOff .valid).verifySlot 0).verifySlot 1

theorem exec_bringUp {s : State} (hin : s.input = .valid) (hup : s.up = false) : exec .bringUp s = .next { s.verified with up := true } := by
  change execBringUp s = _
  rw [execBringUp, if_neg (by simp [hin, hup])]
  rfl

/-- Verification of the slots changes flash, what was accepted and the error window, and no other part of a module without power. -/
theorem State.verified_frame (s : State) : s.verified = { s.powerOff .valid with
    err := s.verified.err, hostOut := s.verified.hostOut, images := s.verified.images
    accepted := s.verified.accepted, pkg := s.verified.pkg, floor := s.verified.floor } := by
  rw [State.verified, State.verifySlot_frame, State.verifySlot_frame (s.powerOff .valid)]

theorem State.verified_floor (s : State) : s.floor ≤ s.verified.floor :=
  BitVec.le_trans ((s.powerOff .valid).verifySlot_floor 0) (((s.powerOff .valid).verifySlot 0).verifySlot_floor 1)

theorem State.verified_bytes (s : State) (j : Nat) : (s.verified.images.get j).bytes = (s.images.get j).bytes := by
  rw [State.verified, State.verifySlot_bytes, State.verifySlot_bytes]
  rfl

theorem State.verified_st_zero (s : State) : (s.verified.images.get 0).st = (((s.powerOff .valid).verifySlot 0).images.get 0).st :=
  State.verifySlot_st_other _ (by decide)

/-- A good image in slot 0 is accepted, whatever slot 1 holds. -/
theorem State.verified_of_good_zero {s : State} (h : s.slotGood 0) :
    s.verified.accepted = some 0 ∧ s.verified.pkg = (Config.imagePackage (s.images.get 0).bytes).toNat ∧ (s.verified.images.get 0).st = 1 := by
  obtain ⟨hacc, hpkg, hst⟩ := State.verifySlot_accepts (s := s.powerOff .valid) (j := 0) h rfl
  obtain ⟨hacc', hpkg'⟩ := State.verifySlot_of_accepted (s := (s.powerOff .valid).verifySlot 0) 1 (by rw [hacc]; nofun)
  exact ⟨hacc'.trans hacc, hpkg'.trans hpkg, s.verified_st_zero.trans hst⟩

/-- A good image in slot 1 is accepted where slot 0 holds none, and none where it does not either. -/
theorem State.verified_of_bad_zero {s : State} (h : ¬s.slotGood 0) :
    (s.slotGood 1 → s.verified.accepted = some 1 ∧ s.verified.pkg = (Config.imagePackage (s.images.get 1).bytes).toNat)
    ∧ (¬s.slotGood 1 → s.verified.accepted = none)
    ∧ (s.verified.images.get 0).st = if (s.images.get 0).st = 0 then 0 else 2 := by
  obtain ⟨hacc, hfloor, hst⟩ := State.verifySlot_rejects (s := s.powerOff .valid) (j := 0) h
  have hiff : ((s.powerOff .valid).verifySlot 0).slotGood 1 ↔ s.slotGood 1 := State.slotGood_verifySlot (by decide) hfloor
  refine ⟨fun h1 => ?good, fun h1 => ?bad, s.verified_st_zero.trans hst⟩
  case good =>
    obtain ⟨hacc1, hpkg1, -⟩ := State.verifySlot_accepts (hiff.mpr h1) hacc
    rw [State.verifySlot_bytes] at hpkg1
    exact ⟨hacc1, hpkg1⟩
  case bad => exact (State.verifySlot_rejects (mt hiff.mp h1)).1.trans hacc

/-- What IMGSTAT shows of slot 0 after bring-up. -/
theorem State.verified_st (s : State) :
    (s.verified.images.get 0).st = if (s.images.get 0).st = 0 then 0 else if s.verified.accepted = some 0 then 1 else 2 := by
  by_cases h0 : s.slotGood 0
  · obtain ⟨hacc, -, hst⟩ := State.verified_of_good_zero h0
    rw [hst, if_neg h0.1, if_pos hacc]
  · obtain ⟨hgood, hbad, hst⟩ := State.verified_of_bad_zero h0
    have hne : s.verified.accepted ≠ some 0 := by
      by_cases h1 : s.slotGood 1
      · simp [(hgood h1).1]
      · simp [hbad h1]
    rw [hst, if_neg hne]

-- Ports (R426, R455) ---------------------------------------------------------------------------------------------------------

theorem portMove_spec {s : State} {n : Nat} {src : List PState} {st : PState} (hn : n < 16) (hst : (s.ports.get n).st = st) (hsrc : src.contains st = true)
    (dst : PState) : ∃ t, portMove n s src dst = .next t ∧ t = { s with ports := t.ports } ∧ t.ports.get n = { s.ports.get n with st := dst }
      ∧ ∀ m, m ≠ n → t.ports.get m = s.ports.get m := by
  refine ⟨{ s with ports := s.ports.put n { s.ports.get n with st := dst } }, ?_, rfl, Table.get_put_same .., fun m hm => Table.get_put_ne _ _ hm⟩
  rw [portMove, if_neg (Nat.not_le.mpr hn), State.port, hst, if_pos hsrc]

theorem exec_portRetrain {s : State} {n : Nat} (h : (s.ports.get n).since + 100000000 ≤ s.devtime) :
    exec (.portRetrain n) s = portMove n s [.down] .training := by
  change execPortRetrain n s = _
  rw [execPortRetrain, State.port, if_pos (.inl h)]

/-- A port has gone DOWN, with its record (R426, R455). -/
def State.portLost (s : State) (n : Nat) : State :=
  { s with ports := s.ports.put n ⟨.down, s.devtime⟩ }.report 9 (Config.errDetail 9 [n]) 0 0 (n / 4)
    (if (s.half (n / 2)).member then some (s.half (n / 2)).part else none)

theorem State.portLost_eq (s : State) (n : Nat) : s.portLost n
    = { s with ports := s.ports.put n ⟨.down, s.devtime⟩, err := (s.portLost n).err, hostOut := (s.portLost n).hostOut } := State.report_eq ..

theorem State.portLost_records {s : State} {n : Nat} (hn : n < 16) (hpart : (s.half (n / 2)).part < 8) : s.records (s.portLost n) 9 := by
  have hfits : (if (s.half (n / 2)).member then some (s.half (n / 2)).part else none).getD 0 < 2 ^ 11 := by
    split
    · exact Nat.lt_trans hpart (by decide)
    · decide
  exact State.report_records { s with ports := s.ports.put n ⟨.down, s.devtime⟩ } _ 0 (by decide) (by omega : n / 4 < 2 ^ 2) hfits (by decide)

/-- Where no packet of the port's path is unanswered, nothing is sent again. -/
theorem exec_portDown_quiet {s : State} {n : Nat} (hn : n < 16) (hst : (s.ports.get n).st = .up ∨ (s.ports.get n).st = .replay)
    (hquiet : ∀ r ∈ s.remotes, ¬(r.hd / 2 = n / 4 ∧ r.req.path.toNat = n % 4 ∧ r.peer ≠ s.pkg ∧ r.held = false)) :
    exec (.portDown n) s = .next (s.portLost n) := by
  have hnone : (s.portLost n).remotes.filter
      (fun x => x.hd / 2 == n / 4 && x.req.path.toNat == n % 4 && !x.held && x.peer != (s.portLost n).pkg) = [] := by
    rw [s.portLost_eq, List.filter_eq_nil_iff]
    intro r hr hmatch
    simp only [Bool.and_eq_true, beq_iff_eq, Bool.not_eq_true', bne_iff_ne] at hmatch
    obtain ⟨⟨⟨hdie, hpath⟩, hheld⟩, hpeer⟩ := hmatch
    exact hquiet r hr ⟨hdie, hpath, hpeer, hheld⟩
  change execPortDown n s = _
  rw [execPortDown, if_neg (Nat.not_le.mpr hn), State.port, if_pos hst]
  exact congrArg (fun rs => Host.Outcome.next ((s.portLost n).sendAllAgain rs (n % 4))) hnone

theorem exec_portDown {s : State} {n : Nat} (hn : n < 16) (hst : (s.ports.get n).st = .up ∨ (s.ports.get n).st = .replay)
    (hpart : (s.half (n / 2)).part < 8)
    (hquiet : ∀ r ∈ s.remotes, ¬(r.hd / 2 = n / 4 ∧ r.req.path.toNat = n % 4 ∧ r.peer ≠ s.pkg ∧ r.held = false)) :
    ∃ t, exec (.portDown n) s = .next t ∧ t.mem = s.mem ∧ t.ports.get n = ⟨.down, s.devtime⟩ ∧ s.records t 9
      ∧ t.remotes = s.remotes ∧ t.fabricOut = s.fabricOut ∧ ∀ m, m ≠ n → t.ports.get m = s.ports.get m := by
  refine ⟨s.portLost n, exec_portDown_quiet hn hst hquiet, ?_, ?_, State.portLost_records hn hpart, ?_⟩
  all_goals rw [s.portLost_eq]
  · exact Table.get_put_same ..
  · exact ⟨rfl, rfl, fun m hm => Table.get_put_ne _ _ hm⟩

theorem exec_fabricPacketDroppedAtIngress (s : State) {n : Nat} (hn : n < 16) :
    ∃ t, exec (.fabricPacketDroppedAtIngress n) s = .next t ∧ t.mem = s.mem ∧ s.records t 8 ∧ t = { s with err := t.err, hostOut := t.hostOut } := by
  refine ⟨s.dropPacket n, ?_, State.report_mem .., s.report_records _ 0 (by decide) (by omega : n / 4 < 2 ^ 2) (by decide) (by decide), State.report_eq ..⟩
  change execFabricPacketDroppedAtIngress n s = _
  rw [execFabricPacketDroppedAtIngress, if_neg (Nat.not_le.mpr hn)]

-- The obligation's parts ------------------------------------------------------------------------------------------------------

/-- What bring-up leaves: an image where a slot holds a good one, memory of zeros, no partition and no context. -/
theorem exec_bringUp_spec {s : State} (hin : s.input = .valid) (hup : s.up = false) :
    ∃ t, exec .bringUp s = .next t ∧ t.up = true ∧ t.input = .valid ∧ t.mem = [] ∧ t.side = [] ∧ t.halves = [] ∧ t.ctxs = [] ∧ s.floor ≤ t.floor
      ∧ t.locked = false ∧ t.everLocked = false ∧ t.devtime = 0 ∧ t.ports = []
      ∧ (s.slotGood 0 → t.accepted = some 0 ∧ t.pkg = (Config.imagePackage (s.images.get 0).bytes).toNat)
      ∧ (¬s.slotGood 0 → s.slotGood 1 → t.accepted = some 1 ∧ t.pkg = (Config.imagePackage (s.images.get 1).bytes).toNat)
      ∧ (¬s.slotGood 0 → ¬s.slotGood 1 → t.accepted = none)
      ∧ (t.images.get 0).st = (if (s.images.get 0).st = 0 then 0 else if t.accepted = some 0 then 1 else 2)
      ∧ ∀ j, (t.images.get j).bytes = (s.images.get j).bytes := by
  have hfloor := s.verified_floor
  have hgood (h : s.slotGood 0) := State.verified_of_good_zero h
  have hbad (h : ¬s.slotGood 0) := State.verified_of_bad_zero h
  have hst := s.verified_st
  have hbytes := s.verified_bytes
  refine ⟨{ s.verified with up := true }, exec_bringUp hin hup, rfl, ?_⟩
  rw [s.verified_frame]
  exact ⟨rfl, rfl, rfl, rfl, rfl, hfloor, rfl, rfl, rfl, rfl, fun h => ⟨(hgood h).1, (hgood h).2.1⟩, fun h => (hbad h).1, fun h => (hbad h).2.1,
    hst, hbytes⟩

/-- Settles O47: each clause is the lemma above about its instruction. -/
theorem powerAndPorts : Obligations.PowerAndPorts := by
  unfold Obligations.PowerAndPorts
  refine ⟨fun s => ⟨exec_bringUp_spec, ⟨_, ⟨rfl, s.powerOff_dark .low⟩, rfl⟩, exec_inputOvervoltage s,
    fun hup => ⟨exec_ceilingShutdown hup, fun die value hdie => exec_thermalShutdown hup hdie value⟩, rfl, fun _ => rfl⟩, ?ports⟩
  case ports =>
    intro s n hn x moves
    refine ⟨fun hst => portMove_spec hn hst rfl .up, fun hst => portMove_spec hn hst rfl .replay, fun hst => portMove_spec hn hst rfl .up,
      fun hst hsince => ?retrain, exec_portDown hn, exec_fabricPacketDroppedAtIngress s hn⟩
    case retrain =>
      simp only [moves, exec_portRetrain hsince]
      exact portMove_spec hn hst rfl .training

end Sys2Proof.Machine
end

section
/-! SUPPORT. Why LAYOUT_COMPLETE is not kept to the half-dies that join: their areas are written through their L2 slices, and a full
cache gives up a dirty line to the memory-side cache at the home of that line (R190), which in an arbitrary state is any half-die. -/
namespace Sys2Proof

theorem Table.put_ne_nil {α : Type} (t : Table α) (k : Nat) (x : α) : Table.put t k x ≠ [] := by
  unfold Table.put
  cases Table.erase t k with
  | nil => exact List.cons_ne_nil _ _
  | cons e r =>
    rw [Table.insert]
    split
    · exact List.cons_ne_nil _ _
    · exact List.cons_ne_nil _ _

theorem Table.find_eq_none {α : Type} {t : Table α} {k : Nat} (h : ∀ e ∈ t, e.1 ≠ k) : Table.find t k = none := by
  induction t with
  | nil => rfl
  | cons e r ih =>
    rw [Table.find, if_neg (h e List.mem_cons_self)]
    exact ih fun e he => h e (List.mem_cons_of_mem _ he)

namespace Machine

-- A memory-side cache that holds a line goes on holding one (R190) -------------------------------------------------

/-- A half of the memory-side cache holds some line. -/
def State.mscUsed (s : State) (h : Nat) : Prop := (s.half h).msc ≠ []

theorem State.mscUsed_of_halves {s t : State} {h : Nat} (hs : s.mscUsed h) (heq : t.halves = s.halves) : t.mscUsed h := by
  rwa [State.mscUsed, State.half, heq]

theorem State.foldl_mscUsed {α : Type} {f : State → α → State} {h : Nat} (hf : ∀ s x, s.mscUsed h → (f s x).mscUsed h) (l : List α) {s : State}
    (hs : s.mscUsed h) : (l.foldl f s).mscUsed h := by
  induction l generalizing s with
  | nil => exact hs
  | cons x l ih => exact ih (hf s x hs)

theorem State.chose_half (s : State) (made : Bool) (h : Nat) : (s.chose made).half h = s.half h := by
  cases made <;> rfl

theorem State.mscUsed_modHalf_home {s : State} {h : Nat} {f : HalfDie → HalfDie} (hf : (f (s.half h)).msc ≠ []) : (s.modHalf h f).mscUsed h := by
  rwa [State.mscUsed, State.half_modHalf, if_pos rfl]

theorem State.mscUsed_modHalf {s : State} {j h : Nat} {f : HalfDie → HalfDie} (hs : s.mscUsed j) (hf : (f (s.half h)).msc = (s.half h).msc) :
    (s.modHalf h f).mscUsed j := by
  rw [State.mscUsed, State.half_modHalf]
  split
  · next heq => rw [hf, ← heq]; exact hs
  · exact hs

/-- A line that passes is held from then on. -/
theorem State.useMsc_mscUsed_home (s : State) (n : Nat) (dirty : Bool) : (s.useMsc n dirty).mscUsed (homeHalf (128 * n)) := by
  unfold State.useMsc
  dsimp only
  split
  · exact State.mscUsed_modHalf_home (Table.put_ne_nil _ _ _)
  · exact State.mscUsed_modHalf_home (Table.put_ne_nil _ _ _)

theorem State.useMsc_mscUsed {s : State} {j : Nat} (hs : s.mscUsed j) (n : Nat) (dirty : Bool) : (s.useMsc n dirty).mscUsed j := by
  by_cases hj : j = homeHalf (128 * n)
  · subst hj; exact s.useMsc_mscUsed_home n dirty
  · unfold State.useMsc
    dsimp only
    split
    · rwa [State.mscUsed, State.half_modHalf, if_neg hj]
    · rwa [State.mscUsed, State.half_modHalf, if_neg hj, State.chose_half]

theorem State.useL2_mscUsed {s : State} {j : Nat} (hs : s.mscUsed j) (n : Nat) (dirty : Bool) : (s.useL2 n dirty).mscUsed j := by
  have hchose (made : Bool) : (s.chose made).mscUsed j := by rwa [State.mscUsed, State.chose_half]
  unfold State.useL2
  dsimp only
  split
  · exact hs
  split
  · exact State.mscUsed_modHalf hs rfl
  split
  · exact State.useMsc_mscUsed (State.mscUsed_modHalf (State.useMsc_mscUsed (hchose _) n false) rfl) _ true
  · exact State.mscUsed_modHalf (State.useMsc_mscUsed (hchose _) n false) rfl

theorem State.wake_halves (s : State) (w : Watch) : (s.wake w).halves = s.halves := by
  unfold State.wake State.observe State.acquire
  dsimp only
  split <;> split <;> rfl

theorem foldl_wake_halves (ws : List Watch) (s : State) : (ws.foldl State.wake s).halves = s.halves := by
  induction ws generalizing s with
  | nil => rfl
  | cons w ws ih => rw [List.foldl_cons, ih, State.wake_halves]

theorem State.notify_half (s : State) (lo hi j : Nat) : (s.notify lo hi).half j = s.half j := by
  unfold State.notify
  rw [State.half, foldl_wake_halves]
  rfl

/-- The bytes of a line are stored, with its sideband, and no cache has seen it yet (R37, R197). -/
def State.withLine (s : State) (n : Nat) (l : Line) : State := { s with
  mem := s.mem.write (128 * n) 128 l.data.toNat
  side := s.side.write (16 * n + 4) 12 (sideBytes l)
  badLines := s.badLines.filter (· ≠ n) }

theorem State.putLine_eq (s : State) (n : Nat) (l : Line) :
    s.putLine n l = ((s.withLine n l).useL2 n true).notify (128 * n) (128 * n + 128) := rfl

theorem State.putLine_mscUsed {s : State} {j : Nat} (hs : s.mscUsed j) (n : Nat) (l : Line) : (s.putLine n l).mscUsed j := by
  rw [State.mscUsed, State.putLine_eq, State.notify_half]
  exact State.useL2_mscUsed (s := s.withLine n l) (State.mscUsed_of_halves hs rfl) n true

-- A full L2 that gives up a dirty line ---------------------------------------------------------------------------------

/-- The line given up passes through the memory-side cache of its own home. -/
theorem State.useL2_gives_up {s : State} {n m : Nat} {t : Table Bool} {cs : List Copy} (dirty : Bool)
    (hcells : (s.half (homeHalf (128 * n))).cells = []) (habsent : (s.half (homeHalf (128 * n))).l2.find n = none)
    (hfull : giveUp l2Lines s.free.1 (s.half (homeHalf (128 * n))).l2 (s.half (homeHalf (128 * n))).copies = (some (m, true), t, cs)) :
    (s.useL2 n dirty).mscUsed (homeHalf (128 * m)) := by
  have hcell : ¬(s.half (homeHalf (128 * n))).cells.contains n = true := by rw [hcells]; nofun
  have hmiss : ¬((s.half (homeHalf (128 * n))).l2.find n).isSome = true := by rw [habsent]; nofun
  unfold State.useL2
  dsimp only
  rw [if_neg hcell, if_neg hmiss, hfull]
  exact State.useMsc_mscUsed_home _ m true

/-- The lowest lines of half-die 0, all dirty. -/
def lowLines (cap : Nat) : Table Bool := (List.range cap).map (fun n => (n, true))

theorem find_lowLines {cap n : Nat} (hn : cap ≤ n) : Table.find (lowLines cap) n = none := by
  refine Table.find_eq_none fun e he => ?_
  obtain ⟨i, hi, rfl⟩ := List.mem_map.mp he
  exact Nat.ne_of_lt (Nat.lt_of_lt_of_le (List.mem_range.mp hi) hn)

/-- A cache that those lines fill gives up one of them. -/
theorem giveUp_lowLines {cap : Nat} (hcap : 0 < cap) (pick : Nat) :
    ∃ m t, m < cap ∧ giveUp cap pick (lowLines cap) [] = (some (m, true), t, []) := by
  have hlen : (lowLines cap).length = cap := by rw [lowLines, List.length_map, List.length_range]
  have hlt : pick % cap < cap := Nat.mod_lt _ hcap
  have hget : (lowLines cap)[pick % cap]? = some (pick % cap, true) := by
    rw [lowLines, List.getElem?_map, List.getElem?_range hlt]; rfl
  have hfull : cacheFull cap (lowLines cap) [] = true := by simp [cacheFull, hlen]
  exact ⟨pick % cap, (lowLines cap).erase (pick % cap), hlt, by simp [giveUp, hfull, hlen, hget]⟩

/-- A line written where the L2 slices hold those lines. -/
theorem State.putLine_gives_up {s : State} {h n : Nat} (l : Line) (hn : l2Lines ≤ n) (hhome : homeHalf (128 * n) = h)
    (hcells : (s.half h).cells = []) (hl2 : (s.half h).l2 = lowLines l2Lines) (hcopies : (s.half h).copies = []) : (s.putLine n l).mscUsed 0 := by
  obtain ⟨m, t, hm, hgive⟩ := giveUp_lowLines (by decide : 0 < l2Lines) s.free.1
  have hzero : homeHalf (128 * m) = 0 := by rw [l2Lines] at hm; rw [homeHalf]; omega
  subst hhome
  rw [State.mscUsed, State.putLine_eq, State.notify_half, ← hzero]
  refine State.useL2_gives_up (s := s.withLine n l) (t := t) (cs := []) true hcells ?absent ?full
  case absent => exact (congrArg (fun t => Table.find t n) hl2).trans (find_lowLines hn)
  case full => exact (congrArg₂ (giveUp l2Lines s.free.1) hl2 hcopies).trans hgive

/-- The queues of a half-die that joins are laid out (R333, R418). -/
def State.layQueues (s : State) (h : Nat) : State :=
  ((s.putLine ((2 ^ 36 * h + 0xC90401000) / 128) emptyQueueLine).putLine ((2 ^ 36 * h + 0xC90406000) / 128) emptyQueueLine).putLine
    ((2 ^ 36 * h + 0xC9040B000) / 128) emptyQueueLine

/-- Its channel area is laid out (R308). -/
def State.layChannels (s : State) (h : Nat) : State :=
  (List.range 32).foldl (fun s i => s.putLine ((2 ^ 36 * h + 0xC90400000) / 128 + i) { data := 0, tag := 0, scales := 0 }) s

theorem State.joinHalf_halves (s : State) (h p : Nat) :
    (s.joinHalf h p).halves = (((s.modHalf h (fun x => { x with member := true, part := p })).layQueues h).layChannels h).halves := by
  simp only [State.joinHalf, State.layQueues, State.layChannels, List.foldl_cons, List.foldl_nil]

/-- A half-die whose L2 slices hold those lines joins a partition (R28): the first queue laid out makes them give one up. -/
theorem State.joinHalf_gives_up {s : State} {h : Nat} (p : Nat) (hh : 1 ≤ h) (hcells : (s.half h).cells = []) (hl2 : (s.half h).l2 = lowLines l2Lines)
    (hcopies : (s.half h).copies = []) : (s.joinHalf h p).mscUsed 0 := by
  refine State.mscUsed_of_halves ?laid (s.joinHalf_halves h p)
  case laid =>
    refine State.foldl_mscUsed (fun _ _ ht => State.putLine_mscUsed ht _ _) _ ?queues
    case queues =>
      refine State.putLine_mscUsed (State.putLine_mscUsed (State.putLine_gives_up (h := h) _ ?high ?home ?cells ?l2 ?copies) _ _) _ _
      case high => rw [l2Lines]; omega
      case home => rw [homeHalf]; omega
      all_goals rwa [State.half_modHalf, if_pos rfl]

/-- New partitions start with their registers as at reset (R28, R240). -/
def State.makeParts (s : State) (new : List Nat) : State :=
  new.foldl (fun s p =>
    let s := { s with queues := List.filter (fun e => e.1 / 256 != p) s.queues }
    ((s.dropDest p).dropRounds p none).modPart p (fun _ => { (default : Partition) with recess := 1 })) s

theorem State.makeParts_mscUsed {s : State} {h : Nat} (hs : s.mscUsed h) (new : List Nat) : (s.makeParts new).mscUsed h := by
  refine State.foldl_mscUsed (fun _ _ ht => ?_) new hs
  exact State.mscUsed_of_halves ht rfl

/-- LAYOUT_COMPLETE where one half-die joins. -/
theorem exec_layoutComplete_one {s : State} {h : Nat} (hruns : s.setupRuns 10 = true)
    (hjoin : (List.range 8).filter (fun h => layMember s.setup.line h && !(s.half h).member) = [h]) :
    ∃ new, exec .layoutComplete s = .next (((s.joinHalf h (layPart s.setup.line h)).makeParts new).setupDone 0) := by
  refine ⟨(([h].map (layPart s.setup.line)).eraseDups).filter (fun p => (s.partHalves p).isEmpty), ?_⟩
  change execLayoutComplete s = _
  rw [execLayoutComplete, hruns, Bool.not_true, if_neg Bool.false_ne_true]
  dsimp only
  rw [hjoin]
  rfl

-- The counterexample --------------------------------------------------------------------------------------------------------

/-- Half-die 0 is partition 0. Half-die 1, of no partition, holds dirty lines of half-die 0 in L2 slices without room for more; a layout
that makes it partition 1 and keeps partition 0 is to complete. -/
def crowded : State := { State.reset with
  halves := [(0, { (default : HalfDie) with member := true }), (1, { (default : HalfDie) with l2 := lowLines l2Lines })]
  setup := { (default : Setup) with busy := true, begun := true, op := 10, line := 0x8180 } }

theorem crowded_half_one : crowded.half 1 = { (default : HalfDie) with l2 := lowLines l2Lines } := by
  simp [State.half, crowded, Table.get]

theorem crowded_runs : crowded.setupRuns 10 = true := by decide +kernel

theorem crowded_joins : (List.range 8).filter (fun h => layMember crowded.setup.line h && !(crowded.half h).member) = [1] := by decide +kernel

/-- Refutes O43: LAYOUT_COMPLETE gives half-die 1 of `crowded` its queues, and the line its L2 slices give up for the first of them comes
to stand in the memory-side cache of half-die 0, which the layout keeps. It turns on L2 slices that list lines of another half-die, which
`State.useL2` never does; the statement is of every state and does not exclude it. -/
theorem not_partitionCommands : ¬ Obligations.PartitionCommands := by
  unfold Obligations.PartitionCommands
  intro h
  obtain ⟨-, -, -, -, -, -, hcomplete⟩ := h crowded
  obtain ⟨t, hexec, -, hhalves⟩ := hcomplete ⟨rfl, rfl, rfl⟩
  obtain ⟨new, hjoined⟩ := exec_layoutComplete_one crowded_runs crowded_joins
  have ht : t = ((crowded.joinHalf 1 (layPart crowded.setup.line 1)).makeParts new).setupDone 0 :=
    Host.Outcome.next.inj (hexec.symm.trans hjoined)
  have hused : t.mscUsed 0 := by
    rw [ht]
    refine State.mscUsed_of_halves (State.makeParts_mscUsed (State.joinHalf_gives_up _ (Nat.le_refl 1) ?cells ?l2 ?copies) new) rfl
    all_goals rw [crowded_half_one]
    case cells => rfl
    case copies => rfl
  have hsame : t.half 0 = crowded.half 0 := (hhalves 0 (by decide)).1 (.inl rfl)
  exact hused (congrArg HalfDie.msc hsame)

end Machine
end Sys2Proof
end

section
/-! SUPPORT. Why an extended block's grant does not always give every thread that waits for it its result: the grant traps a thread whose
register is out of range, the fault record of that trap reaches memory (R382), and memory wakes the threads that watch what is written (R255). -/
namespace Sys2Proof.Machine

/-- Two threads of warp slot 0 wait in XACQ of slot 7. The window of lane 0 puts its register past the rows the warp can hold, and its
context has no handler; on the write index of the context's fault record ring, at address 0, stands a watch of lane 1. -/
def watchedAsker : State := { State.reset with
  kernels := [(0, { (default : Kernel) with st := .running })]
  wgs := [(0, { (default : Workgroup) with nw := 1 })]
  warps := [(0, { (default : Warp) with threads := [
    (0, { (default : Thread) with wb := 304, st := .waiting, why := .extBlock 7 47 }),
    (1, { (default : Thread) with st := .waiting, why := .extBlock 7 5 })] })]
  quads := [(0, { (default : Quad) with xq := [(0, 7)] })]
  watches := [{ slot := 0, lane := 1, pa := 0, eq := true, val := 1, o := .plain, stamp := 0 }] }

theorem watchedAsker_queue : (watchedAsker.quad 0).xq = [(0, 7)] ∧ watchedAsker.exfree 0 ≠ 0 := by decide +kernel

/-- Lane 1 waits for the block, and the warp holds the row of the register it names. -/
theorem watchedAsker_waits : (watchedAsker.thread 0 1).st = .waiting ∧ (watchedAsker.thread 0 1).why = .extBlock 7 5
    ∧ (watchedAsker.warp 0).holds (rowOf (watchedAsker.thread 0 1) 5) = true := by decide +kernel

/-- Lane 0's fault record wakes lane 1 before its turn, so that no result is pending for it. -/
theorem exec_grant_watchedAsker : (match exec (.extendedBlockGrant 0) watchedAsker with
    | .next t => t.pend
    | _ => []) = [] := by decide +kernel

/-- Refutes O37: in `watchedAsker` the block is granted and lane 1 is given nothing. It turns on a watch of a thread that waits in XACQ,
where a wait that arms a watch leaves its thread waiting for that watch; the statement is of every state and does not exclude it. -/
theorem not_quadrantEvents : ¬ Obligations.QuadrantEvents := by
  unfold Obligations.QuadrantEvents
  intro h
  obtain ⟨⟨-, hgrant, -⟩, -⟩ := h
  obtain ⟨hqueue, hfree⟩ := watchedAsker_queue
  obtain ⟨hst, hwhy, hholds⟩ := watchedAsker_waits
  have halive : (watchedAsker.thread 0 1).st.alive = true := by rw [hst]; rfl
  have hrow : ∀ d, (watchedAsker.thread 0 1).why = .extBlock 7 d → (watchedAsker.warp 0).holds (rowOf (watchedAsker.thread 0 1) d) = true := by
    intro d hd
    obtain ⟨-, rfl⟩ := Why.extBlock.inj (hwhy.symm.trans hd)
    exact hholds
  obtain ⟨t, hexec, -, -, -, -, hresult⟩ :=
    hgrant watchedAsker 0 0 7 [] (by decide) hqueue hfree (by decide) ⟨1, by decide, halive, hrow⟩
  obtain ⟨-, -, p, hp, -⟩ := hresult 1 5 (by decide) hst hwhy hholds
  have hnone : t.pend = [] := by
    have := exec_grant_watchedAsker
    rwa [hexec] at this
  rw [hnone] at hp
  exact List.not_mem_nil hp

end Sys2Proof.Machine
end

section
/-! SUPPORT. What a store leaves in memory and its sidebands (R37, R197, R450), what the caches and the threads it wakes leave alone (R190,
R255), and that a write apart from what the device keeps in memory spoils nothing of it (R331, R340, R381). -/
namespace Sys2Proof

-- Numbers of a memory (R2) -----------------------------------------------------------------------------------------

theorem Memory.read_congr {m m' : Memory} {a n : Nat} (h : ∀ i < n, m.byte (a + i) = m'.byte (a + i)) : m.read a n = m'.read a n := by
  induction n generalizing a with
  | zero => rfl
  | succ n ih =>
    have hfirst : m.byte a = m'.byte a := h 0 (Nat.succ_pos n)
    have hrest : m.read (a + 1) n = m'.read (a + 1) n := ih fun i hi => by
      have := h (i + 1) (Nat.succ_lt_succ hi)
      rwa [Nat.add_comm i 1, ← Nat.add_assoc] at this
    rw [Memory.read, Memory.read, hfirst, hrest]

/-- A number apart from the bytes stored reads as before. -/
theorem Memory.read_write_apart (m : Memory) (v : Nat) {a n b k : Nat} (h : b + k ≤ a ∨ a + n ≤ b) : (m.write a n v).read b k = m.read b k := by
  refine Memory.read_congr fun i hi => ?_
  rcases h with h | h
  · exact Memory.byte_write_of_lt _ _ _ _ _ (by omega)
  · exact Memory.byte_write_of_ge _ _ _ _ _ (by omega)

/-- Part of a number stored reads as those bytes of it. -/
theorem Memory.read_write_inside (m : Memory) (v : Nat) {a n i k : Nat} (h : i + k ≤ n) :
    (m.write a n v).read (a + i) k = v / 256 ^ i % 256 ^ k := by
  induction k generalizing i with
  | zero => simp [Memory.read, Nat.mod_one]
  | succ k ih =>
    have hbyte := Memory.byte_write_mem m a n v i (by omega)
    have hrest : (m.write a n v).read (a + i + 1) k = v / 256 ^ (i + 1) % 256 ^ k := ih (i := i + 1) (by omega)
    have hlow : (BitVec.ofNat 8 (v / 256 ^ i)).toNat = v / 256 ^ i % 256 := BitVec.toNat_ofNat ..
    have hhigh : v / 256 ^ (i + 1) = v / 256 ^ i / 256 := by rw [Nat.pow_succ, Nat.div_div_eq_div_mul]
    have hpow : 256 ^ (k + 1) = 256 * 256 ^ k := by rw [Nat.pow_succ, Nat.mul_comm]
    rw [Memory.read, hbyte, hrest, hlow, hhigh, hpow, Nat.mod_mul]

theorem Memory.read_lt (m : Memory) (a n : Nat) : m.read a n < 256 ^ n := by
  induction n generalizing a with
  | zero => exact Nat.one_pos
  | succ n ih =>
    have hbyte : (m.byte a).toNat < 256 := (m.byte a).isLt
    have hrest := ih (a + 1)
    rw [Memory.read, Nat.pow_succ]
    omega

theorem Memory.read_byte (m : Memory) {a n i : Nat} (h : i < n) : m.read a n / 256 ^ i % 256 = (m.byte (a + i)).toNat := by
  induction n generalizing a i with
  | zero => exact absurd h (Nat.not_lt_zero i)
  | succ n ih =>
    have hbyte : (m.byte a).toNat < 256 := (m.byte a).isLt
    rw [Memory.read]
    cases i with
    | zero => rw [Nat.pow_zero, Nat.div_one, Nat.add_mul_mod_self_left, Nat.mod_eq_of_lt hbyte]; rfl
    | succ i =>
      have hdrop : ((m.byte a).toNat + 256 * m.read (a + 1) n) / 256 = m.read (a + 1) n := by omega
      have hplace : a + 1 + i = a + (i + 1) := by omega
      rw [Nat.pow_succ, Nat.mul_comm (256 ^ i), ← Nat.div_div_eq_div_mul, hdrop, ih (Nat.lt_of_succ_lt_succ h), hplace]

theorem Memory.bytes_eq_map (m : Memory) (a n : Nat) : m.bytes a n = (List.range n).map fun i => m.byte (a + i) := by
  induction n generalizing a with
  | zero => rfl
  | succ n ih =>
    rw [Memory.bytes, ih, List.range_succ_eq_map, List.map_cons, List.map_map]
    simp only [Function.comp_def, Nat.add_zero, Nat.succ_eq_add_one, Nat.add_assoc, Nat.add_comm 1]

theorem toNat_lt_of_bytes {w n : Nat} (x : BitVec w) (h : w = 8 * n) : x.toNat < 256 ^ n := by
  subst h
  have := x.isLt
  rwa [Nat.pow_mul] at this

theorem toNat_ofNat_bytes {w n x : Nat} (h : w = 8 * n) (hx : x < 256 ^ n) : (BitVec.ofNat w x).toNat = x := by
  subst h
  rw [BitVec.toNat_ofNat, Nat.pow_mul]
  exact Nat.mod_eq_of_lt hx

theorem Table.mem_put {α : Type} {t : Table α} {k : Nat} {x : α} {e : Nat × α} (h : e ∈ Table.put t k x) : e = (k, x) ∨ e ∈ t :=
  (Table.mem_insert _ _ _ _ h).imp_right (Table.mem_erase _ _ _)

theorem Table.get_eq_default_or_mem {α : Type} [Inhabited α] (t : Table α) (k : Nat) : Table.get t k = default ∨ (k, Table.get t k) ∈ t := by
  induction t with
  | nil => exact .inl rfl
  | cons e r ih =>
    obtain ⟨a, v⟩ := e
    rw [Table.get]
    split
    · next h => subst h; exact .inr List.mem_cons_self
    · exact ih.imp_right (List.mem_cons_of_mem _)

/-- What a table lists under a key of its entries is one of them. -/
theorem Table.get_mem {α : Type} [Inhabited α] {t : Table α} {e : Nat × α} (h : e ∈ t) : (e.1, Table.get t e.1) ∈ t := by
  induction t with
  | nil => exact absurd h List.not_mem_nil
  | cons x r ih =>
    obtain ⟨a, v⟩ := x
    rw [Table.get]
    split
    · next ha => rw [← ha]; exact List.mem_cons_self
    · next ha =>
      refine List.mem_cons_of_mem _ (ih ?_)
      rcases List.mem_cons.mp h with rfl | h
      · exact absurd rfl ha
      · exact h

namespace Machine

-- A store and its sidebands (R37, R197, R450) -----------------------------------------------------------------------

/-- Memory, its sidebands and its lines in error are the same. -/
def State.sameBytes (s t : State) : Prop := t.mem = s.mem ∧ t.side = s.side ∧ t.badLines = s.badLines

theorem State.sameBytes_trans {s t u : State} (h : s.sameBytes t) (i : t.sameBytes u) : s.sameBytes u :=
  ⟨i.1.trans h.1, i.2.1.trans h.2.1, i.2.2.trans h.2.2⟩

theorem State.line_sameBytes {s t : State} (h : s.sameBytes t) (n : Nat) : t.line n = s.line n := by
  obtain ⟨hmem, hside, -⟩ := h
  rw [State.line, State.line, hmem, hside]

theorem State.lineBad_sameBytes {s t : State} (h : s.sameBytes t) (n : Nat) : t.lineBad n = s.lineBad n := by
  have hline := State.line_sameBytes h n
  obtain ⟨-, hside, hbad⟩ := h
  rw [State.lineBad, State.lineBad, State.chk, State.chk, hline, hside, hbad]

theorem State.stored_sameBytes {s t u : State} {pa n v : Nat} (h : s.stored t pa n v) (i : t.sameBytes u) : s.stored u pa n v := by
  obtain ⟨hread, hother, htag, hscales, hwhole, hbad, hcanon⟩ := h
  rw [State.stored, i.1, State.line_sameBytes i, State.lineBad_sameBytes i, i.2.2]
  refine ⟨hread, hother, htag, hscales, hwhole, hbad, fun hs => ?_⟩
  rw [State.canonical, i.1, i.2.1]
  exact hcanon hs

/-- Bytes are merged into a line, which still has its old check value. -/
def State.merged (s : State) (pa w v : Nat) : State := { s with mem := s.mem.write pa w v }

/-- It takes a new check value, and no cache has seen it yet (R197, R451). -/
def State.withBytes (s : State) (pa w v : Nat) : State := { s.merged pa w v with
  side := s.side.write (16 * (pa / 128) + 4) 2 (check16 ((s.merged pa w v).line (pa / 128))).toNat }

theorem State.poke_eq {s : State} {pa : Nat} (h : s.lineBad (pa / 128) = none) (w v : Nat) :
    s.poke pa w v = some (((s.withBytes pa w v).useL2 (pa / 128) true).notify pa (pa + w)) := by
  rw [State.poke, h]; rfl

theorem State.withBytes_stored {s : State} {pa : Nat} (h : s.lineBad (pa / 128) = none) (w v : Nat) : s.stored (s.withBytes pa w v) pa w v := by
  have hside : ∀ j k, 6 ≤ j → (s.withBytes pa w v).side.read (16 * (pa / 128) + j) k = s.side.read (16 * (pa / 128) + j) k :=
    fun j k hj => Memory.read_write_apart _ _ (.inr (by omega))
  have hline : (s.withBytes pa w v).line (pa / 128) = (s.merged pa w v).line (pa / 128) := by
    rw [State.line, State.line, hside 6 1 (by omega), hside 7 8 (by omega)]
    rfl
  have hchk : (s.withBytes pa w v).chk (pa / 128) = check16 ((s.merged pa w v).line (pa / 128)) := by
    generalize hc : check16 ((s.merged pa w v).line (pa / 128)) = c
    have hread : (s.withBytes pa w v).side.read (16 * (pa / 128) + 4) 2 = c.toNat % 256 ^ 2 := hc ▸ Memory.read_write_same _ _ _ _
    have := c.isLt
    refine BitVec.eq_of_toNat_eq ?_
    rw [State.chk, hread, BitVec.toNat_ofNat]
    omega
  have hgood : ¬ s.badLines.contains (pa / 128) = true := by
    intro hbad; rw [State.lineBad, if_pos hbad] at h; exact Option.some_ne_none _ h
  refine ⟨?read, fun x hx => ?other, ?tag, ?scales, ?whole, rfl, fun hs => ?canonical⟩
  case read => exact (Memory.read_write_same _ _ _ _).trans (by rw [Nat.pow_mul])
  case other =>
    rcases hx with hx | hx
    · exact Memory.byte_write_of_lt _ _ _ _ _ hx
    · exact Memory.byte_write_of_ge _ _ _ _ _ hx
  case tag => rw [hline]; rfl
  case scales => rw [hline]; rfl
  case whole => rw [State.lineBad, show (s.withBytes pa w v).badLines = s.badLines from rfl, if_neg hgood, hline, hchk, if_pos rfl]
  case canonical =>
    obtain ⟨hm, hd⟩ := Bool.and_eq_true_iff.mp hs
    exact Bool.and_eq_true_iff.mpr ⟨Memory.wf_write _ _ _ _ hm, Memory.wf_write _ _ _ _ hd⟩

theorem State.withLine_chk (s : State) (n : Nat) (l : Line) : (s.withLine n l).chk n = check16 l := by
  have hread : (s.withLine n l).side.read (16 * n + 4) 2 = sideBytes l % 256 ^ 2 :=
    (Memory.read_write_inside (i := 0) _ _ (by omega)).trans (by rw [Nat.pow_zero, Nat.div_one])
  rw [State.chk, hread]
  refine BitVec.eq_of_toNat_eq ?_
  have := (check16 l).isLt
  rw [BitVec.toNat_ofNat, sideBytes]
  omega

theorem State.withLine_line (s : State) (n : Nat) (l : Line) : (s.withLine n l).line n = l := by
  have hdata : (s.withLine n l).mem.read (128 * n) 128 = l.data.toNat :=
    (Memory.read_write_same _ _ _ _).trans (Nat.mod_eq_of_lt (toNat_lt_of_bytes l.data rfl))
  have htag : (s.withLine n l).side.read (16 * n + 6) 1 = sideBytes l / 256 ^ 2 % 256 ^ 1 :=
    Memory.read_write_inside (a := 16 * n + 4) (i := 2) _ _ (by omega)
  have hscales : (s.withLine n l).side.read (16 * n + 7) 8 = sideBytes l / 256 ^ 3 % 256 ^ 8 :=
    Memory.read_write_inside (a := 16 * n + 4) (i := 3) _ _ (by omega)
  have hcheck := (check16 l).isLt
  have htagLt := l.tag.isLt
  have hscalesLt := l.scales.isLt
  obtain ⟨data, tag, scales⟩ := l
  rw [State.line, hdata, htag, hscales]
  simp only [sideBytes] at *
  refine Line.mk.injEq .. |>.mpr ⟨?data, ?tag, ?scales⟩
  case data => rw [BitVec.ofNat_toNat, BitVec.setWidth_eq]
  all_goals refine BitVec.eq_of_toNat_eq ?_; rw [BitVec.toNat_ofNat]; omega

theorem State.withLine_lineBad (s : State) (n : Nat) (l : Line) : (s.withLine n l).lineBad n = none := by
  have hgood : ¬ (s.withLine n l).badLines.contains n = true := by simp [State.withLine]
  rw [State.lineBad, if_neg hgood, State.withLine_line, State.withLine_chk, if_pos rfl]

theorem State.withLine_byte (s : State) {n a : Nat} (l : Line) (h : a / 128 ≠ n) : (s.withLine n l).mem.byte a = s.mem.byte a := by
  rcases Nat.lt_or_ge a (128 * n) with ha | ha
  · exact Memory.byte_write_of_lt _ _ _ _ _ ha
  · exact Memory.byte_write_of_ge _ _ _ _ _ (by omega)

-- What the caches and the threads that wake leave alone (R190, R255) -----------------------------------------------------

theorem State.useMsc_eq (s : State) (n : Nat) (dirty : Bool) :
    s.useMsc n dirty = { s with halves := (s.useMsc n dirty).halves, fresh := (s.useMsc n dirty).fresh } := by
  unfold State.useMsc State.chose
  dsimp only
  split
  · rfl
  · split <;> rfl

/-- A line that passes through the caches changes what half-dies hold, and makes free choices. -/
theorem State.useL2_eq (s : State) (n : Nat) (dirty : Bool) :
    s.useL2 n dirty = { s with halves := (s.useL2 n dirty).halves, fresh := (s.useL2 n dirty).fresh } := by
  have hchose (made : Bool) : s.chose made = { s with fresh := (s.chose made).fresh } := by cases made <;> rfl
  unfold State.useL2
  dsimp only
  split
  · rfl
  split
  · rfl
  split
  · rw [State.useMsc_eq, State.modHalf, State.useMsc_eq (s.chose _), hchose]
  · rw [State.modHalf, State.useMsc_eq, hchose]

theorem State.half_rest_modHalf (s : State) (j k : Nat) {f : HalfDie → HalfDie} (hf : ∀ x, (f x).rest = x.rest) :
    ((s.modHalf k f).half j).rest = (s.half j).rest := by
  rw [State.half_modHalf]
  split
  · next h => rw [hf, h]
  · rfl

theorem State.useMsc_half_rest (s : State) (n : Nat) (dirty : Bool) (j : Nat) : ((s.useMsc n dirty).half j).rest = (s.half j).rest := by
  unfold State.useMsc
  dsimp only
  split
  · exact State.half_rest_modHalf _ _ _ fun _ => rfl
  · refine (State.half_rest_modHalf _ _ _ ?_).trans (congrArg HalfDie.rest (State.chose_half ..))
    exact fun _ => rfl

theorem State.useL2_half_rest (s : State) (n : Nat) (dirty : Bool) (j : Nat) : ((s.useL2 n dirty).half j).rest = (s.half j).rest := by
  have hmissed (made : Bool) (t : Table Bool) (cs : List Copy) :
      ((((s.chose made).useMsc n false).modHalf (homeHalf (128 * n)) fun y => { y with l2 := t, copies := cs }).half j).rest = (s.half j).rest := by
    rw [← State.chose_half s made j, ← State.useMsc_half_rest (s.chose made) n false j]
    exact State.half_rest_modHalf _ _ _ fun _ => rfl
  unfold State.useL2
  dsimp only
  split
  · rfl
  split
  · exact State.half_rest_modHalf _ _ _ fun _ => rfl
  split
  · exact (State.useMsc_half_rest ..).trans (hmissed ..)
  · exact hmissed ..

/-- A thread that wakes changes its warp, its core's L1 and what its workgroup knows of tile writes. -/
theorem State.wake_eq (s : State) (w : Watch) :
    s.wake w = { s with cores := (s.wake w).cores, warps := (s.wake w).warps, wgs := (s.wake w).wgs } := by
  unfold State.wake State.observe State.acquire
  dsimp only
  split <;> split <;> rfl

theorem State.foldl_wake_eq (ws : List Watch) (s : State) : ws.foldl State.wake s
    = { s with cores := (ws.foldl State.wake s).cores, warps := (ws.foldl State.wake s).warps, wgs := (ws.foldl State.wake s).wgs } := by
  induction ws generalizing s with
  | nil => rfl
  | cons w ws ih => rw [List.foldl_cons, ih, State.wake_eq]

theorem State.notify_eq (s : State) (lo hi : Nat) : s.notify lo hi = { s with
    cores := (s.notify lo hi).cores, warps := (s.notify lo hi).warps, wgs := (s.notify lo hi).wgs, watches := (s.notify lo hi).watches } := by
  unfold State.notify
  rw [State.foldl_wake_eq]

theorem State.useL2_sameBytes (s : State) (n : Nat) (dirty : Bool) : s.sameBytes (s.useL2 n dirty) := by
  rw [State.useL2_eq]; exact ⟨rfl, rfl, rfl⟩

theorem State.notify_sameBytes (s : State) (lo hi : Nat) : s.sameBytes (s.notify lo hi) := by
  rw [State.notify_eq]; exact ⟨rfl, rfl, rfl⟩

-- What the device keeps in memory for itself (R331, R340, R381) -----------------------------------------------------------

/-- Where the device keeps something in memory is told by the same parts of the machine, and no further block has moved out. -/
def State.keepsAreas (s t : State) : Prop :=
  t.frames = s.frames ∧ t.kernels = s.kernels ∧ t.ctxs = s.ctxs ∧ t.sealedKv = s.sealedKv ∧ (∀ h, (t.half h).rest = (s.half h).rest)
    ∧ (∀ k, t.ctxOf k = s.ctxOf k) ∧ ∀ e ∈ t.warps, e.2.xmoved ≠ 0 → ∃ f ∈ s.warps, f.1 = e.1 ∧ f.2.xmoved ≠ 0

theorem State.keepsAreas_refl (s : State) : s.keepsAreas s :=
  ⟨rfl, rfl, rfl, rfl, fun _ => rfl, fun _ => rfl, fun e he hx => ⟨e, he, rfl, hx⟩⟩

theorem State.keepsAreas_trans {s t u : State} (h : s.keepsAreas t) (i : t.keepsAreas u) : s.keepsAreas u := by
  obtain ⟨hframes, hkernels, hctxs, hsealed, hhalf, hctxOf, hmoved⟩ := h
  obtain ⟨iframes, ikernels, ictxs, isealed, ihalf, ictxOf, imoved⟩ := i
  refine ⟨iframes.trans hframes, ikernels.trans hkernels, ictxs.trans hctxs, isealed.trans hsealed, fun j => (ihalf j).trans (hhalf j),
    fun k => (ictxOf k).trans (hctxOf k), fun e he hx => ?_⟩
  obtain ⟨f, hf, hfe, hfx⟩ := imoved e he hx
  obtain ⟨d, hd, hdf, hdx⟩ := hmoved f hf hfx
  exact ⟨d, hd, hdf.trans hfe, hdx⟩

theorem State.useL2_keepsAreas (s : State) (n : Nat) (dirty : Bool) : s.keepsAreas (s.useL2 n dirty) := by
  have hhalf := s.useL2_half_rest n dirty
  rw [State.useL2_eq] at hhalf ⊢
  exact ⟨rfl, rfl, rfl, rfl, hhalf, fun _ => rfl, fun e he hx => ⟨e, he, rfl, hx⟩⟩

theorem State.modThread_keepsAreas (s : State) (k l : Nat) (f : Thread → Thread) : s.keepsAreas (s.modThread k l f) := by
  have hwg : ∀ j, ((s.modThread k l f).warp j).wg = (s.warp j).wg := by
    intro j
    rw [State.modThread, State.warp_modWarp]
    split
    · next h => rw [h]; rfl
    · rfl
  refine ⟨rfl, rfl, rfl, rfl, fun _ => rfl, fun j => ?_, fun e he hx => ?_⟩
  · rw [State.ctxOf, State.kernelOf, State.wgOf, hwg]; rfl
  · rcases Table.mem_put he with rfl | he
    · have hx : (s.warp k).xmoved ≠ 0 := hx
      rcases Table.get_eq_default_or_mem s.warps k with h | h
      · exact absurd (congrArg Warp.xmoved h) hx
      · exact ⟨_, h, rfl, hx⟩
    · exact ⟨e, he, rfl, hx⟩

theorem State.observe_keepsAreas (s : State) (slot : Nat) (sp : Bool) (a w : Nat) (o : OrdSc) : s.keepsAreas (s.observe slot sp a w o) := by
  unfold State.observe
  split
  · exact s.keepsAreas_refl
  · refine ⟨rfl, rfl, rfl, rfl, fun _ => rfl, fun k => ?_, fun e he hx => ⟨e, he, rfl, hx⟩⟩
    have hkernel : ∀ f : Workgroup → Workgroup, (∀ g, (f g).kernel = g.kernel) →
        ((s.modWg (s.warp slot).wg f).wgOf k).kernel = (s.wgOf k).kernel := by
      intro f hf
      change (Table.get (s.wgs.put _ _) (s.warp k).wg).kernel = _
      rw [Table.get_put]
      split
      · next h => rw [hf, State.wgOf, h]
      · rfl
    refine congrArg (fun i => (s.kernel i).ctx) (hkernel _ ?_)
    exact fun _ => rfl

theorem State.wake_keepsAreas (s : State) (w : Watch) : s.keepsAreas (s.wake w) := by
  have hcores : ∀ (t : State) (core n : Nat) (o : OrdSc), t.keepsAreas ((t.dropL1 core n).acquire core o) := by
    intro t core n o
    unfold State.acquire
    split <;> exact t.keepsAreas_refl
  exact State.keepsAreas_trans (State.keepsAreas_trans (hcores s _ _ _) (State.observe_keepsAreas ..)) (State.modThread_keepsAreas ..)

theorem State.notify_keepsAreas (s : State) (lo hi : Nat) : s.keepsAreas (s.notify lo hi) := by
  have hfold : ∀ (ws : List Watch) (t : State), t.keepsAreas (ws.foldl State.wake t) := by
    intro ws
    induction ws with
    | nil => exact State.keepsAreas_refl
    | cons w ws ih => exact fun t => State.keepsAreas_trans (t.wake_keepsAreas w) (ih _)
  exact hfold _ { s with watches := _ }

/-- In n bytes at pa lies nothing that the device keeps there for itself, page entries aside. -/
def State.apart (s : State) (pa n : Nat) : Prop :=
  let clear := fun (a m : Nat) => pa + n ≤ a ∨ a + m ≤ pa
  (∀ f ∈ s.frames, clear (s.frameBase f.ctx f.slot) (2 ^ 22)
      ∧ clear (s.frameBase f.ctx (s.ctx f.ctx).nframe) (128 * (s.ctx f.ctx).rplines))
    ∧ (∀ e ∈ s.warps, e.2.xmoved ≠ 0 → clear (s.overflowSlab (s.ctxOf e.1) (coreOf e.1)) (2 ^ 20))
    ∧ (∀ e ∈ s.kernels, e.2.repeatable = true → clear (s.frameBase e.2.ctx (s.ctx e.2.ctx).nframe) (128 * (s.ctx e.2.ctx).rplines))
    ∧ ∀ e ∈ s.sealedKv, clear (128 * e.1) 128

theorem State.unkept_iff (s : State) (pa n : Nat) : s.unkept pa n ↔ s.apart pa n ∧ s.untabled pa n := by
  simp only [State.unkept, State.apart, and_assoc]

theorem State.partHalves_of_half_rest {s t : State} (h : ∀ j, (t.half j).rest = (s.half j).rest) (p : Nat) : t.partHalves p = s.partHalves p := by
  have hmember (j : Nat) : (t.half j).member = (s.half j).member := by have := congrArg HalfDie.member (h j); exact this
  have hpart (j : Nat) : (t.half j).part = (s.half j).part := by have := congrArg HalfDie.part (h j); exact this
  simp only [State.partHalves, hmember, hpart]

theorem State.apart_of_keepsAreas {s t : State} (h : s.keepsAreas t) {pa n : Nat} (ha : s.apart pa n) : t.apart pa n := by
  obtain ⟨hframes, hkernels, hctxs, hsealed, hhalf, hctxOf, hmoved⟩ := h
  have hctx (c : Nat) : t.ctx c = s.ctx c := by rw [State.ctx, State.ctx, hctxs]
  have hbase (c j : Nat) : t.frameBase c j = s.frameBase c j := by
    simp only [State.frameBase, hctx, State.partHalves_of_half_rest hhalf]
  have hslab (c j : Nat) : t.overflowSlab c j = s.overflowSlab c j := by
    simp only [State.overflowSlab, hctx, State.partHalves_of_half_rest hhalf]
  obtain ⟨aframes, awarps, akernels, asealed⟩ := ha
  simp only [State.apart, hframes, hkernels, hsealed, hctx, hbase, hslab, hctxOf]
  refine ⟨aframes, fun e he hx => ?_, akernels, asealed⟩
  obtain ⟨f, hf, hfe, hfx⟩ := hmoved e he hx
  rw [← hfe]
  exact awarps f hf hfx

/-- A write there tears no frame, no moved block, no store buffer and no partial. -/
theorem State.tearFrames_of_apart {s : State} {pa n : Nat} (h : s.apart pa n) : s.tearFrames pa (pa + n) = s := by
  obtain ⟨hframes, hwarps, hkernels, -⟩ := h
  have hmiss {a m : Nat} (hc : pa + n ≤ a ∨ a + m ≤ pa) : (decide (a < pa + n) && decide (pa < a + m)) = false := by
    rw [Bool.and_eq_false_iff, decide_eq_false_iff_not, decide_eq_false_iff_not]; omega
  have hblocks : (s.warps.any fun e => e.2.xmoved != 0 && (decide (s.overflowSlab (s.ctxOf e.1) (coreOf e.1) < pa + n)
      && decide (pa < s.overflowSlab (s.ctxOf e.1) (coreOf e.1) + 2 ^ 20))) = false := by
    rw [List.any_eq_false]
    intro e he
    by_cases hx : e.2.xmoved = 0
    · simp [hx]
    · rw [hmiss (hwarps e he hx), Bool.and_false]; exact Bool.false_ne_true
  have hpools : (s.kernels.any fun e => (s.kernel e.1).repeatable
      && (decide (s.frameBase (s.kernel e.1).ctx (s.ctx (s.kernel e.1).ctx).nframe < pa + n)
      && decide (pa < s.frameBase (s.kernel e.1).ctx (s.ctx (s.kernel e.1).ctx).nframe + 128 * (s.ctx (s.kernel e.1).ctx).rplines))) = false := by
    rw [List.any_eq_false]
    intro e he
    have hlisted : (e.1, s.kernel e.1) ∈ s.kernels := Table.get_mem he
    by_cases hr : (s.kernel e.1).repeatable = true
    · rw [hmiss (hkernels _ hlisted hr), Bool.and_false]; exact Bool.false_ne_true
    · simp [hr]
  have hsaved : (s.frames.map fun f => if (decide (s.frameBase f.ctx f.slot < pa + n) && decide (pa < s.frameBase f.ctx f.slot + 2 ^ 22)
      || decide (s.frameBase f.ctx (s.ctx f.ctx).nframe < pa + n)
        && decide (pa < s.frameBase f.ctx (s.ctx f.ctx).nframe + 128 * (s.ctx f.ctx).rplines)) = true then { f with torn := true } else f) = s.frames := by
    refine (List.map_congr_left fun f hf => ?_).trans (List.map_id _)
    rw [hmiss (hframes f hf).1, hmiss (hframes f hf).2]
    rfl
  unfold State.tearFrames
  simp only [hblocks, hpools, Bool.false_eq_true, if_false, hsaved]

/-- And it spoils no sealed page. -/
theorem State.spoilKept_of_apart {s : State} {pa n : Nat} (h : s.apart pa n) : s.spoilKept pa (pa + n) = s := by
  have hsealed : (s.sealedKv.filter fun e => decide (128 * e.1 < pa + n) && decide (pa < 128 * e.1 + 128)) = [] := by
    obtain ⟨-, -, -, hclear⟩ := h
    rw [List.filter_eq_nil_iff]
    intro e he
    have := hclear e he
    rw [Bool.and_eq_true, decide_eq_true_eq, decide_eq_true_eq]
    omega
  unfold State.spoilKept
  dsimp only
  rw [State.tearFrames_of_apart h, hsealed]
  rfl

/-- Fewer contexts have no more tables. -/
theorem State.inTables_mono {s : State} {p q : Nat → Context → Bool} (h : ∀ n c, p n c = true → q n c = true) {w : Nat}
    (hw : inTables (s.tablesOf q) w = false) : inTables (s.tablesOf p) w = false := by
  simp only [inTables, State.tablesOf, List.any_eq_false, List.mem_flatMap, forall_exists_index, and_imp] at hw ⊢
  intro x e he hx
  split at hx
  · next hp =>
    rw [Bool.and_eq_true] at hp
    refine hw x e he ?_
    rw [if_pos (Bool.and_eq_true_iff.mpr ⟨hp.1, h _ _ hp.2⟩)]
    exact hx
  · exact absurd hx List.not_mem_nil

end Machine
end Sys2Proof
end

section
/-! SUPPORT. Host accesses through the aperture (R235, R451, R453, R462 to R464): which lines an access names, what a write in either mode
leaves, and what a host is told. -/
namespace Sys2Proof.Machine

theorem State.hostReach_iff (s : State) (pa : Nat) :
    s.hostReach pa = true ↔ pa < 2 ^ 39 ∧ pa % 2 ^ 36 < 54000000000 ∧ (s.half (pa / 2 ^ 36)).member = true := by
  simp only [State.hostReach, populated, homeHalf, Bool.and_eq_true, decide_eq_true_eq, and_assoc]

/-- Bytes inside one line name that line. -/
theorem linesOf_inside {pa n : Nat} (hn : 1 ≤ n) (h : pa % 128 + n ≤ 128) : linesOf pa n = [pa / 128] := by
  have hlast : (pa + n - 1) / 128 = pa / 128 := by omega
  rw [linesOf, if_neg (by omega), hlast, Nat.sub_self]
  rfl

/-- A line the host met with its check value not matching is recorded with class 0x03 (R453, R455). -/
theorem State.hostBad_records (s : State) {n : Nat} (detail : Nat) (hhome : homeHalf (128 * n) < 8) (hpart : (s.half (homeHalf (128 * n))).part < 8) :
    s.records (s.hostBad n 1 detail) 3 ∧ (s.hostBad n 1 detail).mem = s.mem := by
  rw [State.hostBad, if_neg (by decide)]
  exact ⟨s.report_records _ _ (by decide) (by omega) (Nat.lt_of_lt_of_le hpart (by decide)) (by decide), s.report_mem ..⟩

theorem State.report_side (s : State) (cls detail addr ctx die : Nat) (part : Option Nat) :
    (s.report cls detail addr ctx die part).side = s.side := by
  rw [State.report_eq]

-- Writes (R331, R451, R462) -------------------------------------------------------------------------------------------

theorem State.unsettle_nil (s : State) (ts : List (Nat × Nat)) : s.unsettle ts [] = s := rfl

theorem State.settleWords_keepsAreas (s : State) (ws : List Nat) : s.keepsAreas (s.settleWords ws) :=
  ⟨rfl, rfl, rfl, rfl, fun _ => rfl, fun _ => rfl, fun e he hx => ⟨e, he, rfl, hx⟩⟩

/-- A host's write apart from what the device keeps in memory changes no byte but those it stores. -/
theorem State.hostWrote_sameBytes {s t : State} {pa n : Nat} (hk : s.unkept pa n) (ht : s.keepsAreas t) : t.sameBytes (t.hostWrote s pa (pa + n)) := by
  obtain ⟨hapart, htabled⟩ := (s.unkept_iff pa n).mp hk
  have hbusy : ∀ p : Nat → Context → Bool, (wordsOf pa (pa + n)).filter (inTables (s.tablesOf p)) = [] := by
    intro p
    rw [List.filter_eq_nil_iff]
    intro w hw
    rw [State.inTables_mono (fun _ _ _ => rfl) (htabled w hw)]
    exact Bool.false_ne_true
  unfold State.hostWrote
  simp only [List.partition_eq_filter_filter, hbusy, State.unsettle_nil]
  rw [State.spoilKept_of_apart (State.apart_of_keepsAreas (State.keepsAreas_trans ht (State.settleWords_keepsAreas ..)) hapart)]
  exact ⟨rfl, rfl, rfl⟩

theorem State.hostMerge_stored {s : State} {pa : Nat} {bs : List Byte} (hbs : bs ≠ []) (hreach : s.hostReach pa = true)
    (hgood : s.lineBad (pa / 128) = none) (hk : s.unkept pa bs.length) :
    s.stored (s.hostMerge pa bs) pa bs.length (bs.foldr (fun b r => b.toNat + 256 * r) 0) := by
  generalize hv : bs.foldr (fun b r => b.toNat + 256 * r) 0 = v
  have hmerge : s.hostMerge pa bs
      = (((s.withBytes pa bs.length v).useL2 (pa / 128) true).notify pa (pa + bs.length)).hostWrote s pa (pa + bs.length) := by
    have hopen : ¬(bs.isEmpty || !s.hostReach pa) = true := by simp [hreach, hbs]
    rw [State.hostMerge, if_neg hopen, hv, State.poke_eq hgood]
  have hareas : s.keepsAreas (((s.withBytes pa bs.length v).useL2 (pa / 128) true).notify pa (pa + bs.length)) :=
    State.keepsAreas_trans (State.useL2_keepsAreas (s.withBytes pa bs.length v) _ _) (State.notify_keepsAreas ..)
  rw [hmerge]
  refine State.stored_sameBytes (State.withBytes_stored hgood _ v) ?_
  exact State.sameBytes_trans (State.sameBytes_trans (State.useL2_sameBytes ..) (State.notify_sameBytes ..)) (State.hostWrote_sameBytes hk hareas)

theorem State.hostMerge_nil (s : State) (pa : Nat) : s.hostMerge pa [] = s := rfl

theorem State.hostMerge_refused {s : State} {pa : Nat} (h : s.hostReach pa = false) (bs : List Byte) : s.hostMerge pa bs = s := by
  rw [State.hostMerge, h, if_pos (by simp)]

theorem State.hostStore_nil (s : State) (pa n : Nat) : s.hostStore pa n [] = s := by
  induction n generalizing pa with
  | zero => rfl
  | succ n ih => rw [State.hostStore, List.take_nil, List.drop_nil, State.hostMerge_nil]; exact ih _

/-- A write inside one line is one merge. -/
theorem State.hostStore_inside (s : State) {pa n : Nat} {bs : List Byte} (h : pa % 128 + bs.length ≤ 128) :
    s.hostStore pa (n + 1) bs = s.hostMerge pa bs := by
  have hlen : bs.length ≤ 128 - pa % 128 := by omega
  rw [State.hostStore, List.take_of_length_le hlen, List.drop_of_length_le hlen]
  exact State.hostStore_nil ..

-- Data mode (R453, R462, R463) ----------------------------------------------------------------------------------------

/-- In data mode a write of any kind is one of its bytes. -/
theorem exec_hostLineWrite_data {s : State} (hmode : s.ap.nowLine = false) (off : Nat) (bytes : List Byte) :
    exec (.hostLineWrite off bytes) s = exec (.hostDataWrite off bytes) s := by
  change execHostLineWrite off bytes s = execHostDataWrite off bytes s
  rw [execHostLineWrite, hmode]
  rfl

section
variable {s : State} {off len : Nat} (hup : s.up = true) (hacc : s.accepted ≠ none)
include hup hacc

theorem exec_hostRead_data (hmode : s.ap.nowLine = false) (hlen : 1 ≤ len) (hend : off + len ≤ 2 ^ 36)
    (hinside : (s.ap.nowBase.toNat + off) % 128 + len ≤ 128) {n : Nat} (hn : (s.ap.nowBase.toNat + off) / 128 = n) :
    exec (.hostRead false off len) s = if s.hostReach (128 * n) = false then .next (s.tellHost .unsupported)
      else match s.lineBad n with
        | some i => .next ((s.hostBad n i 1).tellHost .completerAbort)
        | none => .next (s.tellHost (.data (s.mem.bytes (s.ap.nowBase.toNat + off) len))) := by
  have hfits : ¬2 ^ 36 < off + len := by omega
  change execHostRead false off len s = _
  simp only [execHostRead, hmode, Bool.false_eq_true, if_false, State.responds_of_accepted hup hacc, Bool.not_true, linesOf_inside hlen hinside, hn,
    List.all_cons, List.all_nil, Bool.and_true, hfits, decide_false, Bool.or_false, Bool.not_eq_true', List.find?_cons, List.find?_nil]
  by_cases hreach : s.hostReach (128 * n) = false
  · rw [if_pos hreach, if_pos hreach]
  · rw [if_neg hreach, if_neg hreach]
    cases hbad : s.lineBad n with
    | none => rfl
    | some i => simp only [Option.isSome_some, hbad, Option.getD_some]

theorem exec_hostDataWrite_data (hmode : s.ap.nowLine = false) {bytes : List Byte} (hend : off + bytes.length ≤ 2 ^ 36)
    (hinside : (s.ap.nowBase.toNat + off) % 128 + bytes.length ≤ 128) :
    exec (.hostDataWrite off bytes) s = .next (s.hostMerge (s.ap.nowBase.toNat + off) bytes) := by
  change execHostDataWrite off bytes s = _
  simp only [execHostDataWrite, State.responds_of_accepted hup hacc, Bool.not_true, Bool.false_eq_true, if_false, hmode,
    Nat.not_lt.mpr hend, State.hostStore_inside s hinside]

-- Line mode (R453, R462) ----------------------------------------------------------------------------------------------

theorem exec_hostRead_line (hmode : s.ap.nowLine = true) (hoff : off % 256 = 0) (hend : off + 256 ≤ 2 ^ 36) {n : Nat}
    (hn : s.ap.nowBase.toNat / 128 + off / 256 = n) (hreach : s.hostReach (128 * n) = true) (hgood : s.lineBad n = none) :
    exec (.hostRead false off 256) s
      = .next (s.free.2.tellHost (.data ((List.range 256).map (viewByte (s.line n) s.free.1)))) := by
  have hfits : ¬2 ^ 36 < off + 256 := by omega
  have hone : (off + 256 - 1) / 256 = off / 256 := by omega
  have hview : ∀ i ∈ List.range 256, viewByte (s.line (s.ap.nowBase.toNat / 128 + (off + i) / 256)) s.free.1 ((off + i) % 256)
      = viewByte (s.line n) s.free.1 i := by
    intro i hi
    have := List.mem_range.mp hi
    rw [show (off + i) / 256 = off / 256 by omega, show (off + i) % 256 = i by omega, hn]
  change execHostRead false off 256 s = _
  simp only [execHostRead, hmode, Bool.false_eq_true, if_false, if_true, State.responds_of_accepted hup hacc, Bool.not_true, hone, Nat.sub_self,
    Nat.zero_add, List.range_one, List.map_cons, List.map_nil, Nat.add_zero, hn, List.all_cons, List.all_nil, hreach, Bool.and_true, hfits, decide_false,
    Bool.or_false, List.find?_cons, List.find?_nil, hgood, Option.isSome_none, OfNat.ofNat_ne_zero]
  exact congrArg (fun bs => Host.Outcome.next (s.free.2.tellHost (.data bs))) (List.map_congr_left hview)

/-- In line mode a data write is dropped, with a record. -/
theorem exec_hostDataWrite_line (hmode : s.ap.nowLine = true) (bytes : List Byte) :
    exec (.hostDataWrite off bytes) s = .next (s.report 3 3 (s.ap.nowBase.toNat + 128 * (off / 256)) 0 0 none) := by
  change execHostDataWrite off bytes s = _
  rw [execHostDataWrite, State.responds_of_accepted hup hacc, hmode]
  rfl

theorem exec_hostLineWrite_line (hmode : s.ap.nowLine = true) {n : Nat} (hn : s.ap.nowBase.toNat / 128 + off / 256 = n) (bytes : List Byte) :
    exec (.hostLineWrite off bytes) s
      = if off % 256 ≠ 0 ∨ bytes.length ≠ 256 ∨ (viewLine bytes).2 = false then .next (s.report 3 3 (128 * n) 0 (homeHalf (128 * n) / 2) none)
        else if s.hostReach (128 * n) = false ∨ 2 ^ 36 < off + 256 then .next s
        else .next ((s.putLine n (viewLine bytes).1).hostWrote s (128 * n) (128 * n + 128)) := by
  change execHostLineWrite off bytes s = _
  simp only [execHostLineWrite, hmode, Bool.not_true, Bool.false_eq_true, if_false, State.responds_of_accepted hup hacc, hn, Bool.or_eq_true,
    bne_iff_ne, Bool.not_eq_true', decide_eq_true_eq, or_assoc]

end

/-- A line put apart from what the device keeps in memory is there, whole, and no other byte changes. -/
theorem State.hostWrote_putLine {s : State} {n : Nat} (l : Line) (hk : s.unkept (128 * n) 128) :
    let t := (s.putLine n l).hostWrote s (128 * n) (128 * n + 128)
    t.line n = l ∧ t.lineBad n = none ∧ ∀ a, a / 128 ≠ n → t.mem.byte a = s.mem.byte a := by
  intro t
  have hareas : s.keepsAreas (s.putLine n l) := by
    rw [State.putLine_eq]
    exact State.keepsAreas_trans (State.useL2_keepsAreas (s.withLine n l) _ _) (State.notify_keepsAreas ..)
  have hput : (s.withLine n l).sameBytes (s.putLine n l) := by
    rw [State.putLine_eq]
    exact State.sameBytes_trans (State.useL2_sameBytes ..) (State.notify_sameBytes ..)
  have hsame : (s.withLine n l).sameBytes t := State.sameBytes_trans hput (State.hostWrote_sameBytes hk hareas)
  refine ⟨?line, ?good, fun a ha => ?other⟩
  case line => rw [State.line_sameBytes hsame, State.withLine_line]
  case good => rw [State.lineBad_sameBytes hsame, State.withLine_lineBad]
  case other => rw [hsame.1, State.withLine_byte s l ha]

/-- A byte of a line's data is the byte of memory there. -/
theorem State.dataByte_line (s : State) {n i : Nat} (hi : i < 128) : dataByte (s.line n).data i = s.mem.byte (128 * n + i) := by
  refine BitVec.eq_of_toNat_eq ?_
  have hbyte := s.mem.read_byte (a := 128 * n) hi
  have hdata : (s.line n).data.toNat = s.mem.read (128 * n) 128 := toNat_ofNat_bytes rfl (Memory.read_lt ..)
  rw [dataByte, BitVec.extractLsb'_toNat, Nat.shiftRight_eq_div_pow, hdata, Nat.pow_mul]
  exact hbyte

/-- The 256 bytes of a line's view: its data, four bytes of 0, its sideband, and padding. -/
theorem State.viewBytes (s : State) (n v : Nat) :
    let bs := (List.range 256).map (viewByte (s.line n) v)
    bs.length = 256 ∧ bs.take 128 = s.mem.bytes (128 * n) 128 ∧ (bs.drop 128).take 4 = [0, 0, 0, 0]
      ∧ (bs.drop 132).take 12 = leBytes 12 (sideBytes (s.line n)) := by
  intro bs
  have hzero : ((List.range 256).drop 128).take 4 = [128, 129, 130, 131] := by decide
  have hside : ((List.range 256).drop 132).take 12 = (List.range 12).map (132 + ·) := by decide
  simp only [bs, ← List.map_take, ← List.map_drop, hzero, hside, List.take_range, List.length_map, List.length_range]
  refine ⟨trivial, ?data, rfl, ?side⟩
  case data =>
    rw [Memory.bytes_eq_map]
    refine List.map_congr_left fun i hi => ?_
    have hi : i < 128 := List.mem_range.mp hi
    rw [viewByte, if_pos hi, s.dataByte_line hi]
  case side =>
    rw [List.map_map]
    refine List.map_congr_left fun i hi => ?_
    have hi : i < 12 := List.mem_range.mp hi
    rw [Function.comp_apply, viewByte, if_neg (by omega), if_neg (by omega), if_pos (by omega), Nat.add_sub_cancel_left]

/-- Settles O46: in either mode each clause is the lemma above about its access. -/
theorem hostAccesses : Obligations.HostAccesses := by
  unfold Obligations.HostAccesses
  intro s off base reach n
  have hreach (pa : Nat) : s.hostReach pa = true ↔ reach pa := s.hostReach_iff pa
  have hyes (pa : Nat) (h : reach pa) : ¬s.hostReach pa = false := ne_false_of_eq_true ((hreach pa).mpr h)
  have hnot (pa : Nat) (h : ¬reach pa) : s.hostReach pa = false := Bool.eq_false_iff.mpr (mt (hreach pa).mp h)
  refine ⟨fun hup hacc hmode len hlen hend hinside => ?data, fun hup hacc hmode hoff hend => ?line, rfl⟩
  case data =>
    intro pa
    have hline : pa / 128 * 128 = 128 * (pa / 128) := Nat.mul_comm ..
    have hread := exec_hostRead_data hup hacc hmode hlen hend hinside (n := pa / 128) rfl
    rw [hline]
    refine ⟨fun hr hgood => ?bytes, fun hr => ?unsupported, fun hr hbad hpart => ?abort, fun bytes hbytes => ?write⟩
    case bytes => rw [hread, if_neg (hyes _ hr), hgood]; rfl
    case unsupported => rw [hread, if_pos (hnot _ hr)]; rfl
    case abort =>
      have hhome : homeHalf (128 * (pa / 128)) = pa / 2 ^ 36 := by rw [homeHalf]; omega
      obtain ⟨hrec, hmem⟩ := s.hostBad_records (n := pa / 128) 1 (by have := hr.1; rw [homeHalf]; omega) (by rw [hhome]; exact hpart)
      refine ⟨_, _, ?_, hrec, rfl, hmem⟩
      rw [hread, if_neg (hyes _ hr), hbad]
      rfl
    case write =>
      have hwrite := exec_hostDataWrite_data hup hacc hmode (bytes := bytes) (by rw [hbytes]; exact hend) (by rw [hbytes]; exact hinside)
      refine ⟨fun hr hgood hk => ⟨_, hwrite, ?_⟩, fun hr => ?_, exec_hostLineWrite_data hmode off bytes⟩
      · have hne : bytes ≠ [] := by rintro rfl; rw [List.length_nil] at hbytes; omega
        rw [← hbytes] at hk ⊢
        exact State.hostMerge_stored hne ((hreach _).mpr hr) hgood hk
      · rw [hwrite, State.hostMerge_refused (hnot _ hr)]
  case line =>
    refine ⟨fun hr hgood => ?read, fun bytes => ?dataWrite, fun bytes => ?lineWrite⟩
    case read =>
      obtain ⟨hlen, hdata, hzero, hside⟩ := s.viewBytes n s.free.1
      exact ⟨_, _, exec_hostRead_line hup hacc hmode hoff hend rfl ((hreach _).mpr hr) hgood, rfl, rfl, hlen, hdata, hzero, hside⟩
    case dataWrite =>
      exact ⟨_, exec_hostDataWrite_line hup hacc hmode bytes, s.report_mem .., s.report_side ..,
        s.report_records _ _ (by decide) (by decide) (by decide) (by decide)⟩
    case lineWrite =>
      have hwrite := exec_hostLineWrite_line hup hacc hmode (n := n) rfl bytes
      generalize viewLine bytes = view at hwrite ⊢
      obtain ⟨l, ok⟩ := view
      refine ⟨fun hlen hok hr hk => ⟨_, hwrite.trans ?stored, State.hostWrote_putLine l hk⟩, fun hbad hhome => ?dropped⟩
      case stored =>
        have hright : ¬(off % 256 ≠ 0 ∨ bytes.length ≠ 256 ∨ ok = false) := by simp [hoff, hlen, hok]
        have hopen : ¬(s.hostReach (128 * n) = false ∨ 2 ^ 36 < off + 256) := not_or.mpr ⟨hyes _ hr, Nat.not_lt.mpr hend⟩
        rw [if_neg hright, if_neg hopen]
      case dropped =>
        have hdie : homeHalf (128 * n) / 2 < 2 ^ 2 := by omega
        exact ⟨_, hwrite.trans (if_pos (.inr hbad)), s.report_mem .., s.report_side ..,
          s.report_records _ _ (by decide) hdie (by decide) (by decide)⟩

end Sys2Proof.Machine
end

section
/-! SUPPORT. Variable-latency register instructions: the results of a group are pending, one for each warp, and land later (R81, R83, R116). -/
namespace Sys2Proof.Machine

-- Words for elements ------------------------------------------------------------------------------------------------

theorem mem_wordsFor {x : Nat × Word} {es : List Elem} {v : DWord} (h : x ∈ wordsFor es v) :
    ∃ i e, es[i]? = some e ∧ x = (elemKey e.2.1 e.2.2, (v >>> (32 * i)).setWidth 32) := by
  induction es generalizing v with
  | nil => exact absurd h List.not_mem_nil
  | cons e r ih =>
    rcases List.mem_cons.mp h with rfl | h
    · exact ⟨0, e, rfl, by rw [Nat.mul_zero, BitVec.ushiftRight_zero]⟩
    · obtain ⟨i, f, hf, rfl⟩ := ih h
      exact ⟨i + 1, f, hf, by rw [← BitVec.shiftRight_add, Nat.mul_succ, Nat.add_comm]⟩

theorem wordsFor_mem {es : List Elem} {i : Nat} {e : Elem} (h : es[i]? = some e) (v : DWord) :
    (elemKey e.2.1 e.2.2, (v >>> (32 * i)).setWidth 32) ∈ wordsFor es v := by
  induction es generalizing v i with
  | nil => exact absurd h (by simp)
  | cons f r ih =>
    cases i with
    | zero =>
      obtain rfl : f = e := Option.some.inj h
      rw [Nat.mul_zero, BitVec.ushiftRight_zero]
      exact List.mem_cons_self
    | succ i =>
      have := ih h (v >>> 32)
      rw [← BitVec.shiftRight_add, Nat.add_comm, ← Nat.mul_succ] at this
      exact List.mem_cons_of_mem _ this

/-- The elements of a destination have keys of their own. -/
theorem State.wrElems_key_inj {s : State} {a : Nat × Nat} {d : Wr} {i j : Nat} {e f : Elem} (he : (s.wrElems a (some d))[i]? = some e)
    (hf : (s.wrElems a (some d))[j]? = some f) (h : elemKey e.2.1 e.2.2 = elemKey f.2.1 f.2.2) : i = j := by
  simp only [State.wrElems, State.fieldElems] at he hf
  generalize rowOf (s.thread a.1 a.2) d.n = r at he hf
  have hlist : ∀ k g, (if d.pair = true then [(a.1, r, a.2), (a.1, r + 1, a.2)] else [(a.1, r, a.2)])[k]? = some g → g = (a.1, r + k, a.2) := by
    intro k g hk
    split at hk
    · rcases k with _ | _ | k
      · exact (Option.some.inj hk).symm
      · exact (Option.some.inj hk).symm
      · exact absurd hk (by simp)
    · cases k with
      | zero => exact (Option.some.inj hk).symm
      | succ k => exact absurd hk (by simp)
  rw [hlist i e he, hlist j f hf] at h
  simp only [elemKey] at h
  omega

-- Results pending for the warps of a group ------------------------------------------------------------------------------

/-- Some results are pending after those that are. -/
def State.withPend (s : State) (ps : List Pending) (n : Nat) : State := { s with pend := s.pend ++ ps, nextId := n }

/-- Each warp of a list has registers to be written later: they are pending under fresh numbers, and nothing else changes. -/
theorem State.foldl_pendRegs (F : Nat → List (Nat × Word)) (ks : List Nat) (hF : ∀ k ∈ ks, F k ≠ []) (s : State) :
    ∃ ps n, ks.foldl (fun t k => t.pendRegs k (F k)) s = s.withPend ps n ∧ s.nextId ≤ n ∧ (∀ p ∈ ps, s.nextId ≤ p.id)
      ∧ ∀ k ∈ ks, ∃ p ∈ ps, p = { Pending.empty k with id := p.id, regs := F k } := by
  induction ks generalizing s with
  | nil => exact ⟨[], s.nextId, by rw [List.foldl_nil, State.withPend, List.append_nil], Nat.le_refl _, fun p hp => absurd hp List.not_mem_nil,
      fun k hk => absurd hk List.not_mem_nil⟩
  | cons k ks ih =>
    have hstep : s.pendRegs k (F k) = s.addPend { Pending.empty k with regs := F k } := by
      rw [State.pendRegs, if_neg]
      simpa using hF k List.mem_cons_self
    obtain ⟨ps, n, heq, hn, hids, hall⟩ := ih (fun j hj => hF j (List.mem_cons_of_mem _ hj)) (s.pendRegs k (F k))
    rw [hstep] at heq hn hids
    refine ⟨{ Pending.empty k with id := s.nextId, regs := F k } :: ps, n, ?eq, Nat.le_of_succ_le hn, ?ids, ?all⟩
    case eq => rw [List.foldl_cons, hstep, heq, State.withPend, State.addPend_pend, List.append_assoc]; rfl
    case ids =>
      intro p hp
      rcases List.mem_cons.mp hp with rfl | hp
      · exact Nat.le_refl _
      · exact Nat.le_of_succ_le (hids p hp)
    case all =>
      intro j hj
      rcases List.mem_cons.mp hj with rfl | hj
      · exact ⟨_, List.mem_cons_self, rfl⟩
      · obtain ⟨p, hp, heq⟩ := hall j hj
        exact ⟨p, List.mem_cons_of_mem _ hp, heq⟩

theorem State.wrElems_of_warps {s t : State} (h : t.warps = s.warps) (a : Nat × Nat) (d : Option Wr) : t.wrElems a d = s.wrElems a d := by
  simp only [State.wrElems, State.fieldElems, State.thread, State.warp, h]

/-- The words that the threads of one warp are to receive. -/
def State.laterWords (s : State) (d : Wr) (val : Nat × Nat → DWord) (l : List (Nat × Nat)) (k : Nat) : List (Nat × Word) :=
  (l.filter (fun a => a.1 == k)).flatMap fun a => wordsFor (s.wrElems a (some d)) (val a)

theorem State.landLater_eq (s : State) (d : Wr) (val : Nat × Nat → DWord) (l : List (Nat × Nat)) :
    s.landLater (some d) (l.map fun a => (a, ({ val := val a } : Res)))
      = (l.map Prod.fst).eraseDups.foldl (fun t k => t.pendRegs k (s.laterWords d val l k)) s := by
  have hok : (l.map fun a => (a, ({ val := val a } : Res))).filter (fun x => x.2.fault.isNone) = l.map fun a => (a, ({ val := val a } : Res)) := by
    rw [List.filter_eq_self]
    intro x hx
    obtain ⟨a, -, rfl⟩ := List.mem_map.mp hx
    rfl
  have hstep : ∀ (ks : List Nat) (t : State), t.warps = s.warps →
      ks.foldl (fun t k => t.pendRegs k (((l.map fun a => (a, ({ val := val a } : Res))).filter (fun x => x.1.1 == k)).flatMap
        fun x => wordsFor (t.wrElems x.1 (some d)) x.2.val)) t = ks.foldl (fun t k => t.pendRegs k (s.laterWords d val l k)) t := by
    intro ks
    induction ks with
    | nil => exact fun t _ => rfl
    | cons k ks ih =>
      intro t ht
      have hwords : ((l.map fun a => (a, ({ val := val a } : Res))).filter (fun x => x.1.1 == k)).flatMap
          (fun x => wordsFor (t.wrElems x.1 (some d)) x.2.val) = s.laterWords d val l k := by
        rw [List.filter_map, List.flatMap_map, State.laterWords]
        simp only [State.wrElems_of_warps ht]
        rfl
      rw [List.foldl_cons, List.foldl_cons, hwords]
      refine ih _ ?_
      rw [State.pendRegs]
      split
      · exact ht
      · exact ht
  unfold State.landLater
  simp only [hok, List.map_map, Function.comp_def]
  exact hstep _ s rfl

/-- A thread's words are pending for it among those of its warp. -/
theorem State.owes_of_laterWords {s t : State} {d : Wr} {val : Nat × Nat → DWord} {l : List (Nat × Nat)} {a : Nat × Nat} {p : Pending} (ha : a ∈ l)
    (hlanes : (l.map Prod.snd).Nodup) (hlt : ∀ b ∈ l, b.2 < 32) (hp : p ∈ t.pend) (hid : s.nextId ≤ p.id)
    (heq : p = { Pending.empty a.1 with id := p.id, regs := s.laterWords d val l a.1 }) : s.owes t a (s.wrElems a (some d)) (val a) := by
  have hregs : p.regs = s.laterWords d val l a.1 := congrArg Pending.regs heq
  refine ⟨p, hp, hid, congrArg Pending.slot heq, congrArg Pending.remote heq, fun i e he => ⟨?_, fun x hx hkey => ?_⟩⟩
  · rw [hregs]
    exact List.mem_flatMap.mpr ⟨a, List.mem_filter.mpr ⟨ha, beq_self_eq_true _⟩, wordsFor_mem he _⟩
  · rw [hregs] at hx
    obtain ⟨b, hb, hx⟩ := List.mem_flatMap.mp hx
    obtain ⟨hb, -⟩ := List.mem_filter.mp hb
    obtain ⟨j, f, hf, rfl⟩ := mem_wordsFor hx
    have hle : e.2.2 = a.2 := State.wrElems_lane s a _ e (List.mem_of_getElem? he)
    have hlf : f.2.2 = b.2 := State.wrElems_lane s b _ f (List.mem_of_getElem? hf)
    have hlane : b.2 = a.2 := by
      have := hlt a ha
      have := hlt b hb
      simp only [elemKey] at hkey
      omega
    obtain rfl : b = a := List.inj_on_of_nodup_map hlanes hb ha hlane
    rw [State.wrElems_key_inj hf he hkey]

/-- A variable-latency register instruction whose operands are open, and whose threads neither fault nor draw nor set NF, completes. -/
theorem lateOp_promises {c : Ctl} {n : Nat} {rds : List Rd} {d : Wr} {s : State} {g : Grp} {f : Grp → State → Nat × Nat → List DWord → Res}
    {val : Nat × Nat → DWord} (h : s.issues c n g) (ho : ∀ a ∈ g.acts, s.open g (rds.flatMap (s.rdElems g a)) (s.wrElems a (some d)))
    (hf : ∀ a ∈ g.acts, f g s a (rds.map (s.source g a)) = { val := val a }) :
    ∃ t, lateOp c n rds (some d) s f = .next t ∧ s.promises t g d val ∧ s.flagsAre t g.acts (fun _ => false) 0 := by
  obtain ⟨hq, hset, -, -, -, hissuing⟩ := State.group_some h.1
  have hlt : ∀ a ∈ g.acts, a.2 < 32 := fun a ha => (h.2.2 a ha).1
  have hwait : s.interlocks g (fun a => rds.flatMap (s.rdElems g a) ++ s.wrElems a (some d)) = none :=
    State.interlocks_calm fun a ha => (ho a ha).1
  have hres : g.acts.map (fun a => (a, f g s a (rds.map (s.source g a)))) = g.acts.map fun a => (a, ({ val := val a } : Res)) :=
    List.map_congr_left fun a ha => by rw [hf a ha]
  have hside : ∀ (l : List (Nat × Nat)) (t : State),
      (l.map fun a => (a, ({ val := val a } : Res))).foldl (fun t x => if x.2.fault.isNone then t.sideRes x.1 x.2 else t) t = t := by
    intro l
    induction l with
    | nil => exact fun _ => rfl
    | cons a l ih => exact fun t => ih t
  have hfates : (g.acts.map fun a => (a, ({ val := val a } : Res))).map (fun x => (x.1, x.2.fate g)) = g.acts.map fun a => (a, Fate.done g.next) := by
    rw [List.map_map]; rfl
  have hwords : ∀ k ∈ (g.acts.map Prod.fst).eraseDups, s.laterWords d val g.acts k ≠ [] := by
    intro k hk
    obtain ⟨a, ha, rfl⟩ := List.mem_map.mp (List.mem_eraseDups.mp hk)
    refine List.ne_nil_of_mem (List.mem_flatMap.mpr ⟨a, List.mem_filter.mpr ⟨ha, beq_self_eq_true _⟩, wordsFor_mem (i := 0) (e := (a.1, rowOf (s.thread a.1 a.2) d.n, a.2)) ?_ _⟩)
    simp only [State.wrElems, State.fieldElems]
    split <;> rfl
  obtain ⟨ps, m, hlate, -, hids, hall⟩ := State.foldl_pendRegs (s.laterWords d val g.acts) _ hwords s
  refine ⟨_, issue_eq h _, ?_⟩
  simp only [hwait, State.evalAll_open ho, hres, hside, hfates, State.landLater_eq, hlate]
  have hthread : ∀ k l, (s.withPend ps m).thread k l = s.thread k l := fun _ _ => rfl
  generalize (g.acts.flatMap fun a => rds.flatMap (s.rdElems g a) ++ s.wrElems a (some d)) = es
  obtain ⟨hframe, hstays, hkept, htags, hflags⟩ := State.settleRows_spec (s.withPend ps m) g es (fun _ => false) 0
  generalize (s.withPend ps m).settleRows g es = s2 at *
  obtain ⟨hstill, hpassed⟩ := State.finish_done (s := s2) (g := g) (fun _ => g.next) hset hlt
    (fun a ha => by rw [hstays.1, hthread, hissuing a ha])
  generalize s2.finish g (g.acts.map fun a => (a, Fate.done g.next)) = t at *
  obtain ⟨hrest, hquad, hwarp⟩ := State.frame_trans hframe (State.still_frame hstill)
  have hpend : t.pend = s.pend ++ ps := by have := congrArg State.pend hrest; exact this
  refine ⟨⟨⟨?rest, ⟨ps, hpend, hids⟩, hquad, hwarp, State.elemsKept_trans hkept (State.still_elems hstill []), fun k row => ?tags⟩,
    ⟨hpassed.1, fun k l hk => ?others⟩, fun a ha => ?owed⟩, fun k => ⟨?nf, fun l => ?draw⟩⟩
  case rest => rw [hrest]; rfl
  case tags => rw [State.still_tags hstill]; exact htags k row
  case others => rw [hpassed.2 k l hk]; exact hstays.2 k l List.not_mem_nil
  case owed =>
    obtain ⟨p, hp, heq⟩ := hall a.1 (List.mem_eraseDups.mpr (List.mem_map_of_mem ha))
    exact State.owes_of_laterWords ha h.2.1 hlt (hpend ▸ List.mem_append_right _ hp) (hids p hp) heq
  case nf =>
    have hnone : (g.acts.any fun a => a.1 == k && false) = false := by simp
    rw [State.still_nf hstill, (hflags k).1, List.any_nil, hnone]
    rfl
  case draw =>
    rw [State.still_draw hstill, (hflags k).2, if_neg (fun hd => hd.2 rfl), if_neg (fun hd => hd.2 rfl), hthread]

end Sys2Proof.Machine
end

section
/-! SUPPORT. Control registers (R56, R112, R113, R380, R391): what CRD reads, register by register, and what CWR changes of a warp and of a thread. -/
namespace Sys2Proof.Machine

-- Reading (R112, R380) ----------------------------------------------------------------------------------------------

/-- The registers CRD reads other than as 0, with the value it finds for a thread. -/
def State.cregTable (s : State) (a : Nat × Nat) : List (Nat × Nat) :=
  let w := s.warp a.1
  let t := s.thread a.1 a.2
  let k := s.kernelOf a.1
  [(0x000, a.2), (0x001, w.wid), (0x002, (s.wgOf a.1).idx), (0x003, k.launch), (0x004, a.1 / 64), (0x005, a.1 / 16 % 4),
   (0x008, if t.tmode then 1 else 0), (0x009, t.wb), (0x00A, t.draw.toNat), (0x00C, if w.sbchk then 1 else 0),
   (0x010, if w.nf then 1 else 0), (0x011, w.rsltv.toNat), (0x012, w.rsltseq.toNat), (0x014, w.xheld.toNat),
   (0x015, s.exfree (a.1 / 16)), (0x016, 2048 - (s.quad (a.1 / 16)).lost), (0x100, t.tepc.toNat % 2 ^ 32), (0x101, t.tepc.toNat / 2 ^ 32),
   (0x102, t.tcause.toNat), (0x103, t.taddr.toNat % 2 ^ 32), (0x104, t.taddr.toNat / 2 ^ 32), (0x105, t.tinfo.toNat), (0x200, k.ctx),
   (0x201, k.part), (0x202, (s.ctx k.ctx).fasn), (0x203, k.seed.toNat % 2 ^ 32), (0x204, k.seed.toNat / 2 ^ 32),
   (0x205, (if k.late then 1 else 0) + (if k.repeatable then 2 else 0) + (if k.fuse then 4 else 0) + (if k.seedov then 8 else 0)),
   (0x206, k.pidx.toNat), (0x207, k.queue)]

theorem bf_low (x : DWord) : bf x 0 32 = x.toNat % 2 ^ 32 := by rw [bf, fld, Nat.pow_zero, Nat.div_one]

theorem bf_high (x : DWord) : bf x 32 32 = x.toNat / 2 ^ 32 := by
  have := x.isLt
  rw [bf, fld]
  omega

theorem fstatus_toNat (w : Warp) : (fstatus w).toNat = if w.nf then 1 else 0 := by
  rw [fstatus]; split <;> rfl

theorem State.creg_eq_lookup (s : State) (a : Nat × Nat) (r : Nat) : s.creg a.1 a.2 r = ((s.cregTable a).lookup r).getD 0 := by
  unfold State.creg
  split
  case h_31 =>
    rw [List.lookup_eq_none_iff.mpr, Option.getD_none]
    simp only [State.cregTable, List.forall_mem_cons, List.not_mem_nil, bne_iff_ne, IsEmpty.forall_iff, implies_true, and_true]
    exact ⟨‹_›, ‹_›, ‹_›, ‹_›, ‹_›, ‹_›, ‹_›, ‹_›, ‹_›, ‹_›, ‹_›, ‹_›, ‹_›, ‹_›, ‹_›, ‹_›, ‹_›, ‹_›, ‹_›, ‹_›, ‹_›, ‹_›, ‹_›, ‹_›, ‹_›, ‹_›, ‹_›, ‹_›, ‹_›, ‹_›⟩
  all_goals simp only [bf_low, bf_high, fstatus_toNat]; rfl

-- What changes of warps alone -----------------------------------------------------------------------------------------

/-- Nothing changes but warps, and of them nothing `f` sees. -/
def State.warpsOnly (f : Warp → Warp) (s t : State) : Prop := t.rest = s.rest ∧ t.quads = s.quads ∧ ∀ k, f (t.warp k) = f (s.warp k)

theorem State.warpsOnly_refl (f : Warp → Warp) (s : State) : s.warpsOnly f s := ⟨rfl, rfl, fun _ => rfl⟩

theorem State.warpsOnly_trans {f : Warp → Warp} {s t u : State} (h : s.warpsOnly f t) (i : t.warpsOnly f u) : s.warpsOnly f u :=
  ⟨i.1.trans h.1, i.2.1.trans h.2.1, fun k => (i.2.2 k).trans (h.2.2 k)⟩

theorem State.warpsOnly_modWarp {f φ : Warp → Warp} (s : State) (k : Nat) (h : ∀ w, f (φ w) = f w) : s.warpsOnly f (s.modWarp k φ) := by
  refine ⟨rfl, rfl, fun j => ?_⟩
  rw [State.warp_modWarp]
  split
  · next e => rw [h, e]
  · rfl

/-- A warp without the order and the place of its extended blocks. -/
def Warp.unplaced (w : Warp) : Warp := { w with xlast := [], xmoved := 0 }

theorem State.moveBlock_warpsOnly (s : State) (k b : Nat) : s.warpsOnly Warp.unplaced (s.moveBlock k b) :=
  State.warpsOnly_modWarp s k (φ := fun w => { w with xmoved := w.xmoved ||| BitVec.ofNat 8 (2 ^ b) }) fun _ => rfl

theorem State.spill_warpsOnly (q n : Nat) (s : State) : s.warpsOnly Warp.unplaced (s.spill q n) := by
  induction n generalizing s with
  | zero => exact s.warpsOnly_refl _
  | succ n ih =>
    unfold State.spill
    split
    · split
      · exact State.warpsOnly_trans (s.moveBlock_warpsOnly _ _) (ih _)
      · exact s.warpsOnly_refl _
    · exact s.warpsOnly_refl _

/-- Noting accesses to extended rows and moving blocks changes the order and the place of extended blocks and no more (R108). -/
theorem State.settleRows_warpsOnly (s : State) (g : Grp) (es : List Elem) : s.warpsOnly Warp.unplaced (s.settleRows g es) := by
  have htouch : ∀ (l : List Elem) (s : State),
      s.warpsOnly Warp.unplaced (l.foldl (fun s e => s.modWarp e.1 (fun w => w.touch (s.quad g.q).cycle [e.2.1])) s) := by
    intro l
    induction l with
    | nil => exact fun s => s.warpsOnly_refl _
    | cons e l ih =>
      exact fun s => State.warpsOnly_trans (State.warpsOnly_modWarp s e.1 (φ := fun w => w.touch (s.quad g.q).cycle [e.2.1]) fun _ => rfl) (ih _)
  unfold State.settleRows
  simp only
  split
  · exact s.warpsOnly_refl _
  · exact State.warpsOnly_trans (htouch _ s) (State.spill_warpsOnly _ _ _)

-- Writing (R56, R113, R380, R391) -------------------------------------------------------------------------------------

/-- Nothing changes but SBCHK, NF and the extended blocks' order and place in warps, and TEPC in threads: they are as given. -/
def State.written (s u : State) (sb nf : Nat → Bool) (tepc : Nat → Nat → DWord) : Prop :=
  u.rest = s.rest ∧ u.quads = s.quads
    ∧ ∀ k, (u.warp k).still.unplaced = { (s.warp k).still.unplaced with sbchk := sb k, nf := nf k }
      ∧ ∀ l, u.thread k l = { s.thread k l with tepc := tepc k l }

theorem State.written_of_unplaced {s t u : State} {sb nf : Nat → Bool} {tepc : Nat → Nat → DWord} (h : s.written t sb nf tepc)
    (i : t.warpsOnly Warp.unplaced u) : s.written u sb nf tepc := by
  obtain ⟨hrest, hquads, hwarp⟩ := h
  refine ⟨i.1.trans hrest, i.2.1.trans hquads, fun k => ⟨?warp, fun l => ?thread⟩⟩
  case warp => exact (congrArg Warp.still (i.2.2 k)).trans (hwarp k).1
  case thread => exact (congrArg (fun w => w.thread l) (i.2.2 k)).trans ((hwarp k).2 l)

/-- A group that writes so and then finishes, every active thread going on. -/
theorem State.written_finish {s u t : State} {g : Grp} {pc : Nat × Nat → DWord} {sb nf : Nat → Bool} {tepc : Nat → Nat → DWord}
    (h : s.written u sb nf tepc) (hstill : u.still t) (hpassed : u.passed t g pc)
    (hout : ∀ k l, (k, l) ∉ g.acts → tepc k l = (s.thread k l).tepc) :
    s.passed t g pc
      ∧ State.keeps (fun w => { w.still with sbchk := false, nf := false, xlast := [], xmoved := 0 }) (fun x => { x.still with tepc := 0 }) s t
      ∧ (∀ k, (t.warp k).sbchk = sb k ∧ (t.warp k).nf = nf k) ∧ ∀ k l, (t.thread k l).tepc = tepc k l := by
  obtain ⟨hrest, hquads, hwarp⟩ := h
  obtain ⟨hrest', hquad', hwarp'⟩ := hstill
  have hblank : ∀ k, (t.warp k).still.unplaced = { (s.warp k).still.unplaced with sbchk := sb k, nf := nf k } := fun k =>
    (congrArg Warp.unplaced (hwarp' k).1).trans (hwarp k).1
  have hthread : ∀ k l, (t.thread k l).still = { (s.thread k l).still with tepc := tepc k l } := fun k l => by
    rw [(hwarp' k).2 l, (hwarp k).2 l]; rfl
  refine ⟨⟨hpassed.1, fun k l hk => ?others⟩, ⟨hrest'.trans hrest, fun q => ?quads, fun k => ⟨?warp, fun l => ?thread⟩⟩, fun k => ⟨?sb, ?nf⟩,
    fun k l => ?tepc⟩
  case others => rw [hpassed.2 k l hk, (hwarp k).2 l, hout k l hk]
  case quads => rw [hquad', State.quad, State.quad, hquads]
  case warp => exact congrArg (fun w : Warp => { w with sbchk := false, nf := false }) (hblank k)
  case thread => exact congrArg (fun x : Thread => { x with tepc := 0 }) (hthread k l)
  case sb => exact congrArg Warp.sbchk (hblank k)
  case nf => exact congrArg Warp.nf (hblank k)
  case tepc => exact congrArg Thread.tepc (hthread k l)

-- A register of the warp ------------------------------------------------------------------------------------------------

/-- SBCHK and NF after a write of v to register r. -/
def sbchkAfter (w : Warp) (r : Nat) (v : Word) : Bool := if r = 0x00C then v.getLsbD 0 else w.sbchk
def nfAfter (w : Warp) (r : Nat) (v : Word) : Bool := if r = 0x010 then w.nf && !v.getLsbD 0 else w.nf

theorem Warp.writeCreg_eq (w : Warp) (r : Nat) (v : Word) : w.writeCreg r v = { w with sbchk := sbchkAfter w r v, nf := nfAfter w r v } := by
  unfold Warp.writeCreg sbchkAfter nfAfter
  split
  · rfl
  · rfl
  · next hsb hnf => rw [if_neg hsb, if_neg hnf]

/-- One warp's write (R391). -/
def State.cwrStep (s : State) (g : Grp) (a : VReg) (r k : Nat) : State :=
  let x := s.readElems g (s.fieldElems (k, (g.lanesOf k).headD 0) a.toNat false)
  (x.2.modWarp k fun w => w.writeCreg r (x.1.setWidth 32)).settleRows g (s.warpElems g k a.toNat)

theorem State.written_thread {s u : State} {sb nf : Nat → Bool} (h : s.written u sb nf fun k l => (s.thread k l).tepc) (k l : Nat) :
    u.thread k l = s.thread k l := (h.2.2 k).2 l

/-- Reading elements after a write of control registers of warps: what was there before. -/
theorem State.written_reads {s u : State} {g : Grp} {sb nf : Nat → Bool} {x : Nat × Nat} {n : Nat}
    (h : s.written u sb nf fun k l => (s.thread k l).tepc) (hripe : s.ripe g (s.fieldElems x n false)) :
    u.readElems g (u.fieldElems x n false) = (s.elemsVal (s.fieldElems x n false), u) := by
  obtain ⟨-, hquads, hwarp⟩ := id h
  have hes : u.fieldElems x n false = s.fieldElems x n false := by simp only [State.fieldElems, State.written_thread h]
  have hearly : ∀ e, u.elemEarly g e = s.elemEarly g e := fun e => by simp only [State.elemEarly, State.quad, hquads]
  rw [hes, State.readElems_ripe fun e he => (hearly e).trans (hripe e he), State.elemsVal_congr (s := s)]
  intro e _
  exact congrArg (fun w => w.elem e.2.1 e.2.2) (hwarp e.1).1

theorem State.cwrStep_written {s u : State} {g : Grp} {a : VReg} {r k : Nat} {sb nf : Nat → Bool}
    (h : s.written u sb nf fun k l => (s.thread k l).tepc) (hripe : s.ripe g (s.fieldElems (k, (g.lanesOf k).headD 0) a.toNat false))
    (hsb : sb k = (s.warp k).sbchk) (hnf : nf k = (s.warp k).nf) :
    let v := (s.elemsVal (s.fieldElems (k, (g.lanesOf k).headD 0) a.toNat false)).setWidth 32
    s.written (u.cwrStep g a r k) (fun j => if j = k then sbchkAfter (s.warp k) r v else sb j)
      (fun j => if j = k then nfAfter (s.warp k) r v else nf j) fun k l => (s.thread k l).tepc := by
  intro v
  simp only [State.cwrStep, State.written_reads h hripe]
  refine State.written_of_unplaced ?_ (State.settleRows_warpsOnly _ g _)
  obtain ⟨hrest, hquads, hwarp⟩ := h
  refine ⟨hrest, hquads, fun j => ?_⟩
  have hsb' : (u.warp k).sbchk = (s.warp k).sbchk := (congrArg Warp.sbchk (hwarp k).1).trans hsb
  have hnf' : (u.warp k).nf = (s.warp k).nf := (congrArg Warp.nf (hwarp k).1).trans hnf
  simp only [State.thread, State.warp_modWarp]
  by_cases hj : j = k
  · subst hj
    simp only [if_true, Warp.writeCreg_eq, sbchkAfter, nfAfter, hsb', hnf']
    refine ⟨?_, (hwarp j).2⟩
    exact congrArg (fun w => { w with sbchk := sbchkAfter (s.warp j) r v, nf := nfAfter (s.warp j) r v }) (hwarp j).1
  · simp only [if_neg hj]
    exact hwarp j

/-- Each warp of a list writes, with the value that its lowest active lane had at first. -/
theorem State.cwrSteps_written {s : State} {g : Grp} {a : VReg} {r : Nat} (v : Nat → Word) (ks : List Nat) (hnodup : ks.Nodup)
    (hripe : ∀ k ∈ ks, s.ripe g (s.fieldElems (k, (g.lanesOf k).headD 0) a.toNat false))
    (hv : ∀ k ∈ ks, (s.elemsVal (s.fieldElems (k, (g.lanesOf k).headD 0) a.toNat false)).setWidth 32 = v k)
    {u : State} {sb nf : Nat → Bool} (h : s.written u sb nf fun k l => (s.thread k l).tepc)
    (hold : ∀ k ∈ ks, sb k = (s.warp k).sbchk ∧ nf k = (s.warp k).nf) :
    s.written (ks.foldl (fun t k => t.cwrStep g a r k) u) (fun j => if j ∈ ks then sbchkAfter (s.warp j) r (v j) else sb j)
      (fun j => if j ∈ ks then nfAfter (s.warp j) r (v j) else nf j) fun k l => (s.thread k l).tepc := by
  induction ks generalizing u sb nf with
  | nil => exact h
  | cons k ks ih =>
    obtain ⟨hk, hnodup⟩ := List.nodup_cons.mp hnodup
    have hstep := State.cwrStep_written h (hripe k List.mem_cons_self) (hold k List.mem_cons_self).1 (hold k List.mem_cons_self).2 (r := r)
    simp only [hv k List.mem_cons_self] at hstep
    have hrest := ih hnodup (fun j hj => hripe j (List.mem_cons_of_mem _ hj)) (fun j hj => hv j (List.mem_cons_of_mem _ hj)) hstep fun j hj => by
      have hne : j ≠ k := fun e => hk (e ▸ hj)
      simp only [if_neg hne]
      exact hold j (List.mem_cons_of_mem _ hj)
    obtain ⟨hr, hq, hw⟩ := hrest
    refine ⟨hr, hq, fun j => ⟨(hw j).1.trans ?_, (hw j).2⟩⟩
    by_cases hj : j = k
    · subst hj
      simp only [if_neg hk, if_true, List.mem_cons_self]
    · simp only [List.mem_cons, hj, false_or, if_false]

theorem foldl_pair_append {α β γ : Type} (F : α → β → α) (G : β → List γ) (ks : List β) (t : α) (fs : List γ) :
    ks.foldl (fun (r : α × List γ) k => (F r.1 k, r.2 ++ G k)) (t, fs) = (ks.foldl F t, fs ++ ks.flatMap G) := by
  induction ks generalizing t fs with
  | nil => simp
  | cons k ks ih => simp only [List.foldl_cons, List.flatMap_cons, ih, List.append_assoc]

theorem nodup_eraseDups {α : Type} [BEq α] [LawfulBEq α] (l : List α) : l.eraseDups.Nodup := by
  induction h : l.length using Nat.strong_induction_on generalizing l with
  | _ n ih =>
    cases l with
    | nil => exact List.nodup_nil
    | cons a l =>
      rw [List.eraseDups_cons, List.nodup_cons]
      refine ⟨fun hmem => ?_, ih _ ?_ _ rfl⟩
      · have := List.mem_filter.mp (List.mem_eraseDups.mp hmem)
        simp at this
      · have := List.length_filter_le (fun b => !b == a) l
        rw [List.length_cons] at h
        omega

theorem Grp.mem_actWarps {g : Grp} {k : Nat} : k ∈ g.actWarps ↔ k ∈ g.acts.map Prod.fst := List.mem_eraseDups

/-- A warp with an active thread has a lowest active lane. -/
theorem Grp.lowest_mem {g : Grp} {k : Nat} (h : k ∈ g.actWarps) : (k, (g.lanesOf k).headD 0) ∈ g.acts := by
  obtain ⟨x, hx, rfl⟩ := List.mem_map.mp (Grp.mem_actWarps.mp h)
  have hmem : x.2 ∈ g.lanesOf x.1 := List.mem_map_of_mem (List.mem_filter.mpr ⟨hx, beq_self_eq_true _⟩)
  have hhead : (g.lanesOf x.1).headD 0 ∈ g.lanesOf x.1 := by
    cases h : g.lanesOf x.1 with
    | nil => rw [h] at hmem; exact absurd hmem List.not_mem_nil
    | cons l ls => exact List.mem_cons_self
  obtain ⟨y, hy, heq⟩ := List.mem_map.mp hhead
  obtain ⟨hy, hk⟩ := List.mem_filter.mp hy
  rw [← heq, ← beq_iff_eq.mp hk]
  exact hy

theorem State.written_refl (s : State) :
    s.written s (fun k => (s.warp k).sbchk) (fun k => (s.warp k).nf) fun k l => (s.thread k l).tepc :=
  ⟨rfl, rfl, fun _ => ⟨rfl, fun _ => rfl⟩⟩

/-- What one warp of a CWR to a warp register is to do: wait, fault, or go on. -/
def cwrPlan (a : VReg) (g : Grp) (s : State) (k : Nat) : Fate :=
  match s.elemsWhy (s.warpElems g k a.toNat) with
  | some w => .lock w
  | none => match s.elemsFault g (s.fieldElems (k, (g.lanesOf k).headD 0) a.toNat false) (s.warpElems g k a.toNat) with
    | some f => .fault f g.pc
    | none => .done g.next

theorem cwrWarp_eq (c : Ctl) (a : VReg) (r : Nat) (s : State) :
    cwrWarp c a r s = issue c 1 s fun g s => runWarps g s (cwrPlan a g) fun s k => (s.cwrStep g a r k, g.all k (.done g.next)) := rfl

/-- CWR of a register of the warp: once for each warp, from its lowest active lane (R391). -/
theorem cwrWarp_written {c : Ctl} {a : VReg} {r : Nat} {s : State} {g : Grp} (h : s.issues c 1 g)
    (ho : ∀ x ∈ g.acts, s.open g (s.fieldElems x a.toNat false) []) :
    let v := fun k => (s.elemsVal (s.fieldElems (k, (g.lanesOf k).headD 0) a.toNat false)).setWidth 32
    ∃ u t, cwrWarp c a r s = .next t ∧ u.still t ∧ u.passed t g (fun _ => g.next)
      ∧ s.written u (fun k => if k ∈ g.actWarps then sbchkAfter (s.warp k) r (v k) else (s.warp k).sbchk)
        (fun k => if k ∈ g.actWarps then nfAfter (s.warp k) r (v k) else (s.warp k).nf) fun k l => (s.thread k l).tepc := by
  intro v
  obtain ⟨-, -, -, -, -, hissuing⟩ := State.group_some h.1
  have helems : ∀ k, s.warpElems g k a.toNat = (g.acts.filter (·.1 == k)).flatMap fun x => s.fieldElems (k, x.2) a.toNat false := fun k => by
    rw [State.warpElems, Grp.lanesOf, List.flatMap_map]
  have hmem : ∀ k, ∀ e ∈ s.warpElems g k a.toNat, ∃ x ∈ g.acts, e ∈ s.fieldElems x a.toNat false := by
    intro k e he
    rw [helems] at he
    obtain ⟨x, hx, he⟩ := List.mem_flatMap.mp he
    obtain ⟨hx, hk⟩ := List.mem_filter.mp hx
    exact ⟨x, hx, by rwa [← beq_iff_eq.mp hk] at he⟩
  have hcalm : ∀ k, s.calm (s.warpElems g k a.toNat) := fun k e he => by
    obtain ⟨x, hx, he⟩ := hmem k e he
    exact (ho x hx).1 e (by rwa [List.append_nil])
  have hripe : ∀ k ∈ g.actWarps, s.ripe g (s.fieldElems (k, (g.lanesOf k).headD 0) a.toNat false) := fun k hk => (ho _ (Grp.lowest_mem hk)).2.1
  have hfine : ∀ k ∈ g.actWarps,
      s.elemsFault g (s.fieldElems (k, (g.lanesOf k).headD 0) a.toNat false) (s.warpElems g k a.toNat) = none := fun k hk => by
    refine State.elemsFault_open ⟨fun e he => ?_, hripe k hk, fun e he => ?_⟩
    all_goals rcases List.mem_append.mp he with he | he
    · exact (ho _ (Grp.lowest_mem hk)).1 e (by rwa [List.append_nil])
    · exact hcalm k e he
    · exact (ho _ (Grp.lowest_mem hk)).2.2 e (by rwa [List.append_nil])
    · obtain ⟨x, hx, he⟩ := hmem k e he
      exact (ho x hx).2.2 e (by rwa [List.append_nil])
  have hwritten := State.cwrSteps_written (r := r) v g.actWarps (nodup_eraseDups _) hripe (fun _ _ => rfl) s.written_refl fun _ _ => ⟨rfl, rfl⟩
  have hplan : ∀ k ∈ g.actWarps, cwrPlan a g s k = .done g.next := fun k hk => by
    unfold cwrPlan
    rw [State.elemsWhy_calm (hcalm k), hfine k hk]
  have hrun : runWarps g s (cwrPlan a g) (fun s k => (s.cwrStep g a r k, g.all k (.done g.next)))
      = (g.actWarps.foldl (fun t k => t.cwrStep g a r k) s,
        (g.actWarps.flatMap fun k => g.acts.filter (·.1 == k)).map fun x => (x, Fate.done g.next)) := by
    rw [runWarps_done fun k hk => ⟨g.next, hplan k hk⟩, List.map_flatMap]
    exact foldl_pair_append (fun t k => State.cwrStep t g a r k) (fun k => g.all k (.done g.next)) _ _ _
  have hacts : ∀ x, x ∈ (g.actWarps.flatMap fun k => g.acts.filter (·.1 == k)) ↔ x ∈ g.acts := by
    intro x
    constructor
    · intro hx
      obtain ⟨k, -, hx⟩ := List.mem_flatMap.mp hx
      exact (List.mem_filter.mp hx).1
    · intro hx
      exact List.mem_flatMap.mpr ⟨x.1, Grp.mem_actWarps.mpr (List.mem_map_of_mem hx), List.mem_filter.mpr ⟨hx, beq_self_eq_true _⟩⟩
  obtain ⟨t, hexec, hstill, hpassed⟩ := issue_passes
    (body := fun g s => runWarps g s (cwrPlan a g) fun s k => (s.cwrStep g a r k, g.all k (.done g.next))) (fun _ => g.next) _ h hrun hacts
    fun x hx => by rw [State.written_thread hwritten]; exact hissuing x hx
  exact ⟨_, t, (cwrWarp_eq c a r s).trans hexec, hstill, hpassed, hwritten⟩

-- A register of the thread ----------------------------------------------------------------------------------------------

/-- TEPC after a write of v to register r. -/
def tepcAfter (x : Thread) (r : Nat) (v : Word) : DWord :=
  if x.tmode = true ∧ r = 0x100 then x.tepc.extractLsb' 32 32 ++ v
  else if x.tmode = true ∧ r = 0x101 then v ++ x.tepc.extractLsb' 0 32 else x.tepc

theorem Thread.writeCreg_eq (x : Thread) (r : Nat) (v : Word) : x.writeCreg r v = { x with tepc := tepcAfter x r v } := by
  unfold Thread.writeCreg
  split
  · next h =>
    have hoff : ¬ x.tmode = true := by simpa using h
    rw [tepcAfter, if_neg fun e => hoff e.1, if_neg fun e => hoff e.1]
  · next h =>
    have hon : x.tmode = true := by simpa using h
    split
    · rw [tepcAfter, if_pos ⟨hon, rfl⟩]
    · rw [tepcAfter, if_neg (by simp), if_pos ⟨hon, rfl⟩]
    · next hlow hhigh => rw [tepcAfter, if_neg fun e => hlow e.2, if_neg fun e => hhigh e.2]

theorem tepcAfter_toNat (x : Thread) (r : Nat) (v : Word) : (tepcAfter x r v).toNat
    = if x.tmode = true ∧ r = 0x100 then x.tepc.toNat / 2 ^ 32 * 2 ^ 32 + v.toNat
      else if x.tmode = true ∧ r = 0x101 then v.toNat * 2 ^ 32 + x.tepc.toNat % 2 ^ 32 else x.tepc.toNat := by
  have htepc := x.tepc.isLt
  have hv := v.isLt
  have happend : ∀ y z : Word, (y ++ z).toNat = y.toNat * 2 ^ 32 + z.toNat := fun y z => by
    rw [BitVec.toNat_append, ← Nat.shiftLeft_add_eq_or_of_lt z.isLt, Nat.shiftLeft_eq]
  unfold tepcAfter
  split
  · rw [happend, BitVec.extractLsb'_toNat, Nat.shiftRight_eq_div_pow, Nat.mod_eq_of_lt (by omega)]
  · split
    · rw [happend, BitVec.extractLsb'_toNat, Nat.shiftRight_zero]
    · rfl

/-- Threads of a list write one after another. -/
theorem State.foldl_writeCreg {s : State} {r : Nat} (v : Nat × Nat → Word) (l : List (Nat × Nat)) (hnodup : l.Nodup) :
    s.written (l.foldl (fun t x => t.modThread x.1 x.2 fun y => y.writeCreg r (v x)) s) (fun k => (s.warp k).sbchk) (fun k => (s.warp k).nf)
      fun k i => if (k, i) ∈ l then tepcAfter (s.thread k i) r (v (k, i)) else (s.thread k i).tepc := by
  induction l using List.reverseRecOn with
  | nil => exact s.written_refl
  | append_singleton l x ih =>
    obtain ⟨j, n⟩ := x
    obtain ⟨hnodup, -, hdisj⟩ := List.nodup_append.mp hnodup
    obtain ⟨hrest, hquads, hwarp⟩ := ih hnodup
    have hx : (j, n) ∉ l := fun h => hdisj _ h _ List.mem_cons_self rfl
    rw [List.foldl_concat]
    refine ⟨hrest, hquads, fun k => ⟨?warp, fun i => ?thread⟩⟩
    case warp =>
      refine Eq.trans ?_ (hwarp k).1
      rw [State.modThread, State.warp_modWarp]
      split
      · next e => rw [e]; rfl
      · rfl
    case thread =>
      simp only [State.thread_modThread, List.mem_append, List.mem_singleton, Prod.mk.injEq]
      split
      · next e =>
        obtain ⟨rfl, rfl⟩ := e
        rw [(hwarp k).2, Thread.writeCreg_eq]
        simp only [hx, and_self, or_true, if_false, if_true]
      · next e =>
        simp only [e, or_false]
        exact (hwarp k).2 i

/-- CWR of any other register: each thread writes its own (R391). -/
theorem cwrThread_written {c : Ctl} {a : VReg} {r : Nat} {s : State} {g : Grp} (h : s.issues c 1 g)
    (ho : ∀ x ∈ g.acts, s.open g (s.fieldElems x a.toNat false) []) :
    let v := fun x => (s.elemsVal (s.fieldElems x a.toNat false)).setWidth 32
    ∃ u t, cwrThread c a r s = .next t ∧ u.still t ∧ u.passed t g (fun _ => g.next)
      ∧ s.written u (fun k => (s.warp k).sbchk) (fun k => (s.warp k).nf)
        fun k i => if (k, i) ∈ g.acts then tepcAfter (s.thread k i) r (v (k, i)) else (s.thread k i).tepc := by
  intro v
  obtain ⟨-, -, -, -, -, hissuing⟩ := State.group_some h.1
  have hopen : ∀ x ∈ g.acts, s.open g ([own a].flatMap (s.rdElems g x)) (s.wrElems x none) := fun x hx => by
    rw [List.flatMap_singleton]
    exact ho x hx
  have hwait : s.interlocks g (fun t => s.rdElems g t (own a)) = none :=
    State.interlocks_calm fun x hx e he => (ho x hx).1 e (List.mem_append_left _ he)
  have hfold : ∀ (l : List (Nat × Nat)) (t : State),
      (l.map fun x => (x, ({ val := vd ([own a].map (s.source g x)) 0 } : Res))).foldl (fun t x =>
        if x.2.fault.isNone then t.modThread x.1.1 x.1.2 (fun y => y.writeCreg r (x.2.val.setWidth 32)) else t) t
      = l.foldl (fun t x => t.modThread x.1 x.2 fun y => y.writeCreg r (v x)) t := by
    intro l
    induction l with
    | nil => exact fun _ => rfl
    | cons x l ih => exact fun t => ih _
  have hwritten := State.foldl_writeCreg (s := s) (r := r) v g.acts (List.Nodup.of_map _ h.2.1)
  generalize hu : g.acts.foldl (fun t x => t.modThread x.1 x.2 fun y => y.writeCreg r (v x)) s = u at hwritten
  replace hwritten := State.written_of_unplaced hwritten (State.settleRows_warpsOnly u g (g.acts.flatMap fun t => u.rdElems g t (own a)))
  obtain ⟨-, hset, -⟩ := State.group_some h.1
  obtain ⟨hstill, hpassed⟩ := State.finish_done (g := g) (fun _ => g.next) hset (fun x hx => (h.2.2 x hx).1) fun x hx => by
    rw [(hwritten.2.2 x.1).2]
    exact hissuing x hx
  refine ⟨_, _, (issue_eq h _).trans ?_, hstill, hpassed, hwritten⟩
  simp only [interlocked, hwait, State.evalAll_open hopen, hfold, hu, List.map_map]
  rfl

/-- CRD: the value of its table is pending into d of each active thread (R391). -/
theorem crd_promises {c : Ctl} {d : VReg} {r : BitVec 14} {s : State} {g : Grp} (h : s.issues c 1 g)
    (ho : ∀ x ∈ g.acts, s.open g [] (s.wrElems x (some { n := d.toNat }))) :
    ∃ t, exec (.crd c d r) s = .next t ∧ s.promises t g { n := d.toNat } (fun a => BitVec.ofNat 64 (((s.cregTable a).lookup r.toNat).getD 0))
      ∧ s.flagsAre t g.acts (fun _ => false) 0 :=
  lateOp_promises (rds := []) (f := fun _ s a _ => { val := BitVec.ofNat 64 (s.creg a.1 a.2 r.toNat) }) h ho fun x _ => by
    rw [State.creg_eq_lookup]

-- The obligation --------------------------------------------------------------------------------------------------------

/-- Settles O13: CRD's function is the statement's table, case by case; CWR writes warp by warp, or thread by thread, and what it reads is
what stood there at issue. -/
theorem controlRegisters : Obligations.ControlRegisters := by
  unfold Obligations.ControlRegisters
  constructor
  · intro c d r s g h ho table
    exact crd_promises h ho
  · intro c a r s g h ho v low
    have hof : ∀ n : Nat, n < 2 ^ 14 → (r = BitVec.ofNat 14 n ↔ r.toNat = n) := fun n hn => by
      rw [← BitVec.toNat_inj, BitVec.toNat_ofNat, Nat.mod_eq_of_lt hn]
    have h00C : r = 0x00C ↔ r.toNat = 0x00C := hof 0x00C (by decide)
    have h010 : r = 0x010 ↔ r.toNat = 0x010 := hof 0x010 (by decide)
    have h100 : r = 0x100 ↔ r.toNat = 0x100 := hof 0x100 (by decide)
    have h101 : r = 0x101 ↔ r.toNat = 0x101 := hof 0x101 (by decide)
    simp only [h00C, h010, h100, h101]
    by_cases hw : cregOfWarp r.toNat = true
    · obtain ⟨u, t, hexec, hstill, hpassed, hwritten⟩ := cwrWarp_written (r := r.toNat) h ho
      obtain ⟨hpassed, hkeeps, hwarp, htepc⟩ := State.written_finish hwritten hstill hpassed fun _ _ _ => rfl
      have hnot : r.toNat ≠ 0x100 ∧ r.toNat ≠ 0x101 := by
        constructor <;> (intro e; rw [e] at hw; exact absurd hw (by decide))
      refine ⟨t, (if_pos hw).trans hexec, hpassed, hkeeps, fun k => ⟨?_, ?_⟩, fun k l => ?_⟩
      · rw [(hwarp k).1]
        simp only [Grp.mem_actWarps, sbchkAfter, ← ite_and, and_comm]
        rfl
      · rw [(hwarp k).2]
        simp only [Grp.mem_actWarps, nfAfter, ← ite_and, and_comm]
        rfl
      · rw [htepc, if_neg fun e => hnot.1 e.2.2, if_neg fun e => hnot.2 e.2.2]
    · obtain ⟨u, t, hexec, hstill, hpassed, hwritten⟩ := cwrThread_written (r := r.toNat) h ho
      obtain ⟨hpassed, hkeeps, hwarp, htepc⟩ := State.written_finish hwritten hstill hpassed fun k l hk => if_neg hk
      have hnot : r.toNat ≠ 0x00C ∧ r.toNat ≠ 0x010 := by
        constructor <;> (intro e; rw [e] at hw; exact hw (by decide))
      refine ⟨t, (if_neg hw).trans hexec, hpassed, hkeeps, fun k => ⟨?_, ?_⟩, fun k l => ?_⟩
      · rw [(hwarp k).1, if_neg fun e => hnot.1 e.1]
      · rw [(hwarp k).2, if_neg fun e => hnot.2 e.1]
      · rw [htepc]
        by_cases hk : (k, l) ∈ g.acts
        · simp only [hk, if_true, true_and, tepcAfter_toNat, v]
        · simp only [hk, if_false, false_and]

end Sys2Proof.Machine
end

section
/-! SUPPORT. Why a line that STL stores is not always all that changes: the store notes its access to an extended row, which may move the
row's block to the overflow area (R108), and a block there holds undefined values once software writes to that area (R381). -/
namespace Sys2Proof.Machine

-- Tables ----------------------------------------------------------------------------------------------------------------

theorem Table.get_foldl_set {α : Type} [Inhabited α] [DecidableEq α] (f : Nat → α) (ks : List Nat) (t : Table α) (k : Nat) :
    Table.get (ks.foldl (fun t k => Table.set t k (f k)) t) k = if k ∈ ks then f k else Table.get t k := by
  induction ks generalizing t with
  | nil => rfl
  | cons j ks ih =>
    rw [List.foldl_cons, ih, Table.get_set]
    by_cases hj : k = j
    · simp [hj]
    · simp [hj]

theorem Table.get_map {α : Type} [Inhabited α] (f : Nat → α → α) {t : Table α} {k : Nat} (h : k ∈ Table.keys t) :
    Table.get (Table.map t f) k = f k (Table.get t k) := by
  induction t with
  | nil => exact absurd h List.not_mem_nil
  | cons e t ih =>
    rw [Table.map, List.map_cons, Table.get, Table.get]
    by_cases he : e.1 = k
    · rw [if_pos he, if_pos he, he]
    · rw [if_neg he, if_neg he]
      exact ih ((List.mem_cons.mp h).resolve_left fun e' => he e'.symm)

theorem Table.keys_map {α : Type} (f : Nat → α → α) (t : Table α) : Table.keys (Table.map t f) = Table.keys t := by
  simp only [Table.keys, Table.map, List.map_map, Function.comp_def]

-- What a store does to blocks in the overflow area (R381) -----------------------------------------------------------------

/-- The scale shadow that the row of a torn block has. -/
def tornShadow (v row : Nat) : DWord := BitVec.ofNat 64 (fld v (1100 * row + 1032) 64)

theorem Warp.spoilMoved_shadow {w : Warp} {b row : Nat} (v : Nat) (hb : b < 8) (hmoved : w.xmoved.getLsbD b = true)
    (hrow : 64 + 32 * b ≤ row ∧ row < 96 + 32 * b) : (w.spoilMoved v).shadows.get row = tornShadow v row := by
  have hmem : row ∈ ((List.range 8).filter fun k => w.xmoved.getLsbD k).flatMap fun k => (List.range 32).map (64 + 32 * k + ·) :=
    List.mem_flatMap.mpr ⟨b, List.mem_filter.mpr ⟨List.mem_range.mpr hb, hmoved⟩,
      List.mem_map.mpr ⟨row - (64 + 32 * b), List.mem_range.mpr (by omega), by omega⟩⟩
  exact (Table.get_foldl_set (tornShadow v) _ _ _).trans (if_pos hmem)

/-- A warp has a block in the overflow area, whose slab meets [lo, hi). -/
def State.slabHit (s : State) (lo hi k : Nat) : Bool :=
  (s.warp k).xmoved != 0 && (decide (s.overflowSlab (s.ctxOf k) (coreOf k) < hi) && decide (lo < s.overflowSlab (s.ctxOf k) (coreOf k) + 2 ^ 20))

theorem Table.any_of_get {α : Type} [Inhabited α] {p : Nat × α → Bool} {t : Table α} {k : Nat} (hk : k ∈ Table.keys t)
    (h : p (k, Table.get t k) = true) : List.any t p = true := by
  induction t with
  | nil => exact absurd hk List.not_mem_nil
  | cons e t ih =>
    rw [List.any_cons, Bool.or_eq_true]
    rw [Table.get] at h
    by_cases he : e.1 = k
    · rw [if_pos he, ← he] at h
      exact .inl h
    · rw [if_neg he] at h
      exact .inr (ih ((List.mem_cons.mp hk).resolve_left fun e' => he e'.symm) h)

theorem State.tearFrames_shadow {s : State} {lo hi k b row : Nat} (hk : k ∈ s.warps.keys) (hhit : s.slabHit lo hi k = true) (hb : b < 8)
    (hmoved : (s.warp k).xmoved.getLsbD b = true) (hrow : 64 + 32 * b ≤ row ∧ row < 96 + 32 * b) :
    ((s.tearFrames lo hi).warp k).shadows.get row = tornShadow (Config.freeValue s.fresh) row := by
  have hspoilt : ((s.warps.map fun k w =>
      if w.xmoved != 0 && (decide (s.overflowSlab (s.ctxOf k) (coreOf k) < hi) && decide (lo < s.overflowSlab (s.ctxOf k) (coreOf k) + 2 ^ 20))
      then w.spoilMoved s.free.1 else w).get k) = (s.warp k).spoilMoved s.free.1 := by
    rw [Table.get_map _ hk]
    exact if_pos hhit
  have hany : s.warps.any (fun e => e.2.xmoved != 0
      && (decide (s.overflowSlab (s.ctxOf e.1) (coreOf e.1) < hi) && decide (lo < s.overflowSlab (s.ctxOf e.1) (coreOf e.1) + 2 ^ 20))) = true :=
    Table.any_of_get hk hhit
  have hshadow := Warp.spoilMoved_shadow s.free.1 hb hmoved hrow
  unfold State.tearFrames
  dsimp only
  rw [if_pos hany]
  split
  · simp only [State.warp]
    rw [Table.get_map _ (by rw [Table.keys_map]; exact hk)]
    split
    · exact (congrArg (fun w : Warp => w.shadows.get row) hspoilt).trans hshadow
    · exact (congrArg (fun w : Warp => w.shadows.get row) hspoilt).trans hshadow
  · exact (congrArg (fun w : Warp => w.shadows.get row) hspoilt).trans hshadow

theorem State.spoilKept_of_unsealed {s : State} {lo hi : Nat} (h : (s.tearFrames lo hi).sealedKv = []) :
    s.spoilKept lo hi = s.tearFrames lo hi := by
  unfold State.spoilKept
  simp only [h]
  rfl

/-- Memory written for a line, before what the device keeps there is torn. -/
def State.lineWritten (s : State) (pa : Nat) (l : Line) : State := (s.putLine (pa / 128) l).kvWrote s pa (pa + 128)

theorem State.storeLine_shadow {s : State} {core pa k b row : Nat} {l : Line} (hk : k ∈ (s.lineWritten pa l).warps.keys)
    (hhit : (s.lineWritten pa l).slabHit pa (pa + 128) k = true) (hb : b < 8) (hmoved : ((s.lineWritten pa l).warp k).xmoved.getLsbD b = true)
    (hrow : 64 + 32 * b ≤ row ∧ row < 96 + 32 * b) (hkv : ((s.lineWritten pa l).tearFrames pa (pa + 128)).sealedKv = []) :
    ((s.storeLine core pa l).warp k).shadows.get row = tornShadow (Config.freeValue (s.lineWritten pa l).fresh) row := by
  rw [← State.tearFrames_shadow hk hhit hb hmoved hrow, ← State.spoilKept_of_unsealed hkv, State.storeLine]
  split <;> rfl

-- A line stored by a warp of one thread ---------------------------------------------------------------------------------

/-- A warp-whole instruction of a warp with one live thread, which completes. -/
theorem wholeBody_alone {plan : Grp → State → Nat → List Nat → Fate} {run : Grp → State → Nat → List Nat → State × Option PFault} {g : Grp}
    {s u : State} {k l : Nat} (hacts : g.acts = [(k, l)]) (hmode : (s.thread k l).tmode = false) (hlanes : (s.warp k).liveLanes = [l])
    (hplan : plan g s k [l] = .done g.next) (hrun : run g s k [l] = (u, none)) :
    wholeBody plan run g s = (u, [((k, l), .done g.next)]) := by
  have hfree : g.acts.filter (fun a => !(s.thread a.1 a.2).tmode) = g.acts := by rw [hacts, List.filter_singleton, hmode]; rfl
  have hgroup : ({ g with acts := g.acts.filter (fun a => !(s.thread a.1 a.2).tmode) } : Grp) = g := by rw [hfree]
  have htraps : g.acts.filter (fun a => (s.thread a.1 a.2).tmode) = [] := by rw [hacts, List.filter_singleton, hmode]; rfl
  have hgather : s.gatherLanes g k = [l] := by
    rw [State.gatherLanes, hlanes, hacts]
    simp
  have hgathered : s.gathered g k = true := by
    rw [State.gathered, hgather, hacts]
    simp
  have hwarps : g.actWarps = [k] := by rw [Grp.actWarps, hacts]; rfl
  have hall : ∀ f, g.all k f = [((k, l), f)] := fun f => by rw [Grp.all, hacts]; simp
  have hkept : s.keptBack g [((k, l), Fate.done g.next)] = none :=
    State.keptBack_done fun e he => ⟨g.next, by rw [List.mem_singleton.mp he]⟩
  have hrest : s.faultRest g [((k, l), Fate.done g.next)] = [] := by
    rw [State.faultRest, hwarps]
    simp
  have hdone : u.wholeFate g k [l] (.done g.next) = (u, [((k, l), .done g.next)]) := by
    rw [State.wholeFate, hacts]
    simp
  unfold wholeBody
  simp only [hgroup, htraps, hwarps, List.map_cons, List.map_nil, hplan, hgathered, Bool.or_true, if_true, List.flatMap_cons, List.flatMap_nil, hall, List.append_nil,
    List.nil_append, hkept, hrest, List.foldl_cons, List.foldl_nil, hgather, hrun, hdone]

/-- The row that a store of a line reads, with its tag and scale shadow. -/
def State.stlLine (s : State) (g : Grp) (k : Nat) (lanes : List Nat) (d : VReg) : Line :=
  let r := (s.drainLanes k lanes).readRow g k (s.lineRow k lanes d)
  { data := lineOfWords (r.1.map BitVec.toNat), tag := (r.2.warp k).tags.get (s.lineRow k lanes d)
    scales := (r.2.warp k).shadows.get (s.lineRow k lanes d) }

/-- The row is read and the access to it noted: what the store's own access then starts from. -/
def State.stlReady (s : State) (g : Grp) (k : Nat) (lanes : List Nat) (d a : VReg) : State :=
  let u := ((s.drainLanes k lanes).readRow g k (s.lineRow k lanes d)).2
  u.settleRows g (u.lineAddrElems k lanes a ++ rowElems k [s.lineRow k lanes d])

theorem exec_stl_alone {c : Ctl} {strm : Bool} {d a : VReg} {s : State} {g : Grp} {k l pa mt : Nat} {x : Acc} (h : s.issues c 1 g)
    (hacts : g.acts = [(k, l)]) (hmode : (s.thread k l).tmode = false) (hlanes : (s.warp k).liveLanes = [l])
    (hplan : linePlan d a true .plain g s k [l] = .done g.next)
    (hearly : ((((s.drainLanes k [l]).readRow g k (s.lineRow k [l] d)).2).lineAddrElems k [l] a).any
      ((s.stlReady g k [l] d a).elemEarly g) = false)
    (hck : (s.stlReady g k [l] d a).lineCk k [l] a true = .ok x)
    (hrep : ((s.stlReady g k [l] d a).fill k l x.tr).repeatableOf k = false) (ht : x.t = .mem pa mt) :
    exec (.stl c .plain strm d a) s
      = .next (((((s.stlReady g k [l] d a).fill k l x.tr).storeLine (coreOf k) pa (s.stlLine g k [l] d)).publish k false pa 128 .plain).finish g
          [((k, l), .done g.next)]) := by
  change execStl c .plain strm d a s = _
  rw [execStl, wholeStore, issue_eq h]
  simp only [if_true]
  rw [wholeBody_alone hacts hmode hlanes hplan]
  simp only [State.stlReady] at hearly hck hrep
  simp only [hearly, hck, State.storeRow, Bool.false_eq_true, if_false, List.headD_cons, hrep, ht]
  rfl

-- The counterexample --------------------------------------------------------------------------------------------------------

/-- A page of 64 KB at the overflow area of core 0, with V, W, X, A and D. -/
def slabTrans : Trans := { placedTrans with leaf := 0x1018C3 }

/-- A warp of one thread whose quadrant has lost so many rows that its extended block no longer fits the file. The row at hand is the first of
the block, of 0 with a scale shadow, and v8 and v9 hold the address of the page. -/
def overfull (shadow : DWord) : State :=
  let s := State.reset.placeThread
  { s with
    focus := 0
    ctxs := s.ctxs.modify 1 fun c => { c with cb := setFld c.cb 0 64 0x800000 }
    warps := s.warps.modify 0 fun w => { w with
      xheld := 1, vreg := [(32 * 8, 0x10000)], shadows := Table.set [] 64 shadow
      threads := [(0, { (default : Thread) with pc := 0x10000, wb := 64, st := .issuing })] }
    quads := s.quads.modify 0 fun q => { q with lost := 1965 }
    clusters := s.clusters.modify 0 fun c => { c with tlb := [slabTrans] } }

def slabGrp : Grp := ⟨0, [(0, 0)], [(0, 0)], 0x10000, 1, ⟨false, 0⟩, 0⟩

def slabAcc : Acc := ⟨0x10000, .mem 0x100000 0, slabTrans⟩

/-- The statement's hypotheses hold of it. -/
theorem overfull_issues {v : DWord} (hv : v = 0 ∨ v = 1) : let s := overfull v
    s.issues ⟨false, 0⟩ 1 slabGrp ∧ s.whole slabGrp 0 ∧ (∀ x ∈ slabGrp.acts, s.quiet x) := by
  simp only [State.issues, State.whole, State.quiet]
  rcases hv with rfl | rfl <;> decide +kernel

theorem overfull_open {v : DWord} (hv : v = 0 ∨ v = 1) : let s := overfull v
    s.open slabGrp (s.fieldElems (0, (s.warp 0).liveLanes.headD 0) (8 : VReg).toNat true) [] ∧ s.rowsOpen slabGrp 0 [s.rowAt 0 (16 : VReg).toNat] []
    ∧ s.access (.lane 0 ((s.warp 0).liveLanes.headD 0)) (s.ctxOf 0) 128
      (s.elemsVal (s.fieldElems (0, (s.warp 0).liveLanes.headD 0) (8 : VReg).toNat true)) lineStoreKind = .ok slabAcc
    ∧ s.repeatableOf 0 = false ∧ s.unwatched (0x100000 / 128 * 128) 128 ∧ s.unkept 0x100000 128 := by
  simp only [State.rowsOpen, State.open, State.calm, State.ripe, State.unwatched, State.unkept, State.untabled]
  rcases hv with rfl | rfl <;> decide +kernel

theorem overfull_plan {v : DWord} (hv : v = 0 ∨ v = 1) : let s := overfull v
    (s.thread 0 0).tmode = false ∧ (s.warp 0).liveLanes = [0] ∧ linePlan 16 8 true .plain slabGrp s 0 [0] = .done slabGrp.next := by
  rcases hv with rfl | rfl <;> decide +kernel

/-- Its state as the line is stored. -/
def overfullReady (v : DWord) : State := ((overfull v).stlReady slabGrp 0 [0] 16 8).fill 0 0 slabTrans

theorem overfull_ready {v : DWord} (hv : v = 0 ∨ v = 1) : let s := overfull v
    ((((s.drainLanes 0 [0]).readRow slabGrp 0 (s.lineRow 0 [0] 16)).2).lineAddrElems 0 [0] 8).any
      ((s.stlReady slabGrp 0 [0] 16 8).elemEarly slabGrp) = false
    ∧ (s.stlReady slabGrp 0 [0] 16 8).lineCk 0 [0] 8 true = .ok slabAcc ∧ (overfullReady v).repeatableOf 0 = false := by
  rcases hv with rfl | rfl <;> decide +kernel

/-- The block has moved, its slab is hit, and no free value has been used. -/
theorem overfull_torn {v : DWord} (hv : v = 0 ∨ v = 1) :
    let u := (overfullReady v).lineWritten 0x100000 ((overfull v).stlLine slabGrp 0 [0] 16)
    0 ∈ u.warps.keys ∧ u.slabHit 0x100000 (0x100000 + 128) 0 = true ∧ (u.warp 0).xmoved.getLsbD 0 = true ∧ u.fresh = 0
    ∧ (u.tearFrames 0x100000 (0x100000 + 128)).sealedKv = [] := by
  rcases hv with rfl | rfl <;> decide +kernel

theorem overfull_issuing {v : DWord} (hv : v = 0 ∨ v = 1) :
    ((((overfullReady v).storeLine (coreOf 0) 0x100000 ((overfull v).stlLine slabGrp 0 [0] 16)).publish 0 false 0x100000 128 .plain).thread 0 0).st
      = .issuing := by
  rcases hv with rfl | rfl <;> decide +kernel

theorem overfull_shadow {v : DWord} (hv : v = 0 ∨ v = 1) : ((overfull v).warp 0).shadows.get 64 = v := by
  rcases hv with rfl | rfl <;> decide +kernel

/-- STL in `overfull v` leaves a shadow that does not depend on v. -/
theorem exec_stl_overfull {v : DWord} (hv : v = 0 ∨ v = 1) :
    ∃ t, exec (.stl ⟨false, 0⟩ .plain false 16 8) (overfull v) = .next t
      ∧ (t.warp 0).shadows.get 64 = tornShadow (Config.freeValue 0) 64 := by
  obtain ⟨hissues, -, -⟩ := overfull_issues hv
  obtain ⟨hmode, hlanes, hplan⟩ := overfull_plan hv
  obtain ⟨hearly, hck, hrep⟩ := overfull_ready hv
  obtain ⟨hkey, hhit, hmoved, hfresh, hkv⟩ := overfull_torn hv
  have hexec := exec_stl_alone (strm := false) hissues rfl hmode hlanes hplan hearly hck hrep rfl
  change _ = Host.Outcome.next ((((overfullReady v).storeLine (coreOf 0) 0x100000 ((overfull v).stlLine slabGrp 0 [0] 16)).publish
    0 false 0x100000 128 .plain).finish slabGrp [((0, 0), .done slabGrp.next)]) at hexec
  have hissuing := overfull_issuing hv
  have hstored := State.storeLine_shadow (core := coreOf 0) hkey hhit (by decide) hmoved (row := 64) (by decide) hkv
  rw [hfresh] at hstored
  generalize (overfullReady v).storeLine (coreOf 0) 0x100000 ((overfull v).stlLine slabGrp 0 [0] 16) = u at hexec hissuing hstored
  obtain ⟨⟨-, -, hwarp⟩, -⟩ := State.finish_done (s := u.publish 0 false 0x100000 128 .plain) (g := slabGrp) (fun _ => slabGrp.next) rfl
    (by decide) fun a ha => by rw [List.mem_singleton.mp ha]; exact hissuing
  have hpublished : (u.publish 0 false 0x100000 128 .plain).warp 0 = u.warp 0 := by
    rw [State.publish, State.publishAs]
    split <;> rfl
  refine ⟨_, hexec, ?_⟩
  rw [← hstored, ← hpublished]
  have hsame := congrArg (fun w : Warp => w.shadows.get 64) (hwarp 0).1
  exact hsame

/-- Refutes O25: in `overfull v`, STL to a page in the overflow area first moves the block of its row there, since the quadrant's file cannot hold
it, and then tears it. The row's shadow afterwards is the same for v = 0 and for v = 1, so it is not what it was in both. It turns on a file
that is too full before the store and on a page over the area; the statement excludes only blocks that were in the area before. -/
theorem not_lineAccess : ¬ Obligations.LineAccess := by
  unfold Obligations.LineAccess
  intro h
  obtain ⟨hline, -⟩ := h
  have hkept : ∀ v : DWord, v = 0 ∨ v = 1 → v = tornShadow (Config.freeValue 0) 64 := by
    intro v hv
    obtain ⟨hissues, hwhole, hquiet⟩ := overfull_issues hv
    obtain ⟨hopen, hrows, haccess, hrep, hunwatched, hunkept⟩ := overfull_open hv
    obtain ⟨-, hstl⟩ := hline ⟨false, 0⟩ .plain false 16 8 (overfull v) slabGrp 0 slabAcc 0x100000 0 hissues hwhole hquiet rfl
    obtain ⟨t, hexec, ⟨⟨-, -, -, -, -, -, -, hwarp⟩, -⟩, -⟩ := hstl hopen hrows haccess hrep hunwatched hunkept
    obtain ⟨u, hexec', htorn⟩ := exec_stl_overfull hv
    obtain rfl : t = u := Host.Outcome.next.inj (hexec.symm.trans hexec')
    have hsame := congrArg (fun w : Warp => w.shadows.get 64) (hwarp 0).1
    exact (overfull_shadow hv).symm.trans (hsame.symm.trans htorn)
  exact absurd ((hkept 0 (.inl rfl)).trans (hkept 1 (.inr rfl)).symm) (by decide)

end Sys2Proof.Machine
end

section
/-! SUPPORT. Encoding and decoding agree (R59 to R79). A field of a word is the field of the part of the word it lies in; a code of a table is
read as what it stands for; so a group reads as the instruction it was written for, and the words of a group are split into that group
again. -/
namespace Sys2Proof

-- Fields ---------------------------------------------------------------------------------------------------------------

-- `no_index` lets `simp` meet a width that is written as one numeral, such as the 32 of a word.

@[simp] theorem num_eq_bits {w : Nat} (x : BitVec w) (lo n : Nat) : num x lo n = (bits x lo n).toNat := rfl
@[simp] theorem bits_self {n : Nat} (x : BitVec n) : bits x 0 n = x := BitVec.extractLsb'_eq_self
@[simp] theorem bits_append_low {n m lo k : Nat} (x : BitVec n) (y : BitVec m) (h : lo + k ≤ m) :
    bits (w := no_index (n + m)) (no_index (x ++ y)) lo k = bits y lo k := BitVec.extractLsb'_append_eq_of_add_le h
@[simp] theorem bits_append_high {n m lo k : Nat} (x : BitVec n) (y : BitVec m) (h : m ≤ lo) :
    bits (w := no_index (n + m)) (no_index (x ++ y)) lo k = bits x (lo - m) k := BitVec.extractLsb'_append_eq_of_le h
@[simp] theorem bits_bits {w lo n lo' k : Nat} (x : BitVec w) (h : lo' + k ≤ n) : bits (bits x lo n) lo' k = bits x (lo + lo') k := by
  ext i hi
  simp only [bits, BitVec.getElem_extractLsb', BitVec.getLsbD_extractLsb']
  rw [decide_eq_true (by omega), Bool.true_and, Nat.add_assoc]
/-- Two neighbouring fields of one value are one field. -/
@[simp] theorem bits_append_bits {w n m lo hi : Nat} (x : BitVec w) (h : hi = lo + m) :
    HAppend.hAppend (γ := no_index (BitVec (n + m))) (bits x hi n) (bits x lo m) = bits x lo (n + m) := by
  subst h
  ext i hi
  simp only [bits, BitVec.getElem_append, BitVec.getElem_extractLsb']
  split
  · rfl
  · rw [show lo + m + (i - m) = lo + i by omega]
@[simp] theorem bitAt_eq_bits {w : Nat} (x : BitVec w) (i : Nat) : bitAt x i = (bits x i 1).getLsbD 0 := by
  simp [bitAt, bits]
@[simp] theorem getElem_bit (x : Bool) : (bit x)[0] = x := by cases x <;> rfl
@[simp] theorem bits_sfield (s : SReg) : bits (sfield s) 0 6 = s := by simp [sfield]
@[simp] theorem bits_mfield (m : MReg) : bits (mfield m) 0 4 = m := by simp [mfield]

-- Code tables ----------------------------------------------------------------------------------------------------------

@[simp] theorem Neigh.ofCode_code (x : Neigh) : Neigh.ofCode x.code.toNat = some x := by cases x <;> rfl
@[simp] theorem Edge.ofCode_code (x : Edge) : Edge.ofCode x.code.toNat = some x := by cases x <;> rfl
@[simp] theorem Rnd.ofCode_code (x : Rnd) : Rnd.ofCode x.code.toNat = some x := by cases x <;> rfl
@[simp] theorem Width.ofCode_code (x : Width) : Width.ofCode x.code.toNat = some x := by cases x <;> rfl
@[simp] theorem OrdSc.ofCode_code (x : OrdSc) : OrdSc.ofCode x.code.toNat = some x := by cases x <;> rfl
@[simp] theorem Scope.ofCode_code (x : Scope) : Scope.ofCode x.code.toNat = some x := by cases x <;> rfl
@[simp] theorem Cond.ofCode_code (x : Cond) : Cond.ofCode x.code.toNat = some x := by cases x <;> rfl
@[simp] theorem RedOp.ofCode_code (x : RedOp) : RedOp.ofCode x.code.toNat = some x := by cases x <;> rfl
@[simp] theorem KOp.ofCode_code (x : KOp) : KOp.ofCode x.code.toNat = some x := by cases x <;> rfl
@[simp] theorem CvtFmt.ofCode_code (x : CvtFmt) : CvtFmt.ofCode x.code.toNat = some x := by cases x <;> rfl
@[simp] theorem MxFmt.ofCode_code (x : MxFmt) : MxFmt.ofCode x.code.toNat = some x := by cases x <;> rfl
@[simp] theorem Sel.ofCode_code (x : Sel) : Sel.ofCode x.code.toNat = some x := by cases x <;> rfl
@[simp] theorem CacheLevel.ofCode_code (x : CacheLevel) : CacheLevel.ofCode x.code.toNat = some x := by cases x <;> rfl
@[simp] theorem Pfx.ofCode_code (p : Pfx) : Pfx.ofCode p.code = some p := by
  simp [Pfx.ofCode, Pfx.code]

-- Reading a group ------------------------------------------------------------------------------------------------------

theorem Group.read_pfx (c : Ctl) (p : Option Pfx) (m d a b : BitVec 7) : (Group.pfx c p m d a b).read = readWord c p m.toNat d a b := by
  cases p with
  | none => rfl
  | some p => simp [Group.pfx, Group.read]

@[simp] theorem orReserved_some (i : Instr) : orReserved (some i) = .ok i := rfl

theorem readWord_plain {c : Ctl} {m : Nat} {d a b : BitVec 7} {r : Option Instr} (hp : readPrefixable c none m d a b = none)
    (h : readPlain c m d a b = some r) : readWord c none m d a b = orReserved r := by
  simp [readWord, hp, h]

/-- A group of one word reads as what its major's table gives. -/
theorem Group.read_one {c : Ctl} {m d a b : BitVec 7} {r : Option Instr} (hp : readPrefixable c none m.toNat d a b = none)
    (h : readPlain c m.toNat d a b = some r) : (Group.one c m d a b).read = orReserved r := readWord_plain hp h

/-- A pair's field reads as the pair and the bit of the function beside it. -/
@[simp] theorem bits_pairF (v : VReg) (f : BitVec 1) : bits (pairF v f) 0 1 = f := by simp [pairF]

theorem pairF_pairF_of_even {v : VReg} (h : v.even = true) (f : BitVec 1) : pairF (pairF v f) 0 = v := by
  have hb : bits v 0 1 = 0 := by
    apply BitVec.eq_of_toNat_eq
    simpa [VReg.even, bits] using h
  simp only [pairF]
  rw [bits_append_high _ _ (by decide), bits_self, ← hb]
  simp

/-- The three function bits of a 64-bit or uniform form are one number. -/
theorem function_of_bits (f : BitVec 3) : (bits f 2 1).toNat * 4 + (bits f 1 1).toNat * 2 + (bits f 0 1).toNat = f.toNat := by
  revert f; decide

theorem Group.read_i64a (c : Ctl) {d a b : VReg} (f : BitVec 3) (h : (d.even && a.even && b.even) = true) :
    (Group.i64 c 0x1B d a b f).read = orReserved (readI64a c d a b f.toNat) := by
  simp only [Bool.and_eq_true] at h
  obtain ⟨⟨hd, ha⟩, hb⟩ := h
  refine (Group.read_one rfl rfl).trans ?_
  simp only [pairF_pairF_of_even, hd, ha, hb, num_eq_bits, bits_pairF, function_of_bits]

theorem Group.read_i64b (c : Ctl) {d a b : VReg} (f : BitVec 3) (h : (d.even && a.even && b.even) = true) :
    (Group.i64 c 0x1C d a b f).read = orReserved (readI64b c d a b f.toNat) := by
  simp only [Bool.and_eq_true] at h
  obtain ⟨⟨hd, ha⟩, hb⟩ := h
  refine (Group.read_one rfl rfl).trans ?_
  simp only [pairF_pairF_of_even, hd, ha, hb, num_eq_bits, bits_pairF, function_of_bits]

theorem Group.read_salu (c : Ctl) (d a b : SReg) (f : BitVec 3) : (Group.salu c d a b f).read = orReserved (readSalu c d a b f.toNat) := by
  refine (Group.read_one rfl rfl).trans ?_
  simp only [saluF, num_eq_bits, bits_append_low, bits_append_high, Nat.sub_self, bits_self, function_of_bits, Nat.le_refl, Nat.zero_add]

/-- The group an instruction is written as reads as that instruction. The cases go by the group's shape: modifiers or none, pairs, an
extension, or plain fields, which read by evaluation where no field is taken apart. -/
theorem Instr.read_group {i : Instr} {g : Group} (hg : i.group = some g) (hw : wellFormed i = true) : g.read = .ok i := by
  cases i with
  | add | sub | mul | mulhS32 | mulhZ32 | mad | andn | and | or | xor | shl | shr | sar | rotl | sel | minS32 | minZ32 | maxS32 | maxZ32
  | cmpS32 | cmpZ32 | bfxS32 | bfxZ32 | bfi | shfl | fadd | fsub | fmul | ffma | fmin | fmax | fcmp | fscl | hadd2F16 | hadd2Bf16 | hmul2F16
  | hmul2Bf16 | hfma2F16 | hfma2Bf16 | dot4E4m3 | dot4E5m2 | dot4S8 | fabs | fneg | frnd | frcp | frsq | fsqrt | fexp2 | flog2 | fclass =>
    obtain rfl := Option.some.inj hg
    exact Group.read_pfx ..
  | fcvtToFormat | fcvtToF32 =>
    obtain rfl := Option.some.inj hg
    refine (Group.read_pfx ..).trans ?_
    simp [readWord, readPrefixable, cvtFn]
  | lea | mov | not | neg | abs | clz | ctz | popc | brev | movZ64 | notZ64 | negS64 | absS64 | addi | andi | ori | xori
  | jmpi | ret | exit | nop | bamax | scget | scset | srdraw =>
    obtain rfl := Option.some.inj hg
    exact (Group.read_one rfl rfl).trans rfl
  | addS64 | subS64 | mulS64 | shlZ64 | shrZ64 | sarS64 | minS64 | minZ64 =>
    obtain rfl := Option.some.inj hg
    exact Group.read_i64a _ _ hw
  | maxS64 | maxZ64 | cmpS64 | cmpZ64 | andZ64 | orZ64 | xorZ64 =>
    obtain rfl := Option.some.inj hg
    exact Group.read_i64b _ _ hw
  | sadd | ssub | sand | sor | sxor | sshl | sshr | scmp =>
    obtain rfl := Option.some.inj hg
    exact Group.read_salu ..
  | addiLong | andiLong | oriLong | xoriLong | moviLong | smoviLong | callLong =>
    obtain rfl := Option.some.inj hg
    simp [Group.ll, Group.il, Group.read, readExtended]
  | voteAll | voteAny | voteBallot | voteEq | popxIncl | popxExcl =>
    obtain rfl := Option.some.inj hg
    exact (Group.read_one rfl rfl).trans rfl
  | gath | scat | coll | repart | kvapp | kvevict | kvseal | kvhdr =>
    obtain rfl := Option.some.inj hg
    refine (Group.read_one rfl rfl).trans ?_
    simp only [bits_sfield]
    rfl
  | shli | shri | sari | movi | movh | redv | smov | bcast | vtos | swaitq
  | smovi | sld | bra | brc | bru | call | scsel | qpack | qunpk | topk | ldg | stg | lds | sts | ldt | stt | ldl | stl | ldsr | salloc
  | pref | cinv | cwb | atm | atm64 | red | waitge | waiteq | qpush | qpop | fence | oprdy | yield | cpwp | rjoin | rleave | roll | rolla
  | rollw | winb | xacq | xtry | xrel | fstat | mld | mst | mma | mmv | mdual | mdrnT | mdrnV | mdrnM | mshp | mzero | mconv | mdiss | mldw
  | mwait | mstat | cpy | kvld | crd | cwr | trap | eret | brk =>
    obtain rfl := Option.some.inj hg
    refine (Group.read_one rfl rfl).trans ?_
    simp [readShi, readSxfer, readCmo, readGsync, readGros, readGthr, readMdrn, readGmat, readEng, readGsys]
  | _ => cases hg

-- Words ------------------------------------------------------------------------------------------------------------------

@[simp] theorem majorOf_mkWord (c : Ctl) (m : BitVec 7) (x : BitVec 21) : majorOf (mkWord c m x) = m := by simp [majorOf, mkWord]
@[simp] theorem ctlOf_mkWord (c : Ctl) (m : BitVec 7) (x : BitVec 21) : ctlOf (mkWord c m x) = c := by simp [ctlOf, mkWord]
@[simp] theorem bits_mkWord (c : Ctl) (m : BitVec 7) (x : BitVec 21) (lo k : Nat) (h : lo + k ≤ 21) :
    bits (mkWord c m x) lo k = bits x lo k := by simp [mkWord, h]

/-- A word that takes an extension has one of the majors of R68. -/
theorem acceptsExtension_of_readExtended {c : Ctl} {m d a b : BitVec 7} {x : BitVec 21} {i : Instr}
    (h : readExtended c m.toNat d a b x = some i) : acceptsExtension m = true := by
  unfold readExtended at h
  split at h <;> simp_all [acceptsExtension]

/-- A word of modifiers or an extension is no instruction word (R69). -/
theorem readWord_ok_major {c : Ctl} {p : Option Pfx} {m d a b : BitVec 7} {i : Instr} (h : readWord c p m.toNat d a b = .ok i) :
    m ≠ 0x7E#7 ∧ m ≠ 0x7F#7 := by
  constructor <;> rintro rfl <;> cases p <;> cases h

theorem ne_of_acceptsExtension {m : BitVec 7} (h : acceptsExtension m = true) : m ≠ 0x7E#7 ∧ m ≠ 0x7F#7 := by
  constructor <;> rintro rfl <;> cases h

/-- A group that reads as an instruction is split off its own words again, whatever word follows that is no extension (R60). -/
theorem splitGroup_words {g : Group} {i : Instr} (h : g.read = .ok i) {v : Word} (hv : majorOf v ≠ 0x7F#7) :
    splitGroup (g.words.headD 0) (some (g.words.getD 1 v)) = .ok (g, g.words.length) := by
  obtain ⟨pre, c, m, d, a, b, ext⟩ := g
  cases pre with
  | none =>
    cases ext with
    | none =>
      have hm : m ≠ 0x7E#7 ∧ m ≠ 0x7F#7 := readWord_ok_major h
      simp [Group.words, splitGroup, hm, hv]
    | some x =>
      simp only [Group.read] at h
      split at h
      · have hx := acceptsExtension_of_readExtended ‹_›
        simp [Group.words, splitGroup, ne_of_acceptsExtension hx, hx]
      · cases h
  | some x =>
    cases ext with
    | none =>
      simp only [Group.read] at h
      split at h
      · have hm := readWord_ok_major h
        simp [Group.words, splitGroup, hm]
      · cases h
    | some y => cases h

/-- Decoding undoes encoding (R59 to R79). -/
theorem decodeWords_encode {i : Instr} {g : Group} (hg : i.group = some g) (hw : wellFormed i = true) {v : Word} (hv : majorOf v ≠ 0x7F#7) :
    decodeWords ((encode i).headD 0) (some ((encode i).getD 1 v)) = .ok (i, (encode i).length) := by
  have hr := Instr.read_group hg hw
  simp only [encode, hg, decodeWords, splitGroup_words hr hv, decodeGroup, hr, hw, if_true]

theorem Group.words_length (g : Group) : g.words.length ≤ 2 := by
  unfold Group.words
  split <;> simp

/-- Settles O55: an instruction is one group of at most two words; its words split into the group, and the group reads as the instruction. -/
theorem encodeThenDecode : Obligations.EncodeThenDecode := by
  unfold Obligations.EncodeThenDecode
  intro i v hw hne hv
  cases hg : i.group with
  | none => simp [encode, hg] at hne
  | some g => exact ⟨by simpa only [encode, hg] using g.words_length, decodeWords_encode hg hw hv⟩

/-- Settles O54: each word of an example, and each refused word, is decoded by evaluation. -/
theorem Encoding.decodeWords : Obligations.DecodeWords := by
  unfold Obligations.DecodeWords
  refine ⟨rfl, rfl, rfl, rfl, rfl, rfl, rfl, rfl, rfl, rfl, rfl, rfl, rfl, rfl, rfl, rfl, rfl, rfl, rfl, rfl, rfl, ?_,
    ⟨.strayExtension, rfl⟩, ⟨.reservedCode, rfl⟩, ⟨.unusedBits, rfl⟩⟩
  intro m hm
  simp only [List.mem_cons, List.not_mem_nil, or_false] at hm
  obtain rfl | rfl | rfl | rfl | rfl := hm <;> exact ⟨.unassignedMajor, rfl⟩

end Sys2Proof
end

section
/-! SUPPORT. Groups that trap (R79, R384, R388): with a handler, each thread enters it, and the group changes nothing else. -/
namespace Sys2Proof.Machine

-- The group whatever its BELL and STALL -----------------------------------------------------------------------------------

theorem State.group_ctl (s : State) (c c' : Ctl) (n : Nat) : s.group c' n = (s.group c n).map fun g => { g with ctl := c' } := by
  unfold State.group
  cases (s.quad s.focus).bundle with
  | none => rfl
  | some b =>
    simp only
    generalize List.filterMap _ _ = acts
    cases acts <;> rfl

theorem State.issues_ctl {s : State} {c : Ctl} {n : Nat} {g : Grp} (h : s.issues c n g) (c' : Ctl) : s.issues c' n { g with ctl := c' } :=
  ⟨by rw [State.group_ctl s c, h.1]; rfl, h.2⟩

-- Entering the handler (R384) ----------------------------------------------------------------------------------------------

/-- A thread that has entered its handler for a fault. -/
def Thread.trapped (x : Thread) (tvec tepc : DWord) (f : PFault) : Thread :=
  { x with tepc, tcause := f.cause, tinfo := f.info, taddr := f.addr, tmode := true, why := .nothing, pc := tvec, st := .ready }

/-- The handler of a warp's context (R380). -/
def State.handler (s : State) (k : Nat) : DWord := (s.ctx (s.kernelOf k).ctx).tvec

theorem State.handler_of_warpsOnly {s t : State} (h : s.warpsOnly Warp.still t) (k : Nat) : t.handler k = s.handler k := by
  obtain ⟨hrest, -, hwarp⟩ := h
  have hctxs : t.rest.ctxs = s.rest.ctxs := by rw [hrest]
  have hkernels : t.rest.kernels = s.rest.kernels := by rw [hrest]
  have hwgs : t.rest.wgs = s.rest.wgs := by rw [hrest]
  have hwg : (t.warp k).still.wg = (s.warp k).still.wg := by rw [hwarp]
  simp only [State.rest, Warp.still] at hctxs hkernels hwgs hwg
  simp only [State.handler, State.ctx, State.kernelOf, State.kernel, State.wgOf, hctxs, hkernels, hwgs, hwg]

theorem State.applyFate_fault {s : State} {a : Nat × Nat} {f : PFault} (tepc : DWord) (hcheck : f.cause ≠ 7) (hmode : (s.thread a.1 a.2).tmode = false)
    (hvec : s.handler a.1 ≠ 0) : s.applyFate (a, .fault f tepc) = s.modThread a.1 a.2 (·.trapped (s.handler a.1) tepc f) := by
  simp only [State.applyFate, if_neg hcheck]
  rw [State.trap]
  exact (if_neg (by rw [Bool.not_eq_true]; exact hmode)).trans (if_pos hvec)

/-- Threads take one fault each, in any order: all of them enter their handlers. -/
theorem State.foldl_fault {f : PFault} (tepc : DWord) (hcheck : f.cause ≠ 7) (l : List (Nat × Nat)) (s : State) (hnodup : l.Nodup)
    (hready : ∀ a ∈ l, (s.thread a.1 a.2).tmode = false ∧ s.handler a.1 ≠ 0) :
    let u := (l.map fun a => (a, Fate.fault f tepc)).foldl State.applyFate s
    s.warpsOnly Warp.still u
      ∧ ∀ k i, u.thread k i = if (k, i) ∈ l then (s.thread k i).trapped (s.handler k) tepc f else s.thread k i := by
  induction l generalizing s with
  | nil => exact ⟨s.warpsOnly_refl _, fun k i => by simp⟩
  | cons a l ih =>
    obtain ⟨hmode, hvec⟩ := hready a (by simp)
    obtain ⟨hnew, hnodup⟩ := List.nodup_cons.mp hnodup
    rw [List.map_cons, List.foldl_cons, State.applyFate_fault tepc hcheck hmode hvec]
    generalize hw : s.modThread a.1 a.2 (·.trapped (s.handler a.1) tepc f) = w
    have honly : s.warpsOnly Warp.still w := by
      rw [← hw]; exact State.warpsOnly_modWarp s a.1 (φ := fun x => x.modThread a.2 _) fun _ => rfl
    have hthread : ∀ k i, w.thread k i = if (k, i) = a then (s.thread k i).trapped (s.handler k) tepc f else s.thread k i := by
      intro k i
      rw [← hw, State.thread_modThread]
      by_cases h : (k, i) = a
      · subst h; simp
      · rw [if_neg h, if_neg fun e => h (Prod.ext e.1 e.2)]
    obtain ⟨hrest, hall⟩ := ih w hnodup fun b hb => by
      rw [hthread, if_neg fun e : b = a => hnew (e ▸ hb), State.handler_of_warpsOnly honly]
      exact hready b (by simp [hb])
    refine ⟨State.warpsOnly_trans honly hrest, fun k i => ?_⟩
    rw [hall, hthread, State.handler_of_warpsOnly honly]
    by_cases h : (k, i) = a
    · subst h; simp [hnew]
    · simp [h]

/-- The order of the fates gives no thread a second one (R439). -/
theorem byLane_nodup {fs : List ((Nat × Nat) × Fate)} (h : fs.Nodup) : (byLane fs).Nodup := by
  have hlane : ∀ l, ∀ e ∈ fs.filter (fun e => e.1.2 == l), e.1.2 = l := fun l e he => beq_iff_eq.mp (List.mem_filter.mp he).2
  refine List.Nodup.append (List.nodup_flatMap.mpr ⟨fun l _ => h.filter _, ?_⟩) (h.filter _) ?_
  · refine List.nodup_range.imp fun hne e hi hj => hne ?_
    rw [← hlane _ e hi, ← hlane _ e hj]
  · intro e hlow hhigh
    obtain ⟨l, hl, he⟩ := List.mem_flatMap.mp hlow
    have := of_decide_eq_true (List.mem_filter.mp hhigh).2
    rw [hlane l e he] at this
    exact absurd (List.mem_range.mp hl) (by omega)

-- The end of the group ------------------------------------------------------------------------------------------------------

/-- Closing its bundle leaves a group's threads where none of them is ISSUING. -/
theorem State.closeBundle_thread {s : State} {g : Grp} (h : ∀ a ∈ g.set, (s.thread a.1 a.2).st ≠ .issuing) (k l : Nat) :
    (s.closeBundle g).thread k l = s.thread k l := by
  obtain ⟨-, hclosed, hout⟩ := State.closeBundle_spec s g
  by_cases hm : (k, l) ∈ g.set
  · exact (hclosed k l).resolve_right fun hissuing => h _ hm hissuing.1
  · exact hout k l hm

/-- No warp of a group retires while the group's threads are alive. -/
theorem State.foldl_retireIfDead {s : State} {g : Grp} (hset : g.set = g.acts)
    (h : ∀ a ∈ g.acts, a.2 < 32 ∧ (s.thread a.1 a.2).st.alive = true) : g.warps.foldl State.retireIfDead s = s := by
  have hall : ∀ ks : List Nat, (∀ k ∈ ks, ∃ a ∈ g.acts, a.1 = k) → ks.foldl State.retireIfDead s = s := by
    intro ks hks
    induction ks with
    | nil => rfl
    | cons k ks ih =>
      obtain ⟨a, ha, rfl⟩ := hks k (by simp)
      rw [List.foldl_cons, State.retireIfDead_id (h a ha).1 (h a ha).2]
      exact ih fun j hj => hks j (by simp [hj])
  refine hall _ fun k hk => ?_
  obtain ⟨a, ha, rfl⟩ := List.mem_map.mp (List.mem_eraseDups.mp hk)
  exact ⟨a, hset ▸ ha, rfl⟩

/-- A group whose fates leave its threads READY finishes, and leaves every thread as its fate does. -/
theorem State.finish_ready {s u : State} {g : Grp} {fs : List ((Nat × Nat) × Fate)} (hfs : (byLane fs).foldl State.applyFate s = u)
    (hset : g.set = g.acts) (h : ∀ a ∈ g.acts, a.2 < 32 ∧ (u.thread a.1 a.2).st = .ready) :
    u.still (s.finish g fs) ∧ ∀ k l, (s.finish g fs).thread k l = u.thread k l := by
  have hend : ∀ w : State, u.still w → (∀ k l, w.thread k l = u.thread k l) →
      u.still (g.warps.foldl State.retireIfDead w) ∧ ∀ k l, (g.warps.foldl State.retireIfDead w).thread k l = u.thread k l := by
    intro w hstill hsame
    rw [State.foldl_retireIfDead hset fun a ha => ⟨(h a ha).1, by rw [hsame, (h a ha).2]; rfl⟩]
    exact ⟨hstill, hsame⟩
  simp only [State.finish, hfs]
  split
  · exact hend u u.still_refl fun _ _ => rfl
  · generalize hv : u.modQuad g.q _ = v
    have hstill : u.still v := hv ▸ State.still_modQuad u g.q _ fun _ => rfl
    have hsame : ∀ k l, v.thread k l = u.thread k l := fun _ _ => hv ▸ rfl
    split
    · refine hend _ (State.still_trans hstill (State.closeBundle_spec v g).1) fun k l => ?_
      rw [State.closeBundle_thread, hsame]
      intro a ha
      rw [hsame, (h a (hset ▸ ha)).2]
      decide
    · exact hend v hstill hsame

/-- A group each of whose threads takes one fault: they enter their handlers, and nothing else changes (R384). -/
theorem issue_faults {c : Ctl} {n : Nat} {s : State} {g : Grp} (h : s.issues c n g)
    (hready : ∀ a ∈ g.acts, (s.thread a.1 a.2).tmode = false ∧ s.handler a.1 ≠ 0) {f : PFault} (hcheck : f.cause ≠ 7) (tepc : Grp → DWord) :
    ∃ t, issue c n s (fun g s => (s, g.each fun _ => .fault f (tepc g))) = .next t ∧ t.rest = s.rest ∧ (∀ q, (t.quad q).rest = (s.quad q).rest)
      ∧ (∀ k, (t.warp k).still = (s.warp k).still)
      ∧ ∀ k l, t.thread k l = if (k, l) ∈ g.acts then (s.thread k l).trapped (s.handler k) (tepc g) f else s.thread k l := by
  obtain ⟨-, hset, -⟩ := State.group_some h.1
  obtain ⟨l, hfates, hmem⟩ := byLane_map (fun _ => .fault f (tepc g)) g.acts
  have hnodup : l.Nodup := by
    refine List.Nodup.of_map (fun a => (a, Fate.fault f (tepc g))) ?_
    rw [← hfates]
    exact byLane_nodup ((List.Nodup.of_map _ h.2.1).map fun a b hab => congrArg Prod.fst hab)
  obtain ⟨⟨hrest, hquads, hwarp⟩, hthread⟩ := State.foldl_fault (tepc g) hcheck l s hnodup fun a ha => hready a ((hmem a).mp ha)
  simp only [hmem] at hthread
  obtain ⟨⟨hrest', hquad', hwarp'⟩, hsame⟩ := State.finish_ready (s := s) (g := g) (fs := g.each fun _ => .fault f (tepc g))
    (congrArg (List.foldl State.applyFate s) hfates) hset fun a ha => ⟨(h.2.2 a ha).1, by rw [hthread, if_pos ha]; rfl⟩
  refine ⟨_, issue_eq h _, hrest'.trans hrest, fun q => ?_, fun k => (hwarp' k).1.trans (hwarp k), fun k l => (hsame k l).trans (hthread k l)⟩
  rw [hquad', State.quad, State.quad, hquads]

/-- The fault of a TRAP or BRK carries its 9-bit code. -/
theorem pf_code (cause : Nat) (code : BitVec 9) : (⟨BitVec.ofNat 8 cause, code.setWidth 32, 0⟩ : PFault) = pf cause 0 code.toNat := by
  rw [pf, BitVec.ofNat_toNat]

theorem exec_trap (c : Ctl) (code : BitVec 9) (s : State) :
    exec (.trap c code) s = issue c 1 s fun g s => (s, g.each fun _ => .fault ⟨9#8, code.setWidth 32, 0⟩ g.next) := by
  simp only [pf_code]; rfl
theorem exec_brk (c : Ctl) (code : BitVec 9) (s : State) :
    exec (.brk c code) s = issue c 1 s fun g s => (s, g.each fun _ => .fault ⟨10#8, code.setWidth 32, 0⟩ g.pc) := by
  simp only [pf_code]; rfl

/-- Settles O15: TRAP, BRK and the illegal instruction are groups each of whose threads takes one fault; they differ in cause, in TINFO and in
whether TEPC is the next PC or the group's own. -/
theorem trapEntry : Obligations.TrapEntry := by
  unfold Obligations.TrapEntry
  intro c s g h hready i tepc cause info hi
  rcases hi with ⟨code, rfl, rfl, rfl, rfl⟩ | ⟨code, rfl, rfl, rfl, rfl⟩ | ⟨rfl, rfl, rfl, rfl⟩
  · rw [exec_trap]
    exact issue_faults h hready (show 9#8 ≠ 7#8 by decide) Grp.next
  · rw [exec_brk]
    exact issue_faults h hready (show 10#8 ≠ 7#8 by decide) Grp.pc
  · exact issue_faults (State.issues_ctl h ⟨false, 0⟩) hready (f := ⟨1, 0, 0⟩) (by decide) Grp.pc

end Sys2Proof.Machine
end

section
/-! SUPPORT. Transfers of control (R133 to R135, R138): each is a register or per-warp instruction that changes nothing but the PC, and CALL its
link. -/
namespace Sys2Proof.Machine

-- Without BELL (R62, R389) ---------------------------------------------------------------------------------------------------

theorem belled_false {c : Ctl} (h : c.bell = false) (s : State) (o : Host.Outcome State Fault Refusal) : belled c s o = exec .illegalInstruction s := by
  rw [belled, h]; rfl
theorem belled_true {c : Ctl} (h : c.bell = true) (s : State) (o : Host.Outcome State Fault Refusal) : belled c s o = o := if_pos h


-- Groups that only go on ---------------------------------------------------------------------------------------------------

/-- Every thread goes on at a PC, and nothing else is done. -/
theorem issue_each {c : Ctl} {n : Nat} {s : State} {g : Grp} (h : s.issues c n g) (pc : Grp → DWord) :
    ∃ t, issue c n s (fun g s => (s, g.each fun _ => .done (pc g))) = .next t ∧ s.still t ∧ s.passed t g fun _ => pc g :=
  issue_passes (fun _ => pc g) g.acts h rfl (fun _ => Iff.rfl) (State.group_some h.1).2.2.2.2.2

theorem State.passed_congr {s t : State} {g : Grp} {pc pc' : Nat × Nat → DWord} (h : s.passed t g pc) (heq : ∀ a ∈ g.acts, pc a = pc' a) :
    s.passed t g pc' := ⟨fun a ha => heq a ha ▸ h.1 a ha, h.2⟩

/-- COND of R73, in the words of the rule. -/
theorem condHolds_iff (k : Cond) (v : Word) : condHolds k v = true ↔ match k with
    | .z => v = 0
    | .nz => v ≠ 0
    | .lt => v = 0xFFFFFFFF
    | .gt => v = 1
    | .le => v = 0xFFFFFFFF ∨ v = 0
    | .ge => v = 0 ∨ v = 1
    | .un => v = 2
    | .neg => v.getLsbD 31 = true := by
  cases k <;> simp [condHolds]

theorem branchTo_eq {w : Nat} (pc : DWord) (off : BitVec w) : branchTo pc off = pc + 4 * BitVec.ofInt 64 off.toInt := rfl

/-- A register instruction without a destination only goes on. -/
theorem regOp_goes {c : Ctl} {n lat : Nat} {rds : List Rd} {s : State} {g : Grp} {f : Grp → State → Nat × Nat → List DWord → Res}
    (h : s.issues c n g) (ho : ∀ a ∈ g.acts, s.open g (rds.flatMap (s.rdElems g a)) [])
    (hfault : ∀ a ∈ g.acts, (f g s a (rds.map (s.source g a))).fault = none) (hside : ∀ a vs, (f g s a vs).nf = false ∧ (f g s a vs).draws = 0) :
    ∃ t, regOp c n lat rds none s f = .next t ∧ s.settles t g [] (fun _ => false) 0
      ∧ s.passed t g fun a => (f g s a (rds.map (s.source g a))).pc.getD g.next := by
  obtain ⟨t, hexec, hsettles, hpassed, -⟩ := regOp_writes (lat := lat) (d := none) h ho hfault fun _ _ => (hside _ _).2
  refine ⟨t, hexec, ?_, hpassed⟩
  have hnone : g.acts.flatMap (fun a => s.wrElems a none) = [] := List.flatMap_eq_nil_iff.mpr fun _ _ => rfl
  rwa [hnone, funext fun a => (hside a _).1] at hsettles

theorem exec_brc {c : Ctl} (hbell : c.bell = true) {s : State} {g : Grp} (h : s.issues c 1 g) (a : VReg) (k : Cond) (off : BitVec 11)
    (ho : ∀ x ∈ g.acts, s.open g (s.rdElems g x (own a)) []) :
    ∃ t, exec (.brc c a k off) s = .next t ∧ s.settles t g [] (fun _ => false) 0
      ∧ s.passed t g fun x => if condHolds k ((s.source g x (own a)).setWidth 32) then branchTo g.pc off else g.next := by
  obtain ⟨t, hexec, hsettles, hpassed⟩ := regOp_goes (lat := 4) (rds := [own a])
    (f := fun g _ _ vs => { pc := if condHolds k (vw vs 0) then some (branchTo g.pc off) else none }) h
    (fun x hx => by simpa using ho x hx) (fun _ _ => rfl) (fun _ _ => ⟨rfl, rfl⟩)
  refine ⟨t, (belled_true hbell _ _).trans hexec, hsettles, ?_⟩
  convert hpassed using 2 with x
  simp only [vw, List.map_cons, List.getD_cons_zero]
  split <;> rfl

/-- What a thread that jumps does: it goes to an aligned address, and takes a fault at any other (R80, R135). -/
def jumpRes (v : DWord) : Res :=
  if bf v 0 2 = 0 then { pc := some v } else { pc := some (v &&& ~~~3#64), fault := some (pf 4 v) }

theorem jumpRes_side (v : DWord) : (jumpRes v).nf = false ∧ (jumpRes v).draws = 0 := by
  unfold jumpRes
  split <;> exact ⟨rfl, rfl⟩

theorem jumpRes_aligned {v : DWord} (h : v.toNat % 4 = 0) : jumpRes v = { pc := some v } :=
  if_pos (by simpa [bf, fld] using h)

theorem jumpOp_eq (c : Ctl) (a : VReg) (s : State) :
    jumpOp c a s = belled c s (regOp c 1 4 [ownPair a] none s fun _ _ _ vs => jumpRes (vd vs 0)) := rfl

/-- A jump to an aligned pair (R135). -/
theorem jumpOp_goes {c : Ctl} (hbell : c.bell = true) {s : State} {g : Grp} (h : s.issues c 1 g) (a : VReg)
    (ho : ∀ x ∈ g.acts, s.open g (s.rdElems g x (ownPair a)) []) (hal : ∀ x ∈ g.acts, (s.source g x (ownPair a)).toNat % 4 = 0) :
    ∃ t, jumpOp c a s = .next t ∧ s.settles t g [] (fun _ => false) 0 ∧ s.passed t g fun x => s.source g x (ownPair a) := by
  have hval : ∀ x, vd ([ownPair a].map (s.source g x)) 0 = s.source g x (ownPair a) := fun _ => rfl
  obtain ⟨t, hexec, hsettles, hpassed⟩ := regOp_goes (lat := 4) (rds := [ownPair a]) (f := fun _ _ _ vs => jumpRes (vd vs 0)) h
    (fun x hx => by simpa using ho x hx) (fun x hx => by rw [hval, jumpRes_aligned (hal x hx)]) (fun _ _ => jumpRes_side _)
  rw [jumpOp_eq, belled_true hbell]
  refine ⟨t, hexec, hsettles, State.passed_congr hpassed fun x hx => ?_⟩
  rw [hval, jumpRes_aligned (hal x hx)]
  rfl

/-- CALL and its long form: the link in a pair, and the jump (R134). -/
theorem callOp_goes {c : Ctl} (hbell : c.bell = true) {n : Nat} {s : State} {g : Grp} (h : s.issues c n g) (d : VReg) (off : BitVec 32)
    (ho : ∀ x ∈ g.acts, s.open g [] (s.wrElems x (some { n := d.toNat, pair := true }))) :
    ∃ t, callOp c n d off s = .next t
      ∧ s.settles t g (g.acts.flatMap fun x => s.wrElems x (some { n := d.toNat, pair := true })) (fun _ => false) 0
      ∧ s.passed t g (fun _ => branchTo g.pc off) ∧ ∀ x ∈ g.acts, t.elemsVal (s.wrElems x (some { n := d.toNat, pair := true })) = g.next := by
  obtain ⟨t, hexec, hsettles, hpassed, hval⟩ := regOp_writes (lat := 4) (rds := []) (d := some { n := d.toNat, pair := true }) (m := 0)
    (f := fun g _ _ _ => { val := g.next, pc := some (branchTo g.pc off) }) h ho (fun _ _ => rfl) (fun _ _ => rfl)
  exact ⟨t, (belled_true hbell _ _).trans hexec, hsettles, hpassed, fun x hx => hval x hx _ rfl⟩

-- Per-warp instructions that only go on (R110) --------------------------------------------------------------------------

/-- The active threads of the warps with one are the active threads. -/
theorem Grp.mem_byWarp (g : Grp) (x : Nat × Nat) : (x ∈ g.actWarps.flatMap fun k => g.acts.filter (·.1 == k)) ↔ x ∈ g.acts := by
  simp only [List.mem_flatMap, List.mem_filter, beq_iff_eq]
  constructor
  · rintro ⟨k, -, hx, -⟩
    exact hx
  · exact fun hx => ⟨x.1, Grp.mem_actWarps.mpr (List.mem_map_of_mem hx), hx, rfl⟩

theorem foldl_runs {s : State} {run : State → Nat → State × List ((Nat × Nat) × Fate)} {out : Nat → List ((Nat × Nat) × Fate)} (ks : List Nat)
    (h : ∀ k ∈ ks, run s k = (s, out k)) (fs : List ((Nat × Nat) × Fate)) :
    ks.foldl (fun r k => ((run r.1 k).1, r.2 ++ (run r.1 k).2)) (s, fs) = (s, fs ++ ks.flatMap out) := by
  induction ks generalizing fs with
  | nil => simp
  | cons k ks ih =>
    rw [List.foldl_cons, h k (by simp), ih (fun j hj => h j (by simp [hj])), List.flatMap_cons, List.append_assoc]

/-- A per-warp instruction that sends the threads of each warp on, and does nothing else. -/
theorem warpOp_goes {c : Ctl} {n : Nat} {s : State} {g : Grp} {plan : Grp → State → Nat → Fate}
    {run : Grp → State → Nat → State × List ((Nat × Nat) × Fate)} (pc : Nat → DWord) (h : s.issues c n g)
    (hplan : ∀ k ∈ g.actWarps, ∃ pc, plan g s k = .done pc) (hrun : ∀ k ∈ g.actWarps, run g s k = (s, g.all k (.done (pc k)))) :
    ∃ t, warpOp c n s plan run = .next t ∧ s.still t ∧ s.passed t g fun x => pc x.1 := by
  refine issue_passes (fun x => pc x.1) (g.actWarps.flatMap fun k => g.acts.filter (·.1 == k)) h ?_ g.mem_byWarp
    (State.group_some h.1).2.2.2.2.2
  rw [runWarps_done hplan, foldl_runs _ hrun, List.map_flatMap, List.nil_append]
  refine congrArg (Prod.mk s) (List.flatMap_congr fun k _ => List.map_congr_left fun x hx => ?_)
  rw [beq_iff_eq.mp (List.mem_filter.mp hx).2]

/-- BRU: each warp goes the way of its uniform register (R133). -/
theorem exec_bru {c : Ctl} (hbell : c.bell = true) {s : State} {g : Grp} (h : s.issues c 1 g) (a : SReg) (k : Cond) (off : BitVec 11)
    (ho : s.uniOpen g [a] []) :
    ∃ t, exec (.bru c a k off) s = .next t ∧ s.still t
      ∧ s.passed t g fun x => if condHolds k ((s.warp x.1).s a.toNat) then branchTo g.pc off else g.next := by
  have hplan : ∀ j ∈ g.actWarps, sPlan [a.toNat] g s j = .done g.next := fun j hj => by
    have hpend : s.pendS j a.toNat = [] := (ho j (Grp.mem_actWarps.mp hj)).1 a (by simp)
    simp [sPlan, State.sWhy, hpend]
  have hread : ∀ j ∈ g.actWarps, s.readS g j a.toNat = ((s.warp j).s a.toNat, s) := fun j hj => by
    rw [State.readS, (ho j (Grp.mem_actWarps.mp hj)).2 a (by simp)]
    rfl
  obtain ⟨t, hexec, hgoes⟩ := warpOp_goes (plan := sPlan [a.toNat])
    (run := fun g s j => ((s.readS g j a.toNat).2, g.all j (.done (if condHolds k (s.readS g j a.toNat).1 then branchTo g.pc off else g.next))))
    (fun j => if condHolds k ((s.warp j).s a.toNat) then branchTo g.pc off else g.next) h (fun j hj => ⟨_, hplan j hj⟩)
    fun j hj => by simp only [hread j hj]
  exact ⟨t, (belled_true hbell _ _).trans hexec, hgoes⟩

/-- The two ways of a branch, by what its condition says. -/
theorem State.passed_branch {s t : State} {g : Grp} {p : Nat × Nat → Bool} {x y : DWord} (h : s.passed t g fun a => if p a then x else y)
    {P : Nat × Nat → Prop} (hp : ∀ a, p a = true ↔ P a) :
    ∃ pc, s.passed t g pc ∧ ∀ a ∈ g.acts, (P a → pc a = x) ∧ (¬ P a → pc a = y) :=
  ⟨_, h, fun a _ => ⟨fun ha => if_pos ((hp a).mpr ha), fun ha => if_neg fun e => ha ((hp a).mp e)⟩⟩

/-- Settles O9: each clause is the lemma above about its instruction; without BELL each is the illegal instruction. -/
theorem transfers : Obligations.Transfers := by
  unfold Obligations.Transfers
  refine ⟨fun c s g n h => ⟨?nop, fun hbell => ⟨?bra, ?brc, ?bru, ?call, ?jump⟩⟩, fun c s i hbell hi => ?unbelled⟩
  case nop =>
    rintro rfl
    exact issue_each h Grp.next
  case bra =>
    rintro rfl off
    obtain ⟨t, hexec, hgoes⟩ := issue_each h fun g => branchTo g.pc off
    exact ⟨t, (belled_true hbell _ _).trans hexec, hgoes⟩
  case brc =>
    rintro rfl a k off ho
    obtain ⟨t, hexec, hsettles, hpassed⟩ := exec_brc hbell h a k off ho
    exact ⟨t, hexec, hsettles, State.passed_branch hpassed fun x => condHolds_iff k _⟩
  case bru =>
    rintro rfl a k off ho
    obtain ⟨t, hexec, hstill, hpassed⟩ := exec_bru hbell h a k off ho
    exact ⟨t, hexec, hstill, State.passed_branch hpassed fun x => condHolds_iff k _⟩
  case call =>
    rintro i d off (⟨rfl, imm, rfl, rfl⟩ | ⟨rfl, imm, rfl, rfl⟩) ho
    · obtain ⟨t, hexec, hsettles, hpassed, hlink⟩ := callOp_goes hbell h d (imm.signExtend 32) ho
      rw [branchTo_eq, BitVec.toInt_signExtend_of_le (by decide)] at hpassed
      exact ⟨t, hexec, hsettles, hpassed, hlink⟩
    · exact callOp_goes hbell h d imm ho
  case jump =>
    rintro rfl i a (rfl | rfl) ho hal
    · exact jumpOp_goes hbell h a ho hal
    · exact jumpOp_goes hbell h a ho hal
  case unbelled =>
    rcases hi with ⟨off, rfl⟩ | ⟨a, k, off, rfl⟩ | ⟨a, k, off, rfl⟩ | ⟨d, imm, rfl⟩ | ⟨d, imm, rfl⟩ | ⟨a, rfl⟩ | ⟨a, rfl⟩ | rfl | rfl
    all_goals exact belled_false hbell s _

end Sys2Proof.Machine
end

section
/-! SUPPORT. Why a step does not always run the words that memory holds at the PC (R59, R136): a word that lies across two lines is fetched
from the first of them alone. -/
namespace Sys2Proof.Machine

-- Between steps -------------------------------------------------------------------------------------------------------------

/-- Where no roll call, workgroup or matrix operation waits to go on, the ends of waits change threads alone. -/
theorem State.settle_quiet {s : State} (hcalls : s.rostersWith (fun r => r.st == .calling) = []) (hstarts : s.rostersWith Roster.startable = [])
    (hended : ∀ e ∈ s.wgs, e.2.ended = false) :
    s.settle = { s with warps := s.warps.map fun k w => { w with threads := w.threads.map (s.settleThread k) } } := by
  have hnone : List.filter (fun e : Nat × Workgroup => e.2.ended) s.wgs = [] :=
    List.filter_eq_nil_iff.mpr fun e he => by simp [hended e he]
  have hsame : ∀ ws p, State.rostersWith { s with warps := ws } p = s.rostersWith p := fun _ _ => rfl
  simp only [State.settle, hsame, hcalls, List.foldl_nil, hnone, List.map_nil, hstarts]

theorem State.storeMoved_nil {s : State} (h : ∀ e ∈ s.warps, e.2.leaving = []) : s.storeMoved = s := by
  have hnone : List.flatMap (fun e : Nat × Warp => e.2.leaving.map fun k => (e.1, k)) s.warps = [] :=
    List.flatMap_eq_nil_iff.mpr fun e he => by rw [h e he]; rfl
  rw [State.storeMoved, hnone, List.foldl_nil]

theorem State.upset_nil {s : State} (h : s.upsets = []) : s.upset = s := by rw [State.upset, h]

theorem State.tick_warps (s : State) : s.tick.warps = s.warps := by
  unfold State.tick
  split
  · rfl
  · split <;> rfl

/-- With no block to write to the overflow area and no storage error to come, the warps are as the ends of waits leave them. -/
theorem State.after_warps {s : State} (hcalls : s.rostersWith (fun r => r.st == .calling) = []) (hstarts : s.rostersWith Roster.startable = [])
    (hended : ∀ e ∈ s.wgs, e.2.ended = false) (hleaving : ∀ e ∈ s.warps, e.2.leaving = []) (hupsets : s.upsets = []) :
    s.after.warps = s.warps.map fun k w => { w with threads := w.threads.map (s.settleThread k) } := by
  have hleaving' : ∀ e ∈ s.settle.idleCtxs.warps, e.2.leaving = [] := by
    rw [State.settle_quiet hcalls hstarts hended]
    intro e he
    obtain ⟨x, hx, rfl⟩ := List.mem_map.mp he
    exact hleaving x hx
  have hupsets' : s.settle.idleCtxs.upsets = [] := by rw [State.settle_quiet hcalls hstarts hended]; exact hupsets
  rw [State.after, State.tick_warps, State.storeMoved_nil hleaving', State.upset_nil hupsets', State.settle_quiet hcalls hstarts hended]
  rfl

theorem State.settleThread_tmode (s : State) (k l : Nat) (x : Thread) : (s.settleThread k l x).tmode = x.tmode := by
  unfold State.settleThread
  split
  · split <;> rfl
  · rfl

/-- The end of a wait is no trap and no return from one. -/
theorem State.settled_tmode (s : State) {t : State} (h : t.warps = s.warps.map fun k w => { w with threads := w.threads.map (s.settleThread k) })
    {k l : Nat} (hk : k ∈ Table.keys s.warps) (hl : l ∈ Table.keys (s.warp k).threads) : (t.thread k l).tmode = (s.thread k l).tmode := by
  have hthread : t.thread k l = s.settleThread k l (s.thread k l) := by
    rw [State.thread, State.warp, h, Table.get_map _ hk]
    exact Table.get_map (s.settleThread k) hl
  rw [hthread, State.settleThread_tmode]

-- One thread that goes on ------------------------------------------------------------------------------------------------------

/-- What a group of one thread leaves that goes on without BELL: the thread stands at its next PC, and its bundle is still open. -/
def State.wentOn (s : State) (g : Grp) (k l : Nat) (pc : DWord) : State :=
  (s.modThread k l fun t => { t with pc }).modQuad g.q fun q =>
    { q with cycle := g.cycle + 1 + g.ctl.stall.toNat, bundle := q.bundle.map fun b => { b with words := b.words + g.n } }

theorem State.finish_single {s : State} {g : Grp} {k l : Nat} (pc : DWord) (hset : g.set = [(k, l)]) (hl : l < 32)
    (hst : (s.thread k l).st = .issuing) (hstall : (s.quad g.q).stall = []) (hbell : g.ctl.bell = false) :
    s.finish g [((k, l), .done pc)] = s.wentOn g k l pc := by
  have hfates : byLane [((k, l), Fate.done pc)] = [((k, l), .done pc)] := by
    obtain ⟨r, hr, hmem⟩ := byLane_map (fun _ => .done pc) [(k, l)]
    have hnodup := byLane_nodup (List.nodup_singleton ((k, l), Fate.done pc))
    have hperm : r.Perm [(k, l)] :=
      (List.perm_ext_iff_of_nodup (List.Nodup.of_map _ (hr ▸ hnodup)) (List.nodup_singleton _)).mpr hmem
    rw [List.perm_singleton.mp hperm] at hr
    exact hr
  have hissuing : ∀ f, (((s.modThread k l fun t => { t with pc }).modQuad g.q f).thread k l).st = .issuing := fun f => by
    rw [show ∀ w : State, (w.modQuad g.q f).thread k l = w.thread k l from fun _ => rfl, State.thread_modThread, if_pos ⟨rfl, rfl⟩]
    exact hst
  have hretire : (s.wentOn g k l pc).retireIfDead k = s.wentOn g k l pc :=
    State.retireIfDead_id hl (by rw [State.wentOn, hissuing]; rfl)
  have hstall' : ((s.modThread k l fun t => { t with pc }).quad g.q).stall = [] := hstall
  have hfate : s.applyFate ((k, l), .done pc) = s.modThread k l fun t => { t with pc } := rfl
  have hwarps : g.warps = [k] := by rw [Grp.warps, hset]; rfl
  simp only [State.finish, hfates, List.foldl_cons, List.foldl_nil, hfate, hstall', List.isEmpty_nil, Bool.not_true, Bool.false_eq_true, if_false, hbell,
    hset, List.any_cons, List.any_nil, hissuing, beq_self_eq_true, Bool.or_false, Fate.cuts, Bool.not_true, hwarps]
  exact hretire

/-- Nothing of a state waits to go on: no roll call, no workgroup, no matrix operation, no block, no storage error. -/
def State.idle (s : State) : Prop :=
  s.rostersWith (fun r => r.st == .calling) = [] ∧ s.rostersWith Roster.startable = [] ∧ (∀ e ∈ s.wgs, e.2.ended = false)
    ∧ (∀ e ∈ s.warps, e.2.leaving = []) ∧ s.upsets = []

/-- Between steps, no thread of a state in which nothing waits enters or leaves trap mode. -/
theorem State.after_tmode {s : State} (h : s.idle) {k l : Nat} (hk : k ∈ Table.keys s.warps) (hl : l ∈ Table.keys (s.warp k).threads) :
    (s.after.thread k l).tmode = (s.thread k l).tmode := by
  obtain ⟨hcalls, hstarts, hended, hleaving, hupsets⟩ := h
  exact State.settled_tmode s (State.after_warps hcalls hstarts hended hleaving hupsets) hk hl

/-- Translations and lines of code that are held make no difference to who waits. -/
theorem State.idle_held {s : State} (h : s.idle) (clusters : Table Cluster) (cores : Table Core) : ({ s with clusters, cores } : State).idle := h

theorem State.wentOn_held (s : State) (g : Grp) (k l : Nat) (pc : DWord) (clusters : Table Cluster) (cores : Table Core) :
    ({ s with clusters, cores } : State).wentOn g k l pc = { s.wentOn g k l pc with clusters, cores } := rfl

/-- A NOP that a thread issues alone, and the ends of waits after it, leave it in its mode, whatever translations and lines of code are
held. -/
theorem exec_nop_single {s : State} {g : Grp} {k l : Nat} (h : s.issues ⟨false, 0⟩ 1 g) (hset : g.acts = [(k, l)])
    (hstall : (s.quad g.q).stall = []) (hidle : (s.wentOn g k l g.next).idle) (hk : k ∈ Table.keys (s.wentOn g k l g.next).warps)
    (hl : l ∈ Table.keys ((s.wentOn g k l g.next).warp k).threads) (clusters : Table Cluster) (cores : Table Core) :
    ∃ u, exec (.nop ⟨false, 0⟩) { s with clusters, cores } = .next u ∧ (u.after.thread k l).tmode = ((s.wentOn g k l g.next).thread k l).tmode := by
  obtain ⟨-, hacts, -, hctl, -, hissuing⟩ := State.group_some h.1
  have ha : (k, l) ∈ g.acts := by rw [hset]; exact List.mem_singleton_self _
  have hexec := issue_eq (s := { s with clusters, cores }) h fun g s => (s, g.each fun _ => .done g.next)
  refine ⟨({ s with clusters, cores } : State).wentOn g k l g.next, hexec.trans (congrArg Host.Outcome.next ?_), ?_⟩
  · rw [Grp.each, hset]
    exact State.finish_single g.next (hacts.trans hset) (h.2.2 _ ha).1 (hissuing _ ha) hstall (by rw [hctl])
  · rw [State.wentOn_held]
    generalize s.wentOn g k l g.next = w at *
    exact State.after_tmode (State.idle_held hidle clusters cores) hk hl

-- A word across two lines ------------------------------------------------------------------------------------------------------

/-- One thread at 0x1007E, the last two bytes of the placed page's first line, with a handler; NOP stands there, half in that line and half
in the next. -/
def astray : State :=
  let s := State.reset.placeThread
  let s := { s with
    ctxs := s.ctxs.modify 1 fun c => { c with cb := setFld c.cb 64 64 0x10100 }
    warps := s.warps.modify 0 fun w => { w with threads := [(0, { (default : Thread) with pc := 0x1007E, wb := 16, st := .issuing })] } }
  (s.putLine 512 { data := BitVec.ofNat 1024 (0x0003 * 2 ^ 1008), tag := 0, scales := 0 }).putLine 513 { data := 0x0680, tag := 0, scales := 0 }

/-- The same as its quadrant comes to issue. -/
def astrayTurn : State := { astray with focus := 0 }

def astrayGrp : Grp := ⟨0, [(0, 0)], [(0, 0)], 0x1007E, 1, ⟨false, 0⟩, 0⟩

/-- The word that memory holds at the PC is NOP. -/
theorem astray_nop : decodeWords 0x06800003 none = .ok (.nop ⟨false, 0⟩, 1) := rfl

theorem astray_turn : astray.agenda = [] ∧ astray.nextQuad = some 0 ∧ astrayTurn.group ⟨false, 0⟩ 1 = some astrayGrp
    ∧ astrayTurn.overruns 1 (groupBell (0x06800003, none) 1) = false := by
  decide +kernel

theorem astray_memory : astrayTurn.lineBad 512 = none ∧ BitVec.ofNat 32 (astrayTurn.mem.read 0x1007E 4) = (0x06800003 : Word)
    ∧ astrayTurn.codeAt (coreOf 0) (astrayTurn.ctxOf 0) 0x1007E 512 = none := by
  decide +kernel

theorem astray_page : astrayTurn.translate (.fetch (clusterOf 0)) (astrayTurn.ctxOf 0) 0x1007E = .ok placedTrans
    ∧ astrayTurn.grant placedTrans 0x1007E { ex := true } = .ok (.mem 0x1007E 0) := by
  decide +kernel

theorem astray_holdsCode : astrayTurn.holdsCode 0 0x1007E 0x06800003 := by
  obtain ⟨hline, hword, hcode⟩ := astray_memory
  obtain ⟨htranslate, hgrant⟩ := astray_page
  refine ⟨placedTrans, 0x1007E, 0, htranslate, by decide, hgrant, ?_⟩
  rw [show 0x1007E / 128 = 512 from rfl, hcode]
  exact ⟨hline, hword⟩

theorem astray_issues : astrayTurn.issues ⟨false, 0⟩ 1 astrayGrp ∧ (astrayTurn.quad 0).stall = [] := by
  unfold State.issues
  decide +kernel

theorem astray_goes_on : let s := astrayTurn.wentOn astrayGrp 0 0 astrayGrp.next
    s.idle ∧ (0 ∈ Table.keys s.warps ∧ 0 ∈ Table.keys (s.warp 0).threads) ∧ (s.thread 0 0).tmode = false := by
  unfold State.idle
  decide +kernel

/-- The step takes the word from the first line, and traps. -/
theorem astray_traps : ∃ v, step astray = .next v ∧ (v.thread 0 0).tmode = true := by
  have h : (match step astray with
    | .next v => (v.thread 0 0).tmode
    | _ => false) = true := by decide +kernel
  split at h
  next v hv => exact ⟨v, hv, h⟩
  next => cases h

/-- Refutes O56: in `astray` memory holds NOP at the PC, but the step fetches 0x00000003, the word's half in the first line above zeros, and
traps; after NOP the thread would be outside trap mode. It turns on a PC that is no multiple of 4, which R59 excludes and the statement does
not: memory's bytes are read across lines, and the fetch reads one line. -/
theorem not_stepRunsDecoded : ¬ Obligations.StepRunsDecoded := by
  unfold Obligations.StepRunsDecoded
  rintro ⟨hstep, -⟩
  obtain ⟨hagenda, hnext, hgroup, hover⟩ := astray_turn
  obtain ⟨t, ht, -, -, hends, -⟩ := hstep astray 0 astrayGrp 0x06800003 none hagenda hnext hgroup (List.cons_ne_nil _ _) rfl fun a ha => by
    rw [List.mem_singleton.mp ha]
    exact ⟨astray_holdsCode, fun v hv => by cases hv⟩
  obtain ⟨hnop, -⟩ := hends _ _ astray_nop hover
  obtain ⟨hissues, hstall⟩ := astray_issues
  obtain ⟨hidle, ⟨hk, hl⟩, hmode⟩ := astray_goes_on
  obtain ⟨u, hexec, hout⟩ := exec_nop_single hissues rfl hstall hidle hk hl t.clusters t.cores
  obtain ⟨v, htraps, hin⟩ := astray_traps
  have hsame : u.after = v := Host.Outcome.next.inj ((hnop u (ht ▸ hexec)).symm.trans htraps)
  rw [hsame, hin, hmode] at hout
  cases hout

end Sys2Proof.Machine
end

section
/-! SUPPORT. Why XTRY does not always find its quadrant full for each warp of a group: in a table of warps that lists a slot twice, the access
that the first warp's result notes leaves one entry of the slot, and with it the granules that the other counted for (R102, R107, R108). -/
namespace Sys2Proof.Machine

/-- A warp of workgroup 0 that holds extended slot 0, with one thread, which is ISSUING. Its window starts at the slot's first row. -/
def slotHolder (lane : Nat) : Warp := { (default : Warp) with
  xheld := 1
  threads := [(lane, { (default : Thread) with wb := 64, st := .issuing })] }

/-- Warp slots 0 and 1 issue from lanes 0 and 1. The table of warps lists slot 0 twice, and 250 rows are left to the quadrant: too few for
three warps, enough for two. -/
def twiceListed : State := { State.reset with
  wgs := [(0, { (default : Workgroup) with xb := 2 })]
  warps := [(0, slotHolder 0), (0, slotHolder 0), (1, slotHolder 1)]
  quads := [(0, { (default : Quad) with lost := 1798, bundle := some { members := [(0, 0), (1, 1)], closing := false, words := 0 } })] }

/-- Both threads issue at address 0. -/
def twiceListedGrp : Grp := { q := 0, set := [(0, 0), (1, 1)], acts := [(0, 0), (1, 1)], pc := 0, n := 1, ctl := ⟨false, 0⟩, cycle := 0 }

theorem twiceListed_issues : twiceListed.issues ⟨false, 0⟩ 1 twiceListedGrp := by
  unfold State.issues
  decide +kernel

/-- Register v16 of each thread is the first row of its slot 0: held, in the file, and with nothing pending into it. -/
theorem twiceListed_open : ∀ x ∈ twiceListedGrp.acts, twiceListed.open twiceListedGrp [] (twiceListed.wrElems x (some { n := 16 })) := by
  unfold State.open State.calm State.ripe
  decide +kernel

/-- Neither warp holds slot 1, which their kernel declares, and no block is free. -/
theorem twiceListed_full : (∀ x ∈ twiceListedGrp.acts, 1 < (twiceListed.wgOf x.1).xb ∧ (twiceListed.warp x.1).xheld.getLsbD 1 = false)
    ∧ twiceListed.exfree twiceListedGrp.q = 0 := by
  decide +kernel

/-- Warp slot 1 is granted the block all the same. -/
theorem exec_xtry_twiceListed : (match exec (.xtry ⟨false, 0⟩ 16 1) twiceListed with
    | .next t => (t.warp 1).xheld
    | _ => 0) = 3 := by decide +kernel

/-- Refutes O14: in `twiceListed` no block is free, and XTRY of a slot that neither warp holds grants one to the second warp, where the
statement has every thread take 0xFFFFFFFF. It turns on a table of warps that lists one slot twice, which the statement does not exclude. -/
theorem not_windowAndBlocks : ¬ Obligations.WindowAndBlocks := by
  unfold Obligations.WindowAndBlocks
  rintro ⟨-, hlate⟩
  obtain ⟨hnot, hfree⟩ := twiceListed_full
  obtain ⟨-, -, -, -, hrefused⟩ := hlate ⟨false, 0⟩ 16 twiceListed twiceListedGrp twiceListed_issues twiceListed_open
  obtain ⟨t, hexec, ⟨⟨-, -, -, hwarp, -⟩, -⟩, -⟩ := hrefused 1 hnot (.inr hfree)
  have hgranted := exec_xtry_twiceListed
  rw [hexec] at hgranted
  have hkept : (t.warp 1).rest.xheld = 1 := congrArg Warp.xheld (hwarp 1).1
  exact absurd (hgranted.symm.trans hkept) (by decide)

end Sys2Proof.Machine
end

section
/-! SUPPORT. The end of a group, whatever its fates (R95, R116, R174): what closing its bundle may do to a thread, and what fates that pass a thread
on or let it wait do. -/
namespace Sys2Proof.Machine

theorem Thread.closed_alive {x y : Thread} (h : x.closed y) (ha : x.st.alive = true) : y.st.alive = true := by
  rcases h with rfl | ⟨-, rfl⟩
  · exact ha
  · rfl

theorem State.retireIfDead_alive {s : State} {k : Nat} (h : ∃ l < 32, (s.thread k l).st.alive = true) : s.retireIfDead k = s := by
  obtain ⟨l, hl, ha⟩ := h
  exact State.retireIfDead_id hl ha

theorem State.retireIfDeads_alive {s : State} (ks : List Nat) (h : ∀ k ∈ ks, ∃ l < 32, (s.thread k l).st.alive = true) :
    ks.foldl State.retireIfDead s = s := by
  induction ks with
  | nil => rfl
  | cons k ks ih =>
    rw [List.foldl_cons, State.retireIfDead_alive (h k List.mem_cons_self)]
    exact ih fun j hj => h j (List.mem_cons_of_mem _ hj)

/-- After its fates a group changes PCs, states and the quadrant's bundle alone, where each of its warps keeps a thread: members still ISSUING
may become READY. -/
theorem State.finish_closes {s u : State} {g : Grp} {fs : List ((Nat × Nat) × Fate)} (hfs : (byLane fs).foldl State.applyFate s = u)
    (halive : ∀ k ∈ g.warps, ∃ l < 32, (u.thread k l).st.alive = true) :
    u.still (s.finish g fs) ∧ (∀ k l, (u.thread k l).closed ((s.finish g fs).thread k l))
      ∧ ∀ k l, (k, l) ∉ g.set → (s.finish g fs).thread k l = u.thread k l := by
  have hend : ∀ w : State, (∀ k l, (u.thread k l).closed (w.thread k l)) → g.warps.foldl State.retireIfDead w = w := fun w hw =>
    State.retireIfDeads_alive _ fun k hk => (halive k hk).imp fun l hl => ⟨hl.1, Thread.closed_alive (hw k l) hl.2⟩
  simp only [State.finish, hfs]
  split
  · rw [hend u fun _ _ => .inl rfl]
    exact ⟨u.still_refl, fun _ _ => .inl rfl, fun _ _ _ => rfl⟩
  · generalize hv : u.modQuad g.q _ = v
    have hstill : u.still v := hv ▸ State.still_modQuad u g.q _ fun _ => rfl
    have hsame : ∀ k l, v.thread k l = u.thread k l := fun _ _ => hv ▸ rfl
    split
    · obtain ⟨hclose, hclosed, hout⟩ := State.closeBundle_spec v g
      have hclosed' : ∀ k l, (u.thread k l).closed ((v.closeBundle g).thread k l) := fun k l => hsame k l ▸ hclosed k l
      rw [hend _ hclosed']
      exact ⟨State.still_trans hstill hclose, hclosed', fun k l hk => (hout k l hk).trans (hsame k l)⟩
    · have hclosed : ∀ k l, (u.thread k l).closed (v.thread k l) := fun k l => .inl (hsame k l)
      rw [hend v hclosed]
      exact ⟨hstill, hclosed, fun k l _ => hsame k l⟩

-- Fates that concern one thread alone -----------------------------------------------------------------------------------

/-- The thread goes on, passes a roll call, or waits. -/
def Fate.light : Fate → Bool
  | .done _ | .met _ | .wait _ => true
  | _ => false

/-- What such a fate makes of its thread. -/
def Fate.turn (f : Fate) (x : Thread) : Thread := match f with
  | .done pc => { x with pc }
  | .met pc => { x with pc, st := .ready, why := .nothing }
  | .wait w => { x with st := .waiting, why := w }
  | _ => x

theorem Fate.turn_alive (f : Fate) {x : Thread} (h : x.st = .issuing) : (f.turn x).st.alive = true := by
  cases f <;> simp [Fate.turn, h, TState.alive]

theorem State.applyFate_light {s : State} {a : Nat × Nat} {f : Fate} (h : f.light = true) : s.applyFate (a, f) = s.modThread a.1 a.2 f.turn := by
  cases f with
  | done | met | wait => rfl
  | _ => cases h

theorem State.foldl_light (F : Nat × Nat → Fate) (l : List (Nat × Nat)) (s : State) (hnodup : l.Nodup) (hlight : ∀ a ∈ l, (F a).light = true) :
    let u := (l.map fun a => (a, F a)).foldl State.applyFate s
    s.warpsOnly Warp.still u ∧ ∀ k i, u.thread k i = if (k, i) ∈ l then (F (k, i)).turn (s.thread k i) else s.thread k i := by
  induction l generalizing s with
  | nil => exact ⟨s.warpsOnly_refl _, fun k i => by simp⟩
  | cons a l ih =>
    obtain ⟨hnew, hnodup⟩ := List.nodup_cons.mp hnodup
    rw [List.map_cons, List.foldl_cons, State.applyFate_light (hlight a List.mem_cons_self)]
    obtain ⟨honly, hthread⟩ := ih (s.modThread a.1 a.2 (F a).turn) hnodup fun b hb => hlight b (List.mem_cons_of_mem _ hb)
    refine ⟨State.warpsOnly_trans (State.warpsOnly_modWarp s a.1 (φ := fun x => x.modThread a.2 _) fun _ => rfl) honly, fun k i => ?_⟩
    rw [hthread, State.thread_modThread]
    by_cases h : (k, i) = a
    · subst h; simp [hnew]
    · have hne : ¬ (k = a.1 ∧ i = a.2) := fun e => h (Prod.ext e.1 e.2)
      simp [h, hne]

/-- A group whose body leaves its threads ISSUING and gives each such a fate: it changes PCs, states and what threads wait for, and the
quadrant's bundle. -/
theorem issue_light {c : Ctl} {n : Nat} {s u : State} {g : Grp} {body : Grp → State → State × List ((Nat × Nat) × Fate)} (h : s.issues c n g)
    {F : Nat × Nat → Fate} (hbody : body g s = (u, g.each F)) (hlight : ∀ a ∈ g.acts, (F a).light = true)
    (hissuing : ∀ a ∈ g.acts, (u.thread a.1 a.2).st = .issuing) :
    ∃ t, issue c n s body = .next t ∧ t.rest = u.rest ∧ (∀ q, (t.quad q).rest = (u.quad q).rest) ∧ (∀ k, (t.warp k).still = (u.warp k).still)
      ∧ (∀ a ∈ g.acts, ((F a).turn (u.thread a.1 a.2)).closed (t.thread a.1 a.2)) ∧ ∀ k l, (k, l) ∉ g.acts → t.thread k l = u.thread k l := by
  obtain ⟨-, hset, -⟩ := State.group_some h.1
  obtain ⟨r, hr, hmem⟩ := byLane_map F g.acts
  have hnodup : r.Nodup := by
    refine List.Nodup.of_map (fun a => (a, F a)) ?_
    rw [← hr]
    exact byLane_nodup ((List.Nodup.of_map _ h.2.1).map fun a b hab => congrArg Prod.fst hab)
  obtain ⟨⟨hrest, hquads, hwarp⟩, hthread⟩ := State.foldl_light F r u hnodup fun a ha => hlight a ((hmem a).mp ha)
  simp only [hmem] at hthread
  have halive : ∀ k ∈ g.warps, ∃ l < 32, ((((r.map fun a => (a, F a)).foldl State.applyFate u).thread k l)).st.alive = true := by
    intro k hk
    obtain ⟨a, ha, rfl⟩ := List.mem_map.mp (List.mem_eraseDups.mp hk)
    have ha : a ∈ g.acts := hset ▸ ha
    exact ⟨a.2, (h.2.2 a ha).1, by rw [hthread, if_pos ha]; exact Fate.turn_alive _ (hissuing a ha)⟩
  obtain ⟨⟨hrest', hquad', hwarp'⟩, hclosed, hout⟩ := State.finish_closes (congrArg (List.foldl State.applyFate u) hr) halive
  refine ⟨_, (issue_eq h body).trans (by rw [hbody]; rfl), hrest'.trans hrest, fun q => (hquad' q).trans ?_, fun k => (hwarp' k).1.trans (hwarp k),
    fun a ha => ?_, fun k l hk => ?_⟩
  · rw [State.quad, State.quad, hquads]
  · have := hclosed a.1 a.2
    rwa [hthread, if_pos ha] at this
  · rw [hout k l (hset ▸ hk), hthread, if_neg hk]

theorem Fate.closed_past {f : Fate} {x y : Thread} {pc : DWord} (hf : f = .done pc ∨ f = .met pc) (h : (f.turn x).closed y) (hx : x.st = .issuing) :
    y.pc = pc ∧ (y.st = .issuing ∨ y.st = .ready) := by
  rcases hf with rfl | rfl <;> rcases h with rfl | ⟨-, rfl⟩
  · exact ⟨rfl, .inl hx⟩
  · exact ⟨rfl, .inr rfl⟩
  · exact ⟨rfl, .inr rfl⟩
  · exact ⟨rfl, .inr rfl⟩

theorem Fate.closed_waiting {w : Why} {x y : Thread} (h : ((Fate.wait w).turn x).closed y) : y.st = .waiting := by
  rcases h with rfl | ⟨hst, -⟩
  · rfl
  · cases hst

end Sys2Proof.Machine
end

section
/-! SUPPORT. Roll calls (R178 to R183): what arrivals leave of a roster, when the completion test completes its call, and what it leaves alone. -/
namespace Sys2Proof.Machine

theorem Table.get_map_of_default {α : Type} [Inhabited α] (f : Nat → α → α) (hf : ∀ k, f k default = default) (t : Table α) (k : Nat) :
    Table.get (Table.map t f) k = f k (Table.get t k) := by
  induction t with
  | nil => exact (hf k).symm
  | cons e t ih =>
    rw [Table.map, List.map_cons, Table.get, Table.get]
    split
    · next h => rw [h]
    · exact ih

-- A roster after a change (R178) ----------------------------------------------------------------------------------------

/-- Nothing changes but workgroups; those keep their kernels. -/
def State.wgsOnly (s t : State) : Prop := t = { s with wgs := t.wgs } ∧ ∀ n, (t.wgs.get n).kernel = (s.wgs.get n).kernel

theorem State.wgsOnly_refl (s : State) : s.wgsOnly s := ⟨rfl, fun _ => rfl⟩
theorem State.wgsOnly_trans {s t u : State} (h : s.wgsOnly t) (i : t.wgsOnly u) : s.wgsOnly u :=
  ⟨i.1.trans (by rw [h.1]), fun n => (i.2 n).trans (h.2 n)⟩

theorem State.wgs_get_modWg (s : State) (wg n : Nat) (f : Workgroup → Workgroup) :
    (s.modWg wg f).wgs.get n = if n = wg then f (s.wgs.get wg) else s.wgs.get n := Table.get_put s.wgs n wg (f (s.wgs.get wg))

theorem State.wgsOnly_modWg (s : State) (wg : Nat) {f : Workgroup → Workgroup} (hf : ∀ g, (f g).kernel = g.kernel) : s.wgsOnly (s.modWg wg f) := by
  refine ⟨rfl, fun n => ?_⟩
  rw [State.wgs_get_modWg]
  split
  · next h => rw [hf, h]
  · rfl

theorem State.wgsOnly_modRoster (s : State) (wg r : Nat) (f : Roster → Roster) : s.wgsOnly (s.modRoster wg r f) :=
  State.wgsOnly_modWg s wg fun _ => rfl

theorem State.roster_modRoster (s : State) (wg r : Nat) (f : Roster → Roster) : (s.modRoster wg r f).roster wg r = f (s.roster wg r) := by
  rw [State.roster, State.modRoster, State.wgs_get_modWg, if_pos rfl, Table.get_put_same]
  rfl

theorem State.wgsOnly_warps {s t : State} (h : s.wgsOnly t) : t.warps = s.warps := by rw [h.1]
theorem State.wgsOnly_warp {s t : State} (h : s.wgsOnly t) (k : Nat) : t.warp k = s.warp k := by rw [State.warp, State.wgsOnly_warps h]; rfl
theorem State.wgsOnly_thread {s t : State} (h : s.wgsOnly t) (k l : Nat) : t.thread k l = s.thread k l := by rw [State.thread, State.wgsOnly_warp h]; rfl
theorem State.wgsOnly_mem {s t : State} (h : s.wgsOnly t) : t.mem = s.mem := by rw [h.1]

-- Arrivals (R179, R183) ---------------------------------------------------------------------------------------------------

/-- The threads of a list are among a roster's arrivals; a call has begun where there was none. -/
def Roster.joined (ro : Roster) (bits : List Nat) (ro' : Roster) : Prop :=
  ro'.members = ro.members ∧ ro'.phase = ro.phase ∧ (bits ≠ [] → ro.st ≠ .unused → ro'.st = .calling)
    ∧ ∀ i < 1024, ro'.pending.getLsbD i = (ro.pending.getLsbD i || bits.contains i)

theorem getLsbD_two_pow {w i b : Nat} (hi : i < w) : (BitVec.ofNat w (2 ^ b)).getLsbD i = (b == i) := by
  rw [BitVec.getLsbD_ofNat, Nat.testBit_two_pow, decide_eq_true hi, Bool.true_and]
  rfl

theorem State.arrive_roster (s : State) (r : Nat) (a : Nat × Nat) : (s.arrive r a).roster (s.warp a.1).wg r
    = { s.roster (s.warp a.1).wg r with
        pending := (s.roster (s.warp a.1).wg r).pending ||| BitVec.ofNat 1024 (2 ^ s.pendingBit a)
        st := if (s.roster (s.warp a.1).wg r).st = .standing then .calling else (s.roster (s.warp a.1).wg r).st } :=
  State.roster_modRoster ..

/-- Threads of one warp arrive. -/
theorem State.foldl_arrive {r k : Nat} (l : List (Nat × Nat)) (s : State) (hk : ∀ a ∈ l, a.1 = k) :
    let t := l.foldl (fun s a => s.arrive r a) s
    s.wgsOnly t ∧ (s.rosterAt k r).joined (l.map s.pendingBit) (t.rosterAt k r) := by
  induction l generalizing s with
  | nil => exact ⟨s.wgsOnly_refl, rfl, rfl, fun h => absurd rfl h, fun i _ => by simp [State.rosterAt]⟩
  | cons a l ih =>
    obtain rfl := hk a List.mem_cons_self
    have hone : s.wgsOnly (s.arrive r a) := State.wgsOnly_modRoster ..
    obtain ⟨honly, hmembers, hphase, hst, hpending⟩ := ih (s.arrive r a) fun b hb => hk b (List.mem_cons_of_mem _ hb)
    have hbit : (s.arrive r a).pendingBit = s.pendingBit := funext fun b => by simp only [State.pendingBit, State.wgsOnly_warp hone]
    have hro : (s.arrive r a).rosterAt a.1 r = (s.arrive r a).roster (s.warp a.1).wg r := by rw [State.rosterAt, State.wgsOnly_warp hone]
    rw [hro, State.arrive_roster] at hmembers hphase hst hpending
    rw [hbit] at hst hpending
    refine ⟨State.wgsOnly_trans hone honly, hmembers, hphase, fun _ hused => ?_, fun i hi => ?_⟩
    · have hcalling : (if (s.roster (s.warp a.1).wg r).st = .standing then RState.calling else (s.roster (s.warp a.1).wg r).st) = .calling := by
        cases h : (s.roster (s.warp a.1).wg r).st
        · exact absurd h hused
        · rfl
        · rfl
      cases l with
      | nil => rw [List.foldl_cons, List.foldl_nil, hro, State.arrive_roster]; exact hcalling
      | cons b l => exact hst (by simp) (fun e => nomatch hcalling.symm.trans e)
    · refine (hpending i hi).trans ?_
      rw [BitVec.getLsbD_or, getLsbD_two_pow hi, List.map_cons, List.contains_cons, Bool.or_assoc, Bool.beq_comm (a := i)]
      rfl

-- The completion test (R179) -----------------------------------------------------------------------------------------------

/-- What the end of a roll call leaves alone: memory, warps but for their threads, and threads that do not wait. -/
def State.calls (s t : State) : Prop :=
  t.mem = s.mem ∧ s.nextId ≤ t.nextId ∧ (∀ k, (t.warp k).still = (s.warp k).still)
    ∧ ∀ k l, (s.thread k l).st ≠ .waiting → t.thread k l = s.thread k l

theorem State.calls_refl (s : State) : s.calls s := ⟨rfl, Nat.le_refl _, fun _ => rfl, fun _ _ _ => rfl⟩
theorem State.calls_trans {s t u : State} (h : s.calls t) (i : t.calls u) : s.calls u := by
  obtain ⟨hmem, hid, hwarp, hthread⟩ := h
  obtain ⟨imem, iid, iwarp, ithread⟩ := i
  refine ⟨imem.trans hmem, Nat.le_trans hid iid, fun k => (iwarp k).trans (hwarp k), fun k l hst => ?_⟩
  rw [ithread k l (by rw [hthread k l hst]; exact hst), hthread k l hst]
theorem State.calls_of_wgsOnly {s t : State} (h : s.wgsOnly t) : s.calls t :=
  ⟨State.wgsOnly_mem h, by rw [h.1], fun k => by rw [State.wgsOnly_warp h], fun k l _ => State.wgsOnly_thread h k l⟩

theorem Thread.passRoll_of_not_waiting {x : Thread} (h : x.st ≠ .waiting) (r : Nat) (phase : BitVec 16) : x.passRoll r phase = x := by
  unfold Thread.passRoll
  split
  · next hw _ => exact absurd hw h
  · rfl

/-- A warp's threads that wait on a roster go on where its call has completed. -/
def Warp.passRolls (w : Warp) (wg r : Nat) (phase : BitVec 16) : Warp :=
  if w.wg == wg then { w with threads := w.threads.map fun _ x => x.passRoll r phase } else w

theorem State.passRolls_warp (s : State) (wg r k : Nat) : (s.passRolls wg r).warp k = (s.warp k).passRolls wg r (s.roster wg r).phase :=
  Table.get_map_of_default (fun _ (w : Warp) => w.passRolls wg r (s.roster wg r).phase) (fun _ => by unfold Warp.passRolls; split <;> rfl) s.warps k

theorem Warp.passRolls_still (w : Warp) (wg r : Nat) (phase : BitVec 16) : (w.passRolls wg r phase).still = w.still := by
  unfold Warp.passRolls; split <;> rfl

theorem Warp.passRolls_thread {w : Warp} {l : Nat} (h : (w.thread l).st ≠ .waiting) (wg r : Nat) (phase : BitVec 16) :
    (w.passRolls wg r phase).thread l = w.thread l := by
  unfold Warp.passRolls
  split
  · exact (Table.get_map_of_default (fun _ (x : Thread) => x.passRoll r phase) (fun _ => rfl) w.threads l).trans
      (Thread.passRoll_of_not_waiting h r phase)
  · rfl

theorem State.passRolls_calls (s : State) (wg r : Nat) : s.calls (s.passRolls wg r) := by
  refine ⟨rfl, Nat.le_refl _, fun k => ?_, fun k l hst => ?_⟩
  · rw [State.passRolls_warp, Warp.passRolls_still]
  · rw [State.thread, State.passRolls_warp]
    exact Warp.passRolls_thread hst ..

/-- A roster that has completed its roll call: STANDING again, one PHASE on. -/
def Roster.called (ro : Roster) : Roster := { ro with phase := ro.phase + 1, pending := 0, st := .standing }

/-- The roll call of a roster completes, and its members know of each other's tile writes. -/
def State.nextPhase (s : State) (wg r : Nat) : State :=
  (s.modRoster wg r Roster.called).modWg wg fun g => { g with unready := g.unready.map (shareTiles (s.roster wg r).members) }

/-- And the threads that wait for it pass. -/
def State.callEnd (s : State) (wg r : Nat) : State := (s.nextPhase wg r).passRolls wg r

/-- A roster without members, the homeroom aside, becomes UNUSED. -/
def State.disuse (s : State) (wg r : Nat) : State :=
  if (s.roster wg r).st = .standing && (s.roster wg r).members == 0 && r != 0 then (s.unbind wg r).modRoster wg r (fun x => { x with st := .unused })
  else s

/-- Where no store buffer is to be committed, the completion test completes a call in which all have arrived, and ends a roster that has lost
its last member. -/
theorem State.completionTest_eq {s : State} {wg r : Nat} (h : r = 0 → (s.kernel (s.wgs.get wg).kernel).repeatable = false) :
    s.completionTest wg r = (if (s.roster wg r).st = .calling && (List.range 32).all (fun w => !(s.roster wg r).members.getLsbD w
      || s.arrived wg (s.roster wg r) w) then s.callEnd wg r else s).disuse wg r := by
  have hcommit : s.rollCommit wg r = (true, s) := by
    unfold State.rollCommit
    by_cases hr : r = 0
    · simp [h hr]
    · simp [hr]
  unfold State.completionTest
  simp only [hcommit, if_true]
  rfl

theorem State.nextPhase_wgsOnly (s : State) (wg r : Nat) : s.wgsOnly (s.nextPhase wg r) :=
  State.wgsOnly_trans (s.wgsOnly_modRoster wg r Roster.called) (State.wgsOnly_modWg _ wg fun _ => rfl)

theorem State.nextPhase_roster (s : State) (wg r : Nat) : (s.nextPhase wg r).roster wg r = (s.roster wg r).called := by
  rw [← State.roster_modRoster s wg r Roster.called, State.nextPhase, State.roster, State.wgs_get_modWg, if_pos rfl]
  rfl

theorem State.callEnd_calls (s : State) (wg r : Nat) : s.calls (s.callEnd wg r) :=
  State.calls_trans (State.calls_of_wgsOnly (s.nextPhase_wgsOnly wg r)) (State.passRolls_calls ..)

theorem State.callEnd_roster (s : State) (wg r : Nat) : (s.callEnd wg r).roster wg r = (s.roster wg r).called := s.nextPhase_roster wg r

theorem State.unbind_calls (s : State) (wg r : Nat) : s.calls (s.unbind wg r) := by
  unfold State.unbind
  split
  · exact s.calls_refl
  · exact ⟨rfl, Nat.le_refl _, fun _ => rfl, fun _ _ _ => rfl⟩

theorem State.roster_modMatrix (s : State) (core m wg r : Nat) (f : MCtx → MCtx) : (s.modMatrix core m f).roster wg r = s.roster wg r := rfl

theorem State.unbind_members (s : State) (wg r : Nat) : ((s.unbind wg r).roster wg r).members = (s.roster wg r).members := by
  unfold State.unbind
  split
  · rfl
  · simp only [State.roster_modMatrix, State.roster_modRoster]
    rfl

theorem State.disuse_calls (s : State) (wg r : Nat) : s.calls (s.disuse wg r) := by
  unfold State.disuse
  split
  · exact State.calls_trans (s.unbind_calls wg r) (State.calls_of_wgsOnly (State.wgsOnly_modRoster ..))
  · exact s.calls_refl

theorem State.disuse_members (s : State) (wg r : Nat) : ((s.disuse wg r).roster wg r).members = (s.roster wg r).members := by
  unfold State.disuse
  split
  · rw [State.roster_modRoster]; exact s.unbind_members wg r
  · rfl

theorem State.disuse_kept {s : State} {wg r : Nat} (h : (s.roster wg r).members ≠ 0) : s.disuse wg r = s := by
  rw [State.disuse, if_neg]
  simp only [beq_false_of_ne h, Bool.and_false, Bool.false_and, Bool.false_eq_true, not_false_eq_true]

theorem State.disuse_unused {s : State} {wg r : Nat} (hst : (s.roster wg r).st = .standing) (hnone : (s.roster wg r).members = 0) (hr : r ≠ 0) :
    ((s.disuse wg r).roster wg r).st = .unused := by
  rw [State.disuse, if_pos (by simp [hst, hnone, hr]), State.roster_modRoster]

/-- What the completion test leaves, where no store buffer is to be committed. -/
theorem State.completionTest_calls {s : State} {wg r : Nat} (h : r = 0 → (s.kernel (s.wgs.get wg).kernel).repeatable = false) :
    s.calls (s.completionTest wg r) ∧ ((s.completionTest wg r).roster wg r).members = (s.roster wg r).members := by
  rw [State.completionTest_eq h]
  split
  · refine ⟨State.calls_trans (s.callEnd_calls wg r) (State.disuse_calls ..), ?_⟩
    rw [State.disuse_members, State.callEnd_roster]; rfl
  · exact ⟨s.disuse_calls wg r, s.disuse_members wg r⟩

theorem State.completionTest_completes {s : State} {wg r : Nat} (h : r = 0 → (s.kernel (s.wgs.get wg).kernel).repeatable = false)
    (hst : (s.roster wg r).st = .calling) (hall : ∀ w < 32, (s.roster wg r).members.getLsbD w = true → s.arrived wg (s.roster wg r) w = true)
    (hsome : (s.roster wg r).members ≠ 0) : s.completionTest wg r = s.callEnd wg r := by
  have harrived : (List.range 32).all (fun w => !(s.roster wg r).members.getLsbD w || s.arrived wg (s.roster wg r) w) = true := by
    rw [List.all_eq_true]
    intro w hw
    cases hm : (s.roster wg r).members.getLsbD w
    · rfl
    · exact hall w (List.mem_range.mp hw) hm
  rw [State.completionTest_eq h, harrived, hst, if_pos (by rfl), State.disuse_kept]
  rw [State.callEnd_roster]
  exact hsome

/-- While a member has not arrived, nothing comes of the test. -/
theorem State.completionTest_waits {s : State} {wg r w : Nat} (h : r = 0 → (s.kernel (s.wgs.get wg).kernel).repeatable = false) (hw : w < 32)
    (hmember : (s.roster wg r).members.getLsbD w = true) (hout : (s.roster wg r).st = .calling → s.arrived wg (s.roster wg r) w = false) :
    s.completionTest wg r = s := by
  have hsome : (s.roster wg r).members ≠ 0 := fun e => by rw [e] at hmember; simp at hmember
  rw [State.completionTest_eq h, if_neg, State.disuse_kept hsome]
  intro hc
  rw [Bool.and_eq_true, decide_eq_true_eq, List.all_eq_true] at hc
  obtain ⟨hst, hall⟩ := hc
  have := hall w (List.mem_range.mpr hw)
  rw [hmember, hout hst] at this
  cases this

end Sys2Proof.Machine
end

section
/-! SUPPORT. ROLL, ROLLA and ROLLW of one warp (R179, R183): its threads arrive, the roll call completes or waits for another member, and each
thread passes or waits. -/
namespace Sys2Proof.Machine

-- Groups with nothing to wait for before their body ---------------------------------------------------------------------

theorem Grp.not_empty {g : Grp} (h : g.acts ≠ []) : g.acts.isEmpty = false := by simpa using h

theorem noTrapMode_open {g : Grp} {s : State} (hne : g.acts ≠ []) (h : ∀ a ∈ g.acts, (s.thread a.1 a.2).tmode = false)
    (body : Grp → State → State × List ((Nat × Nat) × Fate)) : noTrapMode g s body = body g s := by
  have hnone : g.acts.filter (fun a => (s.thread a.1 a.2).tmode) = [] := List.filter_eq_nil_iff.mpr fun a ha => by simp [h a ha]
  have hall : g.acts.filter (fun a => !(s.thread a.1 a.2).tmode) = g.acts := List.filter_eq_self.mpr fun a ha => by simp [h a ha]
  unfold noTrapMode
  simp only [hnone, hall, Grp.not_empty hne, Bool.false_eq_true, if_false, List.map_nil, List.nil_append]

/-- A release of threads with nothing outstanding waits for nothing. -/
theorem releasing_quiet {g : Grp} {s : State} (hne : g.acts ≠ []) (hdefer : ∀ a ∈ g.acts, (s.thread a.1 a.2).defer = [])
    (h : ∀ a ∈ g.acts, s.quiet a) (why : Why) (body : Grp → State → State × List ((Nat × Nat) × Fate)) : releasing g s why body = body g s := by
  have hdrain : ∀ a ∈ g.acts, s.drainReds a.1 a.2 = s := by
    intro a ha
    have hnone : s.kreqs.filter (fun r => r.slot == a.1 && r.lane == a.2) = [] :=
      List.filter_eq_nil_iff.mpr fun r hr => by
        have := List.all_eq_true.mp (h a ha).1 r hr
        rw [Bool.not_eq_true'] at this
        rw [this]
        exact Bool.false_ne_true
    rw [State.drainReds, hnone, List.foldl_nil]
  have hfold : ∀ l : List (Nat × Nat), (∀ a ∈ l, a ∈ g.acts) → l.foldl (fun s a => s.drainReds a.1 a.2) s = s := by
    intro l hl
    induction l with
    | nil => rfl
    | cons a l ih => rw [List.foldl_cons, hdrain a (hl a List.mem_cons_self)]; exact ih fun b hb => hl b (List.mem_cons_of_mem _ hb)
  have hsettle : s.settleReleases g = (s, [], g) := by
    simp only [State.settleReleases, hfold g.acts fun _ => id, State.deferred_nil hdefer, State.takeDeferred_id hdefer, List.any_nil, Bool.not_false,
      List.filter_true]
  have hremote : g.acts.any (fun a => (s.remoteWhy why a).isSome) = false :=
    List.any_eq_false.mpr fun a ha => by simp [State.remoteWhy, (h a ha).2]
  unfold releasing
  simp only [hsettle, Grp.not_empty hne, hremote, Bool.false_eq_true, if_false, List.nil_append]

theorem interlocked_calm {g : Grp} {s : State} {els : State → Nat × Nat → List Elem} (h : ∀ a ∈ g.acts, s.calm (els s a))
    (body : Grp → State → State × List ((Nat × Nat) × Fate)) : interlocked els body g s = body g s := by
  unfold interlocked
  rw [State.interlocks_calm h]

-- One warp at a roster ----------------------------------------------------------------------------------------------------

/-- All living threads of warp k, with nothing outstanding, are at a roll-call instruction on a declared roster that is in use; no store buffer is to
be committed. -/
structure State.AtRoster (s : State) (g : Grp) (k r : Nat) : Prop where
  acts : g.acts = (s.warp k).aliveLanes.map fun l => (k, l)
  ready : ∀ x ∈ g.acts, (s.thread x.1 x.2).tmode = false ∧ s.quiet x
  declared : r ≤ (s.wgOf k).nrost
  plain : (s.kernelOf k).repeatable = false
  slot : s.slotOf (s.warp k).wg (s.warp k).wid = some k
  wid : (s.warp k).wid < 32
  used : (s.rosterAt k r).st ≠ .unused

theorem State.AtRoster.slot_eq {s : State} {g : Grp} {k r : Nat} (h : s.AtRoster g k r) : ∀ x ∈ g.acts, x.1 = k := by
  rw [h.acts]
  intro x hx
  obtain ⟨l, -, rfl⟩ := List.mem_map.mp hx
  rfl

theorem eraseDups_const {l : List Nat} {n : Nat} (hne : l ≠ []) (h : ∀ x ∈ l, x = n) : l.eraseDups = [n] := by
  cases l with
  | nil => exact absurd rfl hne
  | cons a l =>
    obtain rfl := h a List.mem_cons_self
    have hnone : l.filter (fun b => !b == a) = [] := List.filter_eq_nil_iff.mpr fun b hb => by simp [h b (List.mem_cons_of_mem _ hb)]
    rw [List.eraseDups_cons, hnone, List.eraseDups_nil]

theorem State.groupsOf_one {s : State} {g : Grp} {k : Nat} (hne : g.acts ≠ []) (h : ∀ x ∈ g.acts, x.1 = k) : s.groupsOf g.acts = [(s.warp k).wg] :=
  eraseDups_const (by simpa using hne) fun n hn => by
    obtain ⟨x, hx, rfl⟩ := List.mem_map.mp hn
    rw [h x hx]

theorem shift_one_eq (n : Nat) : BitVec.ofNat 32 (2 ^ n) = (1 : Word) <<< n := by
  apply BitVec.eq_of_toNat_eq
  simp [BitVec.toNat_shiftLeft, Nat.shiftLeft_eq]

theorem shift_one_getLsbD {n w : Nat} (hw : w < 32) : ((1 : Word) <<< n).getLsbD w = (n == w) := by
  rw [← shift_one_eq, getLsbD_two_pow hw]

/-- A warp is the only member of a roster; or it is one of several, and another has not arrived. -/
def State.onlyMember (s : State) (k r : Nat) : Prop := (s.rosterAt k r).members = (1 : Word) <<< (s.warp k).wid
def State.othersOut (s : State) (k r : Nat) : Prop :=
  (s.rosterAt k r).members.getLsbD (s.warp k).wid = true ∧ ∃ w < 32, w ≠ (s.warp k).wid ∧ (s.rosterAt k r).members.getLsbD w = true
    ∧ s.arrived (s.warp k).wg (s.rosterAt k r) w = false

theorem State.AtRoster.member {s : State} {g : Grp} {k r : Nat} (h : s.AtRoster g k r) (hm : s.onlyMember k r ∨ s.othersOut k r) :
    (s.rosterAt k r).members.getLsbD (s.warp k).wid = true := by
  rcases hm with hm | hm
  · rw [show (s.rosterAt k r).members = _ from hm, shift_one_getLsbD h.wid, beq_self_eq_true]
  · exact hm.1

theorem State.rollFault_none {s : State} {g : Grp} {k r : Nat} (h : s.AtRoster g k r) {arrive : Bool} {rs ws : List Elem} {x : Nat × Nat}
    (hx : x ∈ g.acts) (hm : (s.rosterAt k r).members.getLsbD (s.warp k).wid = true) (ho : s.open g rs ws) :
    s.rollFault g r arrive rs ws x = none := by
  obtain rfl := h.slot_eq x hx
  have hused : ((s.rosterAt x.1 r).st == .unused) = false := beq_false_of_ne h.used
  have hdecl : s.rosterDeclared x.1 r = true := decide_eq_true h.declared
  simp only [State.rollFault, hdecl, hused, hm, Bool.not_true, Bool.or_false, Bool.false_eq_true, if_false, Bool.and_false, Bool.false_and]
  exact State.elemsFault_open ho

theorem State.open_nil (s : State) (g : Grp) : s.open g [] [] :=
  ⟨fun _ he => absurd he List.not_mem_nil, fun _ he => absurd he List.not_mem_nil, fun _ he => absurd he List.not_mem_nil⟩

-- All of them arrive (R179) ------------------------------------------------------------------------------------------------

/-- The threads of a group have arrived at a roster. -/
def State.arrivals (s : State) (g : Grp) (r : Nat) : State := g.acts.foldl (fun s a => s.arrive r a) s

theorem State.rosterAt_wgsOnly {s t : State} (h : s.wgsOnly t) (k r : Nat) : t.rosterAt k r = t.roster (s.warp k).wg r := by
  rw [State.rosterAt, State.wgsOnly_warp h]

theorem State.slotOf_warps {s t : State} (h : t.warps = s.warps) (wg wid : Nat) : t.slotOf wg wid = s.slotOf wg wid := by
  rw [State.slotOf, State.slotOf, h]

section
variable {s : State} {g : Grp} {k r : Nat} (h : s.AtRoster g k r) (hne : g.acts ≠ [])
include h

theorem State.arrivals_spec : s.wgsOnly (s.arrivals g r) ∧ (s.rosterAt k r).joined (g.acts.map s.pendingBit) ((s.arrivals g r).rosterAt k r) :=
  State.foldl_arrive g.acts s h.slot_eq

theorem State.AtRoster.plain_of_wgsOnly {t : State} (ht : s.wgsOnly t) : (t.kernel (t.wgs.get (s.warp k).wg).kernel).repeatable = false := by
  have hkernel := ht.2 (s.warp k).wg
  rw [hkernel, ht.1]
  exact h.plain

/-- The warp's own threads have all arrived. -/
theorem State.arrivals_own : (s.arrivals g r).arrived (s.warp k).wg ((s.arrivals g r).rosterAt k r) (s.warp k).wid = true := by
  obtain ⟨honly, -, -, -, hpending⟩ := s.arrivals_spec h
  rw [State.arrived, State.slotOf_warps (State.wgsOnly_warps honly), h.slot]
  simp only [State.wgsOnly_warp honly, List.all_eq_true]
  intro l hl
  have hmem : (k, l) ∈ g.acts := by rw [h.acts]; exact List.mem_map_of_mem hl
  have hlt : l < 32 := List.mem_range.mp (List.mem_filter.mp hl).1
  have hbit : s.pendingBit (k, l) = 32 * (s.warp k).wid + l := rfl
  rw [hpending _ (by have := h.wid; omega), ← hbit, List.contains_iff_mem.mpr (List.mem_map_of_mem hmem), Bool.or_true]

/-- They make no arrival of another warp. -/
theorem State.arrivals_other {w : Nat} (hw : w < 32) (hother : w ≠ (s.warp k).wid) (hout : s.arrived (s.warp k).wg (s.rosterAt k r) w = false) :
    (s.arrivals g r).arrived (s.warp k).wg ((s.arrivals g r).rosterAt k r) w = false := by
  obtain ⟨honly, -, -, -, hpending⟩ := s.arrivals_spec h
  rw [State.arrived] at hout ⊢
  rw [State.slotOf_warps (State.wgsOnly_warps honly)]
  cases hslot : s.slotOf (s.warp k).wg w with
  | none => rw [hslot] at hout; exact hout
  | some j =>
    rw [hslot] at hout
    simp only [State.wgsOnly_warp honly, List.all_eq_false] at hout ⊢
    obtain ⟨l, hl, hnot⟩ := hout
    have hlt : l < 32 := List.mem_range.mp (List.mem_filter.mp hl).1
    refine ⟨l, hl, ?_⟩
    rw [hpending _ (by omega), Bool.or_eq_true, not_or]
    refine ⟨hnot, fun hbit => hother ?_⟩
    obtain ⟨x, hx, hbit⟩ := List.mem_map.mp (List.contains_iff_mem.mp hbit)
    have hlane : x.2 < 32 := by
      rw [h.acts] at hx
      obtain ⟨i, hi, rfl⟩ := List.mem_map.mp hx
      exact List.mem_range.mp (List.mem_filter.mp hi).1
    rw [State.pendingBit, h.slot_eq x hx] at hbit
    omega

/-- While another member has not arrived, the call goes on. -/
theorem State.arrivals_wait (hothers : s.othersOut k r) : (s.arrivals g r).completionTest (s.warp k).wg r = s.arrivals g r := by
  obtain ⟨-, w, hw, hother, hmember, hout⟩ := hothers
  obtain ⟨honly, hmembers, -⟩ := s.arrivals_spec h
  have hro := State.rosterAt_wgsOnly honly k r
  have harrived := State.arrivals_other h hw hother hout
  rw [hro] at hmembers harrived
  exact State.completionTest_waits (fun _ => h.plain_of_wgsOnly honly) hw (hmembers ▸ hmember) fun _ => harrived

/-- What the arrivals and the completion test leave: memory and what does not wait. -/
theorem State.arrivals_calls : s.calls ((s.arrivals g r).completionTest (s.warp k).wg r) := by
  obtain ⟨honly, -⟩ := s.arrivals_spec h
  exact State.calls_trans (State.calls_of_wgsOnly honly) (State.completionTest_calls fun _ => h.plain_of_wgsOnly honly).1

include hne

theorem State.arrivals_calling : ((s.arrivals g r).rosterAt k r).st = .calling := by
  obtain ⟨-, -, -, hst, -⟩ := s.arrivals_spec h
  exact hst (by simpa using hne) h.used

/-- The only member's arrival completes the roll call. -/
theorem State.arrivals_complete (hone : s.onlyMember k r) :
    (s.arrivals g r).completionTest (s.warp k).wg r = (s.arrivals g r).callEnd (s.warp k).wg r := by
  obtain ⟨honly, hmembers, -⟩ := s.arrivals_spec h
  have hro := State.rosterAt_wgsOnly honly k r
  have hcalling := State.arrivals_calling h hne
  have hown := State.arrivals_own h
  rw [hro] at hmembers hcalling hown
  have hbits : ((s.arrivals g r).roster (s.warp k).wg r).members = (1 : Word) <<< (s.warp k).wid := hmembers.trans hone
  refine State.completionTest_completes (fun _ => h.plain_of_wgsOnly honly) hcalling (fun w hw hm => ?_) fun e => ?_
  · rw [hbits, shift_one_getLsbD hw] at hm
    rw [← beq_iff_eq.mp hm]
    exact hown
  · have := h.member (.inl hone)
    rw [← hmembers, e] at this
    simp at this

end

end Sys2Proof.Machine
end

section
/-! SUPPORT. What ROLL and ROLLA of one warp leave (R179, R183). -/
namespace Sys2Proof.Machine

-- Parts of the machine that a frame keeps --------------------------------------------------------------------------------

theorem State.mem_of_rest {s t : State} (h : t.rest = s.rest) : t.mem = s.mem := by have := congrArg State.mem h; exact this
theorem State.pend_of_rest {s t : State} (h : t.rest = s.rest) : t.pend = s.pend := by have := congrArg State.pend h; exact this
theorem State.wgs_of_rest {s t : State} (h : t.rest = s.rest) : t.wgs = s.wgs := by have := congrArg State.wgs h; exact this
theorem Warp.wg_of_still {w x : Warp} (h : x.still = w.still) : x.wg = w.wg := by have := congrArg Warp.wg h; exact this
theorem Warp.vreg_of_still {w x : Warp} (h : x.still = w.still) : x.vreg = w.vreg := by have := congrArg Warp.vreg h; exact this
theorem Warp.thread_of_unplaced {w x : Warp} (h : x.unplaced = w.unplaced) (l : Nat) : x.thread l = w.thread l := by
  have := congrArg (fun w => w.thread l) h
  exact this

-- Results pending after some ------------------------------------------------------------------------------------------------

theorem State.laterWords_ne_nil (s : State) (d : Wr) (val : Nat × Nat → DWord) {l : List (Nat × Nat)} {a : Nat × Nat} (ha : a ∈ l) :
    s.laterWords d val l a.1 ≠ [] := by
  refine List.ne_nil_of_mem (List.mem_flatMap.mpr ⟨a, List.mem_filter.mpr ⟨ha, beq_self_eq_true _⟩,
    wordsFor_mem (i := 0) (e := (a.1, rowOf (s.thread a.1 a.2) d.n, a.2)) ?_ _⟩)
  simp only [State.wrElems, State.fieldElems]
  split <;> rfl

/-- Results become pending and rows are noted: each thread of a list is owed its value, and warps keep all but the order and place of extended
blocks. -/
theorem State.landLater_settled (s : State) (g : Grp) (d : Wr) (val : Nat × Nat → DWord) (l : List (Nat × Nat)) (es : List Elem)
    (hlanes : (l.map Prod.snd).Nodup) (hlt : ∀ a ∈ l, a.2 < 32) :
    let u := (s.landLater (some d) (l.map fun a => (a, ({ val := val a } : Res)))).settleRows g es
    u.mem = s.mem ∧ (∀ k l, u.thread k l = s.thread k l) ∧ ∀ a ∈ l, s.owes u a (s.wrElems a (some d)) (val a) := by
  obtain ⟨ps, m, hlate, -, hids, hall⟩ := State.foldl_pendRegs (s.laterWords d val l) (l.map Prod.fst).eraseDups (fun k hk => by
    obtain ⟨a, ha, rfl⟩ := List.mem_map.mp (List.mem_eraseDups.mp hk)
    exact s.laterWords_ne_nil d val ha) s
  simp only [State.landLater_eq, hlate]
  obtain ⟨hrest, -, hwarp⟩ := State.settleRows_warpsOnly (s.withPend ps m) g es
  generalize (s.withPend ps m).settleRows g es = u at *
  have hmem : u.mem = s.mem := (State.mem_of_rest hrest).trans rfl
  have hpend : u.pend = s.pend ++ ps := State.pend_of_rest hrest
  refine ⟨hmem, fun k l => Warp.thread_of_unplaced (hwarp k) l, fun a ha => ?_⟩
  obtain ⟨p, hp, heq⟩ := hall a.1 (List.mem_eraseDups.mpr (List.mem_map_of_mem ha))
  exact State.owes_of_laterWords ha hlanes hlt (hpend ▸ List.mem_append_right _ hp) (hids p hp) heq

theorem State.owes_of_le {s t u v : State} {a : Nat × Nat} {es : List Elem} {x : DWord} (hid : s.nextId ≤ t.nextId) (hpend : v.pend = u.pend)
    (h : t.owes u a es x) : s.owes v a es x := by
  obtain ⟨p, hp, hle, hrest⟩ := h
  exact ⟨p, hpend ▸ hp, Nat.le_trans hid hle, hrest⟩

-- ROLL and ROLLA (R183) ------------------------------------------------------------------------------------------------------

/-- The phase that the roll call of a roster completes. -/
def State.target (s : State) (k r : Nat) : BitVec 16 := (s.rosterAt k r).phase + 1

/-- The state after the arrivals of a group and the completion test. -/
def State.tested (s : State) (g : Grp) (k r : Nat) : State := (s.arrivals g r).completionTest (s.warp k).wg r

theorem phaseReached_self (x : BitVec 16) : phaseReached x x = true := by simp [phaseReached]
theorem phaseReached_next (x : BitVec 16) : phaseReached x (x + 1) = false := by
  have : x - (x + 1) = 0xFFFF := by bv_omega
  rw [phaseReached, this]; rfl

section
variable {c : Ctl} {s : State} {g : Grp} {k r : Nat} (hi : s.issues c 1 g) (h : s.AtRoster g k r)
include hi h

/-- What the instructions do before their arrivals is nothing. -/
theorem roll_body (body : Grp → State → State × List ((Nat × Nat) × Fate)) :
    (noTrapMode g s fun g s => releasing g s (.release none) body) = body g s := by
  obtain ⟨-, -, -, -, hne, -⟩ := State.group_some hi.1
  rw [noTrapMode_open hne (fun x hx => (h.ready x hx).1), releasing_quiet hne (fun x hx => (hi.2.2 x hx).2) fun x hx => (h.ready x hx).2]

/-- Arrivals no thread of which faults. -/
theorem arriveOp_eq (hm : s.onlyMember k r ∨ s.othersOut k r) {d : Option Wr} (ho : ∀ x ∈ g.acts, s.open g [] (s.wrElems x d)) :
    let u := if d.isSome then ((s.tested g k r).landLater d (g.acts.map fun a => (a, ({ val := (s.target k r).setWidth 64 } : Res)))).settleRows g
      (g.acts.flatMap fun a => s.wrElems a d) else s.tested g k r
    arriveOp g r d s = (u, g.each fun a => if d.isSome then .done g.next
      else u.arriveFate g r (s.target k r) ((s.arrivals g r).freed (s.tested g k r) g) a) := by
  obtain ⟨-, -, -, -, hne, -⟩ := State.group_some hi.1
  have hfine : ∀ x ∈ g.acts, s.rollFault g r true [] (s.wrElems x d) x = none := fun x hx => State.rollFault_none h hx (h.member hm) (ho x hx)
  have hall : g.acts.filter (fun a => (s.rollFault g r true [] (s.wrElems a d) a).isNone) = g.acts :=
    List.filter_eq_self.mpr fun x hx => by rw [hfine x hx]; rfl
  have htarget : g.acts.map (fun a => (a, ({ val := ((s.rosterAt a.1 r).phase + 1).setWidth 64 } : Res)))
      = g.acts.map fun a => (a, ({ val := (s.target k r).setWidth 64 } : Res)) :=
    List.map_congr_left fun x hx => by rw [h.slot_eq x hx]; rfl
  have htested : (s.groupsOf g.acts).foldl (fun t wg => t.completionTest wg r) (g.acts.foldl (fun t a => t.arrive r a) s) = s.tested g k r := by
    rw [State.groupsOf_one hne h.slot_eq]; rfl
  simp only [arriveOp, hall, htarget, htested]
  refine Prod.ext rfl (List.map_congr_left fun x hx => ?_)
  simp only [hfine x hx, h.slot_eq x hx]
  rfl

theorem State.tested_issuing : ∀ x ∈ g.acts, (s.tested g k r).thread x.1 x.2 = s.thread x.1 x.2 := fun x hx =>
  (State.arrivals_calls h).2.2.2 x.1 x.2 (by rw [(State.group_some hi.1).2.2.2.2.2 x hx]; decide)

omit hi in
theorem State.tested_slot : ((s.tested g k r).warp k).wg = (s.warp k).wg := Warp.wg_of_still ((State.arrivals_calls h).2.2.1 k)

/-- The roster after the only member has arrived. -/
theorem State.tested_one (hone : s.onlyMember k r) : ((s.tested g k r).rosterAt k r).phase = s.target k r
    ∧ ((s.tested g k r).rosterAt k r).pending = 0 ∧ ((s.tested g k r).rosterAt k r).st = .standing := by
  obtain ⟨-, -, -, -, hne, -⟩ := State.group_some hi.1
  obtain ⟨honly, -, hphase, -⟩ := s.arrivals_spec h
  rw [State.rosterAt, State.tested_slot h, State.tested, State.arrivals_complete h hne hone, State.callEnd_roster]
  rw [State.rosterAt_wgsOnly honly] at hphase
  refine ⟨?_, rfl, rfl⟩
  rw [State.target, ← hphase]
  rfl

end

theorem State.rosterAt_of_rest {s t : State} {k : Nat} (hrest : t.rest = s.rest) (hwarp : (t.warp k).still = (s.warp k).still) (r : Nat) :
    t.rosterAt k r = s.rosterAt k r := by
  rw [State.rosterAt, State.rosterAt, State.roster, State.roster, State.wgs_of_rest hrest, Warp.wg_of_still hwarp]

/-- What ROLL and ROLLA do in their groups. -/
def rollBody (r : Nat) (g : Grp) (s : State) : State × List ((Nat × Nat) × Fate) :=
  noTrapMode g s fun g s => releasing g s (.release none) fun g s => arriveOp g r none s
def rollaBody (d : VReg) (r : Nat) (g : Grp) (s : State) : State × List ((Nat × Nat) × Fate) :=
  noTrapMode g s (interlocked (fun s a => s.wrElems a (some { n := d.toNat })) fun g s =>
    releasing g s (.release none) fun g s => arriveOp g r (some { n := d.toNat }) s)

theorem exec_roll (c : Ctl) (r : BitVec 4) (s : State) : exec (.roll c r) s = issue c 1 s (rollBody r.toNat) := rfl
theorem exec_rolla (c : Ctl) (d : VReg) (r : BitVec 4) (s : State) : exec (.rolla c d r) s = issue c 1 s (rollaBody d r.toNat) := rfl

/-- The fate of a thread that arrives by ROLL. -/
def State.rollFates (s : State) (g : Grp) (k r : Nat) : Nat × Nat → Fate :=
  (s.tested g k r).arriveFate g r (s.target k r) ((s.arrivals g r).freed (s.tested g k r) g)

section
variable {c : Ctl} {s : State} {g : Grp} {k : Nat} {r : BitVec 4} (hi : s.issues c 1 g) (h : s.AtRoster g k r.toNat)
include hi h

theorem rollBody_eq (hm : s.onlyMember k r.toNat ∨ s.othersOut k r.toNat) :
    rollBody r.toNat g s = (s.tested g k r.toNat, g.each (s.rollFates g k r.toNat)) := by
  have harrive := arriveOp_eq hi h hm (d := none) fun _ _ => s.open_nil g
  simp only [Option.isSome_none, Bool.false_eq_true, if_false] at harrive
  rw [rollBody, roll_body hi h, harrive]
  rfl

/-- ROLL of the only member (R179). -/
theorem exec_roll_one (hone : s.onlyMember k r.toNat) :
    ∃ t, exec (.roll c r) s = .next t ∧ t.past g ∧ t.mem = s.mem ∧ (t.rosterAt k r.toNat).phase = s.target k r.toNat
      ∧ (t.rosterAt k r.toNat).pending = 0 ∧ (t.rosterAt k r.toNat).st = .standing := by
  obtain ⟨-, -, -, -, -, hissuing⟩ := State.group_some hi.1
  obtain ⟨hphase, hpending, hst⟩ := State.tested_one hi h hone
  have hfate : ∀ x ∈ g.acts, s.rollFates g k r.toNat x = .done g.next ∨ s.rollFates g k r.toNat x = .met g.next := by
    intro x hx
    rw [State.rollFates, State.arriveFate, State.rollFate, h.slot_eq x hx, hphase, phaseReached_self]
    cases (s.arrivals g r.toNat).freed (s.tested g k r.toNat) g
    · exact .inl rfl
    · exact .inr rfl
  obtain ⟨t, hexec, hrest, -, hwarp, hclosed, -⟩ := issue_light hi (rollBody_eq hi h (.inl hone))
    (fun x hx => by rcases hfate x hx with e | e <;> rw [e] <;> rfl) fun x hx => by rw [State.tested_issuing hi h x hx, hissuing x hx]
  refine ⟨t, hexec, fun x hx => ?_, ?_, ?_⟩
  · exact Fate.closed_past (hfate x hx) (hclosed x hx) (by rw [State.tested_issuing hi h x hx, hissuing x hx])
  · exact (State.mem_of_rest hrest).trans (State.arrivals_calls h).1
  · rw [State.rosterAt_of_rest hrest (hwarp k)]
    exact ⟨hphase, hpending, hst⟩

/-- ROLL while another member has not arrived (R183). -/
theorem exec_roll_others (hothers : s.othersOut k r.toNat) :
    ∃ t, exec (.roll c r) s = .next t ∧ t.mem = s.mem ∧ (t.rosterAt k r.toNat).phase = (s.rosterAt k r.toNat).phase
      ∧ (t.rosterAt k r.toNat).st = .calling
      ∧ ∀ x ∈ g.acts, (t.thread x.1 x.2).st = .waiting ∧ (t.rosterAt k r.toNat).pending.getLsbD (32 * (s.warp k).wid + x.2) = true := by
  obtain ⟨-, -, -, -, hne, hissuing⟩ := State.group_some hi.1
  obtain ⟨-, -, hphase, -, hpending⟩ := s.arrivals_spec h
  have hcalling := State.arrivals_calling h hne
  have htested : s.tested g k r.toNat = s.arrivals g r.toNat := State.arrivals_wait h hothers
  have hfate : ∀ x ∈ g.acts, s.rollFates g k r.toNat x = .wait (.roll r.toNat (s.target k r.toNat)) := by
    intro x hx
    rw [State.rollFates, State.arriveFate, State.rollFate, h.slot_eq x hx, htested, hphase, State.target, phaseReached_next]
    rfl
  obtain ⟨t, hexec, hrest, -, hwarp, hclosed, -⟩ := issue_light hi (rollBody_eq hi h (.inr hothers))
    (fun x hx => by rw [hfate x hx]; rfl) fun x hx => by rw [State.tested_issuing hi h x hx, hissuing x hx]
  have hro : t.rosterAt k r.toNat = (s.arrivals g r.toNat).rosterAt k r.toNat := by
    rw [State.rosterAt_of_rest hrest (hwarp k), htested]
  refine ⟨t, hexec, (State.mem_of_rest hrest).trans (State.arrivals_calls h).1, ?_, ?_, fun x hx => ⟨?_, ?_⟩⟩
  · rw [hro, hphase]
  · rw [hro, hcalling]
  · have := hclosed x hx
    rw [hfate x hx] at this
    exact Fate.closed_waiting this
  · have hlt := (hi.2.2 x hx).1
    have hbit : s.pendingBit x = 32 * (s.warp k).wid + x.2 := by rw [State.pendingBit, h.slot_eq x hx]
    rw [hro, hpending _ (by have := h.wid; omega), ← hbit, List.contains_iff_mem.mpr (List.mem_map_of_mem hx), Bool.or_true]

/-- ROLLA (R183): the threads go on either way, and are owed the target. -/
theorem exec_rolla_passes (d : VReg) (hm : s.onlyMember k r.toNat ∨ s.othersOut k r.toNat)
    (ho : ∀ x ∈ g.acts, s.open g [] (s.wrElems x (some { n := d.toNat }))) :
    ∃ t, exec (.rolla c d r) s = .next t ∧ t.past g ∧ t.mem = s.mem
      ∧ ∀ x ∈ g.acts, s.owes t x (s.wrElems x (some { n := d.toNat })) ((s.target k r.toNat).setWidth 64) := by
  obtain ⟨-, -, -, -, hne, hissuing⟩ := State.group_some hi.1
  obtain ⟨hmem, hthread, howes⟩ := (s.tested g k r.toNat).landLater_settled g { n := d.toNat } (fun _ => (s.target k r.toNat).setWidth 64) g.acts
    (g.acts.flatMap fun a => s.wrElems a (some { n := d.toNat })) hi.2.1 fun x hx => (hi.2.2 x hx).1
  have hsame := State.tested_issuing hi h
  have hbody : rollaBody d r.toNat g s = _ :=
    (noTrapMode_open hne (fun x hx => (h.ready x hx).1) _).trans <| (interlocked_calm (fun x hx => (ho x hx).1) _).trans <|
      (releasing_quiet hne (fun x hx => (hi.2.2 x hx).2) (fun x hx => (h.ready x hx).2) _ _).trans (arriveOp_eq hi h hm ho)
  replace hbody : rollaBody d r.toNat g s = (_, g.each fun _ => .done g.next) := hbody
  obtain ⟨t, hexec, hrest, -, -, hclosed, -⟩ := issue_light hi hbody (fun _ _ => rfl) fun x hx => by
    exact (congrArg Thread.st ((hthread x.1 x.2).trans (hsame x hx))).trans (hissuing x hx)
  refine ⟨t, hexec, fun x hx => ?_, ?_, fun x hx => ?_⟩
  · refine Fate.closed_past (.inl rfl) (hclosed x hx) ?_
    exact (congrArg Thread.st ((hthread x.1 x.2).trans (hsame x hx))).trans (hissuing x hx)
  · exact (State.mem_of_rest hrest).trans (hmem.trans (State.arrivals_calls h).1)
  · have helems : (s.tested g k r.toNat).wrElems x (some { n := d.toNat }) = s.wrElems x (some { n := d.toNat }) := by
      simp only [State.wrElems, State.fieldElems, hsame x hx]
    exact State.owes_of_le (State.arrivals_calls h).2.1 (State.pend_of_rest hrest) (helems ▸ howes x hx)

end

end Sys2Proof.Machine
end

section
/-! SUPPORT. What ROLLW, RJOIN and RLEAVE of one warp leave (R182, R183). -/
namespace Sys2Proof.Machine

-- ROLLW (R183) ---------------------------------------------------------------------------------------------------------------

/-- The target a thread's register names. -/
def State.wanted (s : State) (a : VReg) (x : Nat × Nat) : BitVec 16 := (s.elemsVal (s.fieldElems x a.toNat false)).setWidth 16

def rollwBody (a : VReg) (r : Nat) (g : Grp) (s : State) : State × List ((Nat × Nat) × Fate) :=
  noTrapMode g s (interlocked (fun s t => s.fieldElems t a.toNat false) fun g s =>
    let s := (s.groupsOf g.acts).foldl (fun s wg => s.completionTest wg r) s
    let (s, fs) := rollwAll g r a s g.acts
    (s.settleRows g (g.acts.flatMap (fun t => s.fieldElems t a.toNat false)), fs))

theorem exec_rollw (c : Ctl) (a : VReg) (r : BitVec 4) (s : State) : exec (.rollw c a r) s = issue c 1 s (rollwBody a r.toNat) := rfl

theorem rollwAll_open {s : State} {g : Grp} {r : Nat} {a : VReg} (l : List (Nat × Nat))
    (hfine : ∀ x ∈ l, s.rollFault g r false (s.fieldElems x a.toNat false) [] x = none) (ho : ∀ x ∈ l, s.ripe g (s.fieldElems x a.toNat false)) :
    rollwAll g r a s l = (s, l.map fun x => (x, s.rollFate g r (s.wanted a x) x)) := by
  induction l with
  | nil => rfl
  | cons x l ih =>
    unfold rollwAll
    simp only [hfine x List.mem_cons_self, State.readElems_ripe (ho x List.mem_cons_self),
      ih (fun y hy => hfine y (List.mem_cons_of_mem _ hy)) fun y hy => ho y (List.mem_cons_of_mem _ hy)]
    rfl

theorem State.rollFate_light (s : State) (g : Grp) (r : Nat) (target : BitVec 16) (x : Nat × Nat) : (s.rollFate g r target x).light = true := by
  unfold State.rollFate; split <;> rfl

section
variable {c : Ctl} {s : State} {g : Grp} {k : Nat} {r : BitVec 4} (hi : s.issues c 1 g) (h : s.AtRoster g k r.toNat)
include hi h

/-- ROLLW on a roster that is called by nobody while another member has not arrived: nothing changes but extended blocks' order and place, and
each thread has its fate. -/
theorem exec_rollw_fates (a : VReg) (hothers : s.othersOut k r.toNat) (hst : (s.rosterAt k r.toNat).st = .standing)
    (ho : ∀ x ∈ g.acts, s.open g (s.fieldElems x a.toNat false) []) :
    ∃ u t, exec (.rollw c a r) s = .next t ∧ s.warpsOnly Warp.unplaced u ∧ t.rest = u.rest ∧ (∀ q, (t.quad q).rest = (u.quad q).rest)
      ∧ (∀ j, (t.warp j).still = (u.warp j).still)
      ∧ (∀ x ∈ g.acts, ((s.rollFate g r.toNat (s.wanted a x) x).turn (s.thread x.1 x.2)).closed (t.thread x.1 x.2))
      ∧ ∀ j l, (j, l) ∉ g.acts → t.thread j l = s.thread j l := by
  obtain ⟨-, -, -, -, hne, hissuing⟩ := State.group_some hi.1
  obtain ⟨hmember, w, hw, -, hwmember, -⟩ := hothers
  have htest : (s.groupsOf g.acts).foldl (fun s wg => s.completionTest wg r.toNat) s = s := by
    rw [State.groupsOf_one hne h.slot_eq]
    exact State.completionTest_waits (fun _ => h.plain_of_wgsOnly s.wgsOnly_refl) hw hwmember fun hc => nomatch hst.symm.trans hc
  have hbody : rollwBody a r.toNat g s = (s.settleRows g (g.acts.flatMap fun t => s.fieldElems t a.toNat false),
      g.each fun x => s.rollFate g r.toNat (s.wanted a x) x) := by
    rw [rollwBody, noTrapMode_open hne fun x hx => (h.ready x hx).1, interlocked_calm fun x hx e he => (ho x hx).1 e (List.mem_append_left _ he)]
    simp only [htest, rollwAll_open g.acts (fun x hx => State.rollFault_none h hx hmember (ho x hx)) fun x hx => (ho x hx).2.1]
    rfl
  have honly := s.settleRows_warpsOnly g (g.acts.flatMap fun t => s.fieldElems t a.toNat false)
  generalize s.settleRows g (g.acts.flatMap fun t => s.fieldElems t a.toNat false) = u at hbody honly
  have hthread : ∀ j l, u.thread j l = s.thread j l := fun j l => Warp.thread_of_unplaced (honly.2.2 j) l
  obtain ⟨t, hexec, hrest, hquad, hwarp, hclosed, hout⟩ := issue_light hi hbody (fun x _ => s.rollFate_light ..) fun x hx => by
    rw [hthread, hissuing x hx]
  simp only [hthread] at hclosed hout
  exact ⟨u, t, (exec_rollw c a r s).trans hexec, honly, hrest, hquad, hwarp, hclosed, hout⟩

/-- ROLLW of targets that have been reached. -/
theorem exec_rollw_passes (a : VReg) (hothers : s.othersOut k r.toNat) (hst : (s.rosterAt k r.toNat).st = .standing)
    (ho : ∀ x ∈ g.acts, s.open g (s.fieldElems x a.toNat false) [])
    (hreached : ∀ x ∈ g.acts, phaseReached (s.rosterAt k r.toNat).phase (s.wanted a x) = true) :
    ∃ t, exec (.rollw c a r) s = .next t ∧ t.past g ∧ State.keeps (fun w => { w.still with xlast := [], xmoved := 0 }) Thread.still s t := by
  obtain ⟨-, -, -, -, -, hissuing⟩ := State.group_some hi.1
  obtain ⟨u, t, hexec, ⟨hurest, huquads, huwarp⟩, hrest, hquad, hwarp, hclosed, hout⟩ := exec_rollw_fates hi h a hothers hst ho
  have hfate : ∀ x ∈ g.acts, s.rollFate g r.toNat (s.wanted a x) x = .done g.next := fun x hx => by
    rw [State.rollFate, h.slot_eq x hx, hreached x hx, if_pos rfl]
  refine ⟨t, hexec, fun x hx => Fate.closed_past (.inl (hfate x hx)) (hclosed x hx) (hissuing x hx), hrest.trans hurest, fun q => ?_, fun j => ⟨?_, fun l => ?_⟩⟩
  · rw [hquad, State.quad, State.quad, huquads]
  · exact (congrArg Warp.unplaced (hwarp j)).trans (congrArg Warp.still (huwarp j))
  · by_cases hx : (j, l) ∈ g.acts
    · have := hclosed _ hx
      rw [hfate _ hx] at this
      rcases this with e | ⟨-, e⟩ <;> rw [e] <;> rfl
    · rw [hout j l hx]

/-- ROLLW of targets that have not. -/
theorem exec_rollw_waits (a : VReg) (hothers : s.othersOut k r.toNat) (hst : (s.rosterAt k r.toNat).st = .standing)
    (ho : ∀ x ∈ g.acts, s.open g (s.fieldElems x a.toNat false) [])
    (hreached : ∀ x ∈ g.acts, phaseReached (s.rosterAt k r.toNat).phase (s.wanted a x) = false) :
    ∃ t, exec (.rollw c a r) s = .next t ∧ t.rest = s.rest ∧ ∀ x ∈ g.acts, (t.thread x.1 x.2).st = .waiting := by
  obtain ⟨u, t, hexec, ⟨hurest, -⟩, hrest, -, -, hclosed, -⟩ := exec_rollw_fates hi h a hothers hst ho
  refine ⟨t, hexec, hrest.trans hurest, fun x hx => ?_⟩
  have hfate : s.rollFate g r.toNat (s.wanted a x) x = .wait (.roll r.toNat (s.wanted a x)) := by
    rw [State.rollFate, h.slot_eq x hx, hreached x hx, if_neg Bool.false_ne_true]
  have := hclosed x hx
  rw [hfate] at this
  exact Fate.closed_waiting this

end

-- RJOIN and RLEAVE (R182) --------------------------------------------------------------------------------------------------

theorem or_bit_of_getLsbD {n : Nat} {x : Word} (h : x.getLsbD n = true) : x ||| ((1 : Word) <<< n) = x := by
  apply BitVec.eq_of_getLsbD_eq
  intro i hi
  rw [BitVec.getLsbD_or, shift_one_getLsbD hi]
  by_cases hin : n = i
  · subst hin; simp [h]
  · simp [hin]

theorem and_not_bit_of_getLsbD {n : Nat} {x : Word} (h : x.getLsbD n = false) : x &&& ~~~((1 : Word) <<< n) = x := by
  apply BitVec.eq_of_getLsbD_eq
  intro i hi
  rw [BitVec.getLsbD_and, BitVec.getLsbD_not, shift_one_getLsbD hi]
  by_cases hin : n = i
  · subst hin; simp [h]
  · simp [hi, hin]

theorem State.join_spec {s : State} {wg r w : Nat} (hr : r ≠ 0) :
    s.calls (s.join wg r w) ∧ ((s.join wg r w).roster wg r).members
      = if (s.roster wg r).st = .unused then (1 : Word) <<< w else (s.roster wg r).members ||| ((1 : Word) <<< w) := by
  unfold State.join
  rw [if_neg hr]
  by_cases hst : (s.roster wg r).st = .unused
  · simp only [if_pos hst]
    refine ⟨⟨rfl, Nat.le_succ _, fun _ => rfl, fun _ _ _ => rfl⟩, ?_⟩
    rw [State.roster_modRoster]
    exact shift_one_eq w
  · simp only [if_neg hst]
    by_cases hm : (s.roster wg r).members.getLsbD w = true
    · rw [if_pos hm]
      exact ⟨s.calls_refl, (or_bit_of_getLsbD hm).symm⟩
    · rw [if_neg hm]
      obtain ⟨hcalls, hmembers⟩ := State.completionTest_calls (s := s.modRoster wg r fun x =>
        { x with members := x.members ||| BitVec.ofNat 32 (2 ^ w), issued := x.issued.put w x.started }) (wg := wg) fun e => absurd e hr
      refine ⟨State.calls_trans (State.calls_of_wgsOnly (State.wgsOnly_modRoster ..)) hcalls, ?_⟩
      rw [hmembers, State.roster_modRoster, ← shift_one_eq]

theorem State.leave_spec {s : State} {wg r w : Nat} (hr : r ≠ 0) :
    s.calls (s.leave wg r w) ∧ ((s.leave wg r w).roster wg r).members = (s.roster wg r).members &&& ~~~((1 : Word) <<< w)
      ∧ (w < 32 → (s.roster wg r).st = .standing → (s.roster wg r).members = (1 : Word) <<< w → ((s.leave wg r w).roster wg r).st = .unused) := by
  unfold State.leave
  by_cases hm : (s.roster wg r).members.getLsbD w = true
  · rw [hm, Bool.not_true, if_neg Bool.false_ne_true]
    have hro : (s.modRoster wg r fun x => { x with members := x.members &&& ~~~(BitVec.ofNat 32 (2 ^ w)) }).roster wg r
        = { s.roster wg r with members := (s.roster wg r).members &&& ~~~((1 : Word) <<< w) } := by
      rw [State.roster_modRoster, shift_one_eq]
    generalize hu : (s.modRoster wg r fun x => { x with members := x.members &&& ~~~(BitVec.ofNat 32 (2 ^ w)) }) = u at hro
    have honly : s.wgsOnly u := hu ▸ State.wgsOnly_modRoster ..
    have hplain : r = 0 → (u.kernel (u.wgs.get wg).kernel).repeatable = false := fun e => absurd e hr
    obtain ⟨hcalls, hmembers⟩ := State.completionTest_calls hplain
    refine ⟨State.calls_trans (State.calls_of_wgsOnly honly) hcalls, by rw [hmembers, hro], fun _ hst hone => ?_⟩
    have hst' : (u.roster wg r).st = .standing := by rw [hro]; exact hst
    have hnone : (u.roster wg r).members = 0 := by rw [hro]; exact (congrArg (· &&& _) hone).trans (BitVec.and_not_self _)
    rw [State.completionTest_eq hplain, if_neg]
    · exact State.disuse_unused hst' hnone hr
    · rw [hst']; simp
  · rw [Bool.not_eq_true] at hm
    rw [hm, Bool.not_false, if_pos rfl]
    refine ⟨s.calls_refl, (and_not_bit_of_getLsbD hm).symm, fun hw _ hone => ?_⟩
    rw [hone, shift_one_getLsbD hw, beq_self_eq_true] at hm
    cases hm

/-- An instruction on membership, of one warp at a declared roster. -/
theorem memberOp_goes {c : Ctl} {s : State} {g : Grp} {k r : Nat} {f : State → Nat → Nat → State} (hi : s.issues c 1 g) (hk : ∀ x ∈ g.acts, x.1 = k)
    (hr : r ≤ (s.wgOf k).nrost) (hf : s.calls (f s (s.warp k).wg (s.warp k).wid)) :
    ∃ t, memberOp c r s f = .next t ∧ t.past g ∧ t.mem = s.mem ∧ (∀ j, (t.warp j).vreg = (s.warp j).vreg)
      ∧ t.rosterAt k r = (f s (s.warp k).wg (s.warp k).wid).roster (s.warp k).wg r := by
  obtain ⟨-, -, -, -, hne, hissuing⟩ := State.group_some hi.1
  have hwarps : g.actWarps = [k] := eraseDups_const (by simpa using hne) fun n hn => by
    obtain ⟨x, hx, rfl⟩ := List.mem_map.mp hn
    exact hk x hx
  have hall : g.all k (.done g.next) = g.each fun _ => .done g.next := by
    rw [Grp.all, List.filter_eq_self.mpr fun x hx => by simp [hk x hx]]
    rfl
  have hbody : runWarps g s (fun s k => if s.rosterDeclared k r then .done g.next else .fault (pf 2 0) g.pc)
      (fun s k => (f s (s.warp k).wg (s.warp k).wid, g.all k (.done g.next)))
      = (f s (s.warp k).wg (s.warp k).wid, g.each fun _ => .done g.next) := by
    rw [runWarps_done fun j hj => ⟨g.next, if_pos (by
      rw [hwarps, List.mem_singleton] at hj
      rw [hj]
      exact decide_eq_true hr)⟩, hwarps, List.foldl_cons, List.foldl_nil, hall, List.nil_append]
  obtain ⟨hmem, -, hwarp, hthread⟩ := hf
  generalize f s (s.warp k).wg (s.warp k).wid = u at *
  have hst : ∀ x ∈ g.acts, (u.thread x.1 x.2).st = .issuing := fun x hx => by
    rw [hthread x.1 x.2 (by rw [hissuing x hx]; decide), hissuing x hx]
  obtain ⟨t, hexec, hrest, -, hwarp', hclosed, -⟩ := issue_light (body := fun g s =>
    runWarps g s (fun s k => if s.rosterDeclared k r then .done g.next else .fault (pf 2 0) g.pc)
      (fun s k => (f s (s.warp k).wg (s.warp k).wid, g.all k (.done g.next)))) hi hbody (fun _ _ => rfl) hst
  refine ⟨t, hexec, fun x hx => Fate.closed_past (.inl rfl) (hclosed x hx) (hst x hx), (State.mem_of_rest hrest).trans hmem,
    fun j => Warp.vreg_of_still ((hwarp' j).trans (hwarp j)), ?_⟩
  rw [State.rosterAt_of_rest hrest (hwarp' k), State.rosterAt, Warp.wg_of_still (hwarp k)]

/-- RJOIN. -/
theorem exec_rjoin_members {c : Ctl} {r : BitVec 4} {s : State} {g : Grp} {k : Nat} (hi : s.issues c 1 g) (hk : ∀ x ∈ g.acts, x.1 = k)
    (hr : r.toNat ≤ (s.wgOf k).nrost) :
    ∃ t, exec (.rjoin c r) s = .next t ∧ t.past g ∧ t.mem = s.mem ∧ (∀ j, (t.warp j).vreg = (s.warp j).vreg)
      ∧ (t.rosterAt k r.toNat).members = if r = 0 then (s.rosterAt k r.toNat).members
        else if (s.rosterAt k r.toNat).st = .unused then (1 : Word) <<< (s.warp k).wid
        else (s.rosterAt k r.toNat).members ||| ((1 : Word) <<< (s.warp k).wid) := by
  by_cases h0 : r = 0
  · have hsame : s.join (s.warp k).wg r.toNat (s.warp k).wid = s := by rw [State.join, h0]; rfl
    obtain ⟨t, hexec, hpast, hmem, hvreg, hro⟩ := memberOp_goes (f := fun s wg w => s.join wg r.toNat w) hi hk hr (by rw [hsame]; exact s.calls_refl)
    refine ⟨t, hexec, hpast, hmem, hvreg, ?_⟩
    rw [hro, if_pos h0, hsame]
    rfl
  · have hne : r.toNat ≠ 0 := fun e => h0 (BitVec.eq_of_toNat_eq e)
    obtain ⟨hcalls, hmembers⟩ := s.join_spec (wg := (s.warp k).wg) (w := (s.warp k).wid) hne
    obtain ⟨t, hexec, hpast, hmem, hvreg, hro⟩ := memberOp_goes (f := fun s wg w => s.join wg r.toNat w) hi hk hr hcalls
    refine ⟨t, hexec, hpast, hmem, hvreg, ?_⟩
    rw [hro, hmembers, if_neg h0]
    rfl

/-- RLEAVE. -/
theorem exec_rleave_members {c : Ctl} {r : BitVec 4} {s : State} {g : Grp} {k : Nat} (hi : s.issues c 1 g) (hk : ∀ x ∈ g.acts, x.1 = k)
    (hr : r.toNat ≤ (s.wgOf k).nrost) :
    ∃ t, exec (.rleave c r) s = .next t ∧ t.past g ∧ t.mem = s.mem ∧ (∀ j, (t.warp j).vreg = (s.warp j).vreg)
      ∧ (t.rosterAt k r.toNat).members = (if r = 0 then (s.rosterAt k r.toNat).members
        else (s.rosterAt k r.toNat).members &&& ~~~((1 : Word) <<< (s.warp k).wid))
      ∧ (r ≠ 0 → (s.warp k).wid < 32 → (s.rosterAt k r.toNat).st = .standing → (s.rosterAt k r.toNat).members = (1 : Word) <<< (s.warp k).wid →
        (t.rosterAt k r.toNat).st = .unused) := by
  by_cases h0 : r = 0
  · obtain ⟨t, hexec, hpast, hmem, hvreg, hro⟩ := memberOp_goes (f := fun s wg w => if r = 0 then s else s.leave wg r.toNat w) hi hk hr
      (by simp only [if_pos h0]; exact s.calls_refl)
    refine ⟨t, hexec, hpast, hmem, hvreg, ?_, fun h => absurd h0 h⟩
    rw [hro, if_pos h0, if_pos h0]
    rfl
  · have hne : r.toNat ≠ 0 := fun e => h0 (BitVec.eq_of_toNat_eq e)
    obtain ⟨hcalls, hmembers, hunused⟩ := s.leave_spec (wg := (s.warp k).wg) (w := (s.warp k).wid) hne
    obtain ⟨t, hexec, hpast, hmem, hvreg, hro⟩ := memberOp_goes (f := fun s wg w => if r = 0 then s else s.leave wg r.toNat w) hi hk hr
      (by simp only [if_neg h0]; exact hcalls)
    simp only [if_neg h0] at hro
    refine ⟨t, hexec, hpast, hmem, hvreg, ?_, fun _ hw hst hone => ?_⟩
    · rw [hro, hmembers, if_neg h0]
      rfl
    · rw [hro]
      exact hunused hw hst hone

end Sys2Proof.Machine
end

section
/-! SUPPORT. A thread in trap mode at an instruction that is illegal there (R118, R181, R385): a double fault (R386), which halts it and makes its
context FAULTED, and where nothing is watched changes no other thread. -/
namespace Sys2Proof.Machine

-- Fault records and aborts (R374, R382) --------------------------------------------------------------------------------------

/-- Warps, contexts and watches are the same. -/
def State.sameWarps (s t : State) : Prop := t.warps = s.warps ∧ t.ctxs = s.ctxs ∧ t.watches = s.watches

theorem State.sameWarps_refl (s : State) : s.sameWarps s := ⟨rfl, rfl, rfl⟩
theorem State.sameWarps_trans {s t u : State} (h : s.sameWarps t) (i : t.sameWarps u) : s.sameWarps u :=
  ⟨i.1.trans h.1, i.2.1.trans h.2.1, i.2.2.trans h.2.2⟩

/-- A write that nobody watches wakes nobody. -/
theorem State.notify_unwatched {s : State} (h : s.watches = []) (lo hi : Nat) : s.notify lo hi = s := by
  have hnone : { s with watches := [] } = s := by rw [← h]
  rw [State.notify, h]
  exact hnone

theorem State.useL2_sameWarps (s : State) (n : Nat) (dirty : Bool) : s.sameWarps (s.useL2 n dirty) := by
  rw [State.useL2_eq]; exact ⟨rfl, rfl, rfl⟩

theorem State.putLine_sameWarps {s : State} (h : s.watches = []) (n : Nat) (l : Line) : s.sameWarps (s.putLine n l) := by
  rw [State.putLine_eq]
  obtain ⟨hwarps, hctxs, hwatches⟩ := State.useL2_sameWarps (s.withLine n l) n true
  rw [State.notify_unwatched (hwatches.trans h)]
  exact ⟨hwarps, hctxs, hwatches⟩

theorem State.pokeDev_sameWarps {s : State} (h : s.watches = []) (pa w v : Nat) : s.sameWarps (s.pokeDev pa w v) := by
  cases hbad : s.lineBad (pa / 128) with
  | some _ =>
    have : s.pokeDev pa w v = s := by rw [State.pokeDev, State.poke, hbad]; rfl
    rw [this]
    exact s.sameWarps_refl
  | none =>
    obtain ⟨hwarps, hctxs, hwatches⟩ := State.useL2_sameWarps (s.withBytes pa w v) (pa / 128) true
    rw [State.pokeDev, State.poke_eq hbad, Option.getD_some, State.notify_unwatched (hwatches.trans h)]
    exact ⟨hwarps, hctxs, hwatches⟩

theorem State.faultRecord_sameWarps {s : State} (h : s.watches = []) (ctx kind cause info tcause1 : Nat) (addr pc : DWord) (kernel wgidx wid lane core : Nat) :
    s.sameWarps (s.faultRecord ctx kind cause info tcause1 addr pc kernel wgidx wid lane core) := by
  simp only [State.faultRecord]
  split
  · have hline := State.putLine_sameWarps h (((s.ctx ctx).fabase + 0x10000 + 128 * (s.mem.read (s.ctx ctx).fabase 4 % 4096)) / 128)
    exact State.sameWarps_trans (hline _) (State.pokeDev_sameWarps ((hline _).2.2.trans h) ..)
  · exact State.pokeDev_sameWarps h ..

/-- An abort leaves contexts, and threads. -/
theorem State.abort_threads (s : State) (k cause : Nat) : (s.abort k cause).ctxs = s.ctxs ∧ ∀ j l, (s.abort k cause).thread j l = s.thread j l := by
  unfold State.abort
  split
  · exact ⟨rfl, fun _ _ => rfl⟩
  split
  · exact ⟨rfl, fun _ _ => rfl⟩
  · refine ⟨rfl, fun j l => ?_⟩
    refine (congrArg (fun w : Warp => w.thread l) (Table.get_map_of_default (fun _ (w : Warp) =>
      if (s.wgs.get w.wg).kernel == k then { w with buf := [] } else w) (fun _ => by split <;> rfl) s.warps j)).trans ?_
    split <;> rfl

theorem State.abortCtx_threads (s : State) (ctx cause : Nat) :
    (s.abortCtx ctx cause).ctxs = s.ctxs ∧ ∀ j l, (s.abortCtx ctx cause).thread j l = s.thread j l := by
  unfold State.abortCtx
  generalize List.filter _ _ = ks
  induction ks generalizing s with
  | nil => exact ⟨rfl, fun _ _ => rfl⟩
  | cons k ks ih =>
    obtain ⟨hctxs, hthread⟩ := s.abort_threads k cause
    obtain ⟨hctxs', hthread'⟩ := ih (s.abort k cause)
    exact ⟨hctxs'.trans hctxs, fun j l => (hthread' j l).trans (hthread j l)⟩

theorem State.trap_of_tmode {s : State} {k l : Nat} (hmode : (s.thread k l).tmode = true) (f : PFault) (tepc : DWord) :
    s.trap k l f tepc = (((s.modThread k l fun x => { x with st := .halted, why := .nothing }).faultRecord (s.kernelOf k).ctx 2 f.cause.toNat
      f.info.toNat (s.thread k l).tcause.toNat f.addr (s.thread k l).pc (s.wgOf k).kernel (s.wgOf k).idx (s.warp k).wid l (coreOf k)).modCtx
      (s.kernelOf k).ctx fun c => { c with st := .faulted }).abortCtx (s.kernelOf k).ctx 7 := by
  rw [State.trap]
  exact if_pos hmode

/-- A context that becomes FAULTED. -/
theorem State.faulted_threads (s : State) (ctx : Nat) :
    (((s.modCtx ctx fun c => { c with st := .faulted }).abortCtx ctx 7).ctx ctx).st = .faulted
      ∧ ∀ j l, ((s.modCtx ctx fun c => { c with st := .faulted }).abortCtx ctx 7).thread j l = s.thread j l := by
  obtain ⟨hctxs, hthread⟩ := (s.modCtx ctx fun c => { c with st := .faulted }).abortCtx_threads ctx 7
  refine ⟨?_, fun j l => (hthread j l).trans rfl⟩
  rw [State.ctx, hctxs, ← State.ctx, State.ctx_modCtx, if_pos rfl]

/-- A double fault (R386). -/
theorem State.trap_double {s : State} {k l : Nat} (hmode : (s.thread k l).tmode = true) (hwatch : s.watches = []) (f : PFault) (tepc : DWord) :
    ((s.trap k l f tepc).ctx (s.kernelOf k).ctx).st = .faulted ∧ ((s.trap k l f tepc).thread k l).st = .halted
      ∧ ∀ j i, ¬ (j = k ∧ i = l) → (s.trap k l f tepc).thread j i = s.thread j i := by
  have hthread : ∀ j i, (s.trap k l f tepc).thread j i
      = if j = k ∧ i = l then { s.thread k l with st := .halted, why := .nothing } else s.thread j i := fun j i => by
    rw [State.trap_of_tmode hmode, (State.faulted_threads _ _).2, ← s.thread_modThread j i k l fun x => { x with st := .halted, why := .nothing }]
    rw [State.thread, State.warp, (State.faultRecord_sameWarps (s := s.modThread k l _) hwatch ..).1]
    rfl
  refine ⟨?_, ?_, fun j i hne => ?_⟩
  · rw [State.trap_of_tmode hmode]
    exact (State.faulted_threads _ _).1
  · rw [hthread, if_pos ⟨rfl, rfl⟩]
  · rw [hthread, if_neg hne]

-- Instructions that are illegal in trap mode (R118, R181) -------------------------------------------------------------------------

/-- What a group of one thread does where its instruction is illegal. -/
def illegalFate (g : Grp) (s : State) : State × List ((Nat × Nat) × Fate) := (s, g.each fun _ => .fault (pf 1 0) g.pc)

theorem noTrapMode_trapped {g : Grp} {s : State} {a : Nat × Nat} (hacts : g.acts = [a]) (hmode : (s.thread a.1 a.2).tmode = true)
    (body : Grp → State → State × List ((Nat × Nat) × Fate)) : noTrapMode g s body = illegalFate g s := by
  have htraps : g.acts.filter (fun a => (s.thread a.1 a.2).tmode) = [a] := by rw [hacts]; simp [hmode]
  have hrest : g.acts.filter (fun a => !(s.thread a.1 a.2).tmode) = [] := by rw [hacts]; simp [hmode]
  simp only [noTrapMode, htraps, hrest, List.isEmpty_nil, if_true, List.any_nil, Bool.false_eq_true, if_false, List.append_nil]
  rw [illegalFate, Grp.each, hacts]

theorem wholeBody_trapped {g : Grp} {s : State} {a : Nat × Nat} (hacts : g.acts = [a]) (hmode : (s.thread a.1 a.2).tmode = true)
    (plan : Grp → State → Nat → List Nat → Fate) (run : Grp → State → Nat → List Nat → State × Option PFault) :
    wholeBody plan run g s = illegalFate g s := by
  have htraps : g.acts.filter (fun a => (s.thread a.1 a.2).tmode) = [a] := by rw [hacts]; simp [hmode]
  have hrest : g.acts.filter (fun a => !(s.thread a.1 a.2).tmode) = [] := by rw [hacts]; simp [hmode]
  have hwarps : ({ g with acts := [] } : Grp).actWarps = [] := rfl
  have hkept : s.keptBack g [(a, Fate.fault (pf 1 0) g.pc)] = none := rfl
  simp only [wholeBody, htraps, hrest, hwarps, List.map_nil, List.flatMap_nil, List.map_cons, List.append_nil, hkept, List.foldl_nil]
  rw [illegalFate, Grp.each, hacts]
  rfl

/-- The double fault of a thread that is alone in its group, where its warp keeps another. -/
theorem issue_illegalFate {c : Ctl} {s : State} {g : Grp} {k l : Nat} {body : Grp → State → State × List ((Nat × Nat) × Fate)} (hi : s.issues c 1 g)
    (hacts : g.acts = [(k, l)]) (hmode : (s.thread k l).tmode = true) (hother : ∃ j < 32, j ≠ l ∧ (s.thread k j).st.alive = true)
    (hwatch : s.watches = []) (hbody : body g s = illegalFate g s) :
    ∃ t, issue c 1 s body = .next t ∧ (t.thread k l).st = .halted ∧ (t.ctx (s.kernelOf k).ctx).st = .faulted := by
  obtain ⟨-, hset, -⟩ := State.group_some hi.1
  obtain ⟨hfaulted, hhalted, hsame⟩ := State.trap_double hmode hwatch (pf 1 0) g.pc
  have hlane : l < 32 := (hi.2.2 (k, l) (by rw [hacts]; exact List.mem_cons_self)).1
  have hfates : (byLane (illegalFate g s).2).foldl State.applyFate s = s.trap k l (pf 1 0) g.pc := by
    obtain ⟨r, hr, hmem⟩ := byLane_map (fun _ => .fault (pf 1 0) g.pc) g.acts
    have hnodup : r.Nodup := by
      refine List.Nodup.of_map (fun a => (a, Fate.fault (pf 1 0) g.pc)) ?_
      rw [← hr]
      exact byLane_nodup ((List.Nodup.of_map _ hi.2.1).map fun a b hab => congrArg Prod.fst hab)
    have hperm : r.Perm [(k, l)] := (List.perm_ext_iff_of_nodup hnodup (List.nodup_singleton _)).mpr (hacts ▸ hmem)
    rw [illegalFate, Grp.each, hr, List.perm_singleton.mp hperm]
    rfl
  obtain ⟨j, hj, hjl, halive⟩ := hother
  obtain ⟨⟨hrest, -⟩, hclosed, -⟩ := State.finish_closes (g := g) hfates fun n hn => ⟨j, hj, by
    obtain ⟨a, ha, rfl⟩ := List.mem_map.mp (List.mem_eraseDups.mp hn)
    rw [hset, hacts, List.mem_singleton] at ha
    rw [ha, hsame k j fun e => hjl e.2]
    exact halive⟩
  refine ⟨s.finish g (illegalFate g s).2, (issue_eq hi body).trans (by rw [hbody]; rfl), ?_, ?_⟩
  · rcases hclosed k l with e | ⟨hst, -⟩
    · exact (congrArg Thread.st e).trans hhalted
    · cases hhalted.symm.trans hst
  · have hctxs := congrArg State.ctxs hrest
    rw [State.ctx, show State.ctxs (s.finish g (illegalFate g s).2) = _ from hctxs]
    exact hfaulted

/-- The instructions that are illegal in trap mode because they are warp-whole or roll calls: what each gives a thread in trap mode. -/
theorem exec_illegal_in_trap_mode {c : Ctl} {s : State} {g : Grp} {k l : Nat} (hacts : g.acts = [(k, l)]) (hmode : (s.thread k l).tmode = true) {i : Instr}
    (hinstr : (∃ op a, i = .redv c op a) ∨ (∃ d a, i = .bamax c d a) ∨ (∃ o x d a, i = .ldl c o x d a) ∨ (∃ x d a, i = .stl c .plain x d a)
      ∨ (∃ r, i = .roll c r) ∨ (∃ d r, i = .rolla c d r) ∨ (∃ a r, i = .rollw c a r)) :
    ∃ body, exec i s = issue c 1 s body ∧ body g s = illegalFate g s := by
  have hwhole := fun plan run => wholeBody_trapped hacts hmode plan run
  have hroll := fun body => noTrapMode_trapped hacts hmode body
  rcases hinstr with ⟨op, a, rfl⟩ | ⟨d, a, rfl⟩ | ⟨o, x, d, a, rfl⟩ | ⟨x, d, a, rfl⟩ | ⟨r, rfl⟩ | ⟨d, r, rfl⟩ | ⟨a, r, rfl⟩
  · change ∃ body, execRedv c op a s = _ ∧ _
    exact ⟨_, by rw [execRedv, wholeOp], hwhole _ _⟩
  · change ∃ body, execBamax c d a s = _ ∧ _
    exact ⟨_, by rw [execBamax, blkOp, wholeOp], hwhole _ _⟩
  · change ∃ body, execLdl c o x d a s = _ ∧ _
    exact ⟨_, by rw [execLdl, wholeOp], hwhole _ _⟩
  · change ∃ body, execStl c .plain x d a s = _ ∧ _
    exact ⟨_, by rw [execStl, wholeStore], (if_pos rfl).trans (hwhole _ _)⟩
  · exact ⟨_, exec_roll c r s, hroll _⟩
  · exact ⟨_, exec_rolla c d r s, hroll _⟩
  · exact ⟨_, exec_rollw c a r s, hroll _⟩

/-- Settles O19: a roll call of one warp completes or waits as the lemmas above about each instruction say; membership changes as theirs say; in trap
mode each of these instructions gives its thread the fate of an illegal one. -/
theorem rosters : Obligations.Rosters := by
  unfold Obligations.Rosters
  refine ⟨⟨?calls, fun c r s g k hi hk hr => ?members⟩,
    fun c s g k l hi hacts hmode hother hwatch i hinstr => ?trapped⟩
  case calls =>
    intro c r s g k hi hacts hready hdecl hplain hslot hwid ro one others hused
    have h : s.AtRoster g k r.toNat := ⟨hacts, hready, hdecl, hplain, hslot, hwid, hused⟩
    have hreach : ∀ a x, phaseReached ro.phase (s.wanted a x) = true ↔ (ro.phase - (s.elemsVal (s.fieldElems x a.toNat false)).setWidth 16).toNat < 2 ^ 15 :=
      fun _ _ => decide_eq_true_iff
    refine ⟨exec_roll_one hi h, exec_roll_others hi h, exec_rolla_passes hi h, fun a hothers ho hst => ⟨fun hall => ?_, fun hall => ?_⟩⟩
    · exact exec_rollw_passes hi h a hothers hst ho fun x hx => (hreach a x).mpr (hall x hx)
    · exact exec_rollw_waits hi h a hothers hst ho fun x hx => Bool.eq_false_iff.mpr fun e => hall x hx ((hreach a x).mp e)
  case members => exact ⟨exec_rjoin_members hi hk hr, exec_rleave_members hi hk hr⟩
  case trapped =>
    obtain ⟨body, hexec, hbody⟩ := exec_illegal_in_trap_mode hacts hmode hinstr
    rw [hexec]
    exact issue_illegalFate hi hacts hmode hother hwatch hbody

end Sys2Proof.Machine
end

section
/-! SUPPORT. Warps take slots (R169): which slot each gets, and that none of those before loses its own. -/
namespace Sys2Proof.Machine

-- Tables with a further key -------------------------------------------------------------------------------------------------

theorem Table.find_erase {α : Type} (t : Table α) (k j : Nat) : Table.find (Table.erase t k) j = if j = k then none else Table.find t j := by
  induction t with
  | nil => split <;> rfl
  | cons e t ih =>
    obtain ⟨a, v⟩ := e
    rw [Table.erase, Table.find]
    by_cases ha : a = k
    · rw [if_pos ha, ih]
      by_cases hj : j = k
      · rw [if_pos hj, if_pos hj]
      · rw [if_neg hj, if_neg hj, if_neg fun h => hj (h.symm.trans ha)]
    · rw [if_neg ha, Table.find, ih]
      by_cases hj : a = j
      · rw [if_pos hj, if_pos hj, if_neg fun h => ha (hj.trans h)]
      · rw [if_neg hj, if_neg hj]

theorem Table.find_insert {α : Type} {t : Table α} {k : Nat} (h : Table.find t k = none) (x : α) (j : Nat) :
    Table.find (Table.insert t k x) j = if j = k then some x else Table.find t j := by
  induction t with
  | nil => simp only [Table.insert, Table.find, eq_comm]
  | cons e t ih =>
    obtain ⟨a, v⟩ := e
    have hak : a ≠ k := fun e => by rw [Table.find, if_pos e] at h; cases h
    rw [Table.find, if_neg hak] at h
    rw [Table.insert]
    split
    · simp only [Table.find, eq_comm]
    · rw [Table.find, Table.find, ih h]
      by_cases hj : a = j
      · rw [if_pos hj, if_pos hj, if_neg fun e => hak (hj.trans e)]
      · rw [if_neg hj, if_neg hj]

theorem Table.find_put {α : Type} (t : Table α) (k : Nat) (x : α) (j : Nat) :
    Table.find (Table.put t k x) j = if j = k then some x else Table.find t j := by
  rw [Table.put, Table.find_insert (by rw [Table.find_erase, if_pos rfl]), Table.find_erase]
  split <;> rfl

theorem Table.get_of_find {α : Type} [Inhabited α] {t : Table α} {k : Nat} {x : α} (h : Table.find t k = some x) : Table.get t k = x := by
  induction t with
  | nil => cases h
  | cons e t ih =>
    rw [Table.find] at h
    rw [Table.get]
    split at h
    · next hk => rw [if_pos hk]; exact Option.some.inj h
    · next hk => rw [if_neg hk]; exact ih h

theorem Table.find_eq_none_iff {α : Type} (t : Table α) (k : Nat) : Table.find t k = none ↔ k ∉ Table.keys t := by
  induction t with
  | nil => simp [Table.find, Table.keys]
  | cons e t ih =>
    obtain ⟨a, v⟩ := e
    rw [Table.find, Table.keys, List.map_cons, List.mem_cons, not_or, ← Table.keys, ← ih]
    by_cases ha : a = k
    · simp [ha]
    · simp [ha, Ne.symm ha]

theorem Table.erase_of_find {α : Type} {t : Table α} {k : Nat} (h : Table.find t k = none) : Table.erase t k = t := by
  induction t with
  | nil => rfl
  | cons e t ih =>
    obtain ⟨a, v⟩ := e
    have hak : a ≠ k := fun e => by rw [Table.find, if_pos e] at h; cases h
    rw [Table.find, if_neg hak] at h
    rw [Table.erase, if_neg hak, ih h]

theorem Table.insert_perm {α : Type} (t : Table α) (k : Nat) (x : α) : (Table.insert t k x).Perm ((k, x) :: t) := by
  induction t with
  | nil => exact .refl _
  | cons e t ih =>
    obtain ⟨a, v⟩ := e
    rw [Table.insert]
    split
    · exact .refl _
    · exact (ih.cons _).trans (.swap ..)

theorem Table.keys_put_perm {α : Type} {t : Table α} {k : Nat} (h : Table.find t k = none) (x : α) :
    (Table.keys (Table.put t k x)).Perm (k :: Table.keys t) := by
  rw [Table.put, Table.erase_of_find h]
  exact (Table.insert_perm t k x).map Prod.fst

-- A free slot (R169) -------------------------------------------------------------------------------------------------------------

/-- Sixteen slots are not all taken by fewer warps. -/
theorem State.exists_free_slot {s : State} {q : Nat} (h : (s.quadWarps q).length < 16) : ∃ i < 16, s.warps.find (16 * q + i) = none := by
  by_contra hnone
  have htaken : ∀ k ∈ (List.range 16).map (16 * q + ·), k ∈ s.quadWarps q := by
    intro k hk
    obtain ⟨i, hi, rfl⟩ := List.mem_map.mp hk
    have hi : i < 16 := List.mem_range.mp hi
    refine List.mem_filter.mpr ⟨?_, by rw [quadOf, beq_iff_eq]; omega⟩
    by_contra hfree
    exact hnone ⟨i, hi, (Table.find_eq_none_iff _ _).mpr hfree⟩
  have hnodup : ((List.range 16).map (16 * q + ·)).Nodup := List.nodup_range.map fun _ _ e => Nat.add_left_cancel e
  have hle := (hnodup.subperm htaken).length_le
  rw [List.length_map, List.length_range] at hle
  omega

theorem State.freeSlot_spec {s : State} {q : Nat} (h : (s.quadWarps q).length < 16) : s.freeSlot q / 16 = q ∧ s.warps.find (s.freeSlot q) = none := by
  obtain ⟨i, hi, hfree⟩ := State.exists_free_slot h
  rw [State.freeSlot]
  cases hfind : (List.range 16).find? fun i => (s.warps.find (16 * q + i)).isNone with
  | none => exact absurd (List.find?_eq_none.mp hfind i (List.mem_range.mpr hi)) (by simp [hfree])
  | some j =>
    have hj : j < 16 := List.mem_range.mp (List.mem_of_find?_eq_some hfind)
    rw [Option.getD_some]
    exact ⟨by omega, Option.isNone_iff_eq_none.mp (List.find?_some (p := fun i => (s.warps.find (16 * q + i)).isNone) hfind)⟩

-- Warps in their slots (R169) -----------------------------------------------------------------------------------------------------

/-- The warps of these numbers that go to quadrant r of a core. -/
def countOn (q0 : Nat) (wids : List Nat) (r : Nat) : Nat := wids.countP fun w => (q0 + w) % 4 == r

/-- Each quadrant of a core that is to take warps has slots for those it takes. -/
def State.seatsFor (s : State) (core q0 : Nat) (wids : List Nat) : Prop :=
  ∀ r < 4, 0 < countOn q0 wids r → (s.quadWarps (4 * core + r)).length + countOn q0 wids r ≤ 16

theorem State.find_setWarp (s : State) (k : Nat) (w : Warp) (j : Nat) : (s.setWarp k w).warps.find j = if j = k then some w else s.warps.find j :=
  Table.find_put ..

theorem State.quadWarps_setWarp {s : State} {k : Nat} (h : s.warps.find k = none) (w : Warp) (q : Nat) :
    ((s.setWarp k w).quadWarps q).length = (s.quadWarps q).length + if k / 16 = q then 1 else 0 := by
  have hperm := (Table.keys_put_perm h w).filter fun k => quadOf k == q
  refine hperm.length_eq.trans ?_
  by_cases hq : k / 16 = q <;> simp [hq, quadOf, State.quadWarps]

/-- A warp that takes a free slot of its quadrant leaves room for the others. -/
theorem State.seatsFor_setWarp {s : State} {core q0 w slot : Nat} {wids : List Nat} (h : s.seatsFor core q0 (w :: wids))
    (hslot : slot / 16 = 4 * core + (q0 + w) % 4) (hfree : s.warps.find slot = none) (x : Warp) : (s.setWarp slot x).seatsFor core q0 wids := by
  intro r hr hpos
  have hcount : countOn q0 (w :: wids) r = countOn q0 wids r + if (q0 + w) % 4 = r then 1 else 0 := by
    rw [countOn, List.countP_cons, countOn]
    simp only [beq_iff_eq]
  have hroom := h r hr (by omega)
  rw [State.quadWarps_setWarp hfree, hslot]
  have hsame : 4 * core + (q0 + w) % 4 = 4 * core + r ↔ (q0 + w) % 4 = r := by omega
  simp only [hsame]
  omega

theorem State.seatWarps_keeps {core q0 : Nat} (ws : List Warp) {s : State} (h : s.seatsFor core q0 (ws.map Warp.wid)) {k : Nat} {x : Warp}
    (hk : s.warps.find k = some x) : (s.seatWarps core q0 ws).warps.find k = some x := by
  induction ws generalizing s with
  | nil => exact hk
  | cons w ws ih =>
    have hpos : 0 < countOn q0 ((w :: ws).map Warp.wid) ((q0 + w.wid) % 4) := List.countP_pos_iff.mpr ⟨w.wid, List.mem_cons_self, beq_self_eq_true _⟩
    have hroom := h _ (Nat.mod_lt _ (by omega)) hpos
    obtain ⟨hslot, hfree⟩ := State.freeSlot_spec (s := s) (q := 4 * core + (q0 + w.wid) % 4) (by omega)
    refine ih (State.seatsFor_setWarp h hslot hfree w) ?_
    rw [State.find_setWarp, if_neg fun e => by rw [e, hfree] at hk; cases hk]
    exact hk

/-- Each warp of a list has a slot of its quadrant that was free (R169). -/
theorem State.seatWarps_seats {core q0 : Nat} (ws : List Warp) {s : State} (h : s.seatsFor core q0 (ws.map Warp.wid)) {w : Warp} (hw : w ∈ ws) :
    ∃ slot, slot / 16 = 4 * core + (q0 + w.wid) % 4 ∧ s.warps.find slot = none ∧ (s.seatWarps core q0 ws).warps.find slot = some w := by
  induction ws generalizing s with
  | nil => cases hw
  | cons x ws ih =>
    have hpos : 0 < countOn q0 ((x :: ws).map Warp.wid) ((q0 + x.wid) % 4) := List.countP_pos_iff.mpr ⟨x.wid, List.mem_cons_self, beq_self_eq_true _⟩
    have hroom := h _ (Nat.mod_lt _ (by omega)) hpos
    obtain ⟨hslot, hfree⟩ := State.freeSlot_spec (s := s) (q := 4 * core + (q0 + x.wid) % 4) (by omega)
    have hrest := State.seatsFor_setWarp h hslot hfree x
    rcases List.mem_cons.mp hw with rfl | hw
    · exact ⟨_, hslot, hfree, State.seatWarps_keeps ws hrest (by rw [State.find_setWarp, if_pos rfl])⟩
    · obtain ⟨slot, hquad, hnone, hseated⟩ := ih hrest hw
      rw [State.find_setWarp] at hnone
      split at hnone
      · cases hnone
      · exact ⟨slot, hquad, hnone, hseated⟩

/-- Taking slots changes warps alone. -/
theorem State.seatWarps_eq (core q0 : Nat) (ws : List Warp) (s : State) : s.seatWarps core q0 ws = { s with warps := (s.seatWarps core q0 ws).warps } := by
  induction ws generalizing s with
  | nil => rfl
  | cons w ws ih => exact ih (s.setWarp (s.freeSlot (4 * core + (q0 + w.wid) % 4)) w)

/-- A core that qualifies has the slots (R169, R368). -/
theorem State.seatsFor_of_q0Of {s : State} {core q0 : Nat} {n : Need} (h : s.q0Of core n = some q0) : s.seatsFor core q0 (n.warps.map Prod.fst) := by
  have hfit : s.rowsFit core n q0 = true := List.find?_some h
  intro r hr hpos
  have hrow := List.all_eq_true.mp hfit r (List.mem_range.mpr hr)
  have hcount : countOn q0 (n.warps.map Prod.fst) r = (n.warps.filter fun w => (q0 + w.1) % 4 == r).length := by
    rw [countOn, List.countP_map, List.countP_eq_length_filter]
    rfl
  rw [hcount] at hpos ⊢
  have hsome : (n.warps.filter fun w => (q0 + w.1) % 4 == r).isEmpty = false := by
    rw [List.isEmpty_eq_false_iff]
    exact List.ne_nil_of_length_pos hpos
  simp only [hsome, Bool.false_or, Bool.and_eq_true, decide_eq_true_eq] at hrow
  exact hrow.1

end Sys2Proof.Machine
end

section
/-! SUPPORT. Placement (R93, R169, R201, R264, R364, R368): the range a cluster serves, the core, and what stands on it afterwards. -/
namespace Sys2Proof.Machine

-- The core (R191, R193, R364) -----------------------------------------------------------------------------------------------------

/-- The machine without what stands in cores, clusters and quadrants. -/
def State.coreless (s : State) : State := { s with cores := [], clusters := [], quads := [] }

theorem foldl_coreless {α : Type} {f : State → α → State} (hf : ∀ s x, (f s x).coreless = s.coreless) (xs : List α) (s : State) :
    (xs.foldl f s).coreless = s.coreless := by
  induction xs generalizing s with
  | nil => rfl
  | cons x xs ih => exact (ih (f s x)).trans (hf s x)

theorem State.eq_of_coreless {s t : State} (h : t.coreless = s.coreless) : t = { s with cores := t.cores, clusters := t.clusters, quads := t.quads } := by
  have hown : t = { t.coreless with cores := t.cores, clusters := t.clusters, quads := t.quads } := rfl
  rw [h] at hown
  exact hown

theorem State.modQuad_coreless (s : State) (q : Nat) (f : Quad → Quad) : (s.modQuad q f).coreless = s.coreless := rfl
theorem State.modCore_coreless (s : State) (c : Nat) (f : Core → Core) : (s.modCore c f).coreless = s.coreless := rfl
theorem State.modCluster_coreless (s : State) (c : Nat) (f : Cluster → Cluster) : (s.modCluster c f).coreless = s.coreless := rfl

theorem State.prepareCore_coreless (s : State) (core : Nat) (fuse : Bool) : (s.prepareCore core fuse).coreless = s.coreless := by
  unfold State.prepareCore
  dsimp only
  rw [foldl_coreless fun _ _ => State.modQuad_coreless .., State.modL1, State.modCore_coreless]
  split
  · rfl
  · rw [State.modCluster_coreless, foldl_coreless fun _ _ => State.modCore_coreless ..]

theorem State.prepareCore_eq (s : State) (core : Nat) (fuse : Bool) : s.prepareCore core fuse = { s with
    cores := (s.prepareCore core fuse).cores, clusters := (s.prepareCore core fuse).clusters, quads := (s.prepareCore core fuse).quads } :=
  State.eq_of_coreless (s.prepareCore_coreless core fuse)

/-- A workgroup placed (R368) finds the machine with no more changed than the core, the warps and the workgroups. -/
theorem State.placeWg_eq {s : State} {kn : Nat} (hplain : (s.kernel kn).repeatable = false) (idx prio core q0 : Nat) :
    ∃ u : State, u.warps = s.warps ∧ u.mem = s.mem ∧ u.ranges = s.ranges
      ∧ u.wgs = s.wgs.put s.nextId ((s.kernel kn).newWg kn idx core q0 prio s.nextId)
      ∧ s.placeWg kn idx prio core q0 = u.seatWarps core q0 ((List.range (s.kernel kn).nwarps).map ((s.kernel kn).newWarp s.nextId)) := by
  refine ⟨{ s.prepareCore core (s.kernel kn).fuse with
    nextId := s.nextId + 1, wgs := s.wgs.put s.nextId ((s.kernel kn).newWg kn idx core q0 prio s.nextId) }, ?_, ?_, ?_, rfl, ?_⟩
  · rw [State.prepareCore_eq]
  · rw [State.prepareCore_eq]
  · rw [State.prepareCore_eq]
  · simp only [State.placeWg, State.newId, hplain, Bool.false_eq_true, if_false]
    rw [State.prepareCore_eq]
    rfl

-- The range (R357, R369) ------------------------------------------------------------------------------------------------------------

theorem leastBy_singleton {α : Type} (m n : α → Nat) (a : α) : leastBy m n [a] = some a := by simp [leastBy, least]

theorem State.chooseRange_only (s : State) (c p : Nat) (r : Range) : s.chooseRange (.cluster c) p [r] = some r := by
  cases htimed : (s.kernel r.kernel).isTimed
  · have hprio : ([r].map fun r => if Holder.cluster c == .chip then (s.kernel r.kernel).prio else r.prio).foldl max 0 = r.prio := by simp
    simp only [State.chooseRange, List.filter_cons, htimed, Bool.false_eq_true, if_false, List.filter_nil, hprio]
    simp [leastBy, least]
  · simp only [State.chooseRange, List.filter_cons, htimed, if_true, List.filter_nil, leastBy_singleton]

theorem State.clusterRanges_only {s : State} {c : Nat} {r : Range} (hr : s.ranges = [r]) (hholder : r.holder = .cluster c) (hlo : r.lo < r.hi)
    (hruns : (s.ctx (s.kernel r.kernel).ctx).runs = true) : s.clusterRanges c = [r] := by
  simp [State.clusterRanges, hr, hholder, hlo, hruns]

/-- The lowest core of a cluster that qualifies. -/
theorem lowest_core {p : Nat → Bool} {c core : Nat} (hcore : core / 8 = c) (hp : p core = true) (hbelow : ∀ j < core, j / 8 = c → p j = false) :
    ((List.range 8).map (8 * c + ·)).find? p = some core := by
  rw [List.find?_eq_some_iff_getElem]
  refine ⟨hp, core % 8, by simp; omega, by simp; omega, fun j hj => ?_⟩
  rw [List.getElem_map, List.getElem_range, hbelow _ (by omega) (by omega)]
  rfl

theorem State.takeIndex_only {s : State} {r : Range} (hr : s.ranges = [r]) :
    (s.takeIndex r).ranges = if r.lo + 1 < r.hi then [{ r with lo := r.lo + 1 }] else [] := by
  simp only [State.takeIndex, hr, List.map_cons, List.map_nil, beq_self_eq_true, if_true, List.filter_cons, List.filter_nil, decide_eq_true_eq]

/-- The position of a holder is all that serving a range changes. -/
theorem State.served_eq (s : State) (h : Holder) (r : Range) : s.served h r = { s with rr := (s.served h r).rr } := by
  unfold State.served
  split <;> rfl

-- A new warp (R93, R364) -----------------------------------------------------------------------------------------------------------

theorem Table.get_of_mem_map {α : Type} [Inhabited α] (f : Nat → α) {ks : List Nat} {k : Nat} (h : k ∈ ks) :
    Table.get (List.map (fun l => (l, f l)) ks) k = f k := by
  induction ks with
  | nil => cases h
  | cons j ks ih =>
    rw [List.map_cons, Table.get]
    split
    · next e => rw [e]
    · next e => exact ih ((List.mem_cons.mp h).resolve_left (Ne.symm e))

theorem Kernel.newWarp_thread (k : Kernel) (wg w : Nat) {l : Nat} (hl : l < 32) : (k.newWarp wg w).thread l = newThread k.entry :=
  Table.get_of_mem_map (fun _ => newThread k.entry) (List.mem_range.mpr hl)

theorem Kernel.newWarp_line (k : Kernel) (wg w : Nat) {j : Nat} (hj : j < 16) : (k.newWarp wg w).s j = k.line1.extractLsb' (32 * j) 32 := by
  interval_cases j <;> rfl

-- Placement by a cluster (R368) ------------------------------------------------------------------------------------------------------

/-- A cluster with one range, and no frame before it, places its lowest index. -/
theorem exec_placement {s : State} {c core q0 : Nat} {r : Range} (hc : c < 48) (hr : s.ranges = [r]) (hholder : r.holder = .cluster c)
    (hlo : r.lo < r.hi) (hruns : (s.ctx (s.kernel r.kernel).ctx).runs = true) (hframes : s.frames = [])
    (hplain : (s.kernel r.kernel).repeatable = false) (hcore : core / 8 = c) (hfits : s.fits ((s.kernel r.kernel).need r.prio) core = true)
    (hbelow : ∀ j < core, j / 8 = c → s.fits ((s.kernel r.kernel).need r.prio) j = false)
    (hq0 : s.q0Of core ((s.kernel r.kernel).need r.prio) = some q0) :
    exec (.workgroupPlacement c) s = .next (((s.served (.cluster c) r).takeIndex r).placeWg r.kernel r.lo r.prio core q0) := by
  have hfirst : (s.framesFirst (s.half (c / 6)).part r.prio || !s.poolFits (s.kernel r.kernel)) = false := by
    simp [State.framesFirst, State.readyFrames, hframes, State.poolFits, hplain]
  change execWorkgroupPlacement c s = _
  simp only [execWorkgroupPlacement, if_neg (Nat.not_le.mpr hc), State.clusterRanges_only hr hholder hlo hruns, State.chooseRange_only, hfirst,
    Bool.false_eq_true, if_false, lowest_core hcore hfits hbelow, hq0, Option.getD_some]

end Sys2Proof.Machine
end

section
/-! SUPPORT. What stands on a core once a workgroup of a kernel is placed there (R93, R169, R201, R264, R364). -/
namespace Sys2Proof.Machine

theorem State.seatsFor_of_warps {s t : State} (h : t.warps = s.warps) {core q0 : Nat} {wids : List Nat} (hs : s.seatsFor core q0 wids) :
    t.seatsFor core q0 wids := by
  have hquad : ∀ q, t.quadWarps q = s.quadWarps q := fun q => by rw [State.quadWarps, h, ← State.quadWarps]
  intro r hr hpos
  rw [hquad]
  exact hs r hr hpos

theorem State.warp_of_find {s : State} {k : Nat} {w : Warp} (h : s.warps.find k = some w) : s.warp k = w := Table.get_of_find h

/-- A workgroup placed where its warps find slots. -/
theorem State.placeWg_lands {s : State} {kn core q0 : Nat} (hplain : (s.kernel kn).repeatable = false) (idx prio : Nat)
    (hseats : s.seatsFor core q0 (List.range (s.kernel kn).nwarps)) :
    (s.placeWg kn idx prio core q0).mem = s.mem ∧ (s.placeWg kn idx prio core q0).ranges = s.ranges
      ∧ (s.placeWg kn idx prio core q0).wgs.get s.nextId = (s.kernel kn).newWg kn idx core q0 prio s.nextId
      ∧ ∀ w < (s.kernel kn).nwarps, ∃ slot, slot / 16 = 4 * core + (q0 + w) % 4 ∧ s.warps.find slot = none
        ∧ (s.placeWg kn idx prio core q0).warp slot = (s.kernel kn).newWarp s.nextId w := by
  obtain ⟨u, hwarps, hmem, hranges, hwgs, heq⟩ := State.placeWg_eq hplain idx prio core q0
  have hwids : ((List.range (s.kernel kn).nwarps).map ((s.kernel kn).newWarp s.nextId)).map Warp.wid = List.range (s.kernel kn).nwarps :=
    (List.map_map ..).trans (List.map_id _)
  refine ⟨?_, ?_, ?_, fun w hw => ?_⟩
  · rw [heq, State.seatWarps_eq]
    exact hmem
  · rw [heq, State.seatWarps_eq]
    exact hranges
  · rw [heq, State.seatWarps_eq, ← Table.get_put_same s.wgs s.nextId ((s.kernel kn).newWg kn idx core q0 prio s.nextId), ← hwgs]
  · obtain ⟨slot, hslot, hfree, hseated⟩ := State.seatWarps_seats (core := core) (q0 := q0) _ (State.seatsFor_of_warps hwarps (hwids.symm ▸ hseats))
      (List.mem_map_of_mem (f := (s.kernel kn).newWarp s.nextId) (List.mem_range.mpr hw))
    rw [hwarps] at hfree
    exact ⟨slot, hslot, hfree, heq ▸ State.warp_of_find hseated⟩

/-- The first part of `Obligations.WorkgroupMoves`. -/
theorem placement_moves {s : State} {c core q0 : Nat} {r : Range} (hc : c < 48) (hr : s.ranges = [r]) (hholder : r.holder = .cluster c)
    (hlo : r.lo < r.hi) (hruns : (s.ctx (s.kernel r.kernel).ctx).runs = true) (hframes : s.frames = [])
    (hplain : (s.kernel r.kernel).repeatable = false) (hcore : core / 8 = c) (hfits : s.fits ((s.kernel r.kernel).need r.prio) core = true)
    (hbelow : ∀ j < core, j / 8 = c → s.fits ((s.kernel r.kernel).need r.prio) j = false)
    (hq0 : s.q0Of core ((s.kernel r.kernel).need r.prio) = some q0) :
    ∃ t, exec (.workgroupPlacement c) s = .next t ∧ t.mem = s.mem ∧ t.ranges = (if r.lo + 1 < r.hi then [{ r with lo := r.lo + 1 }] else [])
      ∧ t.wgs.get s.nextId = (s.kernel r.kernel).newWg r.kernel r.lo core q0 r.prio s.nextId
      ∧ ∀ w < (s.kernel r.kernel).nwarps, ∃ slot, slot / 16 = 4 * core + (q0 + w) % 4 ∧ s.warps.find slot = none
        ∧ t.warp slot = (s.kernel r.kernel).newWarp s.nextId w := by
  have hserved := s.served_eq (.cluster c) r
  have hranges : (s.served (.cluster c) r).ranges = [r] := by rw [hserved]; exact hr
  have hwarps : ((s.served (.cluster c) r).takeIndex r).warps = s.warps := by rw [hserved]; rfl
  have hmem : ((s.served (.cluster c) r).takeIndex r).mem = s.mem := by rw [hserved]; rfl
  have hid : ((s.served (.cluster c) r).takeIndex r).nextId = s.nextId := by rw [hserved]; rfl
  have hkernel : ((s.served (.cluster c) r).takeIndex r).kernel r.kernel = s.kernel r.kernel := by rw [hserved]; rfl
  have hwids : ((s.kernel r.kernel).need r.prio).warps.map Prod.fst = List.range (s.kernel r.kernel).nwarps :=
    (List.map_map ..).trans (List.map_id _)
  have hlands := State.placeWg_lands (s := (s.served (.cluster c) r).takeIndex r) (kn := r.kernel) (core := core) (q0 := q0) (by rw [hkernel]; exact hplain)
    r.lo r.prio (State.seatsFor_of_warps hwarps (by rw [hkernel, ← hwids]; exact State.seatsFor_of_q0Of hq0))
  rw [hmem, State.takeIndex_only hranges, hid, hkernel, hwarps] at hlands
  exact ⟨_, exec_placement hc hr hholder hlo hruns hframes hplain hcore hfits hbelow hq0, hlands⟩

end Sys2Proof.Machine
end

section
/-! SUPPORT. A save (R392, R393, R398): what the device writes of a workgroup moves no warp, and what leaves the core. -/
namespace Sys2Proof.Machine

-- Writing a frame (R381, R393 to R398) --------------------------------------------------------------------------------------------

/-- The frames are the same, and a warp that stands in a slot still stands there, in its workgroup. -/
def State.keepsSeats (s t : State) : Prop :=
  t.frames = s.frames ∧ ∀ k w, s.warps.find k = some w → ∃ v, t.warps.find k = some v ∧ v.wg = w.wg

theorem State.keepsSeats_of_warps {s t : State} (hframes : t.frames = s.frames) (hwarps : t.warps = s.warps) : s.keepsSeats t :=
  ⟨hframes, fun _ w hk => ⟨w, hwarps ▸ hk, rfl⟩⟩

theorem State.keepsSeats_refl (s : State) : s.keepsSeats s := State.keepsSeats_of_warps rfl rfl

theorem State.keepsSeats_trans {s t u : State} (h : s.keepsSeats t) (i : t.keepsSeats u) : s.keepsSeats u := by
  refine ⟨i.1.trans h.1, fun k w hk => ?_⟩
  obtain ⟨v, hv, hvw⟩ := h.2 k w hk
  obtain ⟨x, hx, hxv⟩ := i.2 k v hv
  exact ⟨x, hx, hxv.trans hvw⟩

theorem State.foldl_keepsSeats {α : Type} {f : State → α → State} (hf : ∀ (s : State) x, s.keepsSeats (f s x)) (xs : List α) (s : State) :
    s.keepsSeats (xs.foldl f s) := by
  induction xs generalizing s with
  | nil => exact s.keepsSeats_refl
  | cons x xs ih => exact State.keepsSeats_trans (hf s x) (ih _)

theorem State.modThread_keepsSeats (s : State) (k l : Nat) (f : Thread → Thread) : s.keepsSeats (s.modThread k l f) := by
  refine ⟨rfl, fun j w hj => ?_⟩
  have hfind : (s.modThread k l f).warps.find j = if j = k then some ((s.warp k).modThread l f) else s.warps.find j := Table.find_put ..
  rw [hfind]
  split
  · next e =>
    have hw : s.warp k = w := State.warp_of_find (e ▸ hj)
    exact ⟨_, rfl, by rw [hw]; rfl⟩
  · exact ⟨w, hj, rfl⟩

theorem State.wake_keepsSeats (s : State) (w : Watch) : s.keepsSeats (s.wake w) := by
  have hwork : ∀ (t : State) (core n slot a width : Nat) (sp : Bool) (o : OrdSc), t.keepsSeats (((t.dropL1 core n).acquire core o).observe slot sp a width o) := by
    intro t core n slot a width sp o
    unfold State.observe State.acquire
    split <;> split <;> exact State.keepsSeats_of_warps rfl rfl
  exact State.keepsSeats_trans (hwork ..) (State.modThread_keepsSeats ..)

theorem State.notify_keepsSeats (s : State) (lo hi : Nat) : s.keepsSeats (s.notify lo hi) :=
  State.foldl_keepsSeats State.wake_keepsSeats _ { s with watches := _ }

theorem State.putLine_keepsSeats (s : State) (n : Nat) (l : Line) : s.keepsSeats (s.putLine n l) := by
  rw [State.putLine_eq]
  refine State.keepsSeats_trans ?_ (State.notify_keepsSeats ..)
  rw [State.useL2_eq]
  exact State.keepsSeats_of_warps rfl rfl

/-- The check value of a line is made anew. -/
def State.renewCheck (s : State) (n : Nat) : State := { s with side := s.side.write (16 * n + 4) 2 (check16 (s.line n)).toNat }

theorem State.renewCheck_keepsSeats (s : State) (n : Nat) : s.keepsSeats (s.renewCheck n) := State.keepsSeats_of_warps rfl rfl

theorem State.blit_keepsSeats (s : State) (pa n v : Nat) : s.keepsSeats (s.blit pa n v) := by
  unfold State.blit
  split
  · exact s.keepsSeats_refl
  · refine State.keepsSeats_trans ?_ (State.notify_keepsSeats ..)
    have hbytes : s.keepsSeats { s with mem := s.mem.write pa n v } := State.keepsSeats_of_warps rfl rfl
    exact State.keepsSeats_trans hbytes (State.foldl_keepsSeats (f := fun s i => s.renewCheck (pa / 128 + i)) (fun _ _ => State.renewCheck_keepsSeats ..) _ _)

theorem State.blits_keepsSeats (s : State) (base : Nat) (fs : List (Nat × Nat × Nat)) : s.keepsSeats (s.blits base fs) :=
  State.foldl_keepsSeats (f := fun (s : State) (f : Nat × Nat × Nat) => s.blit (base + f.1) f.2.1 f.2.2) (fun _ _ => State.blit_keepsSeats ..) fs s

theorem State.writeFrame_keepsSeats (s : State) (f : Frame) : s.keepsSeats (s.writeFrame f) := by
  unfold State.writeFrame
  refine State.keepsSeats_trans ?_ (State.blits_keepsSeats ..)
  refine State.keepsSeats_trans ?_ (State.foldl_keepsSeats (fun _ _ => State.blits_keepsSeats ..) _ _)
  refine State.keepsSeats_trans ?_ (State.blits_keepsSeats ..)
  refine State.keepsSeats_trans ?_ (State.foldl_keepsSeats (fun _ _ => State.blits_keepsSeats ..) _ _)
  refine State.keepsSeats_trans ?_ (State.blits_keepsSeats ..)
  refine State.keepsSeats_trans ?_ (State.foldl_keepsSeats (fun _ _ => State.blits_keepsSeats ..) _ _)
  refine State.keepsSeats_trans (State.blits_keepsSeats ..) (State.foldl_keepsSeats (fun _ _ => ?_) _ _)
  exact State.keepsSeats_trans (State.blits_keepsSeats ..) (State.blits_keepsSeats ..)

theorem State.storeArea_keepsSeats (s : State) (wg : Nat) : s.keepsSeats (s.storeArea wg) := by
  unfold State.storeArea
  dsimp only
  split
  · exact s.keepsSeats_refl
  · exact State.foldl_keepsSeats (fun _ _ => State.putLine_keepsSeats ..) _ s.free.2

end Sys2Proof.Machine
end

section
/-! SUPPORT. What a saved workgroup leaves behind: empty slots, no record among the workgroups, and a frame whose threads are saved
(R95, R392, R398). -/
namespace Sys2Proof.Machine

-- Leaving the core (R170, R398) ---------------------------------------------------------------------------------------------------

theorem State.foldl_clearSlot (ks : List Nat) (s : State) : (ks.foldl State.clearSlot s).frames = s.frames
    ∧ ∀ k, (ks.foldl State.clearSlot s).warps.find k = if k ∈ ks then none else s.warps.find k := by
  induction ks generalizing s with
  | nil => exact ⟨rfl, fun k => (if_neg List.not_mem_nil).symm⟩
  | cons j ks ih =>
    obtain ⟨hframes, hfind⟩ := ih (s.clearSlot j)
    refine ⟨hframes, fun k => (hfind k).trans ?_⟩
    have hone : (s.clearSlot j).warps.find k = if k = j then none else s.warps.find k := Table.find_erase ..
    by_cases hj : k = j
    · rw [hone, if_pos hj, if_pos (List.mem_cons.mpr (.inl hj))]
      split <;> rfl
    · simp [hone, hj]

theorem State.mem_wgSlots_of_find {s : State} {k : Nat} {w : Warp} (h : s.warps.find k = some w) : k ∈ s.wgSlots w.wg := by
  have hmem : ∀ t : Table Warp, t.find k = some w → (k, w) ∈ t := by
    intro t
    induction t with
    | nil => intro h; cases h
    | cons e t ih =>
      obtain ⟨a, v⟩ := e
      intro h
      rw [Table.find] at h
      split at h
      · next e => rw [e, Option.some.inj h]; exact List.mem_cons_self
      · exact List.mem_cons_of_mem _ (ih h)
  exact List.mem_map.mpr ⟨(k, w), List.mem_filter.mpr ⟨hmem _ h, beq_self_eq_true _⟩, rfl⟩

theorem State.unfuse_coreless (s : State) (c : Nat) : (s.unfuse c).coreless = s.coreless := by
  unfold State.unfuse
  dsimp only
  split
  · rw [State.modCluster_coreless, foldl_coreless fun _ _ => State.modCore_coreless ..]
  · rfl

theorem State.freeWg_coreless (s : State) (wg : Nat) : (s.freeWg wg).coreless = { s with wgs := s.wgs.erase wg }.coreless := by
  rw [State.freeWg, State.unfuse_coreless]
  exact State.modCore_coreless ..

theorem State.freeWg_eq (s : State) (wg : Nat) : s.freeWg wg = { s with
    wgs := s.wgs.erase wg, cores := (s.freeWg wg).cores, clusters := (s.freeWg wg).clusters, quads := (s.freeWg wg).quads } :=
  State.eq_of_coreless (s := { s with wgs := s.wgs.erase wg }) (s.freeWg_coreless wg)

/-- The held last-page registers of a core are dropped (R193). -/
def State.dropPages (s : State) (core : Nat) : State := (List.range 4).foldl (fun s r => s.modQuad (4 * core + r) fun x => { x with lpr := [] }) s

theorem State.dropPages_keepsSeats (s : State) (core : Nat) : s.keepsSeats (s.dropPages core) := by
  have h : (s.dropPages core).coreless = s.coreless := foldl_coreless (fun _ _ => State.modQuad_coreless ..) _ s
  rw [State.eq_of_coreless h]
  exact State.keepsSeats_of_warps rfl rfl

/-- A workgroup leaves: its slots are empty and it is no longer listed. -/
theorem State.discardWg_leaves (s : State) (wg : Nat) : (s.discardWg wg).frames = s.frames ∧ (s.discardWg wg).wgs.find wg = none
    ∧ ∀ k w, s.warps.find k = some w → w.wg = wg → (s.discardWg wg).warps.find k = none := by
  obtain ⟨hframes, hfind⟩ := State.foldl_clearSlot (s.wgSlots wg) s
  rw [State.discardWg, State.freeWg_eq]
  refine ⟨hframes, (Table.find_erase ..).trans (if_pos rfl), fun k w hk hw => (hfind k).trans (if_pos ?_)⟩
  rw [← hw]
  exact State.mem_wgSlots_of_find hk

-- The frame (R95, R392, R393) ---------------------------------------------------------------------------------------------------------

/-- A frame with its threads as it keeps them. -/
def Frame.saved (f : Frame) : Frame := { f with warps := f.warps.map fun _ w => { w with threads := w.threads.map fun _ t => t.saved } }

theorem Thread.saved_st (t : Thread) : t.saved.st = .saved ∨ t.saved.st.alive = false := by
  unfold Thread.saved
  split
  · exact .inl rfl
  · next h => exact .inr (Bool.eq_false_iff.mpr h)

theorem Frame.saved_thread (f : Frame) {e : Nat × Warp} (he : e ∈ f.saved.warps) (l : Nat) : (e.2.thread l).st = .saved ∨ (e.2.thread l).st.alive = false := by
  obtain ⟨d, -, rfl⟩ := List.mem_map.mp he
  have hthread : Table.get (d.2.threads.map fun _ t => t.saved) l = (Table.get d.2.threads l).saved :=
    Table.get_map_of_default (fun _ t => t.saved) (fun _ => rfl) d.2.threads l
  rw [Warp.thread, hthread]
  exact Thread.saved_st _

/-- A frame is listed, and counted among its partition's saves (R370). -/
def State.listFrame (s : State) (kn : Nat) (f : Frame) : State :=
  { s with frames := s.frames ++ [f] }.modPart (s.kernel kn).part fun p => { p with saveSeq := p.saveSeq + 1 }

theorem State.listFrame_wgs (s : State) (kn : Nat) (f : Frame) : (s.listFrame kn f).wgs = s.wgs := rfl
theorem State.listFrame_warps (s : State) (kn : Nat) (f : Frame) : (s.listFrame kn f).warps = s.warps := rfl
theorem State.listFrame_frames (s : State) (kn : Nat) (f : Frame) : (s.listFrame kn f).frames = s.frames ++ [f] := rfl

/-- A workgroup leaves a core for the frame f (R398). -/
def State.savedAs (s : State) (wg core kn : Nat) (f : Frame) : State :=
  ((((s.writeFrame f).storeArea wg).dropPages core).discardWg wg).listFrame kn f.saved

/-- A workgroup that may be saved, is to be, and has a frame slot (R392, R398). -/
theorem exec_save {s : State} {wg slot : Nat} {g : Workgroup} {q : SaveReq} {more : List Nat} (hfind : s.wgs.find wg = some g) (hsave : g.save = some q)
    (hslot : s.freeFrames (s.kernel g.kernel).ctx = slot :: more) (hready : s.saveable wg = true) (hdoomed : g.doomed = false) :
    exec (.workgroupSave wg) s = .next (s.savedAs wg g.core g.kernel (s.frameOf wg slot q)) := by
  change execWorkgroupSave wg s = _
  unfold execWorkgroupSave
  simp -zeta only [hfind, hsave, hslot, hready, hdoomed, Bool.not_true, Bool.or_false, Bool.false_eq_true, if_false]
  rfl

theorem State.savedAs_leaves (s : State) (wg core kn : Nat) (f : Frame) : (s.savedAs wg core kn f).wgs.find wg = none
    ∧ (∀ k w, s.warps.find k = some w → w.wg = wg → (s.savedAs wg core kn f).warps.find k = none)
    ∧ (s.savedAs wg core kn f).frames = s.frames ++ [f.saved] := by
  obtain ⟨hframes, hseats⟩ := State.keepsSeats_trans (State.keepsSeats_trans (s.writeFrame_keepsSeats f) (State.storeArea_keepsSeats _ wg))
    (State.dropPages_keepsSeats _ core)
  obtain ⟨hleft, hgone, hempty⟩ := State.discardWg_leaves (((s.writeFrame f).storeArea wg).dropPages core) wg
  rw [State.savedAs, State.listFrame_wgs, State.listFrame_warps, State.listFrame_frames, hleft, hframes]
  refine ⟨hgone, fun k w hk hw => ?_, rfl⟩
  obtain ⟨v, hv, hvw⟩ := hseats k w hk
  exact hempty k v hv (hvw.trans hw)

/-- The second part of `Obligations.WorkgroupMoves`. -/
theorem save_moves {s : State} {wg slot : Nat} {g : Workgroup} {q : SaveReq} {more : List Nat} (hfind : s.wgs.find wg = some g) (hsave : g.save = some q)
    (hslot : s.freeFrames (s.kernel g.kernel).ctx = slot :: more) (hready : s.saveable wg = true) (hdoomed : g.doomed = false) :
    ∃ t f, exec (.workgroupSave wg) s = .next t ∧ t.wgs.find wg = none ∧ (∀ k w, s.warps.find k = some w → w.wg = wg → t.warps.find k = none)
      ∧ t.frames = s.frames ++ [f] ∧ f.id = wg ∧ f.ctx = (s.kernel g.kernel).ctx ∧ f.slot = slot ∧ f.wg = { g with save := none }
      ∧ f.seq = (s.part (s.kernel g.kernel).part).saveSeq + 1
      ∧ ∀ e ∈ f.warps, ∀ l, (e.2.thread l).st = .saved ∨ (e.2.thread l).st.alive = false := by
  have hget : s.wgs.get wg = g := Table.get_of_find hfind
  obtain ⟨hgone, hempty, hframes⟩ := s.savedAs_leaves wg g.core g.kernel (s.frameOf wg slot q)
  refine ⟨_, (s.frameOf wg slot q).saved, exec_save hfind hsave hslot hready hdoomed, hgone, hempty, hframes, rfl, ?_, rfl, ?_, ?_,
    fun e he l => Frame.saved_thread _ he l⟩
  all_goals rw [← hget]; rfl

end Sys2Proof.Machine
end

section
/-! SUPPORT. A restore (R95, R399): what stands on the core that takes the only frame. -/
namespace Sys2Proof.Machine

-- A restored warp (R95, R399) ---------------------------------------------------------------------------------------------------

theorem Warp.restored_thread (w : Warp) (l : Nat) : w.restored.thread l = (w.thread l).restored :=
  Table.get_map_of_default (fun _ (t : Thread) => t.restored) (fun _ => rfl) w.threads l

theorem Warp.registers_of_unplaced {w x : Warp} (h : x.unplaced = w.unplaced) :
    x.wid = w.wid ∧ x.vreg = w.vreg ∧ x.tags = w.tags ∧ x.sreg = w.sreg := by
  have hwid := congrArg Warp.wid h
  have hvreg := congrArg Warp.vreg h
  have htags := congrArg Warp.tags h
  have hsreg := congrArg Warp.sreg h
  exact ⟨hwid, hvreg, htags, hsreg⟩

theorem State.frames_of_rest {s t : State} (h : t.rest = s.rest) : t.frames = s.frames := by have := congrArg State.frames h; exact this

/-- Blocks that leave the files of a core's quadrants change the place of blocks and no more (R108). -/
theorem State.foldl_spill_warpsOnly (core : Nat) (rs : List Nat) (s : State) :
    s.warpsOnly Warp.unplaced (rs.foldl (fun s r => s.spill (4 * core + r) 64) s) := by
  induction rs generalizing s with
  | nil => exact s.warpsOnly_refl _
  | cons r rs ih => exact State.warpsOnly_trans (State.spill_warpsOnly ..) (ih _)

-- The frame's workgroup on the core (R399) -----------------------------------------------------------------------------------------

/-- A frame whose bytes are as they were written, with no roster bound and no result to come, is placed (R399): the machine its warps take slots in,
and what follows. -/
theorem State.restoreFrame_eq {s : State} {f : Frame} (hframes : s.frames = [f]) (hbound : f.wg.bound = []) (hpends : f.pends = [])
    (htorn : f.torn = false) (core q0 : Nat) :
    ∃ u : State, u.warps = s.warps ∧ u.mem = s.mem ∧ u.frames = [] ∧ u.wgs = s.wgs.put f.id { f.wg with core, q0, order := s.nextId }
      ∧ s.restoreFrame f core q0
        = (List.range 4).foldl (fun s r => s.spill (4 * core + r) 64) (u.seatWarps core q0 (List.map (fun e => e.2.restored) f.warps)) := by
  have hnone : s.frames.filter (fun x => x.id != f.id) = [] := by simp [hframes]
  refine ⟨{ ({ s with frames := [] }.prepareCore core (s.kernel f.wg.kernel).fuse) with
    nextId := s.nextId + 1, wgs := s.wgs.put f.id { f.wg with core, q0, order := s.nextId } }, ?_, ?_, ?_, rfl, ?_⟩
  · rw [State.prepareCore_eq]
  · rw [State.prepareCore_eq]
  · rw [State.prepareCore_eq]
  · simp only [State.restoreFrame, htorn, Bool.false_eq_true, if_false, hbound, List.foldl_nil, hpends, List.filterMap_nil, List.append_nil, hnone]
    rw [State.prepareCore_eq]

/-- The third part of `Obligations.WorkgroupMoves`: where the frame is placed. -/
theorem State.restoreFrame_lands {s : State} {f : Frame} (hframes : s.frames = [f]) (hbound : f.wg.bound = []) (hpends : f.pends = [])
    (htorn : f.torn = false) {core q0 : Nat} (hids : ∀ e ∈ f.warps, e.2.wid = e.1) (hseats : s.seatsFor core q0 (List.map Prod.fst f.warps)) :
    (s.restoreFrame f core q0).mem = s.mem ∧ (s.restoreFrame f core q0).frames = []
      ∧ (s.restoreFrame f core q0).wgs.get f.id = { f.wg with core, q0, order := s.nextId }
      ∧ ∀ e ∈ f.warps, ∃ slot, slot / 16 = 4 * core + (q0 + e.1) % 4 ∧ s.warps.find slot = none
        ∧ ((s.restoreFrame f core q0).warp slot).unplaced = e.2.restored.unplaced := by
  obtain ⟨u, hwarps, hmem, hnone, hwgs, heq⟩ := State.restoreFrame_eq hframes hbound hpends htorn core q0
  have hwids : (List.map (fun e => e.2.restored) f.warps).map Warp.wid = List.map Prod.fst f.warps :=
    (List.map_map ..).trans (List.map_congr_left hids)
  obtain ⟨hrest, -, hplaced⟩ := State.foldl_spill_warpsOnly core (List.range 4) (u.seatWarps core q0 (List.map (fun e => e.2.restored) f.warps))
  rw [← heq] at hrest hplaced
  rw [State.seatWarps_eq] at hrest
  refine ⟨?_, ?_, ?_, fun e he => ?_⟩
  · exact (State.mem_of_rest hrest).trans hmem
  · exact (State.frames_of_rest hrest).trans hnone
  · rw [State.wgs_of_rest hrest, ← Table.get_put_same s.wgs f.id { f.wg with core, q0, order := s.nextId }, ← hwgs]
  · obtain ⟨slot, hslot, hfree, hseated⟩ := State.seatWarps_seats (core := core) (q0 := q0) _ (State.seatsFor_of_warps hwarps (hwids.symm ▸ hseats))
      (List.mem_map_of_mem (f := fun e : Nat × Warp => e.2.restored) he)
    rw [hwarps] at hfree
    have hwid : e.2.restored.wid = e.1 := hids e he
    rw [hwid] at hslot
    exact ⟨slot, hslot, hfree, (hplaced slot).trans (congrArg Warp.unplaced (State.warp_of_find hseated))⟩

-- The restore (R370, R399) -----------------------------------------------------------------------------------------------------------

/-- The only frame, ready, is placed on the core that takes it. -/
theorem exec_restore {s : State} {f : Frame} {core q0 : Nat} (hframes : s.frames = [f]) (hready : f.ready = true) (hruns : (s.ctx f.ctx).runs = true)
    (hcore : s.frameCore f = some core) (hq0 : s.q0Of core (s.frameNeed f) = some q0)
    (hnew : s.newFirst (s.kernel f.wg.kernel).part f.wg.prio = false) : exec (.workgroupRestore f.id) s = .next (s.restoreFrame f core q0) := by
  have hfind : s.frames.find? (fun x => x.id == f.id) = some f := by simp [hframes]
  have hnext : s.nextFrame (s.kernel f.wg.kernel).part = some f := by
    rw [State.nextFrame, State.readyFrames, hframes, List.filter_cons, hready, hruns, beq_self_eq_true]
    exact leastBy_singleton ..
  change execWorkgroupRestore f.id s = _
  simp only [execWorkgroupRestore, hfind, hready, hruns, hnext, hnew, hcore, hq0, Option.any_some, bne_self_eq_false, Bool.not_true, Bool.or_false,
    Bool.false_eq_true, if_false, Option.getD_some]

/-- Settles O38: each of the three events by its lemma above. -/
theorem workgroupMoves : Obligations.WorkgroupMoves := by
  unfold Obligations.WorkgroupMoves
  refine ⟨?placed, ?saved, ?restored⟩
  case placed =>
    intro s c core q0 r hc hr hholder hlo k need hruns hframes hplain hcore hfits hbelow hq0
    obtain ⟨t, hexec, hmem, hranges, hwg, hwarps⟩ := placement_moves hc hr hholder hlo hruns hframes hplain hcore hfits hbelow hq0
    refine ⟨t, hexec, hmem, hranges, ?_, fun w hw => ?_⟩
    · rw [hwg]
      exact ⟨rfl, rfl, rfl, rfl, rfl, fun _ => rfl, fun _ _ => rfl⟩
    · obtain ⟨slot, hslot, hfree, hwarp⟩ := hwarps w hw
      refine ⟨slot, hslot, hfree, ?_⟩
      have hthread : ∀ l, t.thread slot l = ((s.kernel r.kernel).newWarp s.nextId w).thread l := fun l => by rw [State.thread, hwarp]
      rw [hwarp]
      exact ⟨rfl, rfl, fun l hl => (hthread l).trans (Kernel.newWarp_thread _ _ _ hl), fun j hj => Kernel.newWarp_line _ _ _ hj, rfl, rfl⟩
  case saved =>
    intro s wg slot g q more hfind hsave hslot hready hdoomed
    exact save_moves hfind hsave hslot hready hdoomed
  case restored =>
    intro s f core q0 hframes hready hruns hcore hq0 hids hbound hpends htorn hnew
    have hseats : s.seatsFor core q0 (List.map Prod.fst f.warps) := by
      have h := State.seatsFor_of_q0Of hq0
      have hneed : (s.frameNeed f).warps.map Prod.fst = List.map Prod.fst f.warps := List.map_map ..
      exact hneed ▸ h
    obtain ⟨hmem, hnone, hwg, hwarps⟩ := State.restoreFrame_lands hframes hbound hpends htorn (fun e he => (hids e he).1) hseats
    refine ⟨_, exec_restore hframes hready hruns hcore hq0 hnew, hmem, hnone, ⟨s.nextId, hwg⟩, fun e he => ?_⟩
    obtain ⟨slot, hslot, hfree, hwarp⟩ := hwarps e he
    obtain ⟨hwid, hvreg, htags, hsreg⟩ := Warp.registers_of_unplaced hwarp
    exact ⟨slot, hslot, hfree, hwid.trans (hids e he).1, hvreg, htags, hsreg, fun l => (Warp.thread_of_unplaced hwarp l).trans (Warp.restored_thread e.2 l)⟩

end Sys2Proof.Machine
end

section
/-! SUPPORT. The functions of the integer instructions in the words of the rules (R121, R122, R126): shifts, choices, bit fields, and the counts and the
reversal of bits, each with its number. -/
namespace Sys2Proof.Machine

-- Shifts (R121, R127) ---------------------------------------------------------------------------------------------------

/-- A shift by the whole width or more leaves 0: so does the product modulo 2^w. -/
theorem shiftLeft_cut {w : Nat} (x : BitVec w) (n : Nat) : (if w ≤ n then 0 else x <<< n) = BitVec.ofNat w (x.toNat * 2 ^ min n w) := by
  apply BitVec.eq_of_toNat_eq
  split
  · rw [Nat.min_eq_right ‹_›]; simp
  · rw [Nat.min_eq_left (by omega)]; simp [BitVec.toNat_shiftLeft, Nat.shiftLeft_eq]

theorem ushiftRight_cut {w : Nat} (x : BitVec w) (n : Nat) : (if w ≤ n then 0 else x >>> n) = BitVec.ofNat w (x.toNat / 2 ^ min n w) := by
  apply BitVec.eq_of_toNat_eq
  split
  · rw [Nat.min_eq_right ‹_›, Nat.div_eq_of_lt x.isLt]; simp
  · have hlt : x.toNat / 2 ^ n < 2 ^ w := Nat.lt_of_le_of_lt (Nat.div_le_self ..) x.isLt
    rw [Nat.min_eq_left (by omega)]
    simp [Nat.shiftRight_eq_div_pow, Nat.mod_eq_of_lt hlt]

/-- An arithmetic shift divides, rounding down; from the width on only the sign is left. -/
theorem sshiftRight_cut {w : Nat} (x : BitVec (w + 1)) (n : Nat) :
    x.sshiftRight (min n w) = BitVec.ofInt (w + 1) (x.toInt / 2 ^ min n (w + 1)) := by
  have hdiv : x.toInt / 2 ^ min n w = x.toInt / 2 ^ min n (w + 1) := by
    by_cases hn : n ≤ w
    · rw [Nat.min_eq_left hn, Nat.min_eq_left (by omega)]
    · have hlo := x.le_toInt
      have hhi := x.toInt_lt
      rw [Nat.add_sub_cancel] at hlo hhi
      rw [Nat.min_eq_right (by omega), Nat.min_eq_right (by omega), pow_succ]
      generalize (2 : Int) ^ w = m at *
      rcases lt_or_ge x.toInt 0 with hneg | hpos
      · rw [Int.ediv_eq_neg_one_of_neg_of_le hneg (by omega), Int.ediv_eq_neg_one_of_neg_of_le hneg (by omega)]
      · rw [Int.ediv_eq_zero_of_lt hpos hhi, Int.ediv_eq_zero_of_lt hpos (by omega)]
  rw [← BitVec.ofInt_toInt (x := x.sshiftRight (min n w)), BitVec.toInt_sshiftRight, Int.shiftRight_eq_div_pow]
  exact congrArg _ (by exact_mod_cast hdiv)

-- Choice and comparison (R121, R127) ---------------------------------------------------------------------------------------

/-- The lesser of two by an order in which different words have different places. -/
theorem pick_least {α : Type} [LinearOrder α] {w : Nat} {key : BitVec w → α} (hkey : Function.Injective key) (x y : BitVec w) :
    pick (decide (key x < key y)) x y = if key x ≤ key y then x else y := by
  rw [pick]
  rcases lt_trichotomy (key x) (key y) with h | h | h
  · simp [h, h.le]
  · simp [hkey h]
  · simp [h.not_gt, h.not_ge]

theorem pick_greatest {α : Type} [LinearOrder α] {w : Nat} {key : BitVec w → α} (hkey : Function.Injective key) (x y : BitVec w) :
    pick (decide (key x < key y)) y x = if key x ≤ key y then y else x := by
  rw [pick]
  rcases lt_trichotomy (key x) (key y) with h | h | h
  · simp [h, h.le]
  · simp [hkey h]
  · simp [h.not_gt, h.not_ge]

theorem toInt_injective (w : Nat) : Function.Injective (fun x : BitVec w => x.toInt) := fun _ _ => BitVec.eq_of_toInt_eq

theorem cmpInt_natCast (w x y : Nat) : cmpInt w x y = if x < y then BitVec.allOnes w else if x = y then 0 else 1 := by
  simp only [cmpInt, Nat.cast_lt, Nat.cast_inj]

-- Negation and magnitude (R126) ----------------------------------------------------------------------------------------------

theorem sub_eq_ofInt_neg {w : Nat} (x : BitVec w) : 0 - x = BitVec.ofInt w (-x.toInt) := by
  rw [BitVec.ofInt_neg, BitVec.ofInt_toInt, zero_sub]

theorem abs_eq_ofInt {w : Nat} (x : BitVec w) : (if 0 ≤ x.toInt then x else 0 - x) = BitVec.ofInt w |x.toInt| := by
  split
  · rw [abs_of_nonneg ‹_›, BitVec.ofInt_toInt]
  · rw [abs_of_neg (by omega), sub_eq_ofInt_neg]

-- Bit fields (R122) ------------------------------------------------------------------------------------------------------------

/-- A number under a mask of e bits from bit p on. -/
theorem and_fieldMask (x e p : Nat) : x &&& ((2 ^ e - 1) * 2 ^ p) = x / 2 ^ p % 2 ^ e * 2 ^ p := by
  apply Nat.eq_of_testBit_eq
  intro i
  simp only [Nat.testBit_and, Nat.testBit_mul_two_pow, Nat.testBit_two_pow_sub_one, Nat.testBit_mod_two_pow, Nat.testBit_div_two_pow]
  by_cases hi : p ≤ i
  · simp [hi, Bool.and_comm]
  · simp [hi]

theorem bfPos_eq (y : Word) : bfPos y = y.toNat % 32 := by simp [bfPos, bf, fld]
theorem bfLen_eq (y : Word) : bfLen y = min (min (y.toNat / 256 % 64) 32) (32 - y.toNat % 32) := by simp [bfLen, bfPos_eq, bf, fld]
theorem bfPos_add_bfLen_le (y : Word) : bfPos y + bfLen y ≤ 32 := by rw [bfLen, bfPos_eq]; omega

theorem bfMask_toNat (y : Word) : (bfMask y).toNat = (2 ^ bfLen y - 1) * 2 ^ bfPos y := by
  rw [bfMask, BitVec.toNat_ofNat, Nat.mod_eq_of_lt]
  calc (2 ^ bfLen y - 1) * 2 ^ bfPos y < 2 ^ bfLen y * 2 ^ bfPos y :=
        Nat.mul_lt_mul_of_pos_right (Nat.sub_lt (Nat.two_pow_pos _) Nat.one_pos) (Nat.two_pow_pos _)
    _ = 2 ^ (bfPos y + bfLen y) := by rw [Nat.add_comm, pow_add]
    _ ≤ 2 ^ 32 := Nat.pow_le_pow_right Nat.two_pos (bfPos_add_bfLen_le y)

/-- The field of b in a, as a number. -/
def bfField (x y : Word) : Nat := x.toNat / 2 ^ bfPos y % 2 ^ bfLen y

theorem and_bfMask_toNat (x y : Word) : (x &&& bfMask y).toNat = bfField x y * 2 ^ bfPos y := by
  rw [BitVec.toNat_and, bfMask_toNat, and_fieldMask, bfField]

theorem bfxZ_toNat (x y : Word) : (bfxZ x y).toNat = bfField x y := by
  rw [bfxZ, BitVec.toNat_ushiftRight, and_bfMask_toNat, Nat.shiftRight_eq_div_pow, Nat.mul_div_cancel _ (Nat.two_pow_pos _)]

theorem bfxZ_eq (x y : Word) : bfxZ x y = BitVec.ofNat 32 (bfField x y) := by
  rw [← bfxZ_toNat, BitVec.ofNat_toNat, BitVec.setWidth_eq]

/-- A field of n bits, one at least, read as signed. -/
theorem sx_of_lt {n x : Nat} (hn : n ≠ 0) (hx : x < 2 ^ n) : sx n x = if x < 2 ^ (n - 1) then (x : Int) else (x : Int) - 2 ^ n := by
  obtain ⟨n, rfl⟩ := Nat.exists_eq_succ_of_ne_zero hn
  rw [sx, Nat.mod_eq_of_lt hx, Nat.succ_sub_one]
  have : (2 : Nat) ^ n.succ = 2 * 2 ^ n := by rw [pow_succ, Nat.mul_comm]
  by_cases h : x < 2 ^ n
  · rw [if_pos h, if_pos (by omega)]
  · rw [if_neg h, if_neg (by omega)]
    push_cast
    rfl

theorem bfxS_eq (x y : Word) : bfxS x y = if bfLen y = 0 then 0
    else BitVec.ofInt 32 (if bfField x y < 2 ^ (bfLen y - 1) then (bfField x y : Int) else (bfField x y : Int) - 2 ^ bfLen y) := by
  rw [bfxS]
  split
  · rfl
  · have hlt : bfField x y < 2 ^ bfLen y := Nat.mod_lt _ (Nat.two_pow_pos _)
    rw [bfxZ_toNat, sx_of_lt ‹_› hlt]

/-- BFI clears the field of d and adds the low bits of a in its place. -/
theorem bfi32_toNat (x y z : Word) :
    (bfi32 x y z).toNat = z.toNat - bfField z y * 2 ^ bfPos y + x.toNat % 2 ^ bfLen y * 2 ^ bfPos y := by
  have hsplit : z.toNat = (z &&& bfMask y).toNat + (z &&& ~~~bfMask y).toNat := by
    rw [← BitVec.toNat_add_of_and_eq_zero (by ext i; simp; tauto), BitVec.add_eq_or_of_and_eq_zero _ _ (by ext i; simp; tauto)]
    congr 1
    ext i
    cases h : (bfMask y)[i] <;> simp [h]
  have hput : ((x <<< bfPos y) &&& bfMask y).toNat = x.toNat % 2 ^ bfLen y * 2 ^ bfPos y := by
    obtain ⟨m, hm⟩ := Nat.exists_eq_add_of_le (bfPos_add_bfLen_le y)
    have hpow : 2 ^ 32 = 2 ^ bfLen y * 2 ^ m * 2 ^ bfPos y := by rw [← pow_add, ← pow_add]; congr 1; omega
    rw [and_bfMask_toNat, bfField, BitVec.toNat_shiftLeft, Nat.shiftLeft_eq, hpow, Nat.mul_mod_mul_right, Nat.mul_div_cancel _ (Nat.two_pow_pos _),
      Nat.mod_mul_right_mod]
  have hdisj : (z &&& ~~~bfMask y) &&& ((x <<< bfPos y) &&& bfMask y) = 0#32 := by
    ext i
    cases h : (bfMask y)[i] <;> simp [h]
  rw [bfi32, ← BitVec.add_eq_or_of_and_eq_zero _ _ hdisj, BitVec.toNat_add_of_and_eq_zero hdisj, hput, ← and_bfMask_toNat z]
  omega

-- Counting bits (R126) ---------------------------------------------------------------------------------------------------------

theorem tst_eq_testBit (x i : Nat) : tst x i = x.testBit i := by
  rw [tst, Nat.testBit_eq_decide_div_mod_eq]; rfl

theorem clzAux_eq (x n : Nat) : clzAux x n = ((List.range n).reverse.takeWhile fun i => !x.testBit i).length := by
  induction n with
  | zero => rfl
  | succ n ih =>
    rw [List.range_succ, List.reverse_append, List.reverse_singleton, List.singleton_append, List.takeWhile_cons, clzAux, tst_eq_testBit, ih]
    cases x.testBit n <;> rfl

theorem ctzAux_eq (x i n : Nat) : ctzAux x i n = ((List.range' i n).takeWhile fun i => !x.testBit i).length := by
  induction n generalizing i with
  | zero => rfl
  | succ n ih =>
    rw [List.range'_succ, List.takeWhile_cons, ctzAux, tst_eq_testBit, ih]
    cases x.testBit i <;> rfl

theorem popAux_eq (x n : Nat) : popAux x n = ((List.range n).filter fun i => x.testBit i).length := by
  induction n with
  | zero => rfl
  | succ n ih =>
    rw [List.range_succ, List.filter_append, List.length_append, popAux, tst_eq_testBit, ih]
    cases h : x.testBit n <;> simp [h]

theorem clz32_eq (x : Word) : clz32 x = BitVec.ofNat 32 ((List.range 32).reverse.takeWhile fun i => !x.getLsbD i).length := by
  rw [clz32, clzAux_eq]; rfl
theorem ctz32_eq (x : Word) : ctz32 x = BitVec.ofNat 32 ((List.range 32).takeWhile fun i => !x.getLsbD i).length := by
  rw [ctz32, ctzAux_eq, List.range_eq_range']; rfl
theorem popc32_eq (x : Word) : popc32 x = BitVec.ofNat 32 ((List.range 32).filter fun i => x.getLsbD i).length := by
  rw [popc32, popcount, popAux_eq]; rfl

/-- The low n bits of a number in the opposite order. -/
def reversedBits (x : Nat) : Nat → Nat
  | 0 => 0
  | n + 1 => 2 * reversedBits x n + (x.testBit n).toNat

theorem testBit_reversedBits (x n i : Nat) : (reversedBits x n).testBit i = (decide (i < n) && x.testBit (n - 1 - i)) := by
  induction n generalizing i with
  | zero => simp [reversedBits]
  | succ n ih =>
    cases i with
    | zero => cases h : x.testBit n <;> simp [reversedBits, h, Nat.testBit_zero]
    | succ i =>
      have hhalf : (2 * reversedBits x n + (x.testBit n).toNat) / 2 = reversedBits x n := by
        have := (x.testBit n).toNat_lt
        omega
      rw [reversedBits, Nat.testBit_succ, hhalf, ih, show n + 1 - 1 - (i + 1) = n - 1 - i by omega]
      simp

/-- The sum of `bitReverse`, taken bit by bit. -/
theorem bitReverse_partial (x w n : Nat) (hn : n ≤ w) :
    (List.range n).foldl (fun r i => r + (if tst x i then 2 ^ (w - 1 - i) else 0)) 0 = reversedBits x n * 2 ^ (w - n) := by
  induction n with
  | zero => simp [reversedBits]
  | succ n ih =>
    have hpow : 2 ^ (w - n) = 2 * 2 ^ (w - 1 - n) := by rw [show w - n = w - 1 - n + 1 by omega, pow_succ, Nat.mul_comm]
    rw [List.range_succ, List.foldl_append, ih (by omega), List.foldl_cons, List.foldl_nil, reversedBits, tst_eq_testBit, hpow,
      show w - (n + 1) = w - 1 - n by omega]
    cases x.testBit n <;> simp <;> ring

theorem brev32_eq (x : Word) : brev32 x = x.reverse := by
  apply BitVec.eq_of_getLsbD_eq
  intro i hi
  rw [brev32, bitReverse, bitReverse_partial _ _ _ (Nat.le_refl _), Nat.sub_self, pow_zero, Nat.mul_one, BitVec.getLsbD_ofNat,
    testBit_reversedBits, BitVec.getLsbD_reverse, BitVec.getMsbD, decide_eq_true hi, Bool.true_and, Bool.true_and]
  rfl

end Sys2Proof.Machine
end

section
/-! SUPPORT. The integer instructions (R121 to R127): each is a register operation of fixed latency whose function on words or pairs is the rule's. -/
namespace Sys2Proof.Machine

-- The shapes of the integer instructions ----------------------------------------------------------------------------------

section
variable {i : Instr} {c : Ctl} {p : Option Pfx} {d a b : VReg}

theorem computes_int3 {f h : Word → Word → Word} (hexec : ∀ s, exec i s = int3 c p d a b s f) (hval : ∀ x y, f x y = h x y) :
    Computes i c (groupWords p) [srcA p a, srcB p b] { n := d.toNat } (fun vs => (h (vw vs 0) (vw vs 1)).setWidth 64) := by
  obtain rfl : f = h := funext₂ hval
  exact computes_regOp 4 hexec

theorem computes_int3d {f h : Word → Word → Word → Word} (hexec : ∀ s, exec i s = int3d c p d a b s f) (hval : ∀ x y z, f x y z = h x y z) :
    Computes i c (groupWords p) [srcA p a, srcB p b, own d] { n := d.toNat } (fun vs => (h (vw vs 0) (vw vs 1) (vw vs 2)).setWidth 64) := by
  obtain rfl : f = h := funext fun x => funext₂ (hval x)
  exact computes_regOp 4 hexec

theorem computes_int1 {n : Nat} {f h : Word → Word} (hexec : ∀ s, exec i s = int1 c n d a s f) (hval : ∀ x, f x = h x) :
    Computes i c n [own a] { n := d.toNat } (fun vs => (h (vw vs 0)).setWidth 64) := by
  obtain rfl : f = h := funext hval
  exact computes_regOp 4 hexec

theorem computes_int0 {n : Nat} {v : Word} {w : DWord} (hexec : ∀ s, exec i s = int0 c n d s v) (hval : v.setWidth 64 = w) :
    Computes i c n [] { n := d.toNat } (fun _ => w) := by
  subst hval
  exact computes_regOp 4 hexec

theorem computes_pair1 {f h : DWord → DWord} (hexec : ∀ s, exec i s = pair1 c d a s f) (hval : ∀ x, f x = h x) :
    Computes i c 1 [ownPair a] { n := d.toNat, pair := true } (fun vs => h (vd vs 0)) := by
  obtain rfl : f = h := funext hval
  exact computes_regOp 4 hexec

theorem computes_pair2 {f h : DWord → DWord → DWord} (hexec : ∀ s, exec i s = pair2 c d a b s f) (hval : ∀ x y, f x y = h x y) :
    Computes i c 1 [ownPair a, ownPair b] { n := d.toNat, pair := true } (fun vs => h (vd vs 0) (vd vs 1)) := by
  obtain rfl : f = h := funext₂ hval
  exact computes_regOp 4 hexec

end

theorem mul_eq_ofNat {w : Nat} (x y : BitVec w) : x * y = BitVec.ofNat w (x.toNat * y.toNat) := by
  apply BitVec.eq_of_toNat_eq
  simp

/-- The product and the sum of MAD wrap once for both. -/
theorem mul_add_eq_ofNat (x y z : Word) : x * y + z = BitVec.ofNat 32 (x.toNat * y.toNat + z.toNat) := by
  apply BitVec.eq_of_toNat_eq
  simp

theorem signExtend_eq_ofInt {w : Nat} (v : Nat) (x : BitVec w) : x.signExtend v = BitVec.ofInt v x.toInt := rfl

/-- Settles O1: each instruction is a register operation of fixed latency, and its function on words is the rule's on numbers. -/
theorem integerThreeRegister : Obligations.IntegerThreeRegister := by
  unfold Obligations.IntegerThreeRegister
  intro c p d a b two three
  have two_of {i f h} (hexec : ∀ s, exec i s = int3 c p d a b s f) (hval : ∀ x y, f x y = h x y) : two i h := computes_int3 hexec hval
  have three_of {i f h} (hexec : ∀ s, exec i s = int3d c p d a b s f) (hval : ∀ x y z, f x y z = h x y z) : three i h := computes_int3d hexec hval
  clear_value two three
  refine ⟨?add, ?sub, ?mul, ?mulhS, ?mulhZ, ?mad, ?andn, ?and, ?or, ?xor, ?shl, ?shr, ?sar, ?rotl, ?sel, ?minS, ?minZ, ?maxS, ?maxZ, ?cmpS, ?cmpZ⟩
  case add => exact two_of (fun s => show execAdd c p d a b s = _ from rfl) fun _ _ => rfl
  case sub => exact two_of (fun s => show execSub c p d a b s = _ from rfl) fun _ _ => rfl
  case andn => exact two_of (fun s => show execAndn c p d a b s = _ from rfl) fun _ _ => rfl
  case and => exact two_of (fun s => show execAnd c p d a b s = _ from rfl) fun _ _ => rfl
  case or => exact two_of (fun s => show execOr c p d a b s = _ from rfl) fun _ _ => rfl
  case xor => exact two_of (fun s => show execXor c p d a b s = _ from rfl) fun _ _ => rfl
  case mulhS => exact two_of (fun s => show execMulhS32 c p d a b s = _ from rfl) fun _ _ => rfl
  case mulhZ => exact two_of (fun s => show execMulhZ32 c p d a b s = _ from rfl) fun _ _ => rfl
  case cmpS => exact two_of (fun s => show execCmpS32 c p d a b s = _ from rfl) fun _ _ => rfl
  case mul => exact two_of (fun s => show execMul c p d a b s = _ from rfl) mul_eq_ofNat
  case mad => exact three_of (fun s => show execMad c p d a b s = _ from rfl) mul_add_eq_ofNat
  case shl => exact two_of (fun s => show execShl c p d a b s = _ from rfl) fun x y => shiftLeft_cut x y.toNat
  case shr => exact two_of (fun s => show execShr c p d a b s = _ from rfl) fun x y => ushiftRight_cut x y.toNat
  case sar => exact two_of (fun s => show execSar c p d a b s = _ from rfl) fun x y => sshiftRight_cut x y.toNat
  case rotl => exact two_of (fun s => show execRotl c p d a b s = _ from rfl) fun x y => by rw [BitVec.rotateLeft_def, Nat.mod_mod]
  case sel => exact three_of (fun s => show execSel c p d a b s = _ from rfl) fun x y z => ite_not ..
  case minS => exact two_of (fun s => show execMinS32 c p d a b s = _ from rfl) (pick_least (toInt_injective _))
  case minZ => exact two_of (fun s => show execMinZ32 c p d a b s = _ from rfl) (pick_least BitVec.toNat_injective)
  case maxS => exact two_of (fun s => show execMaxS32 c p d a b s = _ from rfl) (pick_greatest (toInt_injective _))
  case maxZ => exact two_of (fun s => show execMaxZ32 c p d a b s = _ from rfl) (pick_greatest BitVec.toNat_injective)
  case cmpZ => exact two_of (fun s => show execCmpZ32 c p d a b s = _ from rfl) fun x y => cmpInt_natCast 32 x.toNat y.toNat

/-- Settles O2: extraction and insertion by the field's number. -/
theorem bitFields : Obligations.BitFields := by
  unfold Obligations.BitFields
  intro c p d a b pos e field two
  have two_of {i f h} (hexec : ∀ s, exec i s = int3 c p d a b s f) (hval : ∀ x y, f x y = h x y) : two i h := computes_int3 hexec hval
  clear_value two
  refine ⟨?bfxZ, ?bfxS, ?bfi⟩
  case bfxZ => exact two_of (fun s => show execBfxZ32 c p d a b s = _ from rfl) fun x y => by rw [bfxZ_eq, bfField, bfPos_eq, bfLen_eq]
  case bfxS => exact two_of (fun s => show execBfxS32 c p d a b s = _ from rfl) fun x y => by rw [bfxS_eq, bfField, bfPos_eq, bfLen_eq]
  case bfi =>
    have hval : ∀ x y z : Word, (bfi32 x y z).setWidth 64
        = BitVec.ofNat 64 (z.toNat - bfField z y * 2 ^ bfPos y + x.toNat % 2 ^ bfLen y * 2 ^ bfPos y) := fun x y z => by
      rw [← bfi32_toNat, BitVec.ofNat_toNat]
    simp only [bfField, bfPos_eq, bfLen_eq] at hval
    have hbfi := computes_int3d (i := .bfi c p d a b) (fun s => show execBfi c p d a b s = _ from rfl) fun _ _ _ => rfl
    exact (congrArg (Computes _ c _ _ _) (funext fun vs => hval ..)).mp hbfi

/-- Settles O3: long immediates and short ones extend alike; counts and reversals go bit by bit. -/
theorem integerImmediateUnary : Obligations.IntegerImmediateUnary := by
  unfold Obligations.IntegerImmediateUnary
  intro c d a f1 pair
  have one_of {i n f h} (hexec : ∀ s, exec i s = int1 c n d a s f) (hval : ∀ x, f x = h x) : f1 i n h := computes_int1 hexec hval
  have pair_of {i f h} (hexec : ∀ s, exec i s = pair1 c d a s f) (hval : ∀ x, f x = h x) : pair i h := computes_pair1 hexec hval
  clear_value f1 pair
  have hn (n : BitVec 5) : (n.setWidth 32).toNat = n.toNat := by simp; omega
  have hmin (n : BitVec 5) : min n.toNat 32 = n.toNat := by omega
  refine ⟨fun imm => ⟨?addi, ?andi, ?ori, ?xori⟩, fun imm => ⟨?addiLong, ?andiLong, ?oriLong, ?xoriLong⟩, fun n => ⟨?shli, ?shri, ?sari⟩,
    fun imm => ⟨?movi, ?movh⟩, fun imm => ?moviLong, ?mov, ?not, ?neg, ?abs, ?clz, ?ctz, ?popc, ?brev, ?mov64, ?not64, ?neg64, ?abs64⟩
  case addi => exact one_of (fun s => show execAddi c d a imm s = _ from rfl) fun _ => rfl
  case andi => exact one_of (fun s => show execAndi c d a imm s = _ from rfl) fun _ => rfl
  case ori => exact one_of (fun s => show execOri c d a imm s = _ from rfl) fun _ => rfl
  case xori => exact one_of (fun s => show execXori c d a imm s = _ from rfl) fun _ => rfl
  case addiLong => exact one_of (fun s => show execAddiLong c d a imm s = _ from rfl) fun _ => rfl
  case andiLong => exact one_of (fun s => show execAndiLong c d a imm s = _ from rfl) fun _ => rfl
  case oriLong => exact one_of (fun s => show execOriLong c d a imm s = _ from rfl) fun _ => rfl
  case xoriLong => exact one_of (fun s => show execXoriLong c d a imm s = _ from rfl) fun _ => rfl
  case mov => exact one_of (fun s => show execMov c d a s = _ from rfl) fun _ => rfl
  case shli => exact one_of (fun s => show execShli c d a n s = _ from rfl) fun x => by rw [shl32, hn, shiftLeft_cut, hmin]
  case shri => exact one_of (fun s => show execShri c d a n s = _ from rfl) fun x => by rw [shr32, hn, ushiftRight_cut, hmin]
  case sari => exact one_of (fun s => show execSari c d a n s = _ from rfl) fun x => by rw [sar32, hn, sshiftRight_cut, hmin]
  case movi => exact computes_int0 (fun s => show execMovi c d imm s = _ from rfl) rfl
  case movh => exact computes_int0 (fun s => show execMovh c d imm s = _ from rfl) (by apply BitVec.eq_of_toNat_eq; simp; omega)
  case moviLong => exact computes_int0 (fun s => show execMoviLong c d imm s = _ from rfl) rfl
  case not => exact one_of (fun s => show execNot c d a s = _ from rfl) fun x => (BitVec.allOnes_xor (x := x)).symm
  case neg => exact one_of (fun s => show execNeg c d a s = _ from rfl) sub_eq_ofInt_neg
  case abs => exact one_of (fun s => show execAbs c d a s = _ from rfl) abs_eq_ofInt
  case clz => exact one_of (fun s => show execClz c d a s = _ from rfl) clz32_eq
  case ctz => exact one_of (fun s => show execCtz c d a s = _ from rfl) ctz32_eq
  case popc => exact one_of (fun s => show execPopc c d a s = _ from rfl) popc32_eq
  case brev => exact one_of (fun s => show execBrev c d a s = _ from rfl) brev32_eq
  case mov64 => exact pair_of (fun s => show execMovZ64 c d a s = _ from rfl) fun _ => rfl
  case not64 => exact pair_of (fun s => show execNotZ64 c d a s = _ from rfl) fun x => (BitVec.allOnes_xor (x := x)).symm
  case neg64 => exact pair_of (fun s => show execNegS64 c d a s = _ from rfl) sub_eq_ofInt_neg
  case abs64 => exact pair_of (fun s => show execAbsS64 c d a s = _ from rfl) abs_eq_ofInt

/-- Settles O4: each instruction is a register operation on pairs, and its function on pairs is the rule's on numbers. -/
theorem integerPairs : Obligations.IntegerPairs := by
  unfold Obligations.IntegerPairs
  intro c d a b two n
  have two_of {i f h} (hexec : ∀ s, exec i s = pair2 c d a b s f) (hval : ∀ x y, f x y = h x y) : two i h := computes_pair2 hexec hval
  clear_value two
  refine ⟨?add, ?sub, ?mul, ?shl, ?shr, ?sar, ?minS, ?minZ, ?maxS, ?maxZ, ?cmpS, ?cmpZ, ?and, ?or, ?xor⟩
  case mul => exact two_of (fun s => show execMulS64 c d a b s = _ from rfl) mul_eq_ofNat
  case add => exact two_of (fun s => show execAddS64 c d a b s = _ from rfl) fun _ _ => rfl
  case sub => exact two_of (fun s => show execSubS64 c d a b s = _ from rfl) fun _ _ => rfl
  case and => exact two_of (fun s => show execAndZ64 c d a b s = _ from rfl) fun _ _ => rfl
  case or => exact two_of (fun s => show execOrZ64 c d a b s = _ from rfl) fun _ _ => rfl
  case xor => exact two_of (fun s => show execXorZ64 c d a b s = _ from rfl) fun _ _ => rfl
  case cmpS => exact two_of (fun s => show execCmpS64 c d a b s = _ from rfl) fun _ _ => rfl
  case shl => exact two_of (fun s => show execShlZ64 c d a b s = _ from rfl) fun x y => by rw [shl64, bf_low]; exact shiftLeft_cut ..
  case shr => exact two_of (fun s => show execShrZ64 c d a b s = _ from rfl) fun x y => by rw [shr64, bf_low]; exact ushiftRight_cut ..
  case sar => exact two_of (fun s => show execSarS64 c d a b s = _ from rfl) fun x y => by rw [sar64, bf_low]; exact sshiftRight_cut ..
  case minS => exact two_of (fun s => show execMinS64 c d a b s = _ from rfl) (pick_least (toInt_injective _))
  case minZ => exact two_of (fun s => show execMinZ64 c d a b s = _ from rfl) (pick_least BitVec.toNat_injective)
  case maxS => exact two_of (fun s => show execMaxS64 c d a b s = _ from rfl) (pick_greatest (toInt_injective _))
  case maxZ => exact two_of (fun s => show execMaxZ64 c d a b s = _ from rfl) (pick_greatest BitVec.toNat_injective)
  case cmpZ => exact two_of (fun s => show execCmpZ64 c d a b s = _ from rfl) fun x y => cmpInt_natCast 64 x.toNat y.toNat

end Sys2Proof.Machine
end

section
/-! SUPPORT. LEA and NOP (R123, R138): what they do, and the words that do not decode as either. -/
namespace Sys2Proof

-- Words of one group ------------------------------------------------------------------------------------------------------

/-- The fields of a word that is a group of its own (R59). -/
def Group.ofWord (w : Word) : Group := .one (ctlOf w) (majorOf w) (bits w 14 7) (bits w 7 7) (bits w 0 7)

/-- A word that stands alone, with no modifiers before it and no extension after it, decodes as the group of its fields. -/
theorem decodeWords_single {w : Word} (next : Option Word) (hm : needsSecondWord w = false) (hx : majorOf w ≠ 0x7F) :
    decodeWords w next = (decodeGroup (.ofWord w)).map (·, 1) := by
  simp only [needsSecondWord, Bool.or_eq_false_iff, beq_eq_false_iff_ne] at hm
  obtain ⟨hpre, hacc⟩ := hm
  simp only [decodeWords, splitGroup, if_neg hx, if_neg hpre, hacc, Bool.false_eq_true, if_false]
  unfold Group.ofWord Group.one
  cases decodeGroup ⟨none, ctlOf w, majorOf w, bits w 14 7, bits w 7 7, bits w 0 7, none⟩ <;> rfl

theorem decodeGroup_of_read {g : Group} {i : Instr} (hr : g.read = .ok i) (hg : i.group = some g) (hw : wellFormed i = true) :
    decodeGroup g = .ok i := by simp [decodeGroup, hr, hg, hw]

/-- A group is refused where its reader refuses it, or names an instruction with other bits or an operand it may not have. -/
theorem decodeGroup_error {g : Group} (h : ∀ i, g.read = .ok i → i.group = some g → wellFormed i = false) : ∃ e, decodeGroup g = .error e := by
  unfold decodeGroup
  split
  next e _ => exact ⟨e, rfl⟩
  next i hr =>
    split
    next hg => simp [h i hr hg]
    next => exact ⟨_, rfl⟩

theorem decodeWords_single_error {w : Word} (next : Option Word) (hm : needsSecondWord w = false) (hx : majorOf w ≠ 0x7F)
    (h : ∀ i, (Group.ofWord w).read = .ok i → i.group = some (.ofWord w) → wellFormed i = false) : ∃ e, decodeWords w next = .error e := by
  obtain ⟨e, he⟩ := decodeGroup_error h
  exact ⟨e, by rw [decodeWords_single next hm hx, he]; rfl⟩

/-- An assigned function of CTL has no d, and only JMPI and RET have an a (R73). -/
theorem readCtl_group {c : Ctl} {a : BitVec 7} {n : Nat} {i : Instr} (h : readCtl c a n = some i) :
    n < 4 ∧ ∃ a', i.group = some (.one c 0x34 0 a' (BitVec.ofNat 7 n)) ∧ (2 ≤ n → a' = 0) := by
  unfold readCtl at h
  split at h <;> simp only [Option.some.injEq, reduceCtorEq] at h <;> subst h
  case h_1 => exact ⟨by decide, a, rfl, fun h => absurd h (by decide)⟩
  case h_2 => exact ⟨by decide, a, rfl, fun h => absurd h (by decide)⟩
  case h_3 => exact ⟨by decide, 0, rfl, fun _ => rfl⟩
  case h_4 => exact ⟨by decide, 0, rfl, fun _ => rfl⟩

theorem Group.read_ctl (c : Ctl) (d a b : BitVec 7) : (Group.one c 0x34 d a b).read = orReserved (readCtl c a b.toNat) := Group.read_one rfl rfl

/-- An odd operand of LEA is refused (R64). -/
theorem lea_word_error {w v : Word} (hm : majorOf v = 0x19) (hodd : v.getLsbD 14 = true ∨ v.getLsbD 7 = true) :
    ∃ e, decodeWords v (some w) = .error e := by
  refine decodeWords_single_error _ (by simp [needsSecondWord, hm, acceptsExtension]) (by simp [hm]) fun i hr _ => ?_
  have hread : (Group.ofWord v).read = .ok (.lea (ctlOf v) (bits v 14 7) (bits v 7 7) (bits v 0 7)) := by
    rw [Group.ofWord, hm]
    rfl
  obtain rfl := Except.ok.inj (hread.symm.trans hr)
  have heven (lo : Nat) (h : v.getLsbD lo = true) : VReg.even (bits v lo 7) = false := by
    have hbit : (bits v lo 7).toNat.testBit 0 = true := by rw [BitVec.testBit_toNat]; simpa [bits] using h
    simpa [VReg.even, Nat.testBit_zero] using hbit
  change (VReg.even (bits v 14 7) && VReg.even (bits v 7 7)) = false
  rcases hodd with hd | ha
  · rw [heven 14 hd, Bool.false_and]
  · rw [heven 7 ha, Bool.and_false]

/-- LEA takes no modifiers (R66). -/
theorem prefixed_lea_error {w v : Word} (hp : majorOf w = 0x7E) (hm : majorOf v = 0x19) : ∃ e, decodeWords w (some v) = .error e := by
  by_cases hc : ctlOf w = .none
  · have hsplit : splitGroup w (some v)
        = .ok (⟨some (bits w 0 21), ctlOf v, 0x19, bits v 14 7, bits v 7 7, bits v 0 7, none⟩, 2) := by
      simp [splitGroup, hp, hm, hc]
    obtain ⟨e, he⟩ : ∃ e, decodeGroup ⟨some (bits w 0 21), ctlOf v, 0x19, bits v 14 7, bits v 7 7, bits v 0 7, none⟩ = .error e := by
      refine decodeGroup_error fun i hr _ => ?_
      simp only [Group.read] at hr
      split at hr
      next p _ =>
        have href : readWord (ctlOf v) (some p) 0x19 (bits v 14 7) (bits v 7 7) (bits v 0 7) = .error .prefixNotAccepted := rfl
        cases href.symm.trans hr
      next => simp at hr
    exact ⟨e, by rw [decodeWords, hsplit]; simp only [he]⟩
  · exact ⟨.earlyBellOrStall, by simp [decodeWords, splitGroup, hp, hc]⟩

namespace Machine

/-- Settles O53: the sum of pair and sign extension is the sum of the numbers; the decoder refuses modifiers and the odd pair. -/
theorem leaAddresses : Obligations.LeaAddresses := by
  unfold Obligations.LeaAddresses
  refine ⟨fun c d a b => ?_, fun w v => ⟨prefixed_lea_error, lea_word_error⟩⟩
  have hsum (x : DWord) (y : Word) : x + y.signExtend 64 = BitVec.ofInt 64 (x.toInt + y.toInt) := by
    rw [BitVec.ofInt_add, BitVec.ofInt_toInt, signExtend_eq_ofInt]
  simp only [← hsum]
  exact computes_regOp 4 fun s => show execLea c d a b s = _ from rfl

/-- Settles O52: NOP passes with nothing but its PCs, and its word has no field but the function. -/
theorem nopOnlyAdvances : Obligations.NopOnlyAdvances := by
  unfold Obligations.NopOnlyAdvances
  refine ⟨fun c s g h => issue_each h Grp.next, fun w next hm => ?_⟩
  have hone : needsSecondWord w = false := by simp [needsSecondWord, hm, acceptsExtension]
  have hx : majorOf w ≠ 0x7F := by simp [hm]
  have hread : (Group.ofWord w).read = orReserved (readCtl (ctlOf w) (bits w 7 7) (bits w 0 7).toNat) := by
    rw [Group.ofWord, hm, Group.read_ctl]
  refine ⟨fun hfn hd ha => ?nop, fun hbad => decodeWords_single_error next hone hx fun i hr hg => ?bad⟩
  case nop =>
    change bits w 0 7 = 3 at hfn
    change bits w 14 7 = 0 at hd
    change bits w 7 7 = 0 at ha
    have hword : Group.ofWord w = .one (ctlOf w) 0x34 0 0 3 := by rw [Group.ofWord, hm, hfn, hd, ha]
    rw [decodeWords_single next hone hx, hword, decodeGroup_of_read (Group.read_ctl ..) rfl rfl]
    rfl
  case bad =>
    rw [hread] at hr
    cases hctl : readCtl (ctlOf w) (bits w 7 7) (bits w 0 7).toNat with
    | none => simp [hctl, orReserved] at hr
    | some j =>
      obtain rfl : j = i := by simpa [hctl] using hr
      obtain ⟨hlt, a', hgroup, ha'⟩ := readCtl_group hctl
      rw [hgroup, Group.ofWord] at hg
      simp only [Option.some.injEq, Group.one, Group.mk.injEq] at hg
      obtain ⟨-, -, -, hd, ha, -, -⟩ := hg
      exfalso
      rcases hbad with hfn | hd0 | ⟨hfn, ha0⟩
      · exact absurd hlt (not_lt.mpr hfn)
      · exact hd0 hd.symm
      · exact ha0 (ha.symm.trans (ha' hfn))

end Machine
end Sys2Proof
end

section
/-! SUPPORT. Instructions that a warp does once (R110): what each of its warps does in turn, and the uniform results of SALU, the moves, VTOS and BCAST
(R128 to R130). -/
namespace Sys2Proof.Machine

-- One warp after another (R110) -------------------------------------------------------------------------------------------

/-- A per-warp instruction that sends every warp on, where what holds after some of them still holds, with one more, after the next. -/
theorem warpOp_steps {c : Ctl} {n : Nat} {s : State} {g : Grp} {plan : Grp → State → Nat → Fate} (step : Grp → State → Nat → State)
    (inv : List Nat → State → Prop) (h : s.issues c n g) (hplan : ∀ k ∈ g.actWarps, plan g s k = .done g.next) (hnone : inv [] s)
    (hstep : ∀ ks k u, k ∈ g.actWarps → k ∉ ks → inv ks u → inv (ks ++ [k]) (step g u k))
    (hst : ∀ u, inv g.actWarps u → ∀ k l, (u.thread k l).st = (s.thread k l).st) :
    ∃ u t, warpOp c n s plan (fun g u k => (step g u k, g.all k (.done g.next))) = .next t ∧ inv g.actWarps u ∧ u.still t
      ∧ u.passed t g fun _ => g.next := by
  have hfold : ∀ ks js u, (js ++ ks).Nodup → (∀ k ∈ ks, k ∈ g.actWarps) → inv js u → inv (js ++ ks) (ks.foldl (step g) u) := by
    intro ks
    induction ks with
    | nil => exact fun js u _ _ hu => by rwa [List.append_nil]
    | cons k ks ih =>
      intro js u hnodup hmem hu
      have hnew : k ∉ js := fun hk => (List.nodup_append.mp hnodup).2.2 k hk k List.mem_cons_self rfl
      rw [List.append_cons] at hnodup ⊢
      exact ih _ _ hnodup (fun j hj => hmem j (List.mem_cons_of_mem _ hj)) (hstep js k u (hmem k List.mem_cons_self) hnew hu)
  have hu := hfold g.actWarps [] s (nodup_eraseDups _) (fun _ => id) hnone
  have hrun : runWarps g s (plan g) (fun u k => (step g u k, g.all k (.done g.next)))
      = (g.actWarps.foldl (step g) s, (g.actWarps.flatMap fun k => g.acts.filter (·.1 == k)).map fun x => (x, Fate.done g.next)) := by
    rw [runWarps_done fun k hk => ⟨_, hplan k hk⟩, List.map_flatMap]
    exact foldl_pair_append (step g) (fun k => g.all k (.done g.next)) _ _ _
  obtain ⟨t, hexec, hstill, hpassed⟩ := issue_passes
    (body := fun g s => runWarps g s (plan g) fun u k => (step g u k, g.all k (.done g.next))) (fun _ => g.next) _ h hrun g.mem_byWarp
    fun a ha => (hst _ hu a.1 a.2).trans ((State.group_some h.1).2.2.2.2.2 a ha)
  exact ⟨_, t, hexec, hu, hstill, hpassed⟩

-- Uniform registers (R82, R83, R110) ----------------------------------------------------------------------------------------

/-- A quadrant has no results in flight to uniform registers but those it had, and those of warps of a list. -/
def State.unifLate (s u : State) (q : Nat) (ks : List Nat) : Prop :=
  ∀ x ∈ (u.quad q).sb, x.unif = true → x.slot ∉ ks → x ∈ (s.quad q).sb

theorem State.unifLate_refl (s : State) (q : Nat) (ks : List Nat) : s.unifLate s q ks := fun _ hx _ _ => hx

theorem State.unifLate_mark {s u v : State} {q slot key ready : Nat} {unif : Bool} {ks js : List Nat} (h : s.unifLate u q ks)
    (hv : v.quad q = (u.quad q).mark slot key unif ready) (hnew : unif = true → slot ∈ js) (hks : ∀ k ∈ ks, k ∈ js) : s.unifLate v q js := by
  intro x hx hunif hout
  rw [hv, Quad.mark, List.mem_cons] at hx
  rcases hx with rfl | hx
  · exact absurd (hnew hunif) hout
  · exact h x (List.mem_filter.mp hx).1 hunif fun hk => hout (hks _ hk)

/-- A uniform register reads what it held before the group, in a warp that the group has not yet done. -/
theorem State.readS_open {s u : State} {g : Grp} {rs ws ks : List _} (ho : s.uniOpen g rs ws) (hlate : s.unifLate u g.q ks) {k : Nat}
    (hk : k ∈ g.actWarps) (hnew : k ∉ ks) {n : SReg} (hn : n ∈ rs) (hs : (u.warp k).s n.toNat = (s.warp k).s n.toNat) :
    u.readS g k n.toNat = ((s.warp k).s n.toNat, u) := by
  have hearly := (ho k (Grp.mem_actWarps.mp hk)).2 n hn
  rw [State.readS, if_neg, hs]
  rintro hany
  obtain ⟨x, hx, hcond⟩ := List.any_eq_true.mp hany
  simp only [Bool.and_eq_true, beq_iff_eq, decide_eq_true_eq] at hcond
  obtain ⟨⟨⟨hslot, hunif⟩, hkey⟩, hready⟩ := hcond
  have hold := List.any_eq_false.mp hearly x (hlate x hx hunif (hslot ▸ hnew))
  simp [hslot, hunif, hkey, hready] at hold

theorem sWhy_open {s : State} {g : Grp} {rs ws : List SReg} (ho : s.uniOpen g rs ws) {k : Nat} (hk : k ∈ g.actWarps) {ns : List Nat}
    (hns : ∀ n ∈ ns, ∃ r ∈ rs ++ ws, n = r.toNat) : s.sWhy k ns = none := by
  have hnil : ns.flatMap (s.pendS k) = [] := List.flatMap_eq_nil_iff.mpr fun n hn => by
    obtain ⟨r, hr, rfl⟩ := hns n hn
    exact (ho k (Grp.mem_actWarps.mp hk)).1 r hr
  rw [State.sWhy, hnil]

-- Writing a uniform register (R81, R128) ----------------------------------------------------------------------------------------

/-- Warps of a list have written `val` to uniform register d; of warps `f` sees no more, and no thread changed. -/
def State.sWritten (s : State) (f : Warp → Warp) (q d : Nat) (val : Nat → Word) (ks : List Nat) (u : State) : Prop :=
  u.rest = s.rest ∧ (∀ q, (u.quad q).rest = (s.quad q).rest) ∧ (∀ k, f (u.warp k) = f (s.warp k)) ∧ (∀ k l, u.thread k l = s.thread k l)
    ∧ (∀ k n, (u.warp k).s n = if k ∈ ks ∧ n = d then val k else (s.warp k).s n)
    ∧ (∀ x ∈ (u.quad q).sb, x ∈ (s.quad q).sb ∨ (x.unif = true ∧ x.slot ∈ ks))

theorem State.sWritten_refl (f : Warp → Warp) (s : State) (q d : Nat) (val : Nat → Word) : s.sWritten f q d val [] s :=
  ⟨rfl, fun _ => rfl, fun _ => rfl, fun _ _ => rfl, fun _ _ => by simp, fun _ hx => .inl hx⟩

theorem State.sWritten_unifLate {f : Warp → Warp} {s u : State} {q d : Nat} {val : Nat → Word} {ks : List Nat} (h : s.sWritten f q d val ks u) :
    s.unifLate u q ks := fun x hx _ hk => (h.2.2.2.2.2 x hx).resolve_right fun e => hk e.2

theorem Warp.s_setS (w : Warp) (d : Nat) (v : Word) (n : Nat) : (w.setS d v).s n = if n = d then v else w.s n := Table.get_put ..

/-- The next warp of the list writes. -/
theorem State.sWritten_writeS {f : Warp → Warp} {s u : State} {g : Grp} {d lat k : Nat} {val : Nat → Word} {v : Word} {ks : List Nat}
    (h : s.sWritten f g.q d val ks u) (hf : ∀ w v, f (Warp.setS w d v) = f w) (hv : v = val k) :
    s.sWritten f g.q d val (ks ++ [k]) (u.writeS g lat k d v) := by
  obtain ⟨hrest, hquads, hwarp, hthread, hs, hsb⟩ := h
  have hw : ∀ j, (u.writeS g lat k d v).warp j = if j = k then (u.warp k).setS d v else u.warp j := fun j =>
    State.warp_modWarp u j k fun w => w.setS d v
  have hq : ∀ j, (u.writeS g lat k d v).quad j = if j = g.q then (u.quad g.q).mark k d true (g.cycle + lat) else u.quad j := fun j =>
    State.quad_modQuad ..
  refine ⟨hrest, fun j => ?quads, fun j => ?warp, fun j l => ?thread, fun j n => ?sreg, fun x hx => ?sb⟩
  case quads =>
    rw [hq, ← hquads j]
    split
    · next e => rw [e]; rfl
    · rfl
  case warp =>
    rw [hw, ← hwarp j]
    split
    · next e => rw [e, hf]
    · rfl
  case thread =>
    rw [← hthread j l, State.thread, State.thread, hw]
    split
    · next e => rw [e]; rfl
    · rfl
  case sreg =>
    rw [hw]
    by_cases hj : j = k
    · subst hj
      rw [if_pos rfl, Warp.s_setS, hs]
      by_cases hn : n = d <;> simp [hn, hv]
    · rw [if_neg hj, hs]
      simp [hj]
  case sb =>
    rw [hq, if_pos rfl, Quad.mark, List.mem_cons] at hx
    rcases hx with rfl | hx
    · exact .inr ⟨rfl, by simp⟩
    · exact (hsb x (List.mem_filter.mp hx).1).imp_right fun e => ⟨e.1, List.mem_append_left _ e.2⟩

/-- Noting accesses to extended rows adds nothing that `f` sees. -/
theorem State.sWritten_settleRows {f : Warp → Warp} {s u : State} {g : Grp} {d : Nat} {val : Nat → Word} {ks : List Nat}
    (h : s.sWritten f g.q d val ks u) (hf : ∀ w x : Warp, w.unplaced = x.unplaced → f w = f x) (es : List Elem) :
    s.sWritten f g.q d val ks (u.settleRows g es) := by
  obtain ⟨hrest, hquads, hwarp, hthread, hs, hsb⟩ := h
  obtain ⟨hrest', hquads', hwarp'⟩ := u.settleRows_warpsOnly g es
  have hq : ∀ j, (u.settleRows g es).quad j = u.quad j := fun j => by rw [State.quad, State.quad, hquads']
  refine ⟨hrest'.trans hrest, fun j => hq j ▸ hquads j, fun j => (hf _ _ (hwarp' j)).trans (hwarp j), fun j l => ?_, fun j n => ?_,
    fun x hx => hsb x (hq g.q ▸ hx)⟩
  · exact (congrArg (fun w => Warp.thread w l) (hwarp' j)).trans (hthread j l)
  · exact (congrArg (fun w => Warp.s w n) (hwarp' j)).trans (hs j n)

/-- After the writes the group finishes, and every active thread goes on. -/
theorem State.sWritten_finish {f : Warp → Warp} {s u t : State} {g : Grp} {q d : Nat} {val : Nat → Word} {pc : Nat × Nat → DWord}
    (h : s.sWritten f q d val g.actWarps u) (hf : ∀ w x : Warp, w.still = x.still → f w = f x) (hstill : u.still t) (hpassed : u.passed t g pc) :
    s.passed t g pc ∧ State.keeps f Thread.still s t
      ∧ ∀ k n, (t.warp k).s n = if k ∈ g.acts.map Prod.fst ∧ n = d then val k else (s.warp k).s n := by
  obtain ⟨hrest, hquads, hwarp, hthread, hs, -⟩ := h
  obtain ⟨hrest', hquads', hwarp'⟩ := hstill
  refine ⟨⟨hpassed.1, fun k l hk => (hpassed.2 k l hk).trans (hthread k l)⟩, ⟨hrest'.trans hrest, fun j => (hquads' j).trans (hquads j),
    fun k => ⟨(hf _ _ (hwarp' k).1).trans (hwarp k), fun l => ((hwarp' k).2 l).trans (congrArg Thread.still (hthread k l))⟩⟩, fun k n => ?_⟩
  have hkeep : (t.warp k).still.s n = (u.warp k).still.s n := congrArg (fun w => Warp.s w n) (hwarp' k).1
  exact hkeep.trans ((hs k n).trans (by simp only [Grp.mem_actWarps]))

-- SALU and the moves (R128, R130) ---------------------------------------------------------------------------------------------

theorem State.readSs_open {s u : State} {g : Grp} {rs ws ks : List _} (ho : s.uniOpen g rs ws) (hlate : s.unifLate u g.q ks) {k : Nat}
    (hk : k ∈ g.actWarps) (hnew : k ∉ ks) (hs : ∀ n, (u.warp k).s n = (s.warp k).s n) (ns : List SReg) (hns : ∀ n ∈ ns, n ∈ rs) (vs : List Word) :
    ns.foldl (fun (r : List Word × State) a => (r.1 ++ [(r.2.readS g k a.toNat).1], (r.2.readS g k a.toNat).2)) (vs, u)
      = (vs ++ ns.map fun n => (s.warp k).s n.toNat, u) := by
  induction ns generalizing vs with
  | nil => simp
  | cons n ns ih =>
    rw [List.foldl_cons, State.readS_open ho hlate hk hnew (hns n List.mem_cons_self) (hs _), ih fun m hm => hns m (List.mem_cons_of_mem _ hm)]
    simp

/-- The values of uniform sources, read in order. -/
def State.readSs (u : State) (g : Grp) (k : Nat) (ns : List SReg) : List Word × State :=
  ns.foldl (fun r a => (r.1 ++ [(r.2.readS g k a.toNat).1], (r.2.readS g k a.toNat).2)) ([], u)

/-- One warp's part of a uniform instruction. -/
def State.saluStep (u : State) (g : Grp) (d : SReg) (srcs : List SReg) (f : List Word → Word) (k : Nat) : State :=
  (u.readSs g k srcs).2.writeS g 3 k d.toNat (f (u.readSs g k srcs).1)

theorem saluOp_eq (c : Ctl) (n : Nat) (d : SReg) (srcs : List SReg) (s : State) (f : List Word → Word) :
    saluOp c n d srcs s f = warpOp c n s (sPlan (d.toNat :: srcs.map BitVec.toNat)) fun g u k => (u.saluStep g d srcs f k, g.all k (.done g.next)) := rfl

/-- Warps of a list have done a uniform instruction; nothing of them but its destination has changed. -/
def State.saluDone (s : State) (g : Grp) (d : SReg) (srcs : List SReg) (f : List Word → Word) : List Nat → State → Prop :=
  s.sWritten (fun w => { w.still with sreg := [] }) g.q d.toNat fun k => f (srcs.map fun a => (s.warp k).s a.toNat)

/-- A uniform instruction of one destination writes the value of its sources in every warp with an active thread. -/
theorem saluOp_sWrites {c : Ctl} {n : Nat} {d : SReg} {srcs : List SReg} {s : State} {g : Grp} (f : List Word → Word) (h : s.issues c n g)
    (ho : s.uniOpen g srcs [d]) :
    ∃ t, saluOp c n d srcs s f = .next t ∧ s.passed t g (fun _ => g.next)
      ∧ s.sWrites t g d fun k => f (srcs.map fun a => (s.warp k).s a.toNat) := by
  have hplan : ∀ k ∈ g.actWarps, sPlan (d.toNat :: srcs.map BitVec.toNat) g s k = .done g.next := fun k hk => by
    have hnames : ∀ n ∈ d.toNat :: srcs.map BitVec.toNat, ∃ r ∈ srcs ++ [d], n = r.toNat := by
      intro n hn
      rcases List.mem_cons.mp hn with rfl | hn
      · exact ⟨d, by simp, rfl⟩
      · obtain ⟨r, hr, rfl⟩ := List.mem_map.mp hn
        exact ⟨r, List.mem_append_left _ hr, rfl⟩
    rw [sPlan, sWhy_open ho hk hnames]
  have hstep : ∀ ks k u, k ∈ g.actWarps → k ∉ ks → s.saluDone g d srcs f ks u →
      s.saluDone g d srcs f (ks ++ [k]) (u.saluStep g d srcs f k) := by
    intro ks k u hk hnew hu
    have hs : ∀ n, (u.warp k).s n = (s.warp k).s n := fun n => (hu.2.2.2.2.1 k n).trans (if_neg fun e => hnew e.1)
    have hread : u.readSs g k srcs = ([] ++ srcs.map fun n => (s.warp k).s n.toNat, u) :=
      State.readSs_open ho (State.sWritten_unifLate hu) hk hnew hs srcs (fun _ => id) []
    rw [State.saluStep, hread]
    exact State.sWritten_writeS hu (fun _ _ => rfl) rfl
  obtain ⟨u, t, hexec, hu, hstill, hpassed⟩ := warpOp_steps (fun g u k => u.saluStep g d srcs f k) (s.saluDone g d srcs f) h hplan
    (s.sWritten_refl ..) hstep fun u hu k l => congrArg Thread.st (hu.2.2.2.1 k l)
  exact ⟨t, (saluOp_eq ..).trans hexec, State.sWritten_finish hu (fun w x e => congrArg (fun y : Warp => { y with sreg := [] }) e) hstill hpassed⟩

-- VTOS (R129) ---------------------------------------------------------------------------------------------------------------

/-- The element VTOS reads in a warp: its lowest active lane's. -/
def State.lowElem (s : State) (g : Grp) (a : VReg) (k : Nat) : List Elem := s.fieldElems (k, (g.lanesOf k).headD 0) a.toNat false

/-- One warp's part of VTOS. -/
def State.vtosStep (u : State) (g : Grp) (d : SReg) (a : VReg) (k : Nat) : State :=
  let r := u.readElems g (u.lowElem g a k)
  (r.2.writeS g 8 k d.toNat (r.1.setWidth 32)).settleRows g (u.lowElem g a k)

/-- What one warp of VTOS is to do: wait, fault, or go on. -/
def vtosPlan (d : SReg) (a : VReg) (g : Grp) (s : State) (k : Nat) : Fate := match s.sWhy k [d.toNat] with
  | some w => .lock w
  | none => match s.elemsWhy (s.lowElem g a k) with
    | some w => .lock w
    | none => match s.elemsFault g (s.lowElem g a k) [] with
      | some f => .fault f g.pc
      | none => .done g.next

theorem exec_vtos_eq (c : Ctl) (d : SReg) (a : VReg) (s : State) :
    exec (.vtos c d a) s = warpOp c 1 s (vtosPlan d a) fun g u k => (u.vtosStep g d a k, g.all k (.done g.next)) := rfl

/-- Reading elements where rows, threads and what is in flight to rows are as they were. -/
theorem State.readElems_same {s u : State} {g : Grp} {es : List Elem} (hripe : s.ripe g es)
    (helem : ∀ k, (u.warp k).vreg = (s.warp k).vreg) (hsb : ∀ x ∈ (u.quad g.q).sb, x ∈ (s.quad g.q).sb ∨ x.unif = true) :
    u.readElems g es = (s.elemsVal es, u) := by
  have hripe' : u.ripe g es := fun e he => by
    refine List.any_eq_false.mpr fun x hx hcond => ?_
    simp only [Bool.and_eq_true, Bool.not_eq_true'] at hcond
    rcases hsb x hx with hold | hunif
    · exact List.any_eq_false.mp (hripe e he) x hold (by simp [hcond])
    · simp [hunif] at hcond
  rw [State.readElems_ripe hripe', State.elemsVal_congr (s := s) fun e _ => congrArg (Table.get · _) (helem e.1)]

/-- Warps of a list have done VTOS; nothing of them has changed but its destination and the place of their extended blocks. -/
def State.vtosDone (s : State) (g : Grp) (d : SReg) (a : VReg) : List Nat → State → Prop :=
  s.sWritten (fun w => { w.still with sreg := [], xlast := [], xmoved := 0 }) g.q d.toNat fun k => (s.elemsVal (s.lowElem g a k)).setWidth 32

/-- VTOS takes the value of each warp's lowest active lane. -/
theorem exec_vtos {c : Ctl} {s : State} {g : Grp} (h : s.issues c 1 g) (d : SReg) (a : VReg) (hs : s.uniOpen g [] [d])
    (ho : ∀ x ∈ g.acts, s.open g (s.lowElem g a x.1) []) :
    ∃ t, exec (.vtos c d a) s = .next t ∧ s.passed t g (fun _ => g.next)
      ∧ State.keeps (fun w => { w.still with sreg := [], xlast := [], xmoved := 0 }) Thread.still s t
      ∧ ∀ k n, (t.warp k).s n = if k ∈ g.acts.map Prod.fst ∧ n = d.toNat then (s.elemsVal (s.lowElem g a k)).setWidth 32 else (s.warp k).s n := by
  have hopen : ∀ k ∈ g.actWarps, s.open g (s.lowElem g a k) [] := fun k hk => ho _ (Grp.lowest_mem hk)
  have hplan : ∀ k ∈ g.actWarps, vtosPlan d a g s k = .done g.next := fun k hk => by
    have hcalm : s.calm (s.lowElem g a k) := by simpa using (hopen k hk).1
    rw [vtosPlan, sWhy_open hs hk (by simp), State.elemsWhy_calm hcalm, State.elemsFault_open (hopen k hk)]
  have hstep : ∀ ks k u, k ∈ g.actWarps → k ∉ ks → s.vtosDone g d a ks u → s.vtosDone g d a (ks ++ [k]) (u.vtosStep g d a k) := by
    intro ks k u hk hnew hu
    obtain ⟨-, -, hwarp, hthread, -, hsb⟩ := id hu
    have hlow : u.lowElem g a k = s.lowElem g a k := by simp only [State.lowElem, State.fieldElems, hthread]
    have hread : u.readElems g (s.lowElem g a k) = (s.elemsVal (s.lowElem g a k), u) :=
      State.readElems_same (hopen k hk).2.1 (fun j => (congrArg Warp.vreg (hwarp j) :)) fun x hx => (hsb x hx).imp_right And.left
    simp only [State.vtosStep, hlow, hread]
    exact State.sWritten_settleRows (State.sWritten_writeS hu (fun _ _ => rfl) rfl)
      (fun w x e => congrArg (fun y : Warp => { y.still with sreg := [] }) e) _
  obtain ⟨u, t, hexec, hu, hstill, hpassed⟩ := warpOp_steps (fun g u k => u.vtosStep g d a k) (s.vtosDone g d a) h hplan (s.sWritten_refl ..) hstep
    fun u hu k l => congrArg Thread.st (hu.2.2.2.1 k l)
  exact ⟨t, (exec_vtos_eq c d a s).trans hexec,
    State.sWritten_finish hu (fun w x e => congrArg (fun y : Warp => { y with sreg := [], xlast := [], xmoved := 0 }) e) hstill hpassed⟩

-- BCAST (R129) --------------------------------------------------------------------------------------------------------------

/-- One value written to elements of a list. -/
theorem State.foldl_writeFixed {s : State} {g : Grp} {lat : Nat} (v : Word) (es : List Elem) (u : State) (hl : ∀ e ∈ es, e.2.2 < 32) :
    let t := es.foldl (fun s e => s.writeFixed g lat e v) u
    u.effect t es [] (fun _ => false) 0 ∧ (∀ e ∈ es, (t.warp e.1).elem e.2.1 e.2.2 = v) ∧ ∀ ks, s.unifLate u g.q ks → s.unifLate t g.q ks := by
  induction es generalizing u with
  | nil => exact ⟨u.effect_refl _ _, fun e he => absurd he List.not_mem_nil, fun _ => id⟩
  | cons e es ih =>
    obtain ⟨hfirst, hval⟩ := State.writeFixed_spec u g lat e v (fun _ => false) 0 (hl e List.mem_cons_self)
    obtain ⟨hrest, hvals, hlate⟩ := ih (u.writeFixed g lat e v) fun x hx => hl x (List.mem_cons_of_mem _ hx)
    refine ⟨State.effect_trans hfirst hrest fun _ hx => absurd hx List.not_mem_nil, fun x hx => ?value, fun ks hks => hlate ks ?late⟩
    case value =>
      by_cases hmem : x ∈ es
      · exact hvals x hmem
      · obtain rfl : x = e := (List.mem_cons.mp hx).resolve_right hmem
        exact (hrest.2.2.1 x.1 x.2.1 x.2.2 (hl x List.mem_cons_self) hmem).trans hval
    case late =>
      exact State.unifLate_mark (u := u) hks ((State.quad_modQuad ..).trans (if_pos rfl)) (fun e => absurd e (by decide)) fun _ => id

/-- One warp's part of BCAST. -/
def State.bcastStep (u : State) (g : Grp) (d : VReg) (a : SReg) (k : Nat) : State :=
  let r := u.readS g k a.toNat
  ((u.warpElems g k d.toNat).foldl (fun s e => s.writeFixed g 3 e r.1) r.2).settleRows g (u.warpElems g k d.toNat)

/-- What one warp of BCAST is to do: wait, fault, or go on. -/
def bcastPlan (d : VReg) (a : SReg) (g : Grp) (s : State) (k : Nat) : Fate := match s.sWhy k [a.toNat] with
  | some w => .lock w
  | none => match s.elemsWhy (s.warpElems g k d.toNat) with
    | some w => .lock w
    | none => if (s.warpElems g k d.toNat).all s.elemHeld then .done g.next else .fault (pf 2 0) g.pc

theorem exec_bcast_eq (c : Ctl) (d : VReg) (a : SReg) (s : State) :
    exec (.bcast c d a) s = warpOp c 1 s (bcastPlan d a) fun g u k => (u.bcastStep g d a k, g.all k (.done g.next)) := rfl

/-- Warps of a list have written their uniform register to the destination of each active thread. -/
def State.bcasted (s : State) (g : Grp) (d : VReg) (a : SReg) (ks : List Nat) (u : State) : Prop :=
  s.effect u (ks.flatMap fun k => s.warpElems g k d.toNat) [] (fun _ => false) 0 ∧ s.unifLate u g.q []
    ∧ ∀ k ∈ ks, ∀ e ∈ s.warpElems g k d.toNat, (u.warp e.1).elem e.2.1 e.2.2 = (s.warp k).s a.toNat

theorem State.warpElems_frame {s u : State} (h : s.frame u) (g : Grp) (k n : Nat) : u.warpElems g k n = s.warpElems g k n :=
  List.flatMap_congr fun l _ => State.fieldElems_frame h (k, l) n false

theorem State.mem_warpElems {s : State} {g : Grp} {k n : Nat} {e : Elem} :
    e ∈ s.warpElems g k n ↔ ∃ x ∈ g.acts, x.1 = k ∧ e ∈ s.fieldElems x n false := by
  simp only [State.warpElems, Grp.lanesOf, List.mem_flatMap, List.mem_map, List.mem_filter, beq_iff_eq]
  constructor
  · rintro ⟨l, ⟨x, ⟨hx, rfl⟩, rfl⟩, he⟩
    exact ⟨x, hx, rfl, he⟩
  · rintro ⟨x, hx, rfl, he⟩
    exact ⟨x.2, ⟨x, ⟨hx, rfl⟩, rfl⟩, he⟩

theorem State.fieldElems_slot (s : State) (u : Nat × Nat) (n : Nat) (p : Bool) : ∀ e ∈ s.fieldElems u n p, e.1 = u.1 := by
  intro e he
  unfold State.fieldElems at he
  split at he
  · rcases List.mem_cons.mp he with rfl | he
    · rfl
    · rw [List.mem_singleton.mp he]
  · rw [List.mem_singleton.mp he]

/-- The next warp broadcasts. -/
theorem State.bcasted_step {s u : State} {g : Grp} {d : VReg} {a : SReg} {ks : List Nat} {k : Nat} (h : s.bcasted g d a ks u)
    (hs : s.uniOpen g [a] []) (hk : k ∈ g.actWarps) (hnew : k ∉ ks) (hl : ∀ x ∈ g.acts, x.2 < 32) : s.bcasted g d a (ks ++ [k]) (u.bcastStep g d a k) := by
  obtain ⟨heffect, hlate, hvals⟩ := h
  have hlanes : ∀ k, ∀ e ∈ s.warpElems g k d.toNat, e.1 = k ∧ e.2.2 < 32 := fun k e he => by
    obtain ⟨x, hx, rfl, hx'⟩ := State.mem_warpElems.mp he
    exact ⟨State.fieldElems_slot s x _ _ e hx', State.fieldElems_lane s x _ _ e hx' ▸ hl x hx⟩
  have hsreg : (u.warp k).s a.toNat = (s.warp k).s a.toNat := (congrArg (fun w => Warp.s w a.toNat) (heffect.1.2.2 k).1 :)
  have hread := State.readS_open hs hlate hk List.not_mem_nil (List.mem_singleton_self a) hsreg
  have hes := State.warpElems_frame heffect.1 g k d.toNat
  have hwrite := State.foldl_writeFixed (s := s) (g := g) (lat := 3) ((s.warp k).s a.toNat) (s.warpElems g k d.toNat) u
    fun e he => (hlanes k e he).2
  simp only [State.bcastStep, hes, hread]
  generalize (s.warpElems g k d.toNat).foldl (fun t e => t.writeFixed g 3 e ((s.warp k).s a.toNat)) u = v at hwrite ⊢
  obtain ⟨hwrote, hval, hlate'⟩ := hwrite
  have hsettle := State.settleRows_spec v g (s.warpElems g k d.toNat) (fun _ => false) 0
  have hall := State.effect_quiet (State.effect_trans heffect hwrote fun _ hx => absurd hx List.not_mem_nil) hsettle
  refine ⟨by simpa using hall, fun x hx => hlate' _ hlate x ?_, fun j hj e he => ?_⟩
  · rwa [State.quad, (State.settleRows_warpsOnly v g _).2.1] at hx
  · have hlane := (hlanes j e he).2
    rw [hsettle.2.2.1 e.1 e.2.1 e.2.2 hlane List.not_mem_nil]
    rcases List.mem_append.mp hj with hj | hj
    · rw [← hvals j hj e he]
      exact hwrote.2.2.1 _ _ _ hlane fun hmem => hnew (by rwa [← (hlanes k _ hmem).1, (hlanes j e he).1])
    · obtain rfl := List.mem_singleton.mp hj
      exact hval e he

theorem exec_bcast {c : Ctl} {s : State} {g : Grp} (h : s.issues c 1 g) (d : VReg) (a : SReg) (hs : s.uniOpen g [a] [])
    (ho : ∀ x ∈ g.acts, s.open g [] (s.wrElems x (some { n := d.toNat }))) :
    ∃ t, exec (.bcast c d a) s = .next t ∧ s.writes t g { n := d.toNat } (fun x => ((s.warp x.1).s a.toNat).setWidth 64) (fun _ => false) 0 := by
  have hfine : ∀ k, ∀ e ∈ s.warpElems g k d.toNat, s.calm [e] ∧ s.elemHeld e = true := fun k e he => by
    obtain ⟨x, hx, -, he⟩ := State.mem_warpElems.mp he
    exact ⟨fun y hy => List.mem_singleton.mp hy ▸ (ho x hx).1 e he, (ho x hx).2.2 e he⟩
  have hplan : ∀ k ∈ g.actWarps, bcastPlan d a g s k = .done g.next := fun k hk => by
    have hcalm : s.calm (s.warpElems g k d.toNat) := fun e he => (hfine k e he).1 e (List.mem_singleton_self e)
    have hheld : (s.warpElems g k d.toNat).all s.elemHeld = true := List.all_eq_true.mpr fun e he => (hfine k e he).2
    rw [bcastPlan, sWhy_open hs hk (by simp), State.elemsWhy_calm hcalm, if_pos hheld]
  have hl : ∀ x ∈ g.acts, x.2 < 32 := fun x hx => (h.2.2 x hx).1
  obtain ⟨u, t, hexec, ⟨heffect, -, hvals⟩, hstill, hpassed⟩ := warpOp_steps (fun g u k => u.bcastStep g d a k) (s.bcasted g d a) h hplan
    ⟨s.effect_refl _ _, s.unifLate_refl _ _, fun k hk => absurd hk List.not_mem_nil⟩
    (fun ks k u hk hnew hu => State.bcasted_step hu hs hk hnew hl) fun u hu k l => hu.1.2.1.1 k l
  obtain ⟨hframe, hkept, htags, hflags⟩ := State.effect_still heffect hstill
  have hmem : ∀ e, e ∈ (g.actWarps.flatMap fun k => s.warpElems g k d.toNat) ↔ e ∈ g.acts.flatMap fun x => s.wrElems x (some { n := d.toNat }) := by
    intro e
    simp only [List.mem_flatMap, State.mem_warpElems, Grp.mem_actWarps, State.wrElems]
    constructor
    · rintro ⟨k, -, x, hx, -, he⟩
      exact ⟨x, hx, he⟩
    · rintro ⟨x, hx, he⟩
      exact ⟨x.1, List.mem_map_of_mem hx, x, hx, rfl, he⟩
  refine ⟨t, (exec_bcast_eq c d a s).trans hexec, ⟨hframe, State.elemsKept_mono hkept fun e => (hmem e).mp, fun k row => ?tags, fun k => ?flags⟩,
    ⟨hpassed.1, fun k l hk => (hpassed.2 k l hk).trans (heffect.2.1.2 k l List.not_mem_nil)⟩, fun x hx => ?value⟩
  case tags =>
    rw [htags k row]
    exact if_congr (by simp only [List.any_eq_true, hmem]) rfl rfl
  case flags =>
    have hnone : (g.acts.any fun _ => false) = false := List.any_eq_false.mpr fun _ _ => Bool.false_ne_true
    simpa [hnone] using hflags k
  case value =>
    obtain ⟨e, he⟩ : ∃ e, s.wrElems x (some { n := d.toNat }) = [e] := ⟨_, rfl⟩
    have hin : e ∈ s.wrElems x (some { n := d.toNat }) := he ▸ List.mem_singleton_self e
    have hlane : e.2.2 < 32 := State.wrElems_lane s x _ e hin ▸ hl x hx
    have hkeep := State.still_elems hstill [] e.1 e.2.1 e.2.2 hlane List.not_mem_nil
    have hval := hvals x.1 (Grp.mem_actWarps.mpr (List.mem_map_of_mem hx)) e (State.mem_warpElems.mpr ⟨x, hx, rfl, hin⟩)
    rw [he, State.elemsVal, State.elemsVal, hkeep, hval]
    simp

end Sys2Proof.Machine
end

section
/-! SUPPORT. SWAITQ (R132), and uniform results as the statement has them. -/
namespace Sys2Proof.Machine

-- Waiting (R132) ------------------------------------------------------------------------------------------------------------

theorem Grp.nodup_byWarp {g : Grp} (h : g.acts.Nodup) : (g.actWarps.flatMap fun k => g.acts.filter (·.1 == k)).Nodup := by
  refine List.nodup_flatMap.mpr ⟨fun k _ => h.filter _, (nodup_eraseDups _).imp fun hne x hi hj => hne ?_⟩
  rw [← beq_iff_eq.mp (List.mem_filter.mp hi).2, ← beq_iff_eq.mp (List.mem_filter.mp hj).2]

/-- A group that does nothing and lets each of its threads wait: they wait where they stand. -/
theorem issue_waits {c : Ctl} {n : Nat} {s : State} {g : Grp} {body : Grp → State → State × List ((Nat × Nat) × Fate)} (h : s.issues c n g)
    (w : Nat × Nat → Why) {l : List (Nat × Nat)} (hbody : body g s = (s, l.map fun a => (a, Fate.wait (w a)))) (hnodup : l.Nodup)
    (hmem : ∀ a, a ∈ l ↔ a ∈ g.acts) :
    ∃ t, issue c n s body = .next t ∧ t.rest = s.rest
      ∧ ∀ a ∈ g.acts, (t.thread a.1 a.2).st = .waiting ∧ (t.thread a.1 a.2).pc = (s.thread a.1 a.2).pc := by
  obtain ⟨-, hset, -⟩ := State.group_some h.1
  obtain ⟨r, hr, hmem'⟩ := byLane_map (fun a => Fate.wait (w a)) l
  have hnodup' : r.Nodup := by
    refine List.Nodup.of_map (fun a => (a, Fate.wait (w a))) ?_
    rw [← hr]
    exact byLane_nodup (hnodup.map fun a b hab => congrArg Prod.fst hab)
  obtain ⟨⟨hrest, -, -⟩, hthread⟩ := State.foldl_light (fun a => Fate.wait (w a)) r s hnodup' fun _ _ => rfl
  simp only [hmem', hmem] at hthread
  have halive : ∀ k ∈ g.warps, ∃ i < 32, (((r.map fun a => (a, Fate.wait (w a))).foldl State.applyFate s).thread k i).st.alive = true := by
    intro k hk
    obtain ⟨a, ha, rfl⟩ := List.mem_map.mp (List.mem_eraseDups.mp hk)
    have ha : a ∈ g.acts := hset ▸ ha
    exact ⟨a.2, (h.2.2 a ha).1, by rw [hthread, if_pos ha]; rfl⟩
  obtain ⟨⟨hrest', -, -⟩, hclosed, -⟩ := State.finish_closes (congrArg (List.foldl State.applyFate s) hr) halive
  refine ⟨_, (issue_eq h body).trans (by rw [hbody]), hrest'.trans hrest, fun a ha => ?_⟩
  have hend := hclosed a.1 a.2
  rw [hthread, if_pos ha] at hend
  rcases hend with hsame | ⟨hst, -⟩
  · rw [hsame]
    exact ⟨rfl, rfl⟩
  · cases hst

/-- The sequence number a warp's SWAITQ waits for. -/
def State.awaited (s : State) (a : SReg) (k : Nat) : BitVec 16 := ((s.warp k).s a.toNat).setWidth 16

/-- What SWAITQ finds in each warp: the register it names, and the way the warp goes by it. -/
theorem swaitq_run {s : State} {g : Grp} {a : SReg} (ho : s.uniOpen g [a] []) {k : Nat} (hk : k ∈ g.actWarps) :
    sPlan [a.toNat] g s k = .done g.next ∧ s.readS g k a.toNat = ((s.warp k).s a.toNat, s) := by
  refine ⟨?_, State.readS_open ho (s.unifLate_refl _ []) hk List.not_mem_nil (List.mem_singleton_self a) rfl⟩
  rw [sPlan, sWhy_open ho hk (by simp)]

/-- The way of a warp at SWAITQ: on where the number has appeared, else to wait for it. -/
def State.swaitqFate (s : State) (g : Grp) (a : SReg) (k : Nat) : Fate :=
  if seqAppeared (s.warp k).rsltseq (s.awaited a k) then .done g.next else .wait (.seq (s.awaited a k))

/-- One warp's part of SWAITQ. -/
def swaitqRun (a : SReg) (g : Grp) (s : State) (k : Nat) : State × List ((Nat × Nat) × Fate) :=
  let r := s.readS g k a.toNat
  (r.2, g.all k (if seqAppeared (r.2.warp k).rsltseq (r.1.setWidth 16) then .done g.next else .wait (.seq (r.1.setWidth 16))))

theorem exec_swaitq_eq (c : Ctl) (a : SReg) (s : State) : exec (.swaitq c a) s = warpOp c 1 s (sPlan [a.toNat]) (swaitqRun a) := rfl

theorem swaitqRun_open {s : State} {g : Grp} {a : SReg} (ho : s.uniOpen g [a] []) {k : Nat} (hk : k ∈ g.actWarps) :
    swaitqRun a g s k = (s, g.all k (s.swaitqFate g a k)) := by
  rw [swaitqRun, (swaitq_run ho hk).2, State.swaitqFate, State.awaited]

theorem exec_swaitq_goes {c : Ctl} {s : State} {g : Grp} (h : s.issues c 1 g) {a : SReg} (ho : s.uniOpen g [a] [])
    (hseq : ∀ k ∈ g.actWarps, seqAppeared (s.warp k).rsltseq (s.awaited a k) = true) :
    ∃ t, exec (.swaitq c a) s = .next t ∧ s.still t ∧ s.passed t g fun _ => g.next := by
  rw [exec_swaitq_eq]
  refine warpOp_goes (fun _ => g.next) h (fun k hk => ⟨_, (swaitq_run ho hk).1⟩) fun k hk => ?_
  rw [swaitqRun_open ho hk, State.swaitqFate, if_pos (hseq k hk)]

theorem exec_swaitq_waits {c : Ctl} {s : State} {g : Grp} (h : s.issues c 1 g) {a : SReg} (ho : s.uniOpen g [a] [])
    (hseq : ∀ k ∈ g.actWarps, seqAppeared (s.warp k).rsltseq (s.awaited a k) = false) :
    ∃ t, exec (.swaitq c a) s = .next t ∧ t.rest = s.rest
      ∧ ∀ x ∈ g.acts, (t.thread x.1 x.2).st = .waiting ∧ (t.thread x.1 x.2).pc = (s.thread x.1 x.2).pc := by
  rw [exec_swaitq_eq]
  refine issue_waits h (fun x => .seq (s.awaited a x.1)) ?_ (Grp.nodup_byWarp (List.Nodup.of_map _ h.2.1)) g.mem_byWarp
  rw [runWarps_done fun k hk => ⟨_, (swaitq_run ho hk).1⟩, foldl_runs _ fun k hk => swaitqRun_open ho hk, List.map_flatMap, List.nil_append]
  refine congrArg (Prod.mk s) (List.flatMap_congr fun k hk => ?_)
  rw [State.swaitqFate, hseq k hk]
  exact List.map_congr_left fun x hx => by rw [beq_iff_eq.mp (List.mem_filter.mp hx).2]; rfl

/-- Settles O8: SALU and the moves write in one warp after another; BCAST and VTOS do so with rows; SWAITQ goes on or waits. -/
theorem uniformResults : Obligations.UniformResults := by
  unfold Obligations.UniformResults
  refine ⟨fun c d a b s g => ?salu, fun c s g h => ⟨fun d a hs ho => exec_bcast h d a hs ho, fun d a hs ho => ?vtos,
    fun a ho => ⟨fun hseq => ?goes, fun hseq => ?waits⟩⟩⟩
  case salu =>
    intro does
    have does_of {i n srcs f} {f' : List Word → Word} (hexec : exec i s = saluOp c n d srcs s f')
        (hval : ∀ v : SReg → Word, f' (srcs.map v) = f (v a) (v b)) : does i n srcs f := by
      intro h ho
      obtain ⟨t, ht, hpassed, hwrites⟩ := saluOp_sWrites f' h ho
      refine ⟨t, hexec.trans ht, hpassed, ?_⟩
      rwa [funext fun k => (hval fun r => (s.warp k).s r.toNat).symm]
    have two_of {i} {f f' : Word → Word → Word} (hexec : exec i s = salu2 c d a b s f') (hval : ∀ x y, f' x y = f x y) : does i 1 [a, b] f :=
      does_of (f' := fun vs => f' (vs.getD 0 0) (vs.getD 1 0)) hexec fun v => hval (v a) (v b)
    clear_value does
    refine ⟨?add, ?sub, ?and, ?or, ?xor, ?shl, ?shr, ?cmp, ?mov, fun imm => ?movi, fun imm => ?moviLong⟩
    case add => exact two_of (show execSadd c d a b s = _ from rfl) fun _ _ => rfl
    case sub => exact two_of (show execSsub c d a b s = _ from rfl) fun _ _ => rfl
    case and => exact two_of (show execSand c d a b s = _ from rfl) fun _ _ => rfl
    case or => exact two_of (show execSor c d a b s = _ from rfl) fun _ _ => rfl
    case xor => exact two_of (show execSxor c d a b s = _ from rfl) fun _ _ => rfl
    case shl => exact two_of (show execSshl c d a b s = _ from rfl) fun x y => shiftLeft_cut x y.toNat
    case shr => exact two_of (show execSshr c d a b s = _ from rfl) fun x y => ushiftRight_cut x y.toNat
    case cmp => exact two_of (show execScmp c d a b s = _ from rfl) fun _ _ => rfl
    case mov => exact does_of (show execSmov c d a s = _ from rfl) fun _ => rfl
    case movi => exact does_of (show execSmovi c d imm s = _ from rfl) fun _ => rfl
    case moviLong => exact does_of (show execSmoviLong c d imm s = _ from rfl) fun _ => rfl
  case vtos => exact exec_vtos h d a hs ho
  case goes =>
    refine exec_swaitq_goes h ho fun k hk => ?_
    obtain ⟨x, hx, rfl⟩ := List.mem_map.mp (Grp.mem_actWarps.mp hk)
    exact decide_eq_true (hseq x hx)
  case waits =>
    refine exec_swaitq_waits h ho fun k hk => ?_
    obtain ⟨x, hx, rfl⟩ := List.mem_map.mp (Grp.mem_actWarps.mp hk)
    exact decide_eq_false (hseq x hx)

end Sys2Proof.Machine
end

section
/-! SUPPORT. Reads across the bundle set (R139 to R141): a cross-lane instruction whose operands are open writes as a register instruction does. -/
namespace Sys2Proof.Machine

-- Operands of lanes -----------------------------------------------------------------------------------------------------------

/-- A thread's own register as a source: its word. -/
theorem State.source_own (s : State) (g : Grp) (x : Nat × Nat) (v : VReg) :
    s.source g x (own v) = ((s.warp x.1).elem (rowOf (s.thread x.1 x.2) v.toNat) x.2).setWidth 64 := by
  simp [State.source, State.rdElems, Grp.source, own, State.fieldElems, State.elemsVal]

theorem State.source_own_lt (s : State) (g : Grp) (x : Nat × Nat) (v : VReg) : (s.source g x (own v)).toNat < 2 ^ 32 := by
  rw [s.source_own, BitVec.toNat_setWidth]
  omega

/-- The thread of a bundle set in its own lane. -/
theorem Grp.inLane_of_mem {g : Grp} (hn : (g.set.map Prod.snd).Nodup) {x : Nat × Nat} (hx : x ∈ g.set) : g.inLane x.2 = some x := by
  unfold Grp.inLane
  generalize g.set = l at hn hx
  induction l with
  | nil => exact absurd hx List.not_mem_nil
  | cons y l ih =>
    obtain ⟨hy, hn⟩ := List.nodup_cons.mp hn
    rcases List.mem_cons.mp hx with rfl | hx
    · simp
    · have hne : y.2 ≠ x.2 := fun e => hy (e ▸ List.mem_map_of_mem hx)
      rw [List.find?_cons_of_neg (by simpa using hne)]
      exact ih hn hx

theorem Grp.inLane_mem {g : Grp} {l : Nat} {x : Nat × Nat} (h : g.inLane l = some x) : x ∈ g.set ∧ x.2 = l :=
  ⟨List.mem_of_find?_eq_some h, beq_iff_eq.mp (List.find?_some (p := fun a : Nat × Nat => a.2 == l) h)⟩

-- Reads across lanes (R139 to R141) ---------------------------------------------------------------------------------------------

/-- The value a lane offers, where its thread's elements are held and readable. -/
def State.offers (s : State) (g : Grp) (off : Rd) (l : Nat) : Option Word := (g.inLane l).map fun u => (s.source g u off).setWidth 32

/-- Every thread of the bundle set holds the row it names, and may be read. -/
def State.offersOpen (s : State) (g : Grp) (off : Rd) : Prop := ∀ u ∈ g.set, s.ripe g (s.rdElems g u off) ∧ ∀ e ∈ s.rdElems g u off, s.elemHeld e = true

theorem State.offer_open {s : State} {g : Grp} {off : Rd} (h : s.offersOpen g off) (l : Nat) :
    s.offer g off l = (g.inLane l).map fun u => s.rdElems g u off := by
  unfold State.offer
  cases hl : g.inLane l with
  | none => rfl
  | some u => simp [List.all_eq_true.mpr (h u (Grp.inLane_mem hl).1).2]

theorem State.readOffers_open {s : State} {g : Grp} {off : Rd} (h : s.offersOpen g off) (ls : List Nat) :
    s.readOffers g off ls = (ls.map fun l => (l, s.offers g off l), s) := by
  induction ls with
  | nil => rfl
  | cons l ls ih =>
    rw [State.readOffers, State.offer_open h, List.map_cons, State.offers]
    cases hl : g.inLane l with
    | none => simp only [Option.map_none, ih]
    | some u => simp only [Option.map_some, State.readElems_ripe (h u (Grp.inLane_mem hl).1).1, ih]; rfl

/-- No element that a reader selects is read early. -/
theorem State.offers_ripe {s : State} {g : Grp} {off : Rd} (h : s.offersOpen g off) (ls : List Nat) :
    s.ripe g (ls.flatMap fun l => (s.offer g off l).getD []) := by
  intro e he
  obtain ⟨l, -, he⟩ := List.mem_flatMap.mp he
  rw [State.offer_open h] at he
  cases hl : g.inLane l with
  | none => rw [hl] at he; exact absurd he List.not_mem_nil
  | some u => rw [hl] at he; exact (h u (Grp.inLane_mem hl).1).1 e he

theorem State.early_none {s : State} {g : Grp} {es : List Elem} (h : s.ripe g es) : es.any (s.elemEarly g) = false :=
  List.any_eq_false.mpr fun e he => by simp [h e he]

/-- One reader of open sources: what `f` makes of what its lanes offer. -/
theorem State.evalCross_open {s : State} {g : Grp} {rds held : List Rd} {off : Rd} {d : Option Wr} {sel : Nat × Nat → List DWord → List Nat}
    {f : Nat × Nat → List (Nat × Option Word) → Res} {a : Nat × Nat} (hoff : s.offersOpen g off)
    (ho : s.open g (rds.flatMap (s.rdElems g a)) (s.wrElems a d ++ held.flatMap (s.rdElems g a))) :
    s.evalCross g rds held off d sel f a = (f a ((sel a (rds.map (s.source g a))).map fun l => (l, s.offers g off l)), s) := by
  have hearly := State.offers_ripe hoff (sel a (rds.map (s.source g a)))
  have htraps : (List.flatMap (fun l => (s.offer g off l).getD []) (sel a (rds.map (s.source g a)))).any (s.elemTraps g) = false :=
    List.any_eq_false.mpr fun e he => by simp [State.elemTraps, hearly e he]
  unfold State.evalCross
  rw [State.elemsFault_open ho]
  simp only [State.readAll_ripe ho.2.1, State.early_none ho.2.1, htraps, State.early_none hearly, State.readOffers_open hoff]
  rfl

theorem State.evalCrossAll_open {s : State} {g : Grp} {rds held : List Rd} {off : Rd} {d : Option Wr} {sel : Nat × Nat → List DWord → List Nat}
    {f : Nat × Nat → List (Nat × Option Word) → Res} (hoff : s.offersOpen g off) (l : List (Nat × Nat))
    (ho : ∀ a ∈ l, s.open g (rds.flatMap (s.rdElems g a)) (s.wrElems a d ++ held.flatMap (s.rdElems g a))) :
    s.evalCrossAll g rds held off d sel f l
      = (l.map fun a => (a, f a ((sel a (rds.map (s.source g a))).map fun l => (l, s.offers g off l))), s) := by
  induction l with
  | nil => rfl
  | cons a l ih =>
    rw [State.evalCrossAll, State.evalCross_open hoff (ho a List.mem_cons_self)]
    simp only [ih fun b hb => ho b (List.mem_cons_of_mem _ hb), List.map_cons]

/-- What a reader of a cross-lane instruction gets. -/
def State.crossRes (s : State) (g : Grp) (rds : List Rd) (off : Rd) (sel : Grp → Nat × Nat → List DWord → List Nat)
    (f : Grp → Nat × Nat → List (Nat × Option Word) → Res) (a : Nat × Nat) : Res :=
  f g a ((sel g a (rds.map (s.source g a))).map fun l => (l, s.offers g off l))

/-- A cross-lane instruction whose operands are open writes as a register instruction does that names its selectors and what it offers. -/
theorem crossOp_eq_regOp {c : Ctl} {n : Nat} {rds held : List Rd} {off : Rd} {d : Wr} {s : State} {g : Grp}
    {sel : Grp → Nat × Nat → List DWord → List Nat} {f : Grp → Nat × Nat → List (Nat × Option Word) → Res} (h : s.issues c n g)
    (hheld : ∀ r ∈ held, r = off)
    (ho : ∀ a ∈ g.acts, s.open g ((off :: rds).flatMap (s.rdElems g a)) (s.wrElems a (some d))) :
    crossOp c n rds held off d s sel f = regOp c n 8 (off :: rds) (some d) s fun g s a _ => s.crossRes g rds off sel f a := by
  obtain ⟨-, hset, -⟩ := State.group_some h.1
  have hoff : s.offersOpen g off := fun u hu => by
    have hopen := ho u (hset ▸ hu)
    exact ⟨State.ripe_mono hopen.2.1 fun e he => by simp [he], fun e he => hopen.2.2 e (by simp [he])⟩
  have hmine : ∀ a ∈ g.acts, s.open g (rds.flatMap (s.rdElems g a)) (s.wrElems a (some d) ++ held.flatMap (s.rdElems g a)) := fun a ha => by
    obtain ⟨hcalm, hripe, hhold⟩ := ho a ha
    have hsub : ∀ e ∈ rds.flatMap (s.rdElems g a) ++ (s.wrElems a (some d) ++ held.flatMap (s.rdElems g a)),
        e ∈ (off :: rds).flatMap (s.rdElems g a) ++ s.wrElems a (some d) := by
      intro e he
      simp only [List.flatMap_cons, List.mem_append] at he ⊢
      rcases he with he | he | he
      · exact .inl (.inr he)
      · exact .inr he
      · obtain ⟨r, hr, he⟩ := List.mem_flatMap.mp he
        exact .inl (.inl (hheld r hr ▸ he))
    exact ⟨fun e he => hcalm e (hsub e he), State.ripe_mono hripe fun e he => by simp [List.flatMap_cons, he], fun e he => hhold e (hsub e he)⟩
  have hlate : g.set.filter (fun a => !g.acts.contains a) = [] := by simp [hset]
  have hcalm : ∀ a ∈ g.acts, s.calm ((off :: rds).flatMap (s.rdElems g a) ++ s.wrElems a (some d)) := fun a ha => (ho a ha).1
  have hcross : s.interlocks g (fun a => s.rdElems g a off ++ rds.flatMap (s.rdElems g a) ++ s.wrElems a (some d) ++ []) = none :=
    State.interlocks_calm fun a ha => by simpa only [List.append_nil, List.flatMap_cons] using hcalm a ha
  unfold crossOp regOp
  rw [issue_eq h, issue_eq h]
  simp only [hlate, List.flatMap_nil, hcross, State.interlocks_calm hcalm, State.evalCrossAll_open hoff g.acts hmine, State.evalAll_open ho]
  rfl

/-- A cross-lane instruction whose operands are open completes. -/
theorem crossOp_writes {c : Ctl} {n : Nat} {rds held : List Rd} {off : Rd} {d : VReg} {s : State} {g : Grp}
    {sel : Grp → Nat × Nat → List DWord → List Nat} {f : Grp → Nat × Nat → List (Nat × Option Word) → Res} (val : Nat × Nat → DWord)
    (h : s.issues c n g) (hheld : ∀ r ∈ held, r = off)
    (ho : ∀ a ∈ g.acts, s.open g ((off :: rds).flatMap (s.rdElems g a)) (s.wrElems a (some { n := d.toNat })))
    (hres : ∀ a ∈ g.acts, ∃ v : DWord, s.crossRes g rds off sel f a = { val := v } ∧ v.setWidth 32 = (val a).setWidth 32) :
    ∃ t, crossOp c n rds held off { n := d.toNat } s sel f = .next t ∧ s.writes t g { n := d.toNat } val (fun _ => false) 0 := by
  have hnf : ∀ a ∈ g.acts, (s.crossRes g rds off sel f a).nf = false := fun a ha => by obtain ⟨v, hv, -⟩ := hres a ha; rw [hv]
  obtain ⟨t, hexec, ⟨hframe, hkept, htags, hflags⟩, hpassed, hval⟩ := regOp_writes (lat := 8) (m := 0) (rds := off :: rds)
    (d := some { n := d.toNat }) (f := fun g s a _ => s.crossRes g rds off sel f a) h ho
    (fun a ha => by obtain ⟨v, hv, -⟩ := hres a ha; rw [hv]) (fun a ha => by obtain ⟨v, hv, -⟩ := hres a ha; rw [hv])
  refine ⟨t, (crossOp_eq_regOp h hheld ho).trans hexec, ⟨hframe, hkept, htags, fun k => ⟨?nf, (hflags k).2⟩⟩,
    State.passed_congr hpassed fun a ha => ?pc, fun a ha => ?value⟩
  case nf =>
    rw [(hflags k).1]
    refine congrArg _ ?_
    exact (List.any_eq_false.mpr fun a ha => by simp [hnf a ha]).trans (List.any_eq_false.mpr fun a ha => by simp).symm
  case pc => obtain ⟨v, hv, -⟩ := hres a ha; rw [hv]; rfl
  case value =>
    obtain ⟨v, hv, heq⟩ := hres a ha
    rw [hval a ha _ rfl, hv]
    exact congrArg (BitVec.setWidth 64) heq

end Sys2Proof.Machine
end

section
/-! SUPPORT. SHFL, VOTE and POPX (R139 to R141): the lanes they pick and what those offer. -/
namespace Sys2Proof.Machine

-- SHFL (R139) -----------------------------------------------------------------------------------------------------------------

/-- The thread SHFL reads for x: the bundle set's in the lane that zx(b) names, else x itself. -/
def State.shflSource (s : State) (g : Grp) (b : VReg) (x : Nat × Nat) : Nat × Nat := (g.inLane (s.source g x (own b)).toNat).getD x

/-- The lane SHFL reads, from its selector. -/
def shflPick (g : Grp) (x : Nat × Nat) (vs : List DWord) : List Nat :=
  if (decide (bf (vs.getD 0 0) 0 32 < 32) && (g.inLane (bf (vs.getD 0 0) 0 32)).isSome) = true then [bf (vs.getD 0 0) 0 32] else [x.2]

/-- What SHFL makes of what that lane offers. -/
def shflRes (os : List (Nat × Option Word)) : Res := match os with
  | [(_, some v)] => { val := v.setWidth 64 }
  | _ => { fault := some (pf 2 0) }

theorem exec_shfl_eq (c : Ctl) (p : Option Pfx) (d a b : VReg) (s : State) :
    exec (.shfl c p d a b) s = crossOp c (groupWords p) [own b] [] (srcA p a) { n := d.toNat } s shflPick fun _ _ => shflRes := rfl

theorem exec_shfl {c : Ctl} {p : Option Pfx} {s : State} {g : Grp} (d a b : VReg) (h : s.issues c (groupWords p) g)
    (ho : ∀ x ∈ g.acts, s.open g (s.rdElems g x (srcA p a) ++ s.rdElems g x (own b)) (s.wrElems x (some { n := d.toNat }))) :
    ∃ t, exec (.shfl c p d a b) s = .next t
      ∧ s.writes t g { n := d.toNat } (fun x => s.source g (s.shflSource g b x) (srcA p a)) (fun _ => false) 0 := by
  obtain ⟨-, hset, -⟩ := State.group_some h.1
  have hlanes : (g.set.map Prod.snd).Nodup := hset ▸ h.2.1
  rw [exec_shfl_eq]
  refine crossOp_writes (fun x => s.source g (s.shflSource g b x) (srcA p a)) h
    (fun r hr => absurd hr List.not_mem_nil) (fun x hx => by simpa using ho x hx) fun x hx => ?_
  have hself : g.inLane x.2 = some x := Grp.inLane_of_mem hlanes (hset ▸ hx)
  have hlow : bf (s.source g x (own b)) 0 32 = (s.source g x (own b)).toNat := by
    rw [bf_low, Nat.mod_eq_of_lt (s.source_own_lt g x b)]
  obtain ⟨j, u, hj, hu⟩ : ∃ j u, shflPick g x [s.source g x (own b)] = [j] ∧ g.inLane j = some u ∧ s.shflSource g b x = u := by
    simp only [shflPick, List.getD_cons_zero, hlow]
    cases hl : g.inLane (s.source g x (own b)).toNat with
    | none => exact ⟨x.2, x, by simp, hself, by rw [State.shflSource, hl]; rfl⟩
    | some u =>
      have hmem := Grp.inLane_mem hl
      have hlt : (s.source g x (own b)).toNat < 32 := hmem.2 ▸ (h.2.2 u (hset ▸ hmem.1)).1
      exact ⟨_, u, by simp [hlt], hl, by rw [State.shflSource, hl]; rfl⟩
  refine ⟨((s.source g u (srcA p a)).setWidth 32).setWidth 64, ?_, by simp [hu.2]⟩
  rw [State.crossRes, List.map_singleton, hj, List.map_singleton, State.offers, hu.1]
  rfl

-- VOTE and POPX (R140, R141) --------------------------------------------------------------------------------------------------

/-- What the threads of a bundle set offer, by lane. -/
def State.ballots (s : State) (g : Grp) (a : VReg) : List (Nat × Word) := g.acts.map fun x => (x.2, (s.source g x (own a)).setWidth 32)

/-- What lanes picked of the bundle set offer. -/
theorem State.offered_ballots {s : State} {g : Grp} {c : Ctl} {n : Nat} (h : s.issues c n g) (a : VReg) (p : Nat → Bool) :
    offered ((g.lanes.filter p).map fun l => (l, s.offers g (own a) l)) = (s.ballots g a).filter fun v => p v.1 := by
  obtain ⟨-, hset, -⟩ := State.group_some h.1
  have hlanes : (g.set.map Prod.snd).Nodup := hset ▸ h.2.1
  have hoffer : ∀ x ∈ g.acts, s.offers g (own a) x.2 = some ((s.source g x (own a)).setWidth 32) := fun x hx => by
    rw [State.offers, Grp.inLane_of_mem hlanes (hset ▸ hx)]
    rfl
  rw [Grp.lanes, hset, State.ballots]
  clear hset hlanes h
  generalize g.acts = l at hoffer
  induction l with
  | nil => rfl
  | cons x l ih =>
    have hx := hoffer x List.mem_cons_self
    have ih := ih fun y hy => hoffer y (List.mem_cons_of_mem _ hy)
    by_cases hp : p x.2 = true
    · rw [List.map_cons, List.map_cons, List.filter_cons_of_pos hp, List.filter_cons_of_pos (by exact hp), ← ih, List.map_cons, hx]
      rfl
    · rw [List.map_cons, List.map_cons, List.filter_cons_of_neg hp, List.filter_cons_of_neg (by exact hp), ih]

theorem State.ballots_lanes {s : State} {g : Grp} {c : Ctl} {n : Nat} (h : s.issues c n g) (a : VReg) :
    ((s.ballots g a).map Prod.fst).Nodup ∧ ∀ v ∈ s.ballots g a, v.1 < 32 := by
  rw [State.ballots, List.map_map]
  refine ⟨h.2.1, fun v hv => ?_⟩
  obtain ⟨x, hx, rfl⟩ := List.mem_map.mp hv
  exact (h.2.2 x hx).1

/-- The powers of two of the lanes that vote, added up in either order. -/
theorem sum_ballot (cs : List (Nat × Word)) (hnodup : (cs.map Prod.fst).Nodup) (hlt : ∀ v ∈ cs, v.1 < 32) :
    (cs.map fun v => if v.2 = 0 then 0 else 2 ^ v.1).foldl (· + ·) 0
      = (((List.range 32).filter fun i => cs.any fun v => v.1 == i && v.2 != 0).map fun i => 2 ^ i).sum := by
  have hkeep : (cs.map fun v => if v.2 = 0 then 0 else 2 ^ v.1).sum = (((cs.filter fun v => v.2 != 0).map Prod.fst).map fun i => 2 ^ i).sum := by
    clear hnodup hlt
    induction cs with
    | nil => rfl
    | cons v cs ih =>
      by_cases hv : v.2 = 0
      · rw [List.filter_cons_of_neg (by simpa using hv), ← ih, List.map_cons, List.sum_cons, if_pos hv, Nat.zero_add]
      · rw [List.filter_cons_of_pos (by simpa using hv), List.map_cons, List.map_cons, List.map_cons, List.sum_cons, List.sum_cons, ih, if_neg hv]
  have hperm : ((cs.filter fun v => v.2 != 0).map Prod.fst).Perm ((List.range 32).filter fun i => cs.any fun v => v.1 == i && v.2 != 0) := by
    refine (List.perm_ext_iff_of_nodup (hnodup.sublist (List.filter_sublist.map _)) (List.nodup_range.filter _)).mpr fun i => ?_
    simp only [List.mem_map, List.mem_filter, List.mem_range, List.any_eq_true, Bool.and_eq_true, beq_iff_eq]
    constructor
    · rintro ⟨v, ⟨hv, hne⟩, rfl⟩
      exact ⟨hlt v hv, v, hv, rfl, hne⟩
    · rintro ⟨-, v, hv, rfl, hne⟩
      exact ⟨v, ⟨hv, hne⟩, rfl⟩
  rw [← List.sum_eq_foldl, hkeep, (hperm.map _).sum_eq]

/-- VOTE of open operands gives each thread the same number. -/
theorem voteOp_writes {c : Ctl} {s : State} {g : Grp} (d a : VReg) (f : List (Nat × Word) → Word) (v : Nat) (h : s.issues c 1 g)
    (ho : ∀ x ∈ g.acts, s.open g (s.rdElems g x (own a)) (s.wrElems x (some { n := d.toNat })))
    (hv : f (s.ballots g a) = BitVec.ofNat 32 v) :
    ∃ t, voteOp c d a s f = .next t ∧ s.writes t g { n := d.toNat } (fun _ => BitVec.ofNat 64 v) (fun _ => false) 0 := by
  refine crossOp_writes (rds := []) (held := [own a]) (fun _ => BitVec.ofNat 64 v) h (fun r hr => List.mem_singleton.mp hr)
    (fun x hx => by simpa using ho x hx) fun x _ => ⟨(f (s.ballots g a)).setWidth 64, ?_, by simp [hv]⟩
  have hall := State.offered_ballots h a fun _ => true
  rw [List.filter_true, List.filter_true] at hall
  rw [State.crossRes, hall]

/-- POPX of open operands gives each thread the sum over the lanes before it. -/
theorem popxOp_writes {c : Ctl} {s : State} {g : Grp} (d a : VReg) (incl : Bool) (p : Nat → Nat → Bool) (h : s.issues c 1 g)
    (ho : ∀ x ∈ g.acts, s.open g (s.rdElems g x (own a)) (s.wrElems x (some { n := d.toNat })))
    (hp : ∀ i j, (decide (j < i) || (incl && j == i)) = p i j) :
    ∃ t, popxOp c d a s incl = .next t ∧ s.writes t g { n := d.toNat }
      (fun x => BitVec.ofNat 64 (((s.ballots g a).filter fun v => p x.2 v.1).map fun v => popcount v.2).sum) (fun _ => false) 0 := by
  refine crossOp_writes (rds := []) (held := [own a]) _ h (fun r hr => List.mem_singleton.mp hr)
    (fun x hx => by simpa using ho x hx) fun x _ => ⟨_, ?_, rfl⟩
  rw [State.crossRes, funext fun j => hp x.2 j, State.offered_ballots h a, List.sum_eq_foldl]

end Sys2Proof.Machine
end

section
/-! SUPPORT. REDV's operations and tree (R142, R143): FP32 words and their special values, and the fixed tree by place. -/
namespace Sys2Proof.Machine

-- FP32 words (R32, R33, R147, R149) ---------------------------------------------------------------------------------------------

/-- The magnitude of an FP32 word: its bits below the sign. -/
def magBits (x : Word) : Nat := x.toNat % 2 ^ 31

/-- An FP32 word by the range its magnitude lies in. -/
theorem f32_cases (x : Word) :
    (0x7F800000 < magBits x ∧ f32 x = .nan) ∨ (magBits x = 0x7F800000 ∧ f32 x = .inf (x.getLsbD 31))
      ∨ (magBits x < 0x7F800000 ∧ ∃ m e, f32 x = .fin (x.getLsbD 31) m e ∧ (m = 0 ↔ magBits x = 0)) := by
  have hsign : tst x.toNat 31 = x.getLsbD 31 := by rw [tst_eq_testBit]; rfl
  have hcode : f32 x = if some 0x7F800000 = some (magBits x) then .inf (x.getLsbD 31) else if 0x7F7FFFFF < magBits x then .nan
      else if magBits x / 2 ^ 23 = 0 then .fin (x.getLsbD 31) (magBits x) (1 - 127 - 23)
        else .fin (x.getLsbD 31) (2 ^ 23 + magBits x % 2 ^ 23) ((magBits x / 2 ^ 23 : Nat) - 127 - 23) := by
    rw [← hsign]; rfl
  rw [hcode]
  by_cases hinf : magBits x = 0x7F800000
  · exact .inr (.inl ⟨hinf, if_pos (by rw [hinf])⟩)
  · rw [if_neg fun e => hinf (Option.some.inj e).symm]
    by_cases hnan : 0x7F7FFFFF < magBits x
    · exact .inl ⟨by omega, if_pos hnan⟩
    · refine .inr (.inr ⟨by omega, ?_⟩)
      rw [if_neg hnan]
      split
      · exact ⟨_, _, rfl, Iff.rfl⟩
      · next hne => exact ⟨_, _, rfl, by constructor <;> intro h <;> omega⟩

theorem f32_nan_iff (x : Word) : f32 x = .nan ↔ 0x7F800000 < magBits x := by
  rcases f32_cases x with ⟨h, hx⟩ | ⟨h, hx⟩ | ⟨h, m, e, hx, -⟩
  · simp [hx, h]
  · simp [hx, h]
  · simp [hx]; omega

theorem wordNF_iff (x : Word) : wordNF x = true ↔ 0x7F800000 ≤ magBits x := by
  rw [wordNF]
  rcases f32_cases x with ⟨h, hx⟩ | ⟨h, hx⟩ | ⟨h, m, e, hx, -⟩
  · simp [hx, Num.nonfin]; omega
  · simp [hx, Num.nonfin, h]
  · simp [hx, Num.nonfin, h]

theorem getLsbD_31 (x : Word) : x.getLsbD 31 = decide (x.toNat / 2 ^ 31 % 2 = 1) := by
  rw [← BitVec.testBit_toNat, Nat.testBit_eq_decide_div_mod_eq]

/-- A word is its sign and its magnitude. -/
theorem word_eq_iff (x y : Word) : x = y ↔ x.getLsbD 31 = y.getLsbD 31 ∧ magBits x = magBits y := by
  refine ⟨fun h => h ▸ ⟨rfl, rfl⟩, fun ⟨hs, hm⟩ => ?_⟩
  have hsplit : ∀ z : Word, z.toNat = (if z.getLsbD 31 then 2 ^ 31 else 0) + magBits z := fun z => by
    have hz := z.isLt
    rw [getLsbD_31, magBits]
    by_cases hd : z.toNat / 2 ^ 31 % 2 = 1
    · rw [if_pos (decide_eq_true hd)]; omega
    · rw [if_neg (by simpa using hd)]; omega
  exact BitVec.eq_of_toNat_eq (by rw [hsplit x, hsplit y, hs, hm])

theorem isInf_iff (x : Word) (neg : Bool) : f32 x = .inf neg ↔ x = if neg then 0xFF800000 else 0x7F800000 := by
  have hinf : ∀ n : Bool, (if n then (0xFF800000 : Word) else 0x7F800000).getLsbD 31 = n ∧ magBits (if n then 0xFF800000 else 0x7F800000) = 0x7F800000 := by
    decide
  rw [word_eq_iff, (hinf neg).1, (hinf neg).2]
  rcases f32_cases x with ⟨h, hx⟩ | ⟨h, hx⟩ | ⟨h, m, e, hx, -⟩
  · simp [hx]; omega
  · simp [hx, h]
  · simp [hx]; omega

/-- The zeros: FADD of two leaves the sign both have, and + where they differ (R147). -/
theorem rneF32_zero (neg : Bool) : rneF32 (.fin neg 0 0) = if neg then 0x80000000 else 0 := by cases neg <;> decide

theorem and_zeros {x y : Word} (hx : magBits x = 0) (hy : magBits y = 0) :
    x &&& y = if (if x.getLsbD 31 = y.getLsbD 31 then x.getLsbD 31 else false) then 0x80000000 else 0 := by
  have hzero : ∀ z : Word, magBits z = 0 → z = if z.getLsbD 31 then 0x80000000 else 0 := fun z hz => by
    rw [word_eq_iff, hz]
    cases z.getLsbD 31 <;> decide
  rw [hzero x hx, hzero y hy]
  cases x.getLsbD 31 <;> cases y.getLsbD 31 <;> decide

/-- What FADD of words gives, with its special values (R147, R250). -/
theorem faddW_eq (x y : Word) : faddW x y
    = if 0x7F800000 < magBits x ∨ 0x7F800000 < magBits y ∨ (x = 0x7F800000 ∧ y = 0xFF800000) ∨ (x = 0xFF800000 ∧ y = 0x7F800000) then 0x7FC00000
      else if magBits x = 0 ∧ magBits y = 0 then x &&& y else rneF32 ((f32 x).add false (f32 y)) := by
  have hnanout : rneF32 .nan = 0x7FC00000 := by decide
  have hpos : ∀ z : Word, z = 0x7F800000 ↔ f32 z = .inf false := fun z => (isInf_iff z false).symm
  have hneg : ∀ z : Word, z = 0xFF800000 ↔ f32 z = .inf true := fun z => (isInf_iff z true).symm
  simp only [← f32_nan_iff, hpos, hneg]
  split
  · next h =>
    rw [faddW, ← hnanout]
    congr 1
    rcases h with hx | hy | ⟨hx, hy⟩ | ⟨hx, hy⟩
    · rw [hx]; rfl
    · rw [hy]; cases f32 x <;> rfl
    · rw [hx, hy]; rfl
    · rw [hx, hy]; rfl
  · split
    · next h =>
      obtain ⟨m, e, hx, hm⟩ : ∃ m e, f32 x = .fin (x.getLsbD 31) m e ∧ (m = 0 ↔ magBits x = 0) := by
        rcases f32_cases x with ⟨hx, -⟩ | ⟨hx, -⟩ | ⟨-, hx⟩
        · omega
        · omega
        · exact hx
      obtain ⟨n, f, hy, hn⟩ : ∃ n f, f32 y = .fin (y.getLsbD 31) n f ∧ (n = 0 ↔ magBits y = 0) := by
        rcases f32_cases y with ⟨hy, -⟩ | ⟨hy, -⟩ | ⟨-, hy⟩
        · omega
        · omega
        · exact hy
      rw [faddW, hx, hy, Num.add, if_pos ⟨hm.mpr h.1, hn.mpr h.2⟩, rneF32_zero, and_zeros h.1 h.2]
    · rfl

/-- The order of FMIN and FMAX on words that are no NaN (R149). -/
theorem fKey_eq (x : Word) : fKey x = if x.getLsbD 31 then -1 - (magBits x : Int) else (x.toNat : Int) := by
  have hx := x.isLt
  have hlow : bf x 0 31 = magBits x := by rw [bf, fld, Nat.pow_zero, Nat.div_one, magBits]
  rw [fKey, hlow, getLsbD_31]
  split
  · omega
  · next h =>
    have : ¬ x.toNat / 2 ^ 31 % 2 = 1 := by simpa using h
    rw [magBits]
    omega

/-- A NaN gives way to what is none; else the first of the two where nothing prefers the second. -/
theorem nan_choice {N M c d : Prop} [Decidable N] [Decidable M] [Decidable c] [Decidable d] (hcd : d ↔ ¬ c) (q x y : Word) :
    (if (decide N && decide M) = true then q else if N then y else if M then x else if c then y else x)
      = if N then (if M then q else y) else if M then x else if d then x else y := by
  by_cases hN : N
  · by_cases hM : M
    · simp [hN, hM]
    · simp [hN, hM]
  · rw [if_neg (by simp [hN]), if_neg hN, if_neg hN]
    refine if_congr Iff.rfl rfl ?_
    rw [← ite_not, if_congr hcd rfl rfl]

theorem fminW_eq (x y : Word) : fminW x y
    = if 0x7F800000 < magBits x then (if 0x7F800000 < magBits y then 0x7FC00000 else y) else if 0x7F800000 < magBits y then x
      else if fKey x ≤ fKey y then x else y := by
  simp only [← f32_nan_iff]
  exact nan_choice (not_lt).symm _ x y

theorem fmaxW_eq (x y : Word) : fmaxW x y
    = if 0x7F800000 < magBits x then (if 0x7F800000 < magBits y then 0x7FC00000 else y) else if 0x7F800000 < magBits y then x
      else if fKey y ≤ fKey x then x else y := by
  simp only [← f32_nan_iff]
  exact nan_choice (not_lt).symm _ x y

-- The tree (R142) ---------------------------------------------------------------------------------------------------------------

/-- One level of the tree, by place. -/
def combUp (op : RedOp) (f : Nat → Option Word) (j : Nat) : Option Word := comb op (f (2 * j)) (f (2 * j + 1))

/-- The levels of the tree, by place. -/
def combUps (op : RedOp) (f : Nat → Option Word) : Nat → List (Nat → Option Word)
  | 0 => [f]
  | n + 1 => f :: combUps op (combUp op f) n

theorem combLevel_map (op : RedOp) (n : Nat) (f : Nat → Option Word) :
    combLevel op ((List.range (2 * n)).map f) = (List.range n).map (combUp op f) := by
  induction n generalizing f with
  | zero => rfl
  | succ n ih =>
    have hshift := ih fun i => f (i + 2)
    rw [show 2 * (n + 1) = 2 * n + 1 + 1 by omega, List.range_succ_eq_map, List.range_succ_eq_map, List.range_succ_eq_map]
    simp only [List.map_cons, List.map_map, combLevel]
    refine congrArg₂ List.cons rfl (hshift.trans ?_)
    rfl

theorem comb_isSome (op : RedOp) (x y : Option Word) : (comb op x y).isSome = (x.isSome || y.isSome) := by cases x <;> cases y <;> rfl

theorem combUp_isSome {op : RedOp} {f : Nat → Option Word} {i : Nat} (h : (f i).isSome = true) : (combUp op f (i / 2)).isSome = true := by
  rw [combUp, comb_isSome, Bool.or_eq_true]
  rcases Nat.mod_two_eq_zero_or_one i with hi | hi
  · exact .inl (by rwa [show 2 * (i / 2) = i by omega])
  · exact .inr (by rwa [show 2 * (i / 2) + 1 = i by omega])

theorem combUp_iterate_isSome {op : RedOp} (n : Nat) {f : Nat → Option Word} {i : Nat} (h : (f i).isSome = true) :
    ((combUp op)^[n] f (i / 2 ^ n)).isSome = true := by
  induction n generalizing f i with
  | zero => simpa using h
  | succ n ih =>
    rw [Function.iterate_succ_apply, Nat.pow_succ', ← Nat.div_div_eq_div_mul]
    exact ih (combUp_isSome h)

theorem combUp_none {op : RedOp} {f : Nat → Option Word} {n : Nat} (h : ∀ i, 2 * n ≤ i → f i = none) : ∀ i, n ≤ i → combUp op f i = none := by
  intro i hi
  rw [combUp, h _ (by omega), h _ (by omega)]
  rfl

/-- The tree ends in the value at place 0 after so many levels. -/
theorem combTree_last (op : RedOp) (n : Nat) (f : Nat → Option Word) :
    ((combTree op ((List.range (2 ^ n)).map f) n).getLastD []).headD none = (combUp op)^[n] f 0 := by
  induction n generalizing f with
  | zero => rfl
  | succ n ih =>
    rw [combTree, Nat.pow_succ, Nat.mul_comm, combLevel_map, Function.iterate_succ_apply, ← ih (combUp op f)]
    cases n <;> rfl

theorem level_any {p : Word → Bool} {m N : Nat} {f : Nat → Option Word} (hm : m ≤ N) (hf : ∀ i, m ≤ i → f i = none) :
    ((List.range m).map f).any (fun x => x.any p) = true ↔ ∃ i < N, ∃ v, f i = some v ∧ p v = true := by
  simp only [List.any_map, List.any_eq_true, List.mem_range, Function.comp, Option.any_eq_true]
  refine ⟨fun ⟨i, hi, hv⟩ => ⟨i, by omega, hv⟩, fun ⟨i, hi, v, hv, hp⟩ => ⟨i, ?_, v, hv, hp⟩⟩
  by_contra hge
  rw [hf i (by omega)] at hv
  cases hv

/-- What the tree holds is what the levels hold, place by place. -/
theorem combTree_any (op : RedOp) (p : Word → Bool) {n N : Nat} {f : Nat → Option Word} (hN : 2 ^ n ≤ N) (hf : ∀ i, 2 ^ n ≤ i → f i = none) :
    (combTree op ((List.range (2 ^ n)).map f) n).flatten.any (fun x => x.any p) = true
      ↔ ∃ h ∈ combUps op f n, ∃ i < N, ∃ v, h i = some v ∧ p v = true := by
  induction n generalizing f with
  | zero =>
    rw [combTree, combUps, List.flatten_cons, List.flatten_nil, List.append_nil, level_any hN hf]
    simp only [List.mem_singleton, exists_eq_left]
  | succ n ih =>
    have hpow : 2 ^ (n + 1) = 2 * 2 ^ n := Nat.pow_succ'
    have hup := combUp_none (op := op) (f := f) (n := 2 ^ n) fun i hi => hf i (hpow ▸ hi)
    rw [combTree, combUps, List.flatten_cons, List.any_append, Bool.or_eq_true, level_any hN hf, hpow, combLevel_map, ih (by omega) hup]
    simp only [List.mem_cons, exists_eq_or_imp]

end Sys2Proof.Machine
end

section
/-! SUPPORT. REDV of a warp all of whose live threads issue it (R118, R142, R143). -/
namespace Sys2Proof.Machine

-- Warp-whole instructions of a gathered warp (R118) -----------------------------------------------------------------------------

theorem Warp.mem_liveLanes {w : Warp} {l : Nat} : l ∈ w.liveLanes ↔ l < 32 ∧ (w.thread l).live = true := by
  rw [Warp.liveLanes, List.mem_filter, List.mem_range]

/-- A warp-whole instruction that all live threads of one warp issue, and that completes. -/
theorem wholeBody_gathered {plan : Grp → State → Nat → List Nat → Fate} {run : Grp → State → Nat → List Nat → State × Option PFault} {g : Grp}
    {s u : State} {k : Nat} (hacts : g.acts = (s.warp k).liveLanes.map fun l => (k, l)) (hset : g.set = g.acts) (hne : g.acts ≠ [])
    (hplan : plan g s k (s.warp k).liveLanes = .done g.next) (hrun : run g s k (s.warp k).liveLanes = (u, none)) :
    wholeBody plan run g s = (u, g.acts.map fun a => (a, .done g.next)) := by
  have hslot : ∀ a ∈ g.acts, a.1 = k := fun a ha => by
    rw [hacts] at ha
    obtain ⟨l, -, rfl⟩ := List.mem_map.mp ha
    rfl
  have hmode : ∀ a ∈ g.acts, (s.thread a.1 a.2).tmode = false := fun a ha => by
    rw [hacts] at ha
    obtain ⟨l, hl, rfl⟩ := List.mem_map.mp ha
    have hlive := (Warp.mem_liveLanes.mp hl).2
    rw [Thread.live, Bool.and_eq_true, Bool.not_eq_true'] at hlive
    exact hlive.2
  have hmem : ∀ l, (k, l) ∈ g.acts ↔ l ∈ (s.warp k).liveLanes := fun l => by simp [hacts]
  have hfree : g.acts.filter (fun a => !(s.thread a.1 a.2).tmode) = g.acts := List.filter_eq_self.mpr fun a ha => by simp [hmode a ha]
  have hgroup : ({ g with acts := g.acts.filter (fun a => !(s.thread a.1 a.2).tmode) } : Grp) = g := by rw [hfree]
  have htraps : g.acts.filter (fun a => (s.thread a.1 a.2).tmode) = [] := List.filter_eq_nil_iff.mpr fun a ha => by simp [hmode a ha]
  have hgather : s.gatherLanes g k = (s.warp k).liveLanes := by
    rw [State.gatherLanes, hset]
    exact List.filter_eq_self.mpr fun l _ => by simp
  have hgathered : s.gathered g k = true := by
    rw [State.gathered, hgather]
    exact List.all_eq_true.mpr fun l hl => by simp [(hmem l).mpr hl]
  have hwarps : g.actWarps = [k] := eraseDups_const (by simpa using hne) fun n hn => by
    obtain ⟨a, ha, rfl⟩ := List.mem_map.mp hn
    exact hslot a ha
  have hall : ∀ f, g.all k f = g.acts.map fun a => (a, f) := fun f => by
    rw [Grp.all, List.filter_eq_self.mpr fun a ha => beq_iff_eq.mpr (hslot a ha)]
  have hkept : s.keptBack g (g.acts.map fun a => (a, Fate.done g.next)) = none := State.keptBack_done fun e he => by
    obtain ⟨a, -, rfl⟩ := List.mem_map.mp he
    exact ⟨g.next, rfl⟩
  have hrest : s.faultRest g (g.acts.map fun a => (a, Fate.done g.next)) = [] := by
    rw [State.faultRest, hwarps, List.flatMap_singleton]
    split
    · next hfind =>
      obtain ⟨a, -, heq⟩ := List.mem_map.mp (List.mem_of_find?_eq_some hfind)
      cases heq
    · rfl
  have hin : (s.warp k).liveLanes.filter (fun l => g.acts.contains (k, l)) = (s.warp k).liveLanes :=
    List.filter_eq_self.mpr fun l hl => by simp [(hmem l).mpr hl]
  have hout : (s.warp k).liveLanes.filter (fun l => !g.acts.contains (k, l)) = [] :=
    List.filter_eq_nil_iff.mpr fun l hl => by simp [(hmem l).mpr hl]
  have hdone : u.wholeFate g k (s.warp k).liveLanes (.done g.next) = (u, g.acts.map fun a => (a, .done g.next)) := by
    rw [State.wholeFate]
    simp only [hin, hout, List.foldl_nil]
    rw [hacts, List.map_map]
    rfl
  unfold wholeBody
  simp only [hgroup, htraps, hwarps, List.map_cons, List.map_nil, hplan, hgather, hgathered, Bool.or_true, if_true, List.flatMap_cons, List.flatMap_nil,
    hall, List.append_nil, List.nil_append, hkept, hrest, List.foldl_cons, List.foldl_nil, hrun, hdone]

-- REDV (R142, R143) -------------------------------------------------------------------------------------------------------------

/-- What REDV is to do: wait, fault, or go on. -/
def redvPlan (a : VReg) (g : Grp) (s : State) (k : Nat) (lanes : List Nat) : Fate :=
  let es := lanes.map (s.redvElem k a)
  if !es.all s.elemHeld then .fault (pf 2 0) g.pc
  else match s.elemsWhy es with
    | some w => .lock w
    | none => if 4 ≤ s.redvs k then .lock .redv else if es.any (s.elemTraps g) then .fault (pf 3 0) g.pc else .done g.next

/-- The inputs of the tree, read lane by lane. -/
def State.redvRead (s : State) (g : Grp) (k : Nat) (a : VReg) (lanes : List Nat) : List (Option Word) × State :=
  (List.range 32).foldl (fun (r : List (Option Word) × State) l =>
    if lanes.contains l then (r.1 ++ [some (r.2.readElem g (s.redvElem k a l)).1], (r.2.readElem g (s.redvElem k a l)).2)
    else (r.1 ++ [none], r.2)) ([], s)

/-- REDV's result is pending, and NF set where it is to be. -/
def State.redvSettle (s : State) (g : Grp) (k : Nat) (v : Word) (nf : Bool) (es : List Elem) : State :=
  let s := (s.addPend { Pending.empty k with rslt := some v }).settleRows g es
  if nf then s.modWarp k (fun w => { w with nf := true }) else s

/-- REDV done. -/
def redvRun (op : RedOp) (a : VReg) (g : Grp) (s : State) (k : Nat) (lanes : List Nat) : State × Option PFault :=
  let es := lanes.map (s.redvElem k a)
  let r := s.redvRead g k a lanes
  let tree := combTree op r.1 5
  (r.2.redvSettle g k (((tree.getLastD []).headD none).getD 0)
    (redFloat op && !es.any (s.elemEarly g) && tree.flatten.any (fun x => x.any wordNF)) es, none)

theorem exec_redv_eq (c : Ctl) (op : RedOp) (a : VReg) (s : State) : exec (.redv c op a) s = wholeOp c 1 s (redvPlan a) (redvRun op a) := rfl

/-- An input of the tree: a live thread's value. -/
def State.redvIn (s : State) (g : Grp) (k : Nat) (a : VReg) (i : Nat) : Option Word :=
  if i ∈ (s.warp k).liveLanes then some ((s.source g (k, i) (own a)).setWidth 32) else none

/-- A warp as REDV leaves it: without NF and the place of its extended blocks. -/
def Warp.unflagged (w : Warp) : Warp := { w.unplaced with nf := false }

theorem State.redvRead_ripe {s : State} {g : Grp} {k : Nat} {a : VReg} (hripe : ∀ l ∈ (s.warp k).liveLanes, s.elemEarly g (s.redvElem k a l) = false) :
    s.redvRead g k a (s.warp k).liveLanes = ((List.range 32).map (s.redvIn g k a), s) := by
  have hfold : ∀ (ls : List Nat) (xs : List (Option Word)), ls.foldl (fun (r : List (Option Word) × State) l =>
      if (s.warp k).liveLanes.contains l then (r.1 ++ [some (r.2.readElem g (s.redvElem k a l)).1], (r.2.readElem g (s.redvElem k a l)).2)
      else (r.1 ++ [none], r.2)) (xs, s) = (xs ++ ls.map (s.redvIn g k a), s) := by
    intro ls
    induction ls with
    | nil => simp
    | cons l ls ih =>
      intro xs
      rw [List.foldl_cons, List.map_cons, State.redvIn]
      by_cases hl : l ∈ (s.warp k).liveLanes
      · have hword : ((s.source g (k, l) (own a)).setWidth 32) = (s.warp k).elem (rowOf (s.thread k l) a.toNat) l := by
          simp [State.source_own]
        rw [if_pos (by simpa using hl), if_pos hl, State.readElem_ripe (hripe l hl), ih, hword]
        simp [State.redvElem]
      · rw [if_neg (by simpa using hl), if_neg hl, ih]
        simp
  exact hfold _ []

/-- What stands after REDV: its result is pending, NF is set where it is to be, and no warp has changed otherwise. -/
theorem State.redvSettle_spec (s : State) (g : Grp) (k : Nat) (v : Word) (nf : Bool) (es : List Elem) :
    let u := s.redvSettle g k v nf es
    u.pend = s.pend ++ [{ Pending.empty k with rslt := some v, id := s.nextId }] ∧ u.mem = s.mem ∧ u.wgs = s.wgs
      ∧ (∀ j, (u.warp j).unflagged = (s.warp j).unflagged) ∧ ∀ j, (u.warp j).nf = ((s.warp j).nf || (decide (j = k) && nf)) := by
  obtain ⟨hrest, -, hwarp⟩ := State.settleRows_warpsOnly (s.addPend { Pending.empty k with rslt := some v }) g es
  have hkept : ∀ j, (((s.addPend { Pending.empty k with rslt := some v }).settleRows g es).warp j).unplaced = (s.warp j).unplaced := hwarp
  simp only [State.redvSettle]
  generalize (s.addPend { Pending.empty k with rslt := some v }).settleRows g es = u at hrest hkept ⊢
  have hpend := congrArg State.pend hrest
  have hmem := congrArg State.mem hrest
  have hwgs := congrArg State.wgs hrest
  have hnf : ∀ j, (u.warp j).nf = (s.warp j).nf := fun j => (congrArg Warp.nf (hkept j) :)
  have hflag : ∀ j, (u.warp j).unflagged = (s.warp j).unflagged := fun j => congrArg (fun w : Warp => { w with nf := false }) (hkept j)
  cases nf with
  | false => exact ⟨hpend, hmem, hwgs, hflag, fun j => by simp [hnf]⟩
  | true =>
    have hset : ∀ j, (u.modWarp k fun w => { w with nf := true }).warp j = if j = k then { u.warp k with nf := true } else u.warp j := fun j =>
      State.warp_modWarp u j k fun w => { w with nf := true }
    simp only [if_true]
    refine ⟨hpend, hmem, hwgs, fun j => ?_, fun j => ?_⟩
    · rw [hset, ← hflag j]
      split
      · next e => rw [e]; rfl
      · rfl
    · rw [hset]
      by_cases hj : j = k <;> simp [hj, hnf]

/-- REDV of a warp all of whose live threads issue it: the tree's value is pending for RSLT, and the float forms set NF. -/
theorem exec_redv {c : Ctl} {op : RedOp} {a : VReg} {s : State} {g : Grp} {k : Nat} (h : s.issues c 1 g)
    (hacts : g.acts = (s.warp k).liveLanes.map fun l => (k, l)) (ho : ∀ x ∈ g.acts, s.open g (s.rdElems g x (own a)) []) (hroom : s.redvs k < 4) :
    ∃ t v, exec (.redv c op a) s = .next t ∧ s.passed t g (fun _ => g.next) ∧ t.mem = s.mem ∧ t.wgs = s.wgs
      ∧ (∀ j, (t.warp j).still.unflagged = (s.warp j).still.unflagged)
      ∧ (combUp op)^[5] (s.redvIn g k a) 0 = some v ∧ t.pend = s.pend ++ [{ Pending.empty k with rslt := some v, id := s.nextId }]
      ∧ ∀ j, (t.warp j).nf = true ↔ (s.warp j).nf = true ∨ (j = k ∧ redFloat op = true
          ∧ ∃ f ∈ combUps op (s.redvIn g k a) 5, ∃ i < 32, ∃ v, f i = some v ∧ wordNF v = true) := by
  obtain ⟨-, hset, -, -, hne, hissuing⟩ := State.group_some h.1
  have hmem : ∀ l ∈ (s.warp k).liveLanes, (k, l) ∈ g.acts := fun l hl => hacts ▸ List.mem_map_of_mem hl
  have hopen : ∀ l ∈ (s.warp k).liveLanes, s.open g [s.redvElem k a l] [] := fun l hl => ho _ (hmem l hl)
  have hes : ∀ e ∈ (s.warp k).liveLanes.map (s.redvElem k a), s.open g [e] [] := fun e he => by
    obtain ⟨l, hl, rfl⟩ := List.mem_map.mp he
    exact hopen l hl
  have hcalm : s.calm ((s.warp k).liveLanes.map (s.redvElem k a)) := fun e he => (hes e he).1 e (by simp)
  have hripe : s.ripe g ((s.warp k).liveLanes.map (s.redvElem k a)) := fun e he => (hes e he).2.1 e (by simp)
  have hheld : ((s.warp k).liveLanes.map (s.redvElem k a)).all s.elemHeld = true := List.all_eq_true.mpr fun e he => (hes e he).2.2 e (by simp)
  have htraps : ((s.warp k).liveLanes.map (s.redvElem k a)).any (s.elemTraps g) = false :=
    List.any_eq_false.mpr fun e he => by simp [State.elemTraps, hripe e he]
  have hplan : redvPlan a g s k (s.warp k).liveLanes = .done g.next := by
    simp [redvPlan, hheld, State.elemsWhy_calm hcalm, htraps, Nat.not_le.mpr hroom]
  have hlane : ∀ i, 32 ≤ i → s.redvIn g k a i = none := fun i hi => if_neg fun hl => absurd (Warp.mem_liveLanes.mp hl).1 (by omega)
  obtain ⟨v, hv⟩ : ∃ v, (combUp op)^[5] (s.redvIn g k a) 0 = some v := by
    obtain ⟨l, hl⟩ := List.exists_mem_of_ne_nil (s.warp k).liveLanes fun e => hne (by rw [hacts, e]; rfl)
    have hlt := (Warp.mem_liveLanes.mp hl).1
    have hin : (s.redvIn g k a l).isSome = true := by rw [State.redvIn, if_pos hl]; rfl
    have hup := combUp_iterate_isSome (op := op) 5 hin
    rw [show l / 2 ^ 5 = 0 by omega] at hup
    exact Option.isSome_iff_exists.mp hup
  have hlast : ((combTree op ((List.range 32).map (s.redvIn g k a)) 5).getLastD []).headD none = some v :=
    (combTree_last op 5 (s.redvIn g k a)).trans hv
  have hrun : redvRun op a g s k (s.warp k).liveLanes = (s.redvSettle g k v
      (redFloat op && (combTree op ((List.range 32).map (s.redvIn g k a)) 5).flatten.any (fun x => x.any wordNF))
      ((s.warp k).liveLanes.map (s.redvElem k a)), none) := by
    rw [redvRun, State.redvRead_ripe fun l hl => (hopen l hl).2.1 _ (by simp), hlast, State.early_none hripe, Bool.not_false, Bool.and_true]
    rfl
  obtain ⟨hpend, humem, huwgs, hwarp, hnf⟩ := State.redvSettle_spec s g k v
    (redFloat op && (combTree op ((List.range 32).map (s.redvIn g k a)) 5).flatten.any (fun x => x.any wordNF))
    ((s.warp k).liveLanes.map (s.redvElem k a))
  have hbody := wholeBody_gathered hacts hset hne hplan hrun
  generalize s.redvSettle g k v _ _ = u at hpend humem huwgs hwarp hnf hbody
  have hthread : ∀ j l, u.thread j l = s.thread j l := fun j l => (congrArg (Warp.thread · l) (hwarp j) :)
  obtain ⟨t, hexec, ⟨hrest', -, hwarp'⟩, hpassed⟩ := issue_passes (body := wholeBody (redvPlan a) (redvRun op a)) (fun _ => g.next) g.acts h hbody
    (fun _ => Iff.rfl) fun x hx => by rw [hthread]; exact hissuing x hx
  refine ⟨t, v, (exec_redv_eq c op a s).trans hexec, ⟨hpassed.1, fun j l hj => (hpassed.2 j l hj).trans (hthread j l)⟩,
    (congrArg State.mem hrest').trans humem,
    (congrArg State.wgs hrest').trans huwgs, fun j => (congrArg Warp.unflagged (hwarp' j).1).trans (congrArg Warp.still (hwarp j)), hv,
    (congrArg State.pend hrest').trans hpend, fun j => ?_⟩
  have hflag : (t.warp j).nf = (u.warp j).nf := (congrArg Warp.nf (hwarp' j).1 :)
  rw [hflag, hnf, Bool.or_eq_true, Bool.and_eq_true, Bool.and_eq_true, decide_eq_true_eq]
  exact or_congr_right (and_congr_right fun _ => and_congr_right fun _ => combTree_any op wordNF (n := 5) (le_refl 32) hlane)

end Sys2Proof.Machine
end

section
/-! SUPPORT. Cross-lane instructions as the statement has them (R139 to R143). -/
namespace Sys2Proof.Machine

theorem bit_eq_ofNat {b : Bool} {P : Prop} [Decidable P] (h : b = true ↔ P) : bit b = BitVec.ofNat 32 (if P then 1 else 0) := by
  by_cases hP : P
  · rw [if_pos hP, h.mpr hP]; rfl
  · rw [if_neg hP, Bool.eq_false_iff.mpr fun hb => hP (h.mp hb)]; rfl

/-- All values of a list are one where each is its first. -/
theorem all_first_iff {α : Type} (cs : List (α × Word)) (x : α × Word) :
    cs.all (fun v => v.2 == (cs.headD x).2) = true ↔ ∀ v ∈ cs, ∀ w ∈ cs, v.2 = w.2 := by
  simp only [List.all_eq_true, beq_iff_eq]
  refine ⟨fun h v hv w hw => (h v hv).trans (h w hw).symm, fun h v hv => h v hv _ ?_⟩
  cases cs with
  | nil => exact absurd hv List.not_mem_nil
  | cons y ys => exact List.mem_cons_self

/-- The first of two unless the second is less, or unless it is not above. -/
theorem least_choice {α : Type} {i j : α} [LinearOrder α] (x y : Word) : (if j < i then y else x) = if i ≤ j then x else y := by
  by_cases h : j < i
  · rw [if_pos h, if_neg (not_le.mpr h)]
  · rw [if_neg h, if_pos (not_lt.mp h)]

/-- Where a warp looks the same but for NF and the place of its blocks, its rows, tags and RSLT are the same. -/
theorem Warp.unflagged_parts {w x : Warp} (h : w.still.unflagged = x.still.unflagged) :
    w.vreg = x.vreg ∧ w.tags = x.tags ∧ w.rsltv = x.rsltv ∧ w.rsltseq = x.rsltseq :=
  ⟨(congrArg Warp.vreg h :), (congrArg Warp.tags h :), (congrArg Warp.rsltv h :), (congrArg Warp.rsltseq h :)⟩

/-- Settles O11: the bundle's instructions write what the lanes they pick offer; REDV's tree is the rule's, place by place. -/
theorem crossLane : Obligations.CrossLane := by
  unfold Obligations.CrossLane
  refine ⟨fun c s g => ⟨fun p d a b h ho => ?shfl, fun d a h ho => ?bundle⟩, fun c op a s g k h hacts ho hroom => ?redv⟩
  case shfl =>
    obtain ⟨t, hexec, hwrites⟩ := exec_shfl d a b h ho
    exact ⟨t, hexec, by rwa [← (State.group_some h.1).2.1]⟩
  case bundle =>
    intro cs gives
    have vote_of {i f} (v : Nat) (hexec : exec i s = voteOp c d a s f) (hv : f cs = BitVec.ofNat 32 v) : gives i fun _ => v := by
      obtain ⟨t, ht, hwrites⟩ := voteOp_writes d a f v h ho hv
      exact ⟨t, hexec.trans ht, hwrites⟩
    have popx_of {i incl} (p : Nat → Nat → Bool) (hexec : exec i s = popxOp c d a s incl) (hp : ∀ l j, (decide (j < l) || (incl && j == l)) = p l j) :
        gives i fun x => ((cs.filter fun v => p x.2 v.1).map fun v => popcount v.2).sum := by
      obtain ⟨t, ht, hwrites⟩ := popxOp_writes d a incl p h ho hp
      exact ⟨t, hexec.trans ht, hwrites⟩
    obtain ⟨hnodup, hlt⟩ := State.ballots_lanes h a
    change (cs.map Prod.fst).Nodup at hnodup
    change ∀ v ∈ cs, v.1 < 32 at hlt
    clear_value gives cs
    refine ⟨?all, ?any, ?ballot, ?eq, ?incl, ?excl⟩
    case all => exact vote_of _ (show execVoteAll c d a s = _ from rfl) (bit_eq_ofNat (by simp only [List.all_eq_true, bne_iff_ne]))
    case any => exact vote_of _ (show execVoteAny c d a s = _ from rfl) (bit_eq_ofNat (by simp only [List.any_eq_true, bne_iff_ne]))
    case ballot => exact vote_of _ (show execVoteBallot c d a s = _ from rfl) (congrArg _ (sum_ballot cs hnodup hlt))
    case eq => exact vote_of _ (show execVoteEq c d a s = _ from rfl) (bit_eq_ofNat (all_first_iff cs _))
    case incl =>
      refine popx_of (fun l j => decide (j ≤ l)) (show execPopxIncl c d a s = _ from rfl) fun l j => ?_
      rw [Bool.eq_iff_iff]
      simp [Nat.le_iff_lt_or_eq]
    case excl => exact popx_of (fun l j => decide (j < l)) (show execPopxExcl c d a s = _ from rfl) fun l j => by simp
  case redv =>
    intro nan key pick two up x0
    have hkey : key = fKey := funext fun x => (fKey_eq x).symm
    have htwo : ∀ x y, combVal op x y = two x y := fun x y => by
      simp only [two, pick, hkey]
      cases op with
      | add => exact BitVec.eq_of_toNat_eq (by simp [combVal])
      | minS32 => exact least_choice x y
      | minZ32 => exact least_choice x y
      | maxS32 => exact least_choice x y
      | maxZ32 => exact least_choice x y
      | and | or | xor => rfl
      | fadd => exact faddW_eq x y
      | fmin => exact fminW_eq x y
      | fmax => exact fmaxW_eq x y
    have hup : up = combUp op := by
      funext f j
      simp only [up, combUp]
      cases f (2 * j) <;> cases f (2 * j + 1) <;> simp [comb, htwo]
    have hfloat : redFloat op = true ↔ op = .fadd ∨ op = .fmin ∨ op = .fmax := by cases op <;> simp [redFloat]
    obtain ⟨t, v, hexec, hpassed, hmem, hwgs, hwarp, hv, hpend, hnf⟩ := exec_redv (op := op) h hacts ho hroom
    refine ⟨t, hexec, hpassed, fun j row lane _ _ => ?elem, fun j row => ?tag, hmem, hwgs, fun j => ?rslt, ⟨_, hpend, rfl, ?value, rfl, rfl⟩, fun j => ?nf⟩
    case elem => exact congrArg (Table.get · _) (Warp.unflagged_parts (hwarp j)).1
    case tag => exact congrArg (Table.get · row) (Warp.unflagged_parts (hwarp j)).2.1
    case rslt =>
      obtain ⟨-, -, hvalue, hseq⟩ := Warp.unflagged_parts (hwarp j)
      rw [hvalue, hseq]
    case value =>
      rw [hup]
      exact hv.symm
    case nf =>
      rw [hnf, hfloat, hup]
      simp only [wordNF_iff]
      rfl

end Sys2Proof.Machine
end

section
/-! SUPPORT. EXIT (R137): the threads that end, and what was pending into their rows. -/
namespace Sys2Proof.Machine

-- Threads that end (R137) -----------------------------------------------------------------------------------------------------

/-- Nothing is pending into the rows of a thread. -/
def State.dropped (s : State) (a : Nat × Nat) : Prop := ∀ p ∈ s.pend, p.slot = a.1 → ∀ x ∈ p.regs, x.1 % 32 ≠ a.2

/-- A thread that has ended. -/
def Thread.ended (x : Thread) : Thread := { x with st := .exited, why := .nothing }

theorem State.applyFate_exit (s : State) (a : Nat × Nat) :
    s.applyFate (a, .exit) = (s.modThread a.1 a.2 Thread.ended).dropElems a.1 (fun key => key % 32 == a.2) := rfl

theorem State.dropElems_dropped (s : State) (a : Nat × Nat) : (s.dropElems a.1 (fun key => key % 32 == a.2)).dropped a := by
  intro p hp hslot x hx
  obtain ⟨q, -, rfl⟩ := List.mem_map.mp hp
  have hq : q.slot = a.1 := by
    rw [← hslot]
    split <;> rfl
  rw [if_pos (beq_iff_eq.mpr hq)] at hx
  simpa using (List.mem_filter.mp hx).2

theorem State.dropElems_keeps_dropped {s : State} {a : Nat × Nat} (h : s.dropped a) (k : Nat) (drop : Nat → Bool) : (s.dropElems k drop).dropped a := by
  intro p hp hslot x hx
  obtain ⟨q, hq, rfl⟩ := List.mem_map.mp hp
  split at hslot
  · next hk =>
    rw [if_pos hk] at hx
    exact h q hq hslot x (List.mem_filter.mp hx).1
  · next hk =>
    rw [if_neg hk] at hx
    exact h q hq hslot x hx

/-- Threads of a list end. -/
theorem State.foldl_exit (l : List (Nat × Nat)) (s : State) :
    let u := (l.map fun a => (a, Fate.exit)).foldl State.applyFate s
    { u.rest with pend := [] } = { s.rest with pend := [] } ∧ u.quads = s.quads ∧ (∀ k, (u.warp k).still = (s.warp k).still)
      ∧ (∀ a ∈ l, (u.thread a.1 a.2).st = .exited ∧ u.dropped a) ∧ ∀ k i, (k, i) ∉ l → u.thread k i = s.thread k i := by
  induction l using List.reverseRecOn with
  | nil => exact ⟨rfl, rfl, fun _ => rfl, fun a ha => absurd ha List.not_mem_nil, fun _ _ _ => rfl⟩
  | append_singleton l x ih =>
    obtain ⟨hrest, hquads, hwarp, hended, hout⟩ := ih
    rw [List.map_append, List.foldl_append, List.map_singleton, List.foldl_cons, List.foldl_nil, State.applyFate_exit]
    generalize (l.map fun a => (a, Fate.exit)).foldl State.applyFate s = u at *
    have hthread : ∀ k i, ((u.modThread x.1 x.2 Thread.ended).dropElems x.1 (fun key => key % 32 == x.2)).thread k i
        = if k = x.1 ∧ i = x.2 then (u.thread x.1 x.2).ended else u.thread k i := fun k i => State.thread_modThread u k i x.1 x.2 _
    obtain ⟨-, -, hkept⟩ := State.warpsOnly_modWarp u x.1 (f := Warp.still) (φ := fun w => w.modThread x.2 Thread.ended) fun _ => rfl
    refine ⟨hrest, hquads, fun k => (hkept k).trans (hwarp k), fun a ha => ⟨?exited, ?dropped⟩, fun k i hk => ?others⟩
    case exited =>
      rw [hthread]
      split
      · rfl
      · next hne =>
        have ha : a ∈ l := (List.mem_append.mp ha).resolve_right fun e => hne (by rw [List.mem_singleton.mp e]; exact ⟨rfl, rfl⟩)
        exact (hended a ha).1
    case dropped =>
      rcases List.mem_append.mp ha with ha | ha
      · exact State.dropElems_keeps_dropped (s := u.modThread x.1 x.2 Thread.ended) (hended a ha).2 _ _
      · rw [List.mem_singleton.mp ha]
        exact State.dropElems_dropped _ _
    case others =>
      rw [hthread, if_neg, hout k i fun h => hk (List.mem_append_left _ h)]
      rintro ⟨rfl, rfl⟩
      exact hk (List.mem_append_right _ (List.mem_singleton_self _))

theorem Thread.closed_exited {x y : Thread} (h : x.closed y) (hx : x.st = .exited) : y = x := by
  rcases h with rfl | ⟨hst, -⟩
  · rfl
  · rw [hx] at hst; cases hst

/-- The body of EXIT's group, where nothing is outstanding. -/
theorem execExit_eq {c : Ctl} {s : State} {g : Grp} (hbell : c.bell = true) (h : s.issues c 1 g) (hquiet : ∀ a ∈ g.acts, s.quiet a) :
    ∃ r : List (Nat × Nat), (∀ a, a ∈ r ↔ a ∈ g.acts) ∧ exec (.exit c) s = .next (s.finish g (g.acts.map fun a => (a, .exit)))
      ∧ byLane (g.acts.map fun a => (a, Fate.exit)) = r.map fun a => (a, .exit) := by
  obtain ⟨-, -, -, -, hne, -⟩ := State.group_some h.1
  obtain ⟨r, hr, hmem⟩ := byLane_map (fun _ => Fate.exit) g.acts
  refine ⟨r, hmem, ?_, hr⟩
  change execExit c s = _
  rw [execExit, belled_true hbell, issue_eq h, releasing_quiet hne (fun a ha => (h.2.2 a ha).2) hquiet]
  rfl

/-- EXIT while each warp keeps a thread: the threads are EXITED, and what was pending into their rows is gone. -/
theorem exec_exit_kept {c : Ctl} {s : State} {g : Grp} (hbell : c.bell = true) (h : s.issues c 1 g) (hquiet : ∀ a ∈ g.acts, s.quiet a)
    (halive : ∀ a ∈ g.acts, ∃ l < 32, (a.1, l) ∉ g.acts ∧ (s.thread a.1 l).st.alive = true) :
    ∃ t, exec (.exit c) s = .next t ∧ { t.rest with pend := [] } = { s.rest with pend := [] } ∧ (∀ k, (t.warp k).still = (s.warp k).still)
      ∧ (∀ a ∈ g.acts, (t.thread a.1 a.2).st = .exited ∧ t.dropped a) ∧ ∀ k l, (k, l) ∉ g.acts → t.thread k l = s.thread k l := by
  obtain ⟨-, hset, -⟩ := State.group_some h.1
  obtain ⟨r, hmem, hexec, hlanes⟩ := execExit_eq hbell h hquiet
  obtain ⟨hrest, -, hwarp, hended, hout⟩ := State.foldl_exit r s
  have hleft : ∀ k ∈ g.warps, ∃ l < 32, (((r.map fun a => (a, Fate.exit)).foldl State.applyFate s).thread k l).st.alive = true := fun k hk => by
    obtain ⟨a, ha, rfl⟩ := List.mem_map.mp (List.mem_eraseDups.mp hk)
    obtain ⟨l, hl, hnot, hal⟩ := halive a (hset ▸ ha)
    exact ⟨l, hl, by rw [hout a.1 l fun e => hnot ((hmem _).mp e)]; exact hal⟩
  obtain ⟨⟨hrest', -, hwarp'⟩, hclosed, hout'⟩ := State.finish_closes (congrArg (List.foldl State.applyFate s) hlanes) hleft
  refine ⟨_, hexec, (congrArg (fun u : State => { u with pend := [] }) hrest').trans hrest, fun k => (hwarp' k).1.trans (hwarp k), fun a ha => ?_,
    fun k l hk => (hout' k l (hset ▸ hk)).trans (hout k l fun e => hk ((hmem _).mp e))⟩
  obtain ⟨hst, hdrop⟩ := hended a ((hmem a).mpr ha)
  have hpend := congrArg State.pend hrest'
  refine ⟨by rw [Thread.closed_exited (hclosed a.1 a.2) hst]; exact hst, fun p hp => hdrop p (Eq.mp (congrArg (p ∈ ·) hpend) hp)⟩

end Sys2Proof.Machine
end

section
/-! SUPPORT. The end of a warp's last thread (R170): its rosters, its slot, its workgroup and the kernel that counts it. -/
namespace Sys2Proof.Machine

-- The last thread of a warp (R170) ----------------------------------------------------------------------------------------------

/-- Memory and kernels stay, and workgroups keep their number of warps, those retired and their kernel. -/
def State.sameGroups (s t : State) : Prop :=
  t.mem = s.mem ∧ t.kernels = s.kernels
    ∧ ∀ n, (t.wgs.get n).nw = (s.wgs.get n).nw ∧ (t.wgs.get n).retired = (s.wgs.get n).retired ∧ (t.wgs.get n).kernel = (s.wgs.get n).kernel

theorem State.sameGroups_refl (s : State) : s.sameGroups s := ⟨rfl, rfl, fun _ => ⟨rfl, rfl, rfl⟩⟩

theorem State.sameGroups_trans {s t u : State} (h : s.sameGroups t) (i : t.sameGroups u) : s.sameGroups u := by
  obtain ⟨hmem, hkernels, hwgs⟩ := h
  obtain ⟨imem, ikernels, iwgs⟩ := i
  refine ⟨imem.trans hmem, ikernels.trans hkernels, fun n => ?_⟩
  obtain ⟨hnw, hretired, hkernel⟩ := hwgs n
  obtain ⟨inw, iretired, ikernel⟩ := iwgs n
  exact ⟨inw.trans hnw, iretired.trans hretired, ikernel.trans hkernel⟩

theorem State.sameGroups_modWg (s : State) (wg : Nat) {f : Workgroup → Workgroup}
    (hf : ∀ g, (f g).nw = g.nw ∧ (f g).retired = g.retired ∧ (f g).kernel = g.kernel) : s.sameGroups (s.modWg wg f) := by
  refine ⟨rfl, rfl, fun n => ?_⟩
  rw [State.wgs_get_modWg]
  split
  · next e => rw [e]; exact hf _
  · exact ⟨rfl, rfl, rfl⟩

theorem State.sameGroups_modRoster (s : State) (wg r : Nat) (f : Roster → Roster) : s.sameGroups (s.modRoster wg r f) :=
  s.sameGroups_modWg wg fun _ => ⟨rfl, rfl, rfl⟩

theorem State.sameGroups_modMatrix (s : State) (core m : Nat) (f : MCtx → MCtx) : s.sameGroups (s.modMatrix core m f) :=
  ⟨rfl, rfl, fun _ => ⟨rfl, rfl, rfl⟩⟩

theorem State.unbind_sameGroups (s : State) (wg r : Nat) : s.sameGroups (s.unbind wg r) := by
  unfold State.unbind
  dsimp only
  split
  · exact s.sameGroups_refl
  · refine State.sameGroups_trans ?_ (State.sameGroups_modMatrix ..)
    refine State.sameGroups_trans ?_ (State.sameGroups_modRoster ..)
    exact ⟨rfl, rfl, fun _ => ⟨rfl, rfl, rfl⟩⟩

theorem State.disuse_sameGroups (s : State) (wg r : Nat) : s.sameGroups (s.disuse wg r) := by
  unfold State.disuse
  split
  · exact State.sameGroups_trans (s.unbind_sameGroups wg r) (State.sameGroups_modRoster ..)
  · exact s.sameGroups_refl

theorem State.callEnd_sameGroups (s : State) (wg r : Nat) : s.sameGroups (s.callEnd wg r) := by
  obtain ⟨-, -, hwgs⟩ := State.sameGroups_trans (s.sameGroups_modRoster wg r Roster.called) (State.sameGroups_modWg _ wg
    (f := fun g => { g with unready := g.unready.map (shareTiles (s.roster wg r).members) }) fun _ => ⟨rfl, rfl, rfl⟩)
  exact ⟨rfl, rfl, hwgs⟩

/-- A warp leaves a roster of a workgroup whose store buffers are not held. -/
theorem State.leave_sameGroups {s : State} {wg : Nat} (h : (s.kernel (s.wgs.get wg).kernel).repeatable = false) (r w : Nat) :
    s.sameGroups (s.leave wg r w) := by
  unfold State.leave
  split
  · exact s.sameGroups_refl
  · have hleft := s.sameGroups_modRoster wg r fun x => { x with members := x.members &&& ~~~(BitVec.ofNat 32 (2 ^ w)) }
    generalize s.modRoster wg r _ = u at hleft ⊢
    have hplain : (u.kernel (u.wgs.get wg).kernel).repeatable = false := by
      obtain ⟨-, hkernels, hwgs⟩ := hleft
      rw [State.kernel, hkernels, (hwgs wg).2.2]
      exact h
    rw [State.completionTest_eq fun _ => hplain]
    refine State.sameGroups_trans hleft ?_
    split
    · exact State.sameGroups_trans (u.callEnd_sameGroups wg r) (State.disuse_sameGroups ..)
    · exact u.disuse_sameGroups wg r

theorem State.leaves_sameGroups {s : State} {wg : Nat} (h : (s.kernel (s.wgs.get wg).kernel).repeatable = false) (w : Nat) (rs : List Nat) :
    s.sameGroups (rs.foldl (fun s r => s.leave wg r w) s) := by
  induction rs generalizing s with
  | nil => exact s.sameGroups_refl
  | cons r rs ih =>
    have hleft := State.leave_sameGroups h r w
    refine State.sameGroups_trans hleft (ih ?_)
    obtain ⟨-, hkernels, hwgs⟩ := hleft
    rw [State.kernel, hkernels, (hwgs wg).2.2]
    exact h

theorem State.drainReds_none {s : State} {slot : Nat} (h : s.kreqs.all (fun r => r.slot != slot) = true) (ls : List Nat) :
    ls.foldl (fun s l => s.drainReds slot l) s = s := by
  induction ls with
  | nil => rfl
  | cons l ls ih =>
    have hnone : s.kreqs.filter (fun r => r.slot == slot && r.lane == l) = [] := List.filter_eq_nil_iff.mpr fun r hr => by
      have hne := List.all_eq_true.mp h r hr
      rw [bne_iff_ne] at hne
      simp [hne]
    rw [List.foldl_cons, State.drainReds, hnone, List.foldl_nil, ih]

/-- The kernel counts a workgroup that has completed, and it is no longer listed. -/
theorem State.completeWg_counts {s : State} {wg : Nat} (h : (s.kernel (s.wgs.get wg).kernel).repeatable = false) :
    let t := s.completeWg wg
    t.warps = s.warps ∧ t.wgs.find wg = none ∧ t.mem = s.mem
      ∧ (t.kernel (s.wgs.get wg).kernel).completed = (s.kernel (s.wgs.get wg).kernel).completed + 1 := by
  generalize hk : (s.wgs.get wg).kernel = k at h ⊢
  have hcommit : s.lastCommit wg = (true, s) := by simp [State.lastCommit, hk, h]
  have hprogress : ∀ u : State, (u.kernelProgress k).warps = u.warps ∧ (u.kernelProgress k).wgs = u.wgs ∧ (u.kernelProgress k).mem = u.mem
      ∧ ((u.kernelProgress k).kernel k).completed = (u.kernel k).completed := fun u => by
    unfold State.kernelProgress
    dsimp only
    split
    · exact ⟨rfl, rfl, rfl, by rw [State.kernel_modKernel, if_pos rfl]⟩
    · exact ⟨rfl, rfl, rfl, rfl⟩
  have hcount : ∀ u : State, ((u.modKernel k fun r => { r with completed := r.completed + 1 }).kernel k).completed = (u.kernel k).completed + 1 :=
    fun u => by rw [State.kernel_modKernel, if_pos rfl]
  have hmark : ∃ u : State, u.warps = s.warps ∧ u.mem = s.mem ∧ (u.kernel k).completed = (s.kernel k).completed
      ∧ s.completeWg wg = ((u.modKernel k fun r => { r with completed := r.completed + 1 }).freeWg wg).kernelProgress k := by
    unfold State.completeWg
    simp only [hk, hcommit, h, Bool.false_and, Bool.not_true, Bool.false_eq_true, if_false]
    refine ⟨_, ?_, ?_, ?_, rfl⟩
    · split <;> rfl
    · split <;> rfl
    · split
      · rw [State.kernel_modKernel, if_pos rfl]
      · rfl
  obtain ⟨u, hwarps, hmem, hcompleted, heq⟩ := hmark
  obtain ⟨pwarps, pwgs, pmem, pcompleted⟩ := hprogress ((u.modKernel k fun r => { r with completed := r.completed + 1 }).freeWg wg)
  have hfree := (u.modKernel k fun r => { r with completed := r.completed + 1 }).freeWg_eq wg
  have hfreed : ((u.modKernel k fun r => { r with completed := r.completed + 1 }).freeWg wg).kernel k
      = (u.modKernel k fun r => { r with completed := r.completed + 1 }).kernel k := by rw [hfree]; rfl
  rw [heq]
  refine ⟨pwarps.trans (by rw [hfree]; exact hwarps), ?_, pmem.trans (by rw [hfree]; exact hmem), ?_⟩
  · rw [pwgs, hfree]
    exact (Table.find_erase ..).trans (if_pos rfl)
  · rw [pcompleted, hfreed, hcount, hcompleted]

theorem popcount_one_bit {w : Nat} (h : w < 32) : popcount (0 ||| BitVec.ofNat 32 (2 ^ w)) = 1 := by
  have hall : ∀ w < 32, popcount (0 ||| BitVec.ofNat 32 (2 ^ w)) = 1 := by decide
  exact hall w h

/-- The only warp of a workgroup retires: its slot is free, the workgroup completes, and its kernel counts it. -/
theorem State.retire_last {s : State} {k : Nat} (hkreqs : s.kreqs.all (fun r => r.slot != k) = true) (hnw : (s.wgOf k).nw = 1)
    (hnone : (s.wgOf k).retired = 0) (hwid : (s.warp k).wid < 32) (hplain : (s.kernelOf k).repeatable = false) :
    let t := s.retire k
    t.warps.find k = none ∧ t.wgs.find (s.warp k).wg = none ∧ t.mem = s.mem
      ∧ (t.kernel (s.wgOf k).kernel).completed = (s.kernelOf k).completed + 1 := by
  obtain ⟨hmem, hkernels, hwgs⟩ := State.leaves_sameGroups (wg := (s.warp k).wg) hplain (s.warp k).wid (List.range 16)
  obtain ⟨hnw', hretired', hkernel'⟩ := hwgs (s.warp k).wg
  unfold State.retire
  simp only [State.drainReds_none hkreqs]
  generalize (List.range 16).foldl (fun t r => t.leave (s.warp k).wg r (s.warp k).wid) s = u at *
  generalize hv : u.modWg (s.warp k).wg _ = v
  have hgroup : ((v.clearSlot k).wgs.get (s.warp k).wg).retired = 0 ||| BitVec.ofNat 32 (2 ^ (s.warp k).wid)
      ∧ ((v.clearSlot k).wgs.get (s.warp k).wg).nw = 1 ∧ ((v.clearSlot k).wgs.get (s.warp k).wg).kernel = (s.wgOf k).kernel := by
    rw [show (v.clearSlot k).wgs = v.wgs from rfl, ← hv, State.wgs_get_modWg, if_pos rfl]
    exact ⟨by rw [hretired']; exact congrArg (· ||| _) hnone, hnw'.trans hnw, hkernel'⟩
  obtain ⟨hretired, hone, hkernel⟩ := hgroup
  have hended : ((v.clearSlot k).wgs.get (s.warp k).wg).ended = true := by
    rw [Workgroup.ended, hretired, hone, popcount_one_bit hwid]
    rfl
  have hfree : (v.clearSlot k).warps.find k = none := (Table.find_erase ..).trans (if_pos rfl)
  have hmemory : (v.clearSlot k).mem = s.mem := by rw [← hmem, ← hv]; rfl
  have hkept : ∀ j, (v.clearSlot k).kernel j = s.kernel j := fun j => by rw [State.kernel, State.kernel, ← hkernels, ← hv]; rfl
  rw [if_pos hended]
  obtain ⟨twarps, twgs, tmem, tcompleted⟩ := State.completeWg_counts (s := v.clearSlot k) (wg := (s.warp k).wg) (by rw [hkernel, hkept]; exact hplain)
  rw [hkernel, hkept] at tcompleted
  exact ⟨by rw [twarps]; exact hfree, twgs, tmem.trans hmemory, tcompleted⟩

/-- After its fates a group closes its bundle or not, and then its warps without threads retire. -/
theorem State.finish_retires {s u : State} {g : Grp} {fs : List ((Nat × Nat) × Fate)} (hfs : (byLane fs).foldl State.applyFate s = u) :
    ∃ v, s.finish g fs = g.warps.foldl State.retireIfDead v ∧ u.still v ∧ ∀ k l, (u.thread k l).closed (v.thread k l) := by
  simp only [State.finish, hfs]
  split
  · exact ⟨u, rfl, u.still_refl, fun _ _ => .inl rfl⟩
  · generalize hw : u.modQuad g.q _ = w
    have hstill : u.still w := hw ▸ State.still_modQuad u g.q _ fun _ => rfl
    have hsame : ∀ k l, w.thread k l = u.thread k l := fun _ _ => hw ▸ rfl
    split
    · obtain ⟨hclose, hclosed, -⟩ := State.closeBundle_spec w g
      exact ⟨_, rfl, State.still_trans hstill hclose, fun k l => hsame k l ▸ hclosed k l⟩
    · exact ⟨w, rfl, hstill, fun k l => .inl (hsame k l)⟩

theorem Thread.closed_dead {x y : Thread} (h : x.closed y) (hx : x.st.alive = false) : y.st.alive = false := by
  rcases h with rfl | ⟨hst, -⟩
  · exact hx
  · rw [hst] at hx; cases hx

theorem Table.get_of_find_none {α : Type} [Inhabited α] {t : Table α} {k : Nat} (h : Table.find t k = none) : Table.get t k = default := by
  induction t with
  | nil => rfl
  | cons e t ih =>
    rw [Table.find] at h
    rw [Table.get]
    split at h
    · cases h
    · next hk => rw [if_neg hk]; exact ih h

/-- A warp that holds a thread, none of them alive, retires. -/
theorem State.retireIfDead_dead {s : State} {k l : Nat} (hheld : (s.thread k l).st = .exited) (hdead : ∀ j < 32, (s.thread k j).st.alive = false) :
    s.retireIfDead k = s.retire k := by
  unfold State.retireIfDead
  cases hfind : s.warps.find k with
  | none =>
    have hget : s.warp k = default := Table.get_of_find_none hfind
    rw [State.thread, hget] at hheld
    cases hheld
  | some w =>
    have hw : s.warp k = w := Table.get_of_find hfind
    have hempty : w.aliveLanes = [] := List.filter_eq_nil_iff.mpr fun j hj => by
      have := hdead j (List.mem_range.mp hj)
      rw [State.thread, hw] at this
      rw [this]
      exact Bool.false_ne_true
    simp only [hempty, List.isEmpty_nil, if_true]

/-- EXIT of the last thread of the only warp of a workgroup. -/
theorem exec_exit_last {c : Ctl} {s : State} {g : Grp} {k l : Nat} (hbell : c.bell = true) (h : s.issues c 1 g) (hacts : g.acts = [(k, l)])
    (hkreqs : s.kreqs.all (fun r => r.slot != k) = true) (hremote : s.hasRemote k l = false)
    (hdead : ∀ j < 32, j ≠ l → (s.thread k j).st.alive = false) (hnw : (s.wgOf k).nw = 1) (hnone : (s.wgOf k).retired = 0)
    (hwid : (s.warp k).wid < 32) (hplain : (s.kernelOf k).repeatable = false) :
    ∃ t, exec (.exit c) s = .next t ∧ t.warps.find k = none ∧ t.wgs.find (s.warp k).wg = none
      ∧ (t.kernel (s.wgOf k).kernel).completed = (s.kernelOf k).completed + 1 ∧ t.mem = s.mem := by
  obtain ⟨-, hset, -⟩ := State.group_some h.1
  have hquiet : ∀ a ∈ g.acts, s.quiet a := fun a ha => by
    rw [hacts] at ha
    obtain rfl := List.mem_singleton.mp ha
    refine ⟨List.all_eq_true.mpr fun r hr => ?_, hremote⟩
    have hne := List.all_eq_true.mp hkreqs r hr
    rw [bne_iff_ne] at hne
    simp [hne]
  obtain ⟨r, hmem, hexec, hlanes⟩ := execExit_eq hbell h hquiet
  obtain ⟨hrest, -, hwarp, hended, hout⟩ := State.foldl_exit r s
  obtain ⟨v, hfinish, ⟨hrest', -, hwarp'⟩, hclosed⟩ := State.finish_retires (g := g) (congrArg (List.foldl State.applyFate s) hlanes)
  generalize (r.map fun a => (a, Fate.exit)).foldl State.applyFate s = u at hrest hwarp hended hout hrest' hwarp' hclosed
  have hexited : (v.thread k l).st = .exited := by
    obtain ⟨hst, -⟩ := hended (k, l) ((hmem _).mpr (by rw [hacts]; exact List.mem_singleton_self _))
    rw [Thread.closed_exited (hclosed k l) hst]
    exact hst
  have hdead' : ∀ j < 32, (v.thread k j).st.alive = false := fun j hj => by
    by_cases hjl : j = l
    · rw [hjl, hexited]; rfl
    · refine Thread.closed_dead (hclosed k j) ?_
      rw [hout k j fun e => ?_]
      · exact hdead j hj hjl
      · rw [hmem, hacts, List.mem_singleton] at e
        exact hjl (congrArg Prod.snd e)
  have hwarps : g.warps = [k] := by rw [Grp.warps, hset, hacts]; rfl
  have hpart : { v.rest with pend := [] } = { s.rest with pend := [] } := (congrArg (fun u : State => { u with pend := [] }) hrest').trans hrest
  have hwgs : v.wgs = s.wgs := (congrArg State.wgs hpart :)
  have hkernels : v.kernels = s.kernels := (congrArg State.kernels hpart :)
  have hmemory : v.mem = s.mem := (congrArg State.mem hpart :)
  have hreqs : v.kreqs = s.kreqs := (congrArg State.kreqs hpart :)
  have hstill : (v.warp k).still = (s.warp k).still := (hwarp' k).1.trans (hwarp k)
  have hwg : (v.warp k).wg = (s.warp k).wg := (congrArg Warp.wg hstill :)
  have hid : (v.warp k).wid = (s.warp k).wid := (congrArg Warp.wid hstill :)
  have hwgOf : v.wgOf k = s.wgOf k := by rw [State.wgOf, State.wgOf, hwg, hwgs]
  have hkernelOf : v.kernelOf k = s.kernelOf k := by rw [State.kernelOf, State.kernelOf, hwgOf, State.kernel, State.kernel, hkernels]
  obtain ⟨twarps, twgs, tmem, tcompleted⟩ := State.retire_last (s := v) (k := k) (by rw [hreqs]; exact hkreqs) (by rw [hwgOf]; exact hnw)
    (by rw [hwgOf]; exact hnone) (by rw [hid]; exact hwid) (by rw [hkernelOf]; exact hplain)
  rw [hwgOf, hkernelOf] at tcompleted
  rw [hwg] at twgs
  refine ⟨v.retire k, ?_, twarps, twgs, tcompleted, tmem.trans hmemory⟩
  rw [hexec, hfinish, hwarps, List.foldl_cons, List.foldl_nil, State.retireIfDead_dead hexited hdead']

/-- Settles O10: threads end one after another; then each warp keeps a thread, or the last of its workgroup retires. -/
theorem threadsExit : Obligations.ThreadsExit := by
  unfold Obligations.ThreadsExit
  exact ⟨fun _ _ _ hbell h hquiet halive => exec_exit_kept hbell h hquiet halive,
    fun _ _ _ _ _ hbell h hacts hkreqs hremote hdead hnw hnone hwid hplain =>
      exec_exit_last hbell h hacts hkreqs hremote hdead hnw hnone hwid hplain⟩

end Sys2Proof.Machine
end

section
/-! SUPPORT. The floating-point instructions (R148 to R159): each is a register operation of fixed latency whose function on the sources, with
its NF, is the rule's. -/
namespace Sys2Proof.Machine

-- The functions in the words of the rules -----------------------------------------------------------------------------------

theorem fcmpWord_eq (x y : Num) : fcmpWord x y = if x = .nan ∨ y = .nan then 2 else if x.lt y then 0xFFFFFFFF else if y.lt x then 1 else 0 := by
  simp only [fcmpWord, Bool.or_eq_true, decide_eq_true_eq]
  rfl

theorem canonNan_eq (x : Word) : canonNan x = if f32 x = .nan then (0x7FC00000 : Word) else x := rfl

/-- The range of the 32-bit integers, signed or not, by its least number (R157). -/
theorem clampInt_range (f : CvtFmt) (md : Mode) (x : Num) :
    (if f = .s32 then clampInt md x (-(2 ^ 31)) (2 ^ 31 - 1) else clampInt md x 0 (2 ^ 32 - 1))
      = clampInt md x (if f = .s32 then -(2 ^ 31) else 0) ((if f = .s32 then -(2 ^ 31) else 0) + (2 ^ 32 - 1)) := by
  split
  · exact congrArg (clampInt md x _) (by norm_num)
  · rw [Int.zero_add]

/-- NF of the two halves is that of the low half or of the high half. -/
theorem nfOf_halves (x y z r : Nat → Num) (acc : Bool) :
    nfOf (([x 0, x 1, y 0, y 1] ++ if acc then [z 0, z 1] else []) ++ [r 0, r 1])
      = (List.range 2).any fun h => nfOf ([x h, y h, r h] ++ if acc then [z h] else []) := by
  cases acc <;> simp [nfOf, List.range_succ, Bool.or_assoc, Bool.or_comm, Bool.or_left_comm]

/-- A signed byte as an integer. -/
theorem sx_byte {x : Nat} (hx : x < 2 ^ 8) : sx 8 x = if x < 128 then (x : Int) else (x : Int) - 256 := by
  rw [sx, Nat.mod_eq_of_lt hx]
  by_cases h : x < 128
  · rw [if_pos (by omega), if_pos h]
  · rw [if_neg (by omega), if_neg h]; rfl

/-- Settles O5: each instruction rounds what its rule says exactly, or picks a source or a comparison's word. -/
theorem floatArithmetic : Obligations.FloatArithmetic := by
  unfold Obligations.FloatArithmetic
  intro c p d a b two choice
  have two_of {i f} (hexec : ∀ s, exec i s = fp2 c p d a b s f) : two i f := computesFp_fpOp 6 hexec
  have choice_of {i f h} (hexec : ∀ s, exec i s = fpPick c p d a b s f) (hval : ∀ x y, f x y = h x y) : choice i h := by
    obtain rfl : f = h := funext₂ hval
    exact computesFp_fpOp 6 hexec
  clear_value two choice
  refine ⟨?add, ?sub, ?mul, ?fma, ?min, ?max, ?cmp, ?scl⟩
  case add => exact two_of fun s => show execFadd c p d a b s = _ from rfl
  case sub => exact two_of fun s => show execFsub c p d a b s = _ from rfl
  case mul => exact two_of fun s => show execFmul c p d a b s = _ from rfl
  case fma => exact computesFp_fpOp 6 fun s => show execFfma c p d a b s = _ from rfl
  case min => exact choice_of (fun s => show execFmin c p d a b s = _ from rfl) fun _ _ => rfl
  case max => exact choice_of (fun s => show execFmax c p d a b s = _ from rfl) fun _ _ => rfl
  case cmp => exact choice_of (fun s => show execFcmp c p d a b s = _ from rfl) fun x y => fcmpWord_eq (f32 x) (f32 y)
  case scl => exact computesFp_fpOp 6 fun s => show execFscl c p d a b s = _ from rfl

/-- Settles O6: a function of one source gives its value and the value's NF; FCVT goes by whether the format is an integer's. -/
theorem floatFunctions : Obligations.FloatFunctions := by
  unfold Obligations.FloatFunctions
  intro c p d a one canon
  have one_of {i nd f h} (lat : Nat) (hexec : ∀ s, exec i s = fpFun c p lat nd d a s f) (hval : ∀ q md x, f q md x = h q md x) : one i nd h := by
    obtain rfl : f = h := funext fun q => funext₂ (hval q)
    exact computesFp_fpOp lat hexec
  have hcanon : ∀ x, canonNan x = canon x := canonNan_eq
  clear_value one canon
  refine ⟨?abs, ?neg, ?rnd, ?rcp, ?rsq, ?sqrt, ?exp2, ?log2, ?cls, fun f k => ?cvt⟩
  case abs => exact one_of 6 (fun s => show execFabs c p d a s = _ from rfl) fun _ _ x => hcanon (x &&& 0x7FFFFFFF)
  case neg => exact one_of 6 (fun s => show execFneg c p d a s = _ from rfl) fun _ _ x => hcanon (x ^^^ 0x80000000)
  case rnd => exact one_of 6 (fun s => show execFrnd c p d a s = _ from rfl) fun _ _ _ => rfl
  case rcp => exact one_of 12 (fun s => show execFrcp c p d a s = _ from rfl) fun _ _ _ => rfl
  case rsq => exact one_of 12 (fun s => show execFrsq c p d a s = _ from rfl) fun _ _ _ => rfl
  case sqrt => exact one_of 12 (fun s => show execFsqrt c p d a s = _ from rfl) fun _ _ _ => rfl
  case exp2 => exact one_of 12 (fun s => show execFexp2 c p d a s = _ from rfl) fun _ _ _ => rfl
  case log2 => exact one_of 12 (fun s => show execFlog2 c p d a s = _ from rfl) fun _ _ _ => rfl
  case cls => exact computesFp_fpOp 6 fun s => show execFclass c p d a s = _ from rfl
  case cvt =>
    cases hfmt : cvtFmt f with
    | some m =>
      refine ⟨computesFp_fpOp 6 fun s => ?_, computesFp_fpOp 6 fun s => ?_⟩
      · change execFcvtToFormat c p f k d a s = _
        rw [execFcvtToFormat, hfmt]
      · change execFcvtToF32 c p f k d a s = _
        rw [execFcvtToF32, hfmt]
    | none =>
      refine ⟨computesFp_fpOp 6 fun s => ?_, computesFp_fpOp 6 fun s => ?_⟩
      · change execFcvtToFormat c p f k d a s = _
        simp only [execFcvtToFormat, hfmt, clampInt_range]
      · change execFcvtToF32 c p f k d a s = _
        rw [execFcvtToF32, hfmt]

/-- Settles O7: the packed forms round half by half, and NF is that of either half; the dots decode their four elements byte by byte. -/
theorem floatPacked : Obligations.FloatPacked := by
  unfold Obligations.FloatPacked
  intro c p d a b halves dot
  have halves_of {i m acc f} (hexec : ∀ s, exec i s = fpHalves c p m acc d a b s f) : halves i m acc f := by
    refine computesFp_fpOp 6 fun s => (hexec s).trans (congrArg (fpOp c p 6 2 _ d s) ?_)
    funext q md vs
    have hnf (x y z : Word) := nfOf_halves (half m · x) (half m · y) (half m · z)
      (fun h => m.decode (m.round (md h) q.sat (f (md h == .rdn) (half m h x) (half m h y) (half m h z)))) acc
    exact Prod.ext rfl (hnf _ _ _)
  have dot_of {i e e'} (hexec : ∀ s, exec i s = fpDot c p d a b s e) (helem : ∀ x < 2 ^ 8, e x = e' x) : dot i e' := by
    have hbytes : ∀ (x : Word) k, e (bf x (8 * k) 8) = e' (x.toNat / 2 ^ (8 * k) % 2 ^ 8) := fun x k => helem _ (Nat.mod_lt _ (by norm_num))
    refine computesFp_fpOp 6 fun s => (hexec s).trans ?_
    simp only [fpDot, hbytes]
    rfl
  clear_value halves dot
  refine ⟨?addF16, ?addBf16, ?mulF16, ?mulBf16, ?fmaF16, ?fmaBf16, ?e4m3, ?e5m2, ?s8⟩
  case addF16 => exact halves_of fun s => show execHadd2F16 c p d a b s = _ from rfl
  case addBf16 => exact halves_of fun s => show execHadd2Bf16 c p d a b s = _ from rfl
  case mulF16 => exact halves_of fun s => show execHmul2F16 c p d a b s = _ from rfl
  case mulBf16 => exact halves_of fun s => show execHmul2Bf16 c p d a b s = _ from rfl
  case fmaF16 => exact halves_of fun s => show execHfma2F16 c p d a b s = _ from rfl
  case fmaBf16 => exact halves_of fun s => show execHfma2Bf16 c p d a b s = _ from rfl
  case e4m3 => exact dot_of (fun s => show execDot4E4m3 c p d a b s = _ from rfl) fun _ _ => rfl
  case e5m2 => exact dot_of (fun s => show execDot4E5m2 c p d a b s = _ from rfl) fun _ _ => rfl
  case s8 => exact dot_of (fun s => show execDot4S8 c p d a b s = _ from rfl) fun _ hx => congrArg Num.ofInt (sx_byte hx)

end Sys2Proof.Machine
end

section
/-! SUPPORT. Why QPACK does not always leave the threads that are not live as they were: under .sr each of the 32 lanes' counters takes the
draws of the blocks, whether or not the lane's thread is live (R164). -/
namespace Sys2Proof.Machine

/-- Warp slot 0 with a live thread in lane 0, whose quadrant is focused, and a thread in its trap handler in lane 1. -/
def besideTrapped : State :=
  { State.reset.placeThread with focus := 0 }.modWarp 0 fun w =>
    { w with threads := w.threads.put 1 { (default : Thread) with pc := 0x10100, wb := 16, st := .ready, tmode := true } }

/-- The group of one word that lane 0 issues. -/
def besideTrappedGrp : Grp := ⟨0, [(0, 0)], [(0, 0)], 0x10000, 1, ⟨false, 0⟩, 0⟩

theorem besideTrapped_issues : besideTrapped.issues ⟨false, 0⟩ 1 besideTrappedGrp ∧ besideTrapped.whole besideTrappedGrp 0 := by
  simp only [State.issues, State.whole]
  decide +kernel

/-- The four rows from v20 on and the row v8 may be read and written. -/
theorem besideTrapped_rows : besideTrapped.rowsOpen besideTrappedGrp 0 ((List.range 4).map fun j => besideTrapped.rowAt 0 (20 + j))
    ((List.range 1).map fun j => besideTrapped.rowAt 0 (8 + j)) := by
  simp only [State.rowsOpen]
  decide +kernel

/-- QPACK of four blocks of zeros under .sr takes four draws on lane 1's counter, which stood at 0. -/
theorem exec_qpack_besideTrapped : (besideTrapped.thread 0 1).draw = 0
    ∧ (match exec (.qpack ⟨false, 0⟩ .e4m3 .fit .sr 8 20) besideTrapped with
      | .next t => (t.thread 0 1).draw
      | _ => 0) = 4 := by
  decide +kernel

/-- Refutes O12: in `besideTrapped`, QPACK under .sr advances the draw counter of lane 1, whose thread is in trap mode and so no part of the
group (R118, R164). It turns on `State.passed`, which keeps every thread outside the group whole; where a live warp has a lane without a live
thread, that contradicts the draws of all 32 lanes, which the statement asks for as well. -/
theorem not_blockInstructions : ¬ Obligations.BlockInstructions := by
  unfold Obligations.BlockInstructions
  intro h
  obtain ⟨hissues, hwhole⟩ := besideTrapped_issues
  obtain ⟨-, -, -, -, hqpack, -⟩ := h ⟨false, 0⟩ 8 20 besideTrapped besideTrappedGrp 0 hissues hwhole
  obtain ⟨t, hexec, -, ⟨-, hothers⟩, -⟩ := hqpack .e4m3 .fit .sr besideTrapped_rows
  obtain ⟨hbefore, hafter⟩ := exec_qpack_besideTrapped
  rw [hexec] at hafter
  have hkept : t.thread 0 1 = besideTrapped.thread 0 1 := hothers 0 1 (by decide)
  exact absurd ((hafter.symm.trans (congrArg Thread.draw hkept)).trans hbefore) (by decide)

end Sys2Proof.Machine
end

section
/-! SUPPORT. A store of a thread at its home (R190, R196, R197, R200, R245): the caches and cells it passes through, and that it changes the bytes
it stores and what an access may change, where it wakes nobody and meets nothing that the device keeps in memory. -/
namespace Sys2Proof.Machine

-- Caches and Kettle cells (R190, R245, R246) ---------------------------------------------------------------------------

/-- Nothing changes but what the caches and Kettle cells of half-dies hold, and the count of free choices. -/
def State.cachesOnly (s t : State) : Prop := t = { s with halves := t.halves, fresh := t.fresh } ∧ ∀ h, (t.half h).rest = (s.half h).rest

theorem State.cachesOnly_refl (s : State) : s.cachesOnly s := ⟨rfl, fun _ => rfl⟩
theorem State.cachesOnly_trans {s t u : State} (h : s.cachesOnly t) (i : t.cachesOnly u) : s.cachesOnly u :=
  ⟨i.1.trans (by rw [h.1]), fun j => (i.2 j).trans (h.2 j)⟩

theorem State.cachesOnly_modHalf (s : State) (k : Nat) {f : HalfDie → HalfDie} (hf : ∀ x, (f x).rest = x.rest) : s.cachesOnly (s.modHalf k f) :=
  ⟨rfl, fun j => s.half_rest_modHalf j k hf⟩

theorem State.useL2_cachesOnly (s : State) (n : Nat) (dirty : Bool) : s.cachesOnly (s.useL2 n dirty) :=
  ⟨s.useL2_eq n dirty, s.useL2_half_rest n dirty⟩

theorem State.homeLine_cachesOnly (s : State) (n : Nat) : s.cachesOnly (s.homeLine n) :=
  State.cachesOnly_trans (s.cachesOnly_modHalf _ (f := fun x => { x with cells := x.cells.filter (· ≠ n) }) fun _ => rfl)
    (State.useL2_cachesOnly ..)

/-- A bank that takes a line sends at most one other line home. -/
theorem State.takeCell_cachesOnly (s : State) (n : Nat) : s.cachesOnly (s.takeCell n) := by
  unfold State.takeCell
  refine State.cachesOnly_trans ?_ (State.cachesOnly_modHalf _ _
    (f := fun x => { x with cells := n :: x.cells.filter (· ≠ n), spilled := x.spilled.filter (· ≠ n) }) fun _ => rfl)
  split
  · next m _ =>
    split
    · exact State.cachesOnly_trans (s.homeLine_cachesOnly m)
        (State.cachesOnly_modHalf _ _ (f := fun x => { x with spilled := m :: x.spilled }) fun _ => rfl)
    · exact s.homeLine_cachesOnly m
  · exact s.cachesOnly_refl

-- What an access changes outside warps --------------------------------------------------------------------------------

/-- What an access that returns nothing may change, warps aside. -/
structure State.accessed (s t : State) : Prop where
  rest : t.rest1 = s.rest1
  half : ∀ h, (t.half h).rest = (s.half h).rest
  core : ∀ j, { (t.core j) with l1 := [], copies := [] } = { (s.core j) with l1 := [], copies := [] }
  wg : ∀ j, { (t.wgs.get j) with unready := [] } = { (s.wgs.get j) with unready := [] }
  ready : s.allReady = true → t.wgs = s.wgs
  cluster : ∀ j, { (t.cluster j) with tlb := [] } = { (s.cluster j) with tlb := [] }
  quad : ∀ q, { (t.quad q).rest with lpr := [] } = { (s.quad q).rest with lpr := [] }
  warps : t.warps = s.warps
  pend : t.pend = s.pend

theorem State.accessed_refl (s : State) : s.accessed s :=
  ⟨rfl, fun _ => rfl, fun _ => rfl, fun _ => rfl, fun _ => rfl, fun _ => rfl, fun _ => rfl, rfl, rfl⟩
theorem State.accessed_trans {s t u : State} (h : s.accessed t) (i : t.accessed u) : s.accessed u where
  rest := i.rest.trans h.rest
  half j := (i.half j).trans (h.half j)
  core j := (i.core j).trans (h.core j)
  wg j := (i.wg j).trans (h.wg j)
  ready hs := (i.ready (by rwa [State.allReady, h.ready hs])).trans (h.ready hs)
  cluster j := (i.cluster j).trans (h.cluster j)
  quad q := (i.quad q).trans (h.quad q)
  warps := i.warps.trans h.warps
  pend := i.pend.trans h.pend

/-- Memory, its sidebands and the words that hold no definite entries may change so. -/
theorem State.accessed_memory (s : State) (mem side : Memory) (loose : List Nat) : s.accessed { s with mem, side, loose } :=
  ⟨rfl, fun _ => rfl, fun _ => rfl, fun _ => rfl, fun _ => rfl, fun _ => rfl, fun _ => rfl, rfl, rfl⟩

theorem State.accessed_of_cachesOnly {s t : State} (h : s.cachesOnly t) : s.accessed t := by
  obtain ⟨heq, hhalf⟩ := h
  refine ⟨?_, hhalf, ?_, ?_, ?_, ?_, ?_, ?_, ?_⟩ <;> rw [heq] <;> intros <;> rfl

theorem State.modL1_accessed (s : State) (core : Nat) (f : L1 → L1) : s.accessed (s.modL1 core f) := by
  refine ⟨rfl, fun _ => rfl, fun j => ?_, fun _ => rfl, fun _ => rfl, fun _ => rfl, fun _ => rfl, rfl, rfl⟩
  rw [State.modL1, State.core_modCore]
  split
  · next h => rw [h]
  · rfl

theorem State.modQuad_accessed (s : State) (q : Nat) {f : Quad → Quad} (hf : ∀ x, { (f x).rest with lpr := [] } = { x.rest with lpr := [] }) :
    s.accessed (s.modQuad q f) := by
  refine ⟨rfl, fun _ => rfl, fun _ => rfl, fun _ => rfl, fun _ => rfl, fun _ => rfl, fun j => ?_, rfl, rfl⟩
  rw [State.quad_modQuad]
  split
  · next h => rw [hf, h]
  · rfl

theorem State.modCluster_accessed (s : State) (k : Nat) {f : Cluster → Cluster} (hf : ∀ x, { f x with tlb := [] } = { x with tlb := [] }) :
    s.accessed (s.modCluster k f) := by
  refine ⟨rfl, fun _ => rfl, fun _ => rfl, fun _ => rfl, fun _ => rfl, fun j => ?_, fun _ => rfl, rfl, rfl⟩
  rw [State.cluster_modCluster]
  split
  · next h => rw [hf, h]
  · rfl

/-- A translation that is held from now on (R193). -/
theorem State.fill_accessed (s : State) (slot lane : Nat) (tr : Trans) : s.accessed (s.fill slot lane tr) := by
  unfold State.fill
  refine State.accessed_trans (s.modQuad_accessed (quadOf slot) (f := fun q => { q with lpr := q.lpr.put lane tr }) fun _ => rfl)
    (State.modCluster_accessed _ _ fun x => ?_)
  split <;> rfl

/-- What releases carry changes, while a tile write waits for an OPRDY (R220). -/
theorem State.publish_accessed (s : State) (slot : Nat) (sp : Bool) (a w : Nat) (o : OrdSc) : s.accessed (s.publish slot sp a w o) := by
  unfold State.publish State.publishAs
  split
  · exact s.accessed_refl
  · next hbusy =>
    refine ⟨rfl, fun _ => rfl, fun _ => rfl, fun j => ?_, fun hready => absurd hready hbusy, fun _ => rfl, fun _ => rfl, rfl, rfl⟩
    dsimp only
    rw [Table.get_map_of_default _ fun n => ?_]
    · split <;> rfl
    · split <;> rfl

/-- Then rows are noted and the group finishes: what an access may change has changed, and no result is pending that was not. -/
theorem State.accessed_settled {s u v t : State} (h : s.accessed u) (i : u.warpsOnly Warp.unplaced v) (j : v.still t) :
    s.access1 t ∧ t.pend = s.pend := by
  obtain ⟨hrest, hquads, hwarp⟩ := i
  obtain ⟨irest, hquad, hstill⟩ := j
  have heq : t = { u with warps := t.warps, quads := t.quads } :=
    congrArg (fun r : State => { r with warps := t.warps, quads := t.quads }) (irest.trans hrest)
  have hpend : t.pend = s.pend := by rw [heq]; exact h.pend
  have hwarps (k : Nat) : u.warp k = s.warp k := by rw [State.warp, State.warp, h.warps]
  refine ⟨⟨⟨?rest, ?half, ?core, ?wg, ?cluster, fun q => ?quad, ⟨[], ?pend, by simp⟩, fun k => ⟨?warp, fun l => ?thread⟩⟩, ?ready⟩, hpend⟩
  case rest => rw [heq]; exact h.rest
  case half => rw [heq]; exact h.half
  case core => rw [heq]; exact h.core
  case wg => rw [heq]; exact h.wg
  case cluster => rw [heq]; exact h.cluster
  case ready => rw [heq]; exact h.ready
  case quad => rw [hquad, State.quad, hquads]; exact h.quad q
  case pend => rw [hpend, List.append_nil]
  case warp =>
    rw [(hstill k).1, ← hwarps k]
    exact congrArg (fun w : Warp => { w.still with nf := false }) (hwarp k)
  case thread =>
    rw [(hstill k).2, State.thread, State.thread, ← hwarps k, Warp.thread_of_unplaced (hwarp k)]

-- Where a store goes (R190, R255, R331, R340, R381) --------------------------------------------------------------------

/-- Bytes, watches, definite entries and the places of what the device keeps are the same. -/
structure State.sameGround (s t : State) : Prop where
  bytes : s.sameBytes t
  areas : s.keepsAreas t
  loose : t.loose = s.loose
  watches : t.watches = s.watches

theorem State.sameGround_of_cachesOnly {s t : State} (h : s.cachesOnly t) : s.sameGround t := by
  obtain ⟨heq, hhalf⟩ := h
  refine ⟨?_, ?_, ?_, ?_⟩ <;> rw [heq]
  · exact ⟨rfl, rfl, rfl⟩
  · exact ⟨rfl, rfl, rfl, rfl, hhalf, fun _ => rfl, fun e he hx => ⟨e, he, rfl, hx⟩⟩

theorem State.fill_sameGround (s : State) (slot lane : Nat) (tr : Trans) : s.sameGround (s.fill slot lane tr) :=
  ⟨⟨rfl, rfl, rfl⟩, ⟨rfl, rfl, rfl, rfl, fun _ => rfl, fun _ => rfl, fun e he hx => ⟨e, he, rfl, hx⟩⟩, rfl, rfl⟩

theorem State.lineFault_sameBytes {s t : State} (h : s.sameBytes t) (n : Nat) : t.lineFault n = s.lineFault n := by
  rw [State.lineFault, State.lineFault, State.lineBad_sameBytes h, State.line_sameBytes h]

theorem State.mergeBad_sameBytes {s t : State} (h : s.sameBytes t) (pa mt : Nat) : t.mergeBad pa mt = s.mergeBad pa mt := by
  rw [State.mergeBad, State.mergeBad, State.lineFault_sameBytes h, State.lineBad_sameBytes h]

/-- A line into which a store merges passes the check of its value. -/
theorem State.lineBad_of_mergeBad {s : State} {pa mt : Nat} (h : s.mergeBad pa mt = none) : s.lineBad (pa / 128) = none := by
  unfold State.mergeBad at h
  split at h
  · unfold State.lineFault at h
    split at h
    · cases h
    · assumption
  · exact h

theorem State.tablesFrom_sameGround {s t : State} (h : s.sameGround t) (ws : List Nat) (p table : Nat) (ls : List (Nat × Nat)) :
    t.tablesFrom ws p table ls = s.tablesFrom ws p table ls := by
  have hentry (a : Nat) : t.entry a = s.entry a := by rw [State.entry, State.entry, h.loose, h.bytes.1]
  obtain ⟨-, -, -, -, hhalf, -, -⟩ := h.areas
  have hmember (j : Nat) : (t.half j).member = (s.half j).member := by have := congrArg HalfDie.member (hhalf j); exact this
  have hpart (j : Nat) : (t.half j).part = (s.half j).part := by have := congrArg HalfDie.part (hhalf j); exact this
  have hmalformed (e n : Nat) : t.pointerMalformed p e n = s.pointerMalformed p e n := by
    simp only [State.pointerMalformed, State.inPart, hmember, hpart]
  induction ls generalizing table with
  | nil => rfl
  | cons l ls ih => simp only [State.tablesFrom, hentry, hmalformed, ih]

theorem State.untabled_sameGround {s t : State} (h : s.sameGround t) {pa n : Nat} (hu : s.untabled pa n) : t.untabled pa n := by
  have hwords : t.entryWords = s.entryWords := by rw [State.entryWords, State.entryWords, h.bytes.1, h.loose]
  obtain ⟨-, -, hctxs, -, -, -, -⟩ := h.areas
  have htables : t.tablesOf (fun _ _ => true) = s.tablesOf (fun _ _ => true) := by
    simp only [State.tablesOf, hwords, hctxs, State.tablesFrom_sameGround h]
  unfold State.untabled
  rw [htables]
  exact hu

theorem State.unkept_sameGround {s t : State} (h : s.sameGround t) {pa n : Nat} (hk : s.unkept pa n) : t.unkept pa n := by
  rw [State.unkept_iff] at hk ⊢
  exact ⟨State.apart_of_keepsAreas h.areas hk.1, State.untabled_sameGround h hk.2⟩

theorem State.unwatched_sameGround {s t : State} (h : s.sameGround t) {pa n : Nat} (hw : s.unwatched pa n) : t.unwatched pa n := by
  unfold State.unwatched
  rw [h.watches]
  exact hw

/-- A write that no armed watch lies on wakes nobody (R255). -/
theorem State.notify_of_unwatched {s : State} {pa n : Nat} (h : s.unwatched pa n) : s.notify pa (pa + n) = s := by
  have hmiss : ∀ w ∈ s.watches, (decide (w.pa < pa + n) && decide (pa < w.pa + 4)
      && waitOk w.eq (BitVec.ofNat 32 (s.mem.read w.pa 4)) w.val) = false := by
    intro w hw
    have := h w hw
    rw [Bool.and_eq_false_iff, Bool.and_eq_false_iff, decide_eq_false_iff_not, decide_eq_false_iff_not]
    omega
  have hnone := List.filter_eq_nil_iff.mpr fun w hw => ne_true_of_eq_false (hmiss w hw)
  have hall := List.filter_eq_self.mpr fun w hw => (Bool.not_eq_true' _).mpr (hmiss w hw)
  simp only [State.notify, hnone, hall, List.foldl_nil]

/-- A write apart from what the device keeps makes its words no definite entries, and no more (R331). -/
theorem State.loosen_eq_blur {s t : State} {pa n : Nat} (hk : s.unkept pa n) (h : s.keepsAreas t) :
    t.loosen s pa (pa + n) = t.blur (wordsOf pa (pa + n)) := by
  obtain ⟨hapart, htabled⟩ := (s.unkept_iff pa n).mp hk
  have hin : (wordsOf pa (pa + n)).filter (inTables (s.tablesOf fun _ _ => true)) = [] :=
    List.filter_eq_nil_iff.mpr fun w hw => ne_true_of_eq_false (htabled w hw)
  have hout : (wordsOf pa (pa + n)).filter (not ∘ inTables (s.tablesOf fun _ _ => true)) = wordsOf pa (pa + n) :=
    List.filter_eq_self.mpr fun w hw => by simp [htabled w hw]
  have hblur : t.keepsAreas (t.blur (wordsOf pa (pa + n))) :=
    ⟨rfl, rfl, rfl, rfl, fun _ => rfl, fun _ => rfl, fun e he hx => ⟨e, he, rfl, hx⟩⟩
  unfold State.loosen State.kvWrote State.unsettle
  simp only [List.partition_eq_filter_filter, hin, hout, List.foldl_nil]
  exact State.spoilKept_of_apart (State.apart_of_keepsAreas (State.keepsAreas_trans h hblur) hapart)

-- The store (R197, R200, R244, R451) -----------------------------------------------------------------------------------

theorem State.stored_of_sameBytes {s t u : State} {pa n v : Nat} (h : s.sameBytes t) (i : t.stored u pa n v) : s.stored u pa n v := by
  obtain ⟨hread, hother, htag, hscales, hwhole, hbad, hcanon⟩ := i
  rw [State.line_sameBytes h] at htag hscales
  rw [h.1] at hother
  rw [h.2.2] at hbad
  refine ⟨hread, hother, htag, hscales, hwhole, hbad, fun hs => hcanon ?_⟩
  rw [State.canonical, h.1, h.2.1]
  exact hs

/-- The state into which a store merges its bytes: a Kettle cell has taken a line of sync memory (R244, R245). -/
def State.mergeFrom (s : State) (pa mt : Nat) : State := if mt = 1 then s.takeCell (pa / 128) else s

theorem State.mergeFrom_cachesOnly (s : State) (pa mt : Nat) : s.cachesOnly (s.mergeFrom pa mt) := by
  unfold State.mergeFrom
  split
  · exact s.takeCell_cachesOnly _
  · exact s.cachesOnly_refl

/-- The L1 of the core that stores drops a line of sync memory, and updates any other line that it holds (R190, R196). -/
def State.mergeL1 (s : State) (core pa mt w v : Nat) : State := if mt = 1 then s.dropL1 core (pa / 128) else s.storeL1 core pa w v

theorem State.mergeL1_cases (s : State) (core pa mt w v : Nat) : s.mergeL1 core pa mt w v = s ∨ ∃ f, s.mergeL1 core pa mt w v = s.modL1 core f := by
  unfold State.mergeL1 State.storeL1
  split
  · exact .inr ⟨_, rfl⟩
  · split
    · exact .inl rfl
    · exact .inr ⟨_, rfl⟩

theorem State.mergeL1_spec (s : State) (core pa mt w v : Nat) :
    s.accessed (s.mergeL1 core pa mt w v) ∧ s.sameBytes (s.mergeL1 core pa mt w v) ∧ s.keepsAreas (s.mergeL1 core pa mt w v) := by
  rcases s.mergeL1_cases core pa mt w v with h | ⟨f, h⟩
  · rw [h]; exact ⟨s.accessed_refl, ⟨rfl, rfl, rfl⟩, s.keepsAreas_refl⟩
  · rw [h]; exact ⟨s.modL1_accessed core f, ⟨rfl, rfl, rfl⟩, s.keepsAreas_refl⟩

/-- A store whose line is intact, on which no watch lies and where the device keeps nothing, is made: its bytes are stored. -/
theorem State.mergeAt_stores {s : State} {pa mt n : Nat} (core : Nat) (v : DWord) (hbad : s.mergeBad pa mt = none) (hw : s.unwatched pa n)
    (hk : s.unkept pa n) : ∃ t, s.mergeAt core pa mt n v = some t ∧ s.accessed t ∧ s.stored t pa n v.toNat := by
  have hfrom := State.sameGround_of_cachesOnly (s.mergeFrom_cachesOnly pa mt)
  have haccess := State.accessed_of_cachesOnly (s.mergeFrom_cachesOnly pa mt)
  have hmerge : s.mergeAt core pa mt n v = ((s.mergeFrom pa mt).poke pa n v.toNat).map fun t =>
      (t.mergeL1 core pa mt n v.toNat).loosen (s.mergeFrom pa mt) pa (pa + n) := by
    rw [State.mergeAt, hbad]; rfl
  have hgood := (State.lineBad_sameBytes hfrom.bytes (pa / 128)).trans (State.lineBad_of_mergeBad hbad)
  have hunkept := State.unkept_sameGround hfrom hk
  have hunwatched := State.unwatched_sameGround hfrom hw
  generalize s.mergeFrom pa mt = f at *
  have hcache := (f.withBytes pa n v.toNat).useL2_cachesOnly (pa / 128) true
  have hcached := State.sameGround_of_cachesOnly hcache
  have hquiet := State.notify_of_unwatched (State.unwatched_sameGround (t := (f.withBytes pa n v.toNat).useL2 (pa / 128) true)
    hcached (show (f.withBytes pa n v.toNat).unwatched pa n from hunwatched))
  have hpoke := State.poke_eq hgood n v.toNat
  rw [hquiet] at hpoke
  generalize (f.withBytes pa n v.toNat).useL2 (pa / 128) true = m at *
  obtain ⟨hl1, hbytes, hareas⟩ := m.mergeL1_spec core pa mt n v.toNat
  have hplaces : f.keepsAreas (m.mergeL1 core pa mt n v.toNat) :=
    State.keepsAreas_trans (t := m) (State.keepsAreas_trans (t := f.withBytes pa n v.toNat) f.keepsAreas_refl hcached.areas) hareas
  refine ⟨(m.mergeL1 core pa mt n v.toNat).blur (wordsOf pa (pa + n)), ?made, ?accessed, ?stored⟩
  case made => rw [hmerge, hpoke, Option.map_some, State.loosen_eq_blur hunkept hplaces]
  case accessed =>
    have hwritten : f.accessed (f.withBytes pa n v.toNat) := f.accessed_memory _ _ _
    exact State.accessed_trans haccess (State.accessed_trans hwritten (State.accessed_trans (State.accessed_of_cachesOnly hcache)
      (State.accessed_trans hl1 (State.accessed_memory _ _ _ _))))
  case stored =>
    refine State.stored_of_sameBytes hfrom.bytes (State.stored_sameBytes (State.withBytes_stored hgood n v.toNat) ?_)
    exact State.sameBytes_trans hcached.bytes (State.sameBytes_trans hbytes ⟨rfl, rfl, rfl⟩)

/-- The same of a thread, with what its store leaves for acquires to learn (R220). -/
theorem State.storeMem_stores {s : State} {pa mt n : Nat} (a : Nat × Nat) (o : OrdSc) (v va : DWord) (hbad : s.mergeBad pa mt = none)
    (hw : s.unwatched pa n) (hk : s.unkept pa n) :
    let t := (s.storeMem a.1 a.2 pa mt n v va).publish a.1 false pa n o
    s.accessed t ∧ s.stored t pa n v.toNat := by
  obtain ⟨t, hmade, haccessed, hstored⟩ := State.mergeAt_stores (coreOf a.1) v hbad hw hk
  have hstore : s.storeMem a.1 a.2 pa mt n v va = t := by rw [State.storeMem, hmade]
  have hbytes : t.sameBytes (t.publish a.1 false pa n o) := by
    unfold State.publish State.publishAs
    split <;> exact ⟨rfl, rfl, rfl⟩
  simp only [hstore]
  exact ⟨State.accessed_trans haccessed (t.publish_accessed ..), State.stored_sameBytes hstored hbytes⟩

end Sys2Proof.Machine
end

section
/-! SUPPORT. A memory instruction of one thread with nothing outstanding (R116, R117, R195, R216, R219): its checks passed and no request sent, the
group is its access, after which rows are noted and the thread goes on. -/
namespace Sys2Proof.Machine

-- Nothing of the thread's own is outstanding (R216, R225, R253) ----------------------------------------------------------

theorem State.drainReds_quiet {s : State} {x : Nat × Nat} (h : s.quiet x) : s.drainReds x.1 x.2 = s := by
  have hnone : s.kreqs.filter (fun r => r.slot == x.1 && r.lane == x.2) = [] :=
    List.filter_eq_nil_iff.mpr fun r hr => by
      have := List.all_eq_true.mp h.1 r hr
      rw [Bool.not_eq_true'] at this
      exact ne_true_of_eq_false this
  rw [State.drainReds, hnone, List.foldl_nil]

/-- A release of the thread settles nothing. -/
theorem State.settleReleases_solo {s : State} {c : Ctl} {n : Nat} {g : Grp} {x : Nat × Nat} (h : s.solo c n g x) : s.settleReleases g = (s, [], g) := by
  obtain ⟨⟨-, -, hall⟩, hacts, hquiet⟩ := h
  have hdefer : ∀ a ∈ g.acts, (s.thread a.1 a.2).defer = [] := fun a ha => (hall a ha).2
  have hdrain : g.acts.foldl (fun s a => s.drainReds a.1 a.2) s = s := by
    rw [hacts, List.foldl_cons, State.drainReds_quiet hquiet, List.foldl_nil]
  simp only [State.settleReleases, hdrain, State.deferred_nil hdefer, State.takeDeferred_id hdefer, List.any_nil, Bool.not_false, List.filter_true]

/-- An access of the thread waits for no earlier one. -/
theorem MemOp.waits_quiet {s : State} {x : Nat × Nat} (h : s.quiet x) (m : MemOp) (y : MAcc) : m.waits s x y = none := by
  have hnone : ∀ r ∈ s.remotes, (r.slot == x.1 && r.lane == x.2) = false := fun r hr =>
    eq_false_of_ne_true (List.any_eq_false.mp h.2 r hr)
  have hmine : s.remotes.filter (fun r => r.slot == x.1 && r.lane == x.2) = [] :=
    List.filter_eq_nil_iff.mpr fun r hr => ne_true_of_eq_false (hnone r hr)
  have hbut (p : Remote → Bool) : s.remotes.any (fun r => r.slot == x.1 && r.lane == x.2 && p r) = false :=
    List.any_eq_false.mpr fun r hr => by rw [hnone r hr]; exact Bool.false_ne_true
  have hrelease (o : OrdSc) : s.releaseWhy x o y = none := by
    refine if_neg ?_
    rw [hbut, Bool.and_false]
    exact Bool.false_ne_true
  have hanswers : s.answersWhy x.1 x.2 m.wr = none := by
    simp only [State.answersWhy, hmine, List.any_nil, Bool.and_false, Bool.false_eq_true, if_false]
  have hloop : s.loopWhy x.1 x.2 = none := by rw [State.loopWhy, hbut]; rfl
  simp only [MemOp.waits, hrelease, hanswers, hloop, ite_self]

-- The group ---------------------------------------------------------------------------------------------------------------

/-- The group of one thread whose checks pass and which sends nothing is its access. -/
theorem memBody_solo {m : MemOp} {s u : State} {c : Ctl} {n : Nat} {g : Grp} {x : Nat × Nat} {y : MAcc} (h : s.solo c n g x)
    (hplan : m.plan g s x = (.ok y, s)) (hsend : ∀ t : State, m.send t x y = none) (hdone : m.perform (s.holdTrans x y) x y = (.done, u)) :
    memBody m g s = (u.settleRows g (m.els g s x), [(x, .done g.next)]) := by
  obtain ⟨-, hacts, hquiet⟩ := h
  have hplans : planAll m g s [x] = ([(x, .ok y)], s) := by
    rw [planAll, hplan]
    simp only [MemOp.waits_quiet hquiet, planAll]
  have hsent (t : State) (p : Option Nat) : t.sendFor m x (.ok y) p = none := by simp only [State.sendFor, hsend]
  have hkept : s.keptBack g [(x, .done g.next)] = none :=
    State.keptBack_done fun e he => ⟨g.next, by rw [List.mem_singleton.mp he]⟩
  have hdrain : (if m.drain then s.drainReds x.1 x.2 else s) = s := by rw [State.drainReds_quiet hquiet, ite_self]
  have hone : MRun.one m g { s, sends := [], vals := [], fates := [] } (x, .ok y) = { s := u, sends := [], vals := [], fates := [(x, .done g.next)] } := by
    simp only [MRun.one, hsent, hdone, List.nil_append]
  have hfull : (!(s.fullTriples []).isEmpty) = false := rfl
  unfold memBody
  simp only [hacts, hplans, List.map_cons, List.map_nil, Ck.fate, hkept, List.foldl_cons, List.foldl_nil, hsent, hfull, Bool.false_eq_true, if_false,
    hdrain, hone, List.flatMap_cons, List.flatMap_nil, List.append_nil]
  rfl

/-- So it is whether or not the thread releases; the thread stands after the instruction. -/
theorem memOp_solo {m : MemOp} {s u : State} {c : Ctl} {g : Grp} {x : Nat × Nat} {y : MAcc} (h : s.solo c 1 g x) (hcalm : s.calm (m.els g s x))
    (hplan : m.plan g s x = (.ok y, s)) (hsend : ∀ t : State, m.send t x y = none) (hdone : m.perform (s.holdTrans x y) x y = (.done, u))
    (hstate : (u.thread x.1 x.2).st = .issuing) :
    ∃ t, memOp c s m = .next t ∧ (u.settleRows g (m.els g s x)).still t ∧ (u.settleRows g (m.els g s x)).passed t g fun _ => g.next := by
  have hacts : ∀ a ∈ g.acts, a = x := fun a ha => by rw [h.2.1] at ha; exact List.mem_singleton.mp ha
  have hbody := memBody_solo h hplan hsend hdone
  refine issue_passes (u := u.settleRows g (m.els g s x)) (fun _ => g.next) [x] h.1 ?body (fun a => by rw [h.2.1]) fun a ha => ?issuing
  case body =>
    have hnonempty : g.acts.isEmpty = false := by rw [h.2.1]; rfl
    rw [interlocked_calm fun a ha => by rw [hacts a ha]; exact hcalm]
    simp only [State.settleReleases_solo h, hnonempty, hbody, Bool.false_eq_true, if_false, List.nil_append, ite_self]
    rfl
  case issuing =>
    obtain ⟨-, -, hwarp⟩ := u.settleRows_warpsOnly g (m.els g s x)
    rw [hacts a ha, State.thread, Warp.thread_of_unplaced (hwarp x.1)]
    exact hstate

end Sys2Proof.Machine
end

section
/-! SUPPORT. STG of one thread (R186, R188, R197, R199, R200): its checks and operands, and the store it makes or buffers. -/
namespace Sys2Proof.Machine

theorem State.side_of_rest {s t : State} (h : t.rest = s.rest) : t.side = s.side := by have := congrArg State.side h; exact this
theorem State.badLines_of_rest {s t : State} (h : t.rest = s.rest) : t.badLines = s.badLines := by have := congrArg State.badLines h; exact this
theorem Warp.buf_of_still {w x : Warp} (h : x.still = w.still) : x.buf = w.buf := by have := congrArg Warp.buf h; exact this
theorem Warp.buf_of_unplaced {w x : Warp} (h : x.unplaced = w.unplaced) : x.buf = w.buf := by have := congrArg Warp.buf h; exact this

/-- STG as a memory instruction. -/
def stgOp (w : Width) (o : OrdSc) (d a : VReg) : MemOp where
  els := fun _ s t => s.fieldElems t a.toNat true ++ s.dataElems t d.toNat w
  plan := fun g s t => s.operands g (s.fieldElems t a.toNat true) (s.dataElems t d.toNat w) fun va early s =>
    let (v, s) := s.readElems g (s.dataElems t d.toNat w)
    (softCk early (s.accessOf t (widthBytes w) va v (storeKind w)), s)
  addr := fun s t => s.pairAddr t a
  rel := fun s t => s.storeRel o t
  ord := o
  send := fun s t m => s.storeSend t o w m
  perform := fun s t m => match m with
    | .acc x v => s.storeBytes t o w x v
    | _ => (.done, s)
  dest := fun _ _ => []

theorem exec_stg_eq (c : Ctl) (w : Width) (o : OrdSc) (strm : Bool) (d a : VReg) (s : State) :
    exec (.stg c w o strm d a) s = memOp c s (stgOp w o d a) := rfl

/-- Outside repeatable mode, or through an I/O page, a store into memory of the package is made at once (R188, R200). -/
theorem State.storeBytes_at_once {s : State} {x : Nat × Nat} {o : OrdSc} {w : Width} {e : Acc} {pa mt : Nat} (v : DWord) (hmem : e.t = .mem pa mt)
    (hplain : s.repeatableOf x.1 = false ∨ mt = 3) :
    s.storeBytes x o w e v = (.done, (s.storeMem x.1 x.2 pa mt (widthBytes w) v e.va).publish x.1 false pa (widthBytes w) o) := by
  obtain ⟨va, target, tr⟩ := e
  subst hmem
  unfold State.storeBytes
  split
  · next h => cases h
  · next h => cases h; rfl
  · next hio =>
    have hoff := hplain.resolve_right fun h => hio pa (congrArg (Target.mem pa) h)
    rw [hoff]
    rfl

/-- In repeatable mode a store that finds room is held (R186). -/
theorem State.storeBytes_held {s : State} {x : Nat × Nat} {o : OrdSc} {w : Width} {e : Acc} {pa mt : Nat} (v : DWord) (hmem : e.t = .mem pa mt)
    (hio : mt ≠ 3) (hrep : s.repeatableOf x.1 = true) (hroom : s.bufRoom x.1 e.t = true) :
    s.storeBytes x o w e v = (.done, s.buffer x.1 (.store x.2 (widthBytes w) v o) e.t e.va) := by
  obtain ⟨va, target, tr⟩ := e
  subst hmem
  unfold State.storeBytes
  split
  · next h => cases h
  · next h => cases h; exact absurd rfl hio
  · rw [if_pos hrep, if_pos hroom]

/-- An access that is granted keeps its address. -/
theorem State.access_va {s : State} {via : Via} {ctx w : Nat} {va : DWord} {k : AccKind} {e : Acc} (h : s.access via ctx w va k = .ok e) :
    e.va = va := by
  unfold State.access at h
  split at h
  · cases h
  · cases htr : s.translate via ctx va with
    | ok tr =>
      rw [htr] at h
      cases hg : s.grant tr va k with
      | ok t => simp only [Ck.bind, hg, Ck.ok.injEq] at h; rw [← h]
      | _ => simp only [Ck.bind, hg, reduceCtorEq] at h
    | _ => rw [htr] at h; cases h

-- A thread alone at STG, whose operands may be read and whose access to memory of the package is granted
section
variable {c : Ctl} {w : Width} {o : OrdSc} {strm : Bool} {d a : VReg} {s : State} {g : Grp} {x : Nat × Nat} {e : Acc} {pa mt : Nat}
  (hsolo : s.solo c 1 g x) (hopen : s.open g (s.fieldElems x a.toNat true ++ s.dataElems x d.toNat w) [])
  (hgrant : s.access (.lane x.1 x.2) (s.ctxOf x.1) (widthBytes w) (s.elemsVal (s.fieldElems x a.toNat true)) (storeKind w) = .ok e)
  (hmem : e.t = .mem pa mt)

include hopen hgrant in
/-- Its checks pass, with the data that its register holds (R117). -/
theorem stgOp_plan : (stgOp w o d a).plan g s x = (.ok (.acc e (s.elemsVal (s.dataElems x d.toNat w))), s) := by
  have hripe := hopen.2.1
  have haddr := State.ripe_mono hripe fun y hy => List.mem_append_left (s.dataElems x d.toNat w) hy
  have hdata := State.ripe_mono hripe fun y hy => List.mem_append_right (s.fieldElems x a.toNat true) hy
  simp only [stgOp, State.operands, State.elemsFault_open hopen, State.early_none haddr, State.readElems_ripe haddr, State.readElems_ripe hdata,
    State.accessOf, hgrant, Ck.bind, softCk, Bool.false_eq_true, if_false]

include hmem in
/-- A store into memory of the package sends no request (R411). -/
theorem stgOp_send (t : State) (v : DWord) : (stgOp w o d a).send t x (.acc e v) = none := by
  obtain ⟨va, target, tr⟩ := e
  subst hmem
  rfl

include hsolo hopen hgrant hmem in
/-- It goes on after its store, whatever that changes beside its place in the bundle. -/
theorem exec_stg {u : State} (hstore : (s.fill x.1 x.2 e.tr).storeBytes x o w e (s.elemsVal (s.dataElems x d.toNat w)) = (.done, u))
    (hthreads : ∀ k l, u.thread k l = s.thread k l) :
    ∃ v t, exec (.stg c w o strm d a) s = .next t ∧ u.warpsOnly Warp.unplaced v ∧ v.still t ∧ s.passed t g fun _ => g.next := by
  obtain ⟨-, -, -, -, -, hissuing⟩ := State.group_some hsolo.1.1
  have hcalm : s.calm ((stgOp w o d a).els g s x) := by
    have := hopen.1
    rwa [List.append_nil] at this
  have hstate : (u.thread x.1 x.2).st = .issuing := by
    rw [hthreads]
    exact hissuing x (by rw [hsolo.2.1]; exact List.mem_singleton_self x)
  obtain ⟨t, hexec, hstill, hpassed, hothers⟩ := memOp_solo hsolo hcalm (stgOp_plan (o := o) hopen hgrant) (fun t => stgOp_send hmem t _) hstore hstate
  have hrows := u.settleRows_warpsOnly g ((stgOp w o d a).els g s x)
  refine ⟨_, t, hexec, hrows, hstill, hpassed, fun k l hk => ?_⟩
  rw [hothers k l hk, State.thread, Warp.thread_of_unplaced (hrows.2.2 k)]
  exact hthreads k l

include hsolo hopen hgrant hmem in
/-- Outside repeatable mode, or through an I/O page, it stores its bytes at once (R188, R197, R200). -/
theorem exec_stg_stores (hplain : s.repeatableOf x.1 = false ∨ mt = 3) (hbad : s.mergeBad pa mt = none) (hwatch : s.unwatched pa (widthBytes w))
    (hkept : s.unkept pa (widthBytes w)) :
    ∃ t, exec (.stg c w o strm d a) s = .next t ∧ s.access1 t ∧ (s.passed t g fun _ => g.next) ∧ t.pend = s.pend
      ∧ s.stored t pa (widthBytes w) (s.elemsVal (s.dataElems x d.toNat w)).toNat := by
  have hheld := s.fill_sameGround x.1 x.2 e.tr
  obtain ⟨haccessed, hstored⟩ := State.storeMem_stores x o (s.elemsVal (s.dataElems x d.toNat w)) e.va
    ((State.mergeBad_sameBytes hheld.bytes pa mt).trans hbad) (State.unwatched_sameGround hheld hwatch) (State.unkept_sameGround hheld hkept)
  have hstore := State.storeBytes_at_once (s := s.fill x.1 x.2 e.tr) (o := o) (w := w) (s.elemsVal (s.dataElems x d.toNat w)) hmem hplain
  replace haccessed := State.accessed_trans (s.fill_accessed x.1 x.2 e.tr) haccessed
  replace hstored := State.stored_of_sameBytes hheld.bytes hstored
  obtain ⟨v, t, hexec, hrows, hstill, hpassed⟩ := exec_stg (strm := strm) hsolo hopen hgrant hmem hstore fun k l => by
    rw [State.thread, State.thread, State.warp, State.warp, haccessed.warps]
  have hrest := hstill.1.trans hrows.1
  obtain ⟨haccess, hpend⟩ := State.accessed_settled haccessed hrows hstill
  exact ⟨t, hexec, haccess, hpassed, hpend, State.stored_sameBytes hstored ⟨State.mem_of_rest hrest, State.side_of_rest hrest, State.badLines_of_rest hrest⟩⟩

include hsolo hopen hgrant hmem in
/-- In repeatable mode it is held behind what its warp's buffer holds, and memory does not change (R186, R188). -/
theorem exec_stg_held (hrep : s.repeatableOf x.1 = true) (hio : mt ≠ 3) (hroom : s.bufRoom x.1 e.t = true) :
    ∃ t, exec (.stg c w o strm d a) s = .next t ∧ t.mem = s.mem ∧ t.side = s.side ∧ (s.passed t g fun _ => g.next)
      ∧ (t.warp x.1).buf = (s.warp x.1).buf ++ [⟨.store x.2 (widthBytes w) (s.elemsVal (s.dataElems x d.toNat w)) o, e.t,
          s.elemsVal (s.fieldElems x a.toNat true), (s.part (s.kernelOf x.1).part).recess⟩] := by
  rw [← State.access_va hgrant]
  have hstore := State.storeBytes_held (s := s.fill x.1 x.2 e.tr) (o := o) (w := w) (s.elemsVal (s.dataElems x d.toNat w)) hmem hio hrep hroom
  generalize hu : (s.fill x.1 x.2 e.tr).buffer x.1 (.store x.2 (widthBytes w) (s.elemsVal (s.dataElems x d.toNat w)) o) e.t e.va = u at hstore
  have hwarp (k : Nat) : u.warp k = if k = x.1 then { s.warp x.1 with buf := (s.warp x.1).buf
      ++ [⟨.store x.2 (widthBytes w) (s.elemsVal (s.dataElems x d.toNat w)) o, e.t, e.va, (s.part (s.kernelOf x.1).part).recess⟩] }
      else s.warp k := by
    rw [← hu]
    exact State.warp_modWarp (s.fill x.1 x.2 e.tr) k x.1 _
  obtain ⟨v, t, hexec, hrows, hstill, hpassed⟩ := exec_stg (strm := strm) hsolo hopen hgrant hmem hstore fun k l => by
    rw [State.thread, State.thread, hwarp]
    split
    · next h => rw [h]; rfl
    · rfl
  have hrest := hstill.1.trans hrows.1
  refine ⟨t, hexec, (State.mem_of_rest hrest).trans ?mem, (State.side_of_rest hrest).trans ?side, hpassed, ?buf⟩
  case mem => rw [← hu]; rfl
  case side => rw [← hu]; rfl
  case buf => rw [Warp.buf_of_still (hstill.2.2 x.1).1, Warp.buf_of_unplaced (hrows.2.2 x.1), hwarp, if_pos rfl]

end

/-- Settles O21: a store is made at once or held, as the lemmas above about STG say. -/
theorem globalStores : Obligations.GlobalStores := by
  unfold Obligations.GlobalStores
  refine ⟨fun c w o strm d a s g x e pa mt hsolo hopen hplain hgrant hmem hbad hwatch hkept => ?now,
    fun c w o strm d a s g x e pa mt hsolo hopen hrep hgrant hmem hio hroom => ?held⟩
  case now => exact exec_stg_stores hsolo hopen hgrant hmem hplain hbad hwatch hkept
  case held => exact exec_stg_held hsolo hopen hgrant hmem hrep hio hroom

end Sys2Proof.Machine
end

section
/-! SUPPORT. A memory instruction of one thread with nothing outstanding, whatever its check and its access come to (R116, R117, R195): a value that
lands later, an access that returns nothing, or a fault. -/
namespace Sys2Proof.Machine

-- The group of one thread --------------------------------------------------------------------------------------------------

/-- The group of one thread whose check is not kept back and which sends nothing is what its one access makes of it. -/
theorem memBody_one {m : MemOp} {s u : State} {g : Grp} {x : Nat × Nat} {k : Ck MAcc} {vs : List (Nat × Nat × Word)} {f : Fate} (hacts : g.acts = [x])
    (hquiet : s.quiet x) (hplan : m.plan g s x = (k, s)) (hkept : s.keptBack g [(x, k.fate g (m.addr s x))] = none)
    (hsend : ∀ (t : State) y, k = .ok y → m.send t x y = none)
    (hrun : MRun.one m g { s, sends := [], vals := [], fates := [] } (x, k) = { s := u, sends := [], vals := vs, fates := [(x, f)] }) :
    memBody m g s = ((u.landVals vs).settleRows g (m.els g s x), [(x, f)]) := by
  have hplans : planAll m g s [x] = ([(x, k)], s) := by
    rw [planAll, hplan]
    cases k with
    | ok y => simp only [MemOp.waits_quiet hquiet, planAll]
    | fault | light | heavy | lock => rfl
  have hsent (t : State) (p : Option Nat) : t.sendFor m x k p = none := by
    cases k with
    | ok y => simp only [State.sendFor, hsend t y rfl]
    | fault | light | heavy | lock => rfl
  have hdrain : (if m.drain then s.drainReds x.1 x.2 else s) = s := by rw [State.drainReds_quiet hquiet, ite_self]
  have hfull : (!(s.fullTriples []).isEmpty) = false := rfl
  unfold memBody
  simp only [hacts, hplans, List.map_cons, List.map_nil, hkept, List.foldl_cons, List.foldl_nil, hsent, hfull, Bool.false_eq_true, if_false, hdrain,
    hrun, List.flatMap_cons, List.flatMap_nil, List.append_nil]
  rfl

/-- An access that returns a value: its words land later in the elements of its destination (R83). -/
theorem memBody_val {m : MemOp} {s u : State} {g : Grp} {x : Nat × Nat} {y : MAcc} {v : DWord} (hacts : g.acts = [x]) (hquiet : s.quiet x)
    (hplan : m.plan g s x = (.ok y, s)) (hsend : ∀ t : State, m.send t x y = none) (hdone : m.perform (s.holdTrans x y) x y = (.val v, u)) :
    memBody m g s = ((u.landVals (valsFor (m.dest u x) v)).settleRows g (m.els g s x), [(x, .done g.next)]) := by
  refine memBody_one hacts hquiet hplan (State.keptBack_done fun e he => ⟨g.next, by rw [List.mem_singleton.mp he]; rfl⟩)
    (fun t z hz => by cases hz; exact hsend t) ?_
  have hsent (t : State) (p : Option Nat) : t.sendFor m x (.ok y) p = none := by simp only [State.sendFor, hsend]
  simp only [MRun.one, hsent, hdone, List.nil_append]

/-- A check that fails: the thread takes the fault, and no access is made (R117). -/
theorem memBody_fault {m : MemOp} {s : State} {g : Grp} {x : Nat × Nat} {f : PFault} (hacts : g.acts = [x]) (hquiet : s.quiet x)
    (hplan : m.plan g s x = (.fault f, s)) : memBody m g s = (s.settleRows g (m.els g s x), [(x, .fault f g.pc)]) :=
  memBody_one (vs := []) hacts hquiet hplan rfl (fun _ _ h => by cases h) rfl

/-- The state a group's body leaves once the group has finished. -/
def memDone (m : MemOp) (g : Grp) (s : State) : State := (memBody m g s).1.finish g (memBody m g s).2

/-- The group of a thread whose operands are calm is its body, whether or not it releases. -/
theorem memGroup_solo {m : MemOp} {s : State} {c : Ctl} {n : Nat} {g : Grp} {x : Nat × Nat} (h : s.solo c n g x) (hcalm : s.calm (m.els g s x)) :
    interlocked (m.els g) (fun g s =>
      if g.acts.any (fun a => m.rel s a != .plain) then
        let (s, ds, h) := s.settleReleases g
        if h.acts.isEmpty then (s, ds) else let (s, fs) := memBody m h s; (s, ds ++ fs)
      else memBody m g s) g s = memBody m g s := by
  have hnonempty : g.acts.isEmpty = false := by rw [h.2.1]; rfl
  rw [interlocked_calm fun a ha => by rw [h.2.1] at ha; rw [List.mem_singleton.mp ha]; exact hcalm]
  simp only [State.settleReleases_solo h, hnonempty, Bool.false_eq_true, if_false, List.nil_append, ite_self]

theorem memOp_eq {m : MemOp} {s : State} {c : Ctl} {g : Grp} {x : Nat × Nat} (h : s.solo c 1 g x) (hcalm : s.calm (m.els g s x)) :
    memOp c s m = .next (memDone m g s) := by
  rw [memOp, issue_eq h.1, memGroup_solo h hcalm, memDone]

/-- So it is of a shaped access whose slot is not pending (R207). -/
theorem shapeOp_eq {m : MemOp} {s : State} {c : Ctl} {g : Grp} {x : Nat × Nat} {slot : BitVec 3} (h : s.solo c 1 g x)
    (hslot : s.pendShape x.1 slot.toNat = []) (hcalm : s.calm (m.els g s x)) :
    shapeOp c slot s m = .next (memDone m g s) := by
  have hwhy : s.shapeWhy g slot = none := by
    rw [State.shapeWhy, h.2.1, List.any_cons, List.any_nil, hslot]
    rfl
  rw [shapeOp, issue_eq h.1]
  simp only [hwhy, memGroup_solo h hcalm, memDone]

-- What the thread's own elements are ---------------------------------------------------------------------------------------

theorem State.fieldElems_of_warps {s t : State} (h : t.warps = s.warps) (a : Nat × Nat) (n : Nat) (p : Bool) : t.fieldElems a n p = s.fieldElems a n p :=
  State.wrElems_of_warps h a (some { n, pair := p })

theorem State.solo_issuing {s : State} {c : Ctl} {n : Nat} {g : Grp} {x : Nat × Nat} (h : s.solo c n g x) : (s.thread x.1 x.2).st = .issuing := by
  obtain ⟨-, -, -, -, -, hissuing⟩ := State.group_some h.1.1
  exact hissuing x (by rw [h.2.1]; exact List.mem_singleton_self x)

/-- Rows are noted, and the thread that has done its group goes on. -/
theorem State.finish_solo {s u : State} {c : Ctl} {n : Nat} {g : Grp} {x : Nat × Nat} (h : s.solo c n g x) (es : List Elem)
    (hthreads : ∀ k l, u.thread k l = s.thread k l) :
    let v := u.settleRows g es
    u.warpsOnly Warp.unplaced v ∧ v.still (v.finish g [(x, .done g.next)]) ∧ s.passed (v.finish g [(x, .done g.next)]) g fun _ => g.next := by
  have hrows := u.settleRows_warpsOnly g es
  have hkept (k l : Nat) : (u.settleRows g es).thread k l = s.thread k l := by
    rw [State.thread, Warp.thread_of_unplaced (hrows.2.2 k)]
    exact hthreads k l
  obtain ⟨-, hset, -⟩ := State.group_some h.1.1
  have hmem : ∀ a, a ∈ [x] ↔ a ∈ g.acts := fun a => by rw [h.2.1]
  obtain ⟨hstill, hpassed, hothers⟩ := State.finish_all (s := u.settleRows g es) (fun _ => g.next) [x] hmem hset (fun a ha => (h.1.2.2 a ha).1)
    fun a ha => by rw [hkept, List.mem_singleton.mp ((hmem a).mpr ha)]; exact State.solo_issuing h
  exact ⟨hrows, hstill, hpassed, fun k l hk => (hothers k l hk).trans (hkept k l)⟩

-- What a load changes ------------------------------------------------------------------------------------------------------

/-- What an access may change that only reads: no byte of memory, and no result becomes pending. -/
structure State.reads (s t : State) : Prop where
  accessed : s.accessed t
  bytes : s.sameBytes t
  nextId : t.nextId = s.nextId

theorem State.reads_refl (s : State) : s.reads s := ⟨s.accessed_refl, ⟨rfl, rfl, rfl⟩, rfl⟩
theorem State.reads_trans {s t u : State} (h : s.reads t) (i : t.reads u) : s.reads u :=
  ⟨State.accessed_trans h.accessed i.accessed, State.sameBytes_trans h.bytes i.bytes, i.nextId.trans h.nextId⟩

theorem State.reads_of_cachesOnly {s t : State} (h : s.cachesOnly t) : s.reads t :=
  ⟨State.accessed_of_cachesOnly h, (State.sameGround_of_cachesOnly h).bytes, by rw [h.1]⟩
theorem State.modL1_reads (s : State) (core : Nat) (f : L1 → L1) : s.reads (s.modL1 core f) := ⟨s.modL1_accessed core f, ⟨rfl, rfl, rfl⟩, rfl⟩
theorem State.fill_reads (s : State) (slot lane : Nat) (tr : Trans) : s.reads (s.fill slot lane tr) := ⟨s.fill_accessed slot lane tr, ⟨rfl, rfl, rfl⟩, rfl⟩

theorem State.acquire_reads (s : State) (core : Nat) (o : OrdSc) : s.reads (s.acquire core o) := by
  unfold State.acquire
  split
  · exact s.modL1_reads core _
  · exact s.reads_refl

/-- What an acquire learns of tile writes that wait for an OPRDY (R220, R221). -/
theorem State.observe_reads (s : State) (slot : Nat) (sp : Bool) (a w : Nat) (o : OrdSc) : s.reads (s.observe slot sp a w o) := by
  unfold State.observe
  split
  · exact s.reads_refl
  · next hbusy =>
    have hnot : s.allReady ≠ true := fun h => hbusy (by rw [h, Bool.true_or])
    refine ⟨⟨rfl, fun _ => rfl, fun _ => rfl, fun j => ?_, fun h => absurd h hnot, fun _ => rfl, fun _ => rfl, rfl, rfl⟩, ⟨rfl, rfl, rfl⟩, rfl⟩
    rw [State.modWg, Table.get_put]
    split
    · next h => rw [h]
    · rfl

theorem State.chose_reads (s : State) (b : Bool) : s.reads (s.chose b) := by
  unfold State.chose
  split
  · exact State.reads_of_cachesOnly ⟨rfl, fun _ => rfl⟩
  · exact s.reads_refl

theorem State.modCore_reads (s : State) (k : Nat) {f : Core → Core} (hf : ∀ x, { f x with l1 := [], copies := [] } = { x with l1 := [], copies := [] }) :
    s.reads (s.modCore k f) := by
  refine ⟨⟨rfl, fun _ => rfl, fun j => ?_, fun _ => rfl, fun _ => rfl, fun _ => rfl, fun _ => rfl, rfl, rfl⟩, ⟨rfl, rfl, rfl⟩, rfl⟩
  rw [State.core_modCore]
  split
  · next h => rw [hf, h]
  · rfl

theorem State.fillL1_reads (s : State) (core n : Nat) (l : Line) : s.reads (s.fillL1 core n l) := by
  unfold State.fillL1
  simp only
  split
  · exact s.modL1_reads core _
  · exact State.reads_trans (s.chose_reads _) (State.modCore_reads _ _ fun _ => rfl)

/-- A warp sees of a line what it saw (R186). -/
theorem State.seenLine_accessed {s t : State} (h : s.accessed t) (slot : Nat) (tg : Target) (l : Line) : t.seenLine slot tg l = s.seenLine slot tg l := by
  have hwarp : t.warp slot = s.warp slot := by rw [State.warp, State.warp, h.warps]
  have hwg := h.wg (s.warp slot).wg
  have hkernel : (t.wgs.get (s.warp slot).wg).kernel = (s.wgs.get (s.warp slot).wg).kernel := by have := congrArg Workgroup.kernel hwg; exact this
  have hcommits : (t.wgs.get (s.warp slot).wg).commits = (s.wgs.get (s.warp slot).wg).commits := by have := congrArg Workgroup.commits hwg; exact this
  have hkernels : t.kernels = s.kernels := by have := congrArg State.kernels h.rest; exact this
  simp only [State.seenLine, State.repeatableOf, State.kernelOf, State.kernel, State.wgOf, State.bufAll, hwarp, hkernel, hcommits, hkernels]
  rfl

-- A value lands later (R83) --------------------------------------------------------------------------------------------------

theorem State.landVals_field {s : State} (t : State) (x : Nat × Nat) (n : Nat) (p : Bool) (v : DWord) :
    t.landVals (valsFor (s.fieldElems x n p) v) = t.addPend { Pending.empty x.1 with regs := wordsFor (s.fieldElems x n p) v } := by
  simp only [State.fieldElems]
  cases p <;> simp [State.landVals, valsFor, wordsFor, List.eraseDups_cons, State.pendRegs]

theorem State.owes_field {s t : State} {x : Nat × Nat} {n : Nat} {p : Bool} {v : DWord}
    (h : { Pending.empty x.1 with id := s.nextId, regs := wordsFor (s.fieldElems x n p) v } ∈ t.pend) : s.owes t x (s.fieldElems x n p) v := by
  refine ⟨_, h, Nat.le_refl _, rfl, rfl, fun i e he => ⟨wordsFor_mem he v, fun y hy hkey => ?_⟩⟩
  obtain ⟨j, f, hf, rfl⟩ := mem_wordsFor hy
  rw [State.wrElems_key_inj (d := { n, pair := p }) hf he hkey]

/-- A result that is pending beside is all that sets a state apart from one with the same frame. -/
theorem State.access1_pending {s t : State} {ps : List Pending} {n : Nat} (h : s.access1 { t with pend := s.pend, nextId := n })
    (hpend : t.pend = s.pend ++ ps) (hids : ∀ p ∈ ps, s.nextId ≤ p.id) : s.access1 t := by
  obtain ⟨⟨hrest, hhalf, hcore, hwg, hcluster, hquad, -, hwarp⟩, hready⟩ := h
  exact ⟨⟨hrest, hhalf, hcore, hwg, hcluster, hquad, ⟨ps, hpend, hids⟩, hwarp⟩, hready⟩

/-- Memory and NF are kept where no byte and no warp changed before rows are noted and the group finishes. -/
theorem State.memKept_settled {s u v t : State} (hbytes : s.sameBytes u) (hwarps : u.warps = s.warps) (i : u.warpsOnly Warp.unplaced v) (j : v.still t) :
    s.memKept t := by
  have hrest := j.1.trans i.1
  refine ⟨(State.mem_of_rest hrest).trans hbytes.1, (State.side_of_rest hrest).trans hbytes.2.1, (State.badLines_of_rest hrest).trans hbytes.2.2,
    fun k => ?_⟩
  rw [State.still_nf j, State.warp, State.warp, ← hwarps]
  have := congrArg Warp.nf (i.2.2 k)
  exact this

/-- A load that is done: it changes what a read may, its value is pending into the thread's register, and the thread goes on. -/
theorem State.finish_load {s u : State} {c : Ctl} {g : Grp} {x : Nat × Nat} (h : s.solo c 1 g x) (hreads : s.reads u) (es : List Elem) (n : Nat) (p : Bool)
    (v : DWord) : let t := ((u.landVals (valsFor (u.fieldElems x n p) v)).settleRows g es).finish g [(x, .done g.next)]
    s.access1 t ∧ s.memKept t ∧ (s.passed t g fun _ => g.next) ∧ s.owes t x (s.fieldElems x n p) v := by
  have hwarps := hreads.accessed.warps
  rw [State.fieldElems_of_warps hwarps, State.landVals_field]
  have hthreads (k l : Nat) : (u.addPend { Pending.empty x.1 with regs := wordsFor (s.fieldElems x n p) v }).thread k l = s.thread k l := by
    rw [State.thread, State.thread, State.warp, State.warp, State.addPend_warps, hwarps]
  obtain ⟨hrows, hstill, hpassed⟩ := State.finish_solo h es hthreads
  generalize hp : { Pending.empty x.1 with regs := wordsFor (s.fieldElems x n p) v } = q at *
  have hq : { q with id := u.nextId } = { Pending.empty x.1 with id := s.nextId, regs := wordsFor (s.fieldElems x n p) v } := by
    rw [← hp, hreads.nextId]
  generalize ((u.addPend q).settleRows g es).finish g [(x, .done g.next)] = t at *
  generalize (u.addPend q).settleRows g es = w at *
  have hrest : t.rest = (u.addPend q).rest := hstill.1.trans hrows.1
  have hpend : t.pend = s.pend ++ [{ q with id := u.nextId }] := by
    rw [← hreads.accessed.pend]
    have := congrArg State.pend hrest
    exact this
  have hbare : u.warpsOnly Warp.unplaced { w with pend := u.pend, nextId := u.nextId } :=
    ⟨congrArg (fun r : State => { r with pend := u.pend, nextId := u.nextId }) hrows.1, hrows.2⟩
  have hbare' : State.still { w with pend := u.pend, nextId := u.nextId } { t with pend := u.pend, nextId := u.nextId } :=
    ⟨congrArg (fun r : State => { r with pend := u.pend, nextId := u.nextId }) hstill.1, hstill.2⟩
  obtain ⟨haccess, -⟩ := State.accessed_settled hreads.accessed hbare hbare'
  rw [hreads.accessed.pend] at haccess
  refine ⟨State.access1_pending haccess hpend fun r hr => ?_, State.memKept_settled (u := u.addPend q) hreads.bytes hwarps hrows hstill, hpassed,
    State.owes_field ?_⟩
  · rw [List.mem_singleton.mp hr]
    exact Nat.le_of_eq hreads.nextId.symm
  · rw [hpend, ← hq]
    exact List.mem_append_right _ (List.mem_singleton_self _)

-- The group's end (R95, R116) ----------------------------------------------------------------------------------------------

/-- After an access that reads and returns a value. -/
theorem memDone_val {m : MemOp} {s u : State} {c : Ctl} {g : Grp} {x : Nat × Nat} {y : MAcc} {v : DWord} (h : s.solo c 1 g x)
    (hplan : m.plan g s x = (.ok y, s)) (hsend : ∀ t : State, m.send t x y = none) (hdone : m.perform (s.holdTrans x y) x y = (.val v, u))
    (hreads : s.reads u) {n : Nat} {p : Bool} (hdest : m.dest u x = u.fieldElems x n p) :
    s.access1 (memDone m g s) ∧ s.memKept (memDone m g s) ∧ (s.passed (memDone m g s) g fun _ => g.next)
      ∧ s.owes (memDone m g s) x (s.fieldElems x n p) v := by
  rw [memDone, memBody_val h.2.1 h.2.2 hplan hsend hdone, hdest]
  exact State.finish_load h hreads _ n p v

/-- After an access that returns nothing and leaves the threads as they were. -/
theorem memDone_done {m : MemOp} {s u : State} {c : Ctl} {g : Grp} {x : Nat × Nat} {y : MAcc} (h : s.solo c 1 g x) (hplan : m.plan g s x = (.ok y, s))
    (hsend : ∀ t : State, m.send t x y = none) (hdone : m.perform (s.holdTrans x y) x y = (.done, u))
    (hthreads : ∀ k l, u.thread k l = s.thread k l) :
    ∃ v, u.warpsOnly Warp.unplaced v ∧ v.still (memDone m g s) ∧ s.passed (memDone m g s) g fun _ => g.next := by
  rw [memDone, memBody_solo h hplan hsend hdone]
  exact ⟨_, State.finish_solo h _ hthreads⟩

end Sys2Proof.Machine
end

section
/-! SUPPORT. LDG of one thread (R186, R190, R196, R198 to R200, R218): the line that its access finds, the bytes it takes of it and their extension. -/
namespace Sys2Proof.Machine

-- The line an access finds (R190, R196, R198, R218) ------------------------------------------------------------------------

theorem State.l1Home_modCore (s : State) (k core : Nat) (f : Core → Core) : (s.modCore k f).l1Home core = s.l1Home core := rfl

theorem State.l1_modL1 (s : State) (core : Nat) (f : L1 → L1) : (s.modL1 core f).l1 core = f (s.l1 core) := by
  rw [State.l1, State.modL1, State.l1Home_modCore, State.core_modCore, if_pos rfl]
  rfl

/-- An acquire wider than the core empties the L1 (R218). -/
theorem State.l1_acquire (s : State) (core : Nat) (o : OrdSc) : (s.acquire core o).l1 core = if ordWide o then [] else s.l1 core := by
  unfold State.acquire
  split
  · exact s.l1_modL1 core _
  · rfl

theorem State.l1_fill (s : State) (slot lane : Nat) (tr : Trans) (core : Nat) : (s.fill slot lane tr).l1 core = s.l1 core := by
  have hfused : ((s.fill slot lane tr).cluster (core / 8)).fused = (s.cluster (core / 8)).fused := by
    have := congrArg Cluster.fused ((s.fill_accessed slot lane tr).cluster (core / 8))
    exact this
  rw [State.l1, State.l1, State.l1Home, State.l1Home, hfused]
  rfl

/-- A held translation changes nothing that an access sees. -/
theorem State.sees_fill {s : State} {slot : Nat} {o : OrdSc} {pa mt : Nat} {l : Line} (h : s.sees slot o pa mt l) (lane : Nat) (tr : Trans) :
    (s.fill slot lane tr).sees slot o pa mt l := by
  have hbytes := (s.fill_reads slot lane tr).bytes
  simpa only [State.sees, State.l1_fill, State.lineFault_sameBytes hbytes, State.line_sameBytes hbytes] using h

/-- What is in no L1 is read from memory. -/
theorem State.loadLine_sees {s : State} {core n : Nat} {l : Line}
    (h : match (s.l1 core).find n with | some x => l = x | none => s.lineFault n = none ∧ l = s.line n) :
    ∃ u, s.loadLine core n = .ok (l, u) ∧ s.reads u := by
  unfold State.loadLine
  cases hfind : (s.l1 core).find n with
  | some x =>
    rw [hfind] at h
    exact ⟨s, by rw [h], s.reads_refl⟩
  | none =>
    rw [hfind] at h
    obtain ⟨hgood, rfl⟩ := h
    rw [hgood]
    exact ⟨_, rfl, State.reads_trans (State.reads_of_cachesOnly (s.useL2_cachesOnly n false)) (State.fillL1_reads ..)⟩

/-- The line that the access sees is the line it reads. -/
theorem State.readLine_sees {s : State} {slot : Nat} {o : OrdSc} {pa mt : Nat} {l : Line} (h : s.sees slot o pa mt l) :
    ∃ u, s.readLine slot o pa mt = .ok (l, u) ∧ s.reads u := by
  have hacquire := s.acquire_reads (coreOf slot) o
  have hfault := State.lineFault_sameBytes hacquire.bytes (pa / 128)
  have hline := State.line_sameBytes hacquire.bytes (pa / 128)
  have hl1 := s.l1_acquire (coreOf slot) o
  unfold State.readLine
  simp only
  generalize s.acquire (coreOf slot) o = t at *
  unfold State.sees at h
  by_cases hsync : mt = 1
  · rw [if_pos (.inl hsync)] at h
    obtain ⟨hgood, rfl⟩ := h
    rw [if_pos hsync, State.syncLine, hfault, hgood, hline]
    exact ⟨_, rfl, State.reads_trans hacquire (State.reads_of_cachesOnly (t.takeCell_cachesOnly _))⟩
  rw [if_neg hsync]
  by_cases hio : mt = 3
  · rw [if_pos (.inr (.inl hio))] at h
    obtain ⟨hgood, rfl⟩ := h
    rw [if_pos hio, State.plainLine, hfault, hgood, hline]
    exact ⟨t, rfl, hacquire⟩
  rw [if_neg hio]
  obtain ⟨u, hload, hreads⟩ := State.loadLine_sees (s := t) (core := coreOf slot) (n := pa / 128) (l := l) (by
    rw [hl1, hfault, hline]
    by_cases hwide : ordWide o = true
    · rw [if_pos (.inr (.inr hwide))] at h
      rw [if_pos hwide]
      exact h
    · rw [if_neg (by simp [hsync, hio, hwide])] at h
      rw [if_neg hwide]
      exact h)
  exact ⟨u, hload, State.reads_trans hacquire hreads⟩

/-- A load of memory of the package takes its bytes of the line that it sees, with the warp's buffered bytes in place (R186, R200). -/
theorem State.loadBytes_sees {s : State} {x : Nat × Nat} {o : OrdSc} {w : Width} {e : Acc} {pa mt : Nat} {l : Line} (hmem : e.t = .mem pa mt)
    (hsees : s.sees x.1 o pa mt l) :
    ∃ u, s.loadBytes x o w e = (.val (extendTo w (lineField (s.seenLine x.1 e.t l) (pa % 128) (widthBytes w))), u) ∧ s.reads u := by
  obtain ⟨u, hread, hreads⟩ := State.readLine_sees hsees
  refine ⟨u.observe x.1 false pa (widthBytes w) o, ?_, State.reads_trans hreads (u.observe_reads ..)⟩
  obtain ⟨va, target, tr⟩ := e
  subst hmem
  simp only [State.loadBytes, hread, State.seenLine_accessed hreads.accessed]

-- LDG (R199, R200) ---------------------------------------------------------------------------------------------------------

/-- LDG as a memory instruction. -/
def ldgOp (w : Width) (o : OrdSc) (d a : VReg) : MemOp where
  els := fun _ s t => s.fieldElems t a.toNat true ++ s.dataElems t d.toNat w
  plan := fun g s t => s.operandsTo g (s.fieldElems t a.toNat true) (s.dataElems t d.toNat w) fun va early s =>
    if early then s.freeLoad else (s.accessOf t (widthBytes w) va 0 (loadKind w), s)
  addr := fun s t => s.pairAddr t a
  rel := fun _ _ => .plain
  acq := o != .plain
  wr := false
  send := fun s t m => s.loadSend t w (keyOf (s.dataElems t d.toNat w)) m
  perform := fun s t m => match m with
    | .acc x _ => s.loadBytes t o w x
    | .skip v => (.val v, s)
    | _ => (.done, s)
  dest := fun s t => s.dataElems t d.toNat w

theorem exec_ldg_eq (c : Ctl) (w : Width) (o : OrdSc) (strm : Bool) (d a : VReg) (s : State) :
    exec (.ldg c w o strm d a) s = memOp c s (ldgOp w o d a) := rfl

/-- A load from memory of the package sends no request (R411). -/
theorem State.loadSend_mem {e : Acc} {pa mt : Nat} (hmem : e.t = .mem pa mt) (t : State) (x : Nat × Nat) (w : Width) (key : Nat) (v : DWord) :
    t.loadSend x w key (.acc e v) = none := by
  obtain ⟨va, target, tr⟩ := e
  subst hmem
  rfl

/-- The source elements of an open group may be read, and give what they hold. -/
theorem State.operandsTo_open {s : State} {g : Grp} {rs ws : List Elem} (h : s.open g rs ws) (k : DWord → Bool → State → Ck MAcc × State) :
    s.operandsTo g rs ws k = k (s.elemsVal rs) false s := by
  simp only [State.operandsTo, State.elemsFault_open h, State.early_none h.2.1, State.readElems_ripe h.2.1]

/-- A value of 8 or 16 bits sign-extends to a register: where its top bit is set, the bits above it are filled (R200). -/
theorem signExtend_word {k raw : Nat} (hk : k = 8 ∨ k = 16) (h : raw < 2 ^ k) :
    ((((BitVec.ofNat 64 raw).setWidth k).signExtend 32 : Word)).setWidth 64
      = if raw < 2 ^ (k - 1) then BitVec.ofNat 64 raw else BitVec.ofNat 64 (raw + (2 ^ 32 - 2 ^ k)) := by
  apply BitVec.eq_of_toNat_eq
  rcases hk with rfl | rfl
  all_goals
    simp only [BitVec.toNat_setWidth, BitVec.toNat_signExtend, BitVec.msb_eq_decide, BitVec.toNat_ofNat]
    split <;> split <;> simp at * <;> omega

-- A thread alone at LDG, whose operands are open and whose access to memory of the package is granted
section
variable {c : Ctl} {w : Width} {o : OrdSc} {strm : Bool} {d a : VReg} {s : State} {g : Grp} {x : Nat × Nat} {e : Acc} {pa mt : Nat} {l : Line}
  (hsolo : s.solo c 1 g x) (hopen : s.open g (s.fieldElems x a.toNat true) (s.dataElems x d.toNat w))
  (hgrant : s.access (.lane x.1 x.2) (s.ctxOf x.1) (widthBytes w) (s.elemsVal (s.fieldElems x a.toNat true)) (loadKind w) = .ok e)
  (hmem : e.t = .mem pa mt)

include hopen hgrant in
/-- Its checks pass (R117). -/
theorem ldgOp_plan : (ldgOp w o d a).plan g s x = (.ok (.acc e 0), s) := by
  simp only [ldgOp, State.operandsTo_open hopen, State.accessOf, hgrant, Ck.bind, Bool.false_eq_true, if_false]

include hsolo hopen hgrant hmem in
/-- Its value is pending into its register, and nothing else that a read does not change has changed. -/
theorem exec_ldg (hsees : s.sees x.1 o pa mt l) :
    ∃ t, exec (.ldg c w o strm d a) s = .next t ∧ s.access1 t ∧ s.memKept t ∧ (s.passed t g fun _ => g.next)
      ∧ s.owes t x (s.dataElems x d.toNat w) (extendTo w (lineField (s.seenLine x.1 e.t l) (pa % 128) (widthBytes w))) := by
  have hfill := s.fill_reads x.1 x.2 e.tr
  obtain ⟨u, hload, hreads⟩ := State.loadBytes_sees (w := w) hmem (State.sees_fill hsees x.2 e.tr)
  rw [State.seenLine_accessed hfill.accessed] at hload
  exact ⟨_, by rw [exec_ldg_eq, memOp_eq hsolo hopen.1], memDone_val hsolo (ldgOp_plan (o := o) hopen hgrant)
    (fun t => State.loadSend_mem hmem t x w _ 0) hload (State.reads_trans hfill hreads) rfl⟩

end

/-- Settles O20: the bytes of the line that the load sees, whose extension is that of its width. -/
theorem globalLoads : Obligations.GlobalLoads := by
  unfold Obligations.GlobalLoads
  intro c w o strm d a s g x e pa mt l hsolo hopen hgrant hmem hsees n raw val
  have hval : extendTo w (lineField (s.seenLine x.1 e.t l) (pa % 128) (widthBytes w)) = val := by
    have hlt : raw < 2 ^ (8 * n) := Nat.mod_lt _ (Nat.two_pow_pos _)
    cases w with
    | s8 => exact signExtend_word (.inl rfl) hlt
    | s16 => exact signExtend_word (.inr rfl) hlt
    | z8 | z16 | z32 | z64 => rfl
  rw [← hval]
  exact exec_ldg hsolo hopen hgrant hmem hsees

end Sys2Proof.Machine
end

section
/-! SUPPORT. LDS and STS of one thread inside its workgroup's region (R201 to R204). -/
namespace Sys2Proof.Machine

-- The region of a workgroup (R201) ------------------------------------------------------------------------------------------

/-- A scratchpad access inside the region passes its checks (R204). -/
theorem State.spadCk_inside {s : State} {x : Nat × Nat} {off n : Nat} (haligned : off % n = 0) (hinside : off + n ≤ (s.wgOf x.1).scr) (v : DWord) :
    s.spadCk x off n v = .ok (.spad off v) := by
  rw [State.spadCk, if_neg (by omega), if_neg (by omega)]

/-- What a scratchpad store of w bytes changes, before rows are noted and the group finishes. -/
structure State.padStored (s t : State) (slot off n v : Nat) : Prop where
  rest : { t.rest with wgs := [] } = { s.rest with wgs := [] }
  quads : t.quads = s.quads
  warps : t.warps = s.warps
  others : ∀ j, j ≠ (s.warp slot).wg → t.wgs.get j = s.wgs.get j
  wg : { (t.wgs.get (s.warp slot).wg) with unready := [] }
    = { (s.wgs.get (s.warp slot).wg) with unready := [], spad := (s.wgs.get (s.warp slot).wg).spad.write off n v }

theorem State.padStored_thread {s t : State} {slot off n v : Nat} (h : s.padStored t slot off n v) (k l : Nat) : t.thread k l = s.thread k l := by
  rw [State.thread, State.thread, State.warp, State.warp, h.warps]

/-- What a store by a warp makes of what releases carry in workgroup j (R220). -/
def State.publishIn (s : State) (slot : Nat) (sp : Bool) (a w : Nat) (o : OrdSc) (j : Nat) (g : Workgroup) : Workgroup :=
  if sp && j != (s.warp slot).wg then g
  else { g with unready := g.unready.map (fun u => u.publish (j == (s.warp slot).wg) false (o != .plain) (s.warp slot).wid sp a w) }

theorem State.publish_eq (s : State) (slot : Nat) (sp : Bool) (a w : Nat) (o : OrdSc) :
    s.publish slot sp a w o = if s.allReady then s else { s with wgs := s.wgs.map (s.publishIn slot sp a w o) } := rfl

/-- The store is of its own workgroup's region alone, and releases leave tile writes with its bytes alone (R201, R220). -/
theorem State.spadStore_padStored (s : State) (slot off n : Nat) (v : DWord) (o : OrdSc) :
    s.padStored ((s.spadStore slot off n v).publish slot true off n o) slot off n v.toNat := by
  have hget (j : Nat) : (s.spadStore slot off n v).wgs.get j = if j = (s.warp slot).wg
      then { (s.wgs.get (s.warp slot).wg) with spad := (s.wgs.get (s.warp slot).wg).spad.write off n v.toNat } else s.wgs.get j :=
    Table.get_put ..
  have hwarp : (s.spadStore slot off n v).warp slot = s.warp slot := rfl
  rw [State.publish_eq]
  split
  · refine ⟨rfl, rfl, rfl, fun j hj => ?_, ?_⟩
    · rw [hget, if_neg hj]
    · rw [hget, if_pos rfl]
  · have hmap (j : Nat) := Table.get_map_of_default ((s.spadStore slot off n v).publishIn slot true off n o)
      (fun k => by unfold State.publishIn; split <;> rfl) (s.spadStore slot off n v).wgs j
    refine ⟨rfl, rfl, rfl, fun j hj => (hmap j).trans ?_, ?_⟩
    · rw [State.publishIn, hwarp, if_pos (by simpa using hj), hget, if_neg hj]
    · simp only [hmap]
      rw [State.publishIn, hwarp, if_neg (by simp), hget, if_pos rfl]

/-- Then rows are noted and the group finishes: the region holds the bytes stored, and nothing outside it has changed. -/
theorem State.padStored_settled {s u v t : State} {slot off n val : Nat} (h : s.padStored u slot off n val) (i : u.warpsOnly Warp.unplaced v)
    (j : v.still t) :
    s.memKept t ∧ t.pend = s.pend ∧ s.elemsKept t [] ∧ { t.rest with wgs := [] } = { s.rest with wgs := [] }
      ∧ (∀ k, k ≠ (s.warp slot).wg → t.wgs.get k = s.wgs.get k)
      ∧ { (t.wgOf slot) with spad := [], unready := [] } = { (s.wgOf slot) with spad := [], unready := [] }
      ∧ (t.wgOf slot).spad.read off n = val % 2 ^ (8 * n)
      ∧ ∀ y, y < off ∨ off + n ≤ y → (t.wgOf slot).spad.byte y = (s.wgOf slot).spad.byte y := by
  have hrest : t.rest = u.rest := j.1.trans i.1
  have hall : { t.rest with wgs := [] } = { s.rest with wgs := [] } := (congrArg (fun r : State => { r with wgs := [] }) hrest).trans h.rest
  have hbytes : s.sameBytes u := by
    refine ⟨?_, ?_, ?_⟩
    · have := congrArg State.mem h.rest; exact this
    · have := congrArg State.side h.rest; exact this
    · have := congrArg State.badLines h.rest; exact this
  have hwgs : t.wgs = u.wgs := by have := congrArg State.wgs hrest; exact this
  have hunplaced (k : Nat) : (t.warp k).unplaced.still = (s.warp k).unplaced.still := by
    have hwarp : u.warp k = s.warp k := by rw [State.warp, State.warp, h.warps]
    rw [← hwarp, ← i.2.2 k]
    exact congrArg Warp.unplaced (j.2.2 k).1
  have hwgOf : t.wgOf slot = u.wgs.get (s.warp slot).wg := by
    have : (t.warp slot).wg = (s.warp slot).wg := by have := congrArg Warp.wg (hunplaced slot); exact this
    rw [State.wgOf, hwgs, this]
  have hspad : (u.wgs.get (s.warp slot).wg).spad = (s.wgs.get (s.warp slot).wg).spad.write off n val := by
    have := congrArg Workgroup.spad h.wg; exact this
  refine ⟨State.memKept_settled hbytes h.warps i j, ?_, fun k row lane _ _ => ?_, hall, fun k hk => ?_, ?_, ?_, fun y hy => ?_⟩
  · have := congrArg State.pend hall; exact this
  · have := congrArg (fun w => Warp.elem w row lane) (hunplaced k); exact this
  · rw [hwgs, h.others k hk]
  · rw [hwgOf]
    exact congrArg (fun w : Workgroup => { w with spad := [] }) h.wg
  · rw [hwgOf, hspad, Memory.read_write_same, Nat.pow_mul]
  · rw [hwgOf, hspad]
    rcases hy with hy | hy
    · exact Memory.byte_write_of_lt _ _ _ _ _ hy
    · exact Memory.byte_write_of_ge _ _ _ _ _ hy

-- LDS and STS (R204) -------------------------------------------------------------------------------------------------------

/-- LDS as a memory instruction. -/
def ldsOp (w : Width) (acq : Bool) (d a : VReg) : MemOp where
  els := fun _ s t => s.fieldElems t a.toNat false ++ s.dataElems t d.toNat w
  plan := fun g s t => s.operandsTo g (s.fieldElems t a.toNat false) (s.dataElems t d.toNat w) fun o early s =>
    if early then s.freeLoad else (s.spadCk t o.toNat (widthBytes w) 0, s)
  addr := fun _ _ => 0
  rel := fun _ _ => .plain
  wr := false
  send := fun _ _ _ => none
  perform := fun s t m => match m with
    | .spad o _ => (.val (s.spadLoad t.1 o w), s.observe t.1 true o (widthBytes w) (if acq then .core else .plain))
    | .skip v => (.val v, s)
    | _ => (.done, s)
  dest := fun s t => s.dataElems t d.toNat w

theorem exec_lds_eq (c : Ctl) (w : Width) (acq : Bool) (d a : VReg) (s : State) : exec (.lds c w acq d a) s = memOp c s (ldsOp w acq d a) := rfl

/-- STS as a memory instruction. -/
def stsOp (w : Width) (rel : Bool) (d a : VReg) : MemOp where
  els := fun _ s t => s.fieldElems t a.toNat false ++ s.dataElems t d.toNat w
  plan := fun g s t => s.operands g (s.fieldElems t a.toNat false) (s.dataElems t d.toNat w) fun o early s =>
    let (v, s) := s.readElems g (s.dataElems t d.toNat w)
    (softCk early (s.spadCk t o.toNat (widthBytes w) v), s)
  addr := fun _ _ => 0
  rel := fun _ _ => if rel then .core else .plain
  send := fun _ _ _ => none
  perform := fun s t m => match m with
    | .spad o v => (.done, (s.spadStore t.1 o (widthBytes w) v).publish t.1 true o (widthBytes w) (if rel then .core else .plain))
    | _ => (.done, s)
  dest := fun _ _ => []

theorem exec_sts_eq (c : Ctl) (w : Width) (rel : Bool) (d a : VReg) (s : State) : exec (.sts c w rel d a) s = memOp c s (stsOp w rel d a) := rfl

theorem State.calm_of_open {s : State} {g : Grp} {rs : List Elem} (h : s.open g rs []) : s.calm rs := by
  have := h.1
  rwa [List.append_nil] at this

/-- The address elements of an open group that writes none may be read, and give what they hold; -/
theorem State.operands_open {s : State} {g : Grp} {as ds : List Elem} (h : s.open g (as ++ ds) []) (k : DWord → Bool → State → Ck MAcc × State) :
    s.operands g as ds k = k (s.elemsVal as) false s := by
  have haddr := State.ripe_mono h.2.1 fun _ hy => List.mem_append_left ds hy
  simp only [State.operands, State.elemsFault_open h, State.early_none haddr, State.readElems_ripe haddr]

/-- and so may its data elements. -/
theorem State.readElems_open {s : State} {g : Grp} {as ds : List Elem} (h : s.open g (as ++ ds) []) : s.readElems g ds = (s.elemsVal ds, s) :=
  State.readElems_ripe (State.ripe_mono h.2.1 fun _ hy => List.mem_append_right as hy)

-- A thread alone at LDS or STS, whose offset is aligned and inside the region
section
variable {c : Ctl} {w : Width} {f : Bool} {d a : VReg} {s : State} {g : Grp} {x : Nat × Nat} (hsolo : s.solo c 1 g x)
  (haligned : (s.elemsVal (s.fieldElems x a.toNat false)).toNat % widthBytes w = 0)
  (hinside : (s.elemsVal (s.fieldElems x a.toNat false)).toNat + widthBytes w ≤ (s.wgOf x.1).scr)

include hsolo haligned hinside in
theorem exec_lds (hopen : s.open g (s.fieldElems x a.toNat false) (s.dataElems x d.toNat w)) :
    ∃ t, exec (.lds c w f d a) s = .next t ∧ s.access1 t ∧ s.memKept t ∧ (s.passed t g fun _ => g.next)
      ∧ s.owes t x (s.dataElems x d.toNat w) (s.spadLoad x.1 (s.elemsVal (s.fieldElems x a.toNat false)).toNat w) := by
  have hplan : (ldsOp w f d a).plan g s x = (.ok (.spad (s.elemsVal (s.fieldElems x a.toNat false)).toNat 0), s) := by
    simp only [ldsOp, State.operandsTo_open hopen, State.spadCk_inside haligned hinside, Bool.false_eq_true, if_false]
  exact ⟨_, by rw [exec_lds_eq, memOp_eq hsolo hopen.1], memDone_val (m := ldsOp w f d a) hsolo hplan (fun _ => rfl) rfl (s.observe_reads ..) rfl⟩

include hsolo haligned hinside in
theorem exec_sts (hopen : s.open g (s.fieldElems x a.toNat false ++ s.dataElems x d.toNat w) []) :
    ∃ u v t, exec (.sts c w f d a) s = .next t
      ∧ s.padStored u x.1 (s.elemsVal (s.fieldElems x a.toNat false)).toNat (widthBytes w) (s.elemsVal (s.dataElems x d.toNat w)).toNat
      ∧ u.warpsOnly Warp.unplaced v ∧ v.still t ∧ (s.passed t g fun _ => g.next) := by
  have hplan : (stsOp w f d a).plan g s x
      = (.ok (.spad (s.elemsVal (s.fieldElems x a.toNat false)).toNat (s.elemsVal (s.dataElems x d.toNat w))), s) := by
    simp only [stsOp, State.operands_open hopen, State.readElems_open hopen, State.spadCk_inside haligned hinside, softCk, Bool.false_eq_true, if_false]
  have hstored := s.spadStore_padStored x.1 (s.elemsVal (s.fieldElems x a.toNat false)).toNat (widthBytes w) (s.elemsVal (s.dataElems x d.toNat w))
    (if f then .core else .plain)
  obtain ⟨v, hend⟩ := memDone_done (m := stsOp w f d a) hsolo hplan (fun _ => rfl) rfl (State.padStored_thread hstored)
  exact ⟨_, v, _, by rw [exec_sts_eq, memOp_eq hsolo (State.calm_of_open hopen)], hstored, hend⟩

end

/-- Settles O23. -/
theorem scratchpadAccess : Obligations.ScratchpadAccess := by
  unfold Obligations.ScratchpadAccess
  intro c w f d a s g x hsolo off n haligned hinside
  refine ⟨fun hopen => exec_lds hsolo haligned hinside hopen, fun hopen => ?_⟩
  obtain ⟨u, v, t, hexec, hstored, hrows, hstill, hpassed⟩ := exec_sts (f := f) hsolo haligned hinside hopen
  obtain ⟨hmem, hpend, hrest⟩ := State.padStored_settled hstored hrows hstill
  exact ⟨t, hexec, hmem, hpassed, hpend, hrest⟩

end Sys2Proof.Machine
end

section
/-! SUPPORT. LDG and STG of one thread whose checks fail (R192, R196, R199, R384): the thread enters its handler, and the access is not made. -/
namespace Sys2Proof.Machine

-- A memory instruction that traps (R117, R384) -------------------------------------------------------------------------------

theorem State.handler_of_unplaced {s t : State} (h : s.warpsOnly Warp.unplaced t) (k : Nat) : t.handler k = s.handler k := by
  obtain ⟨hrest, -, hwarp⟩ := h
  have hctxs : t.ctxs = s.ctxs := by have := congrArg State.ctxs hrest; exact this
  have hkernels : t.kernels = s.kernels := by have := congrArg State.kernels hrest; exact this
  have hwgs : t.wgs = s.wgs := by have := congrArg State.wgs hrest; exact this
  have hwg : (t.warp k).wg = (s.warp k).wg := by have := congrArg Warp.wg (hwarp k); exact this
  simp only [State.handler, State.ctx, State.kernelOf, State.kernel, State.wgOf, hctxs, hkernels, hwgs, hwg]

/-- The one thread of a group enters its handler, and nothing else changes. -/
theorem State.finish_trap {s : State} {g : Grp} {x : Nat × Nat} {f : PFault} (hset : g.set = g.acts) (hacts : g.acts = [x]) (hlane : x.2 < 32)
    (hcheck : f.cause ≠ 7) (hmode : (s.thread x.1 x.2).tmode = false) (hvec : s.handler x.1 ≠ 0) :
    let t := s.finish g [(x, .fault f g.pc)]
    t.rest = s.rest ∧ (∀ k, (t.warp k).still = (s.warp k).still) ∧ t.thread x.1 x.2 = (s.thread x.1 x.2).trapped (s.handler x.1) g.pc f := by
  obtain ⟨l, hfates, hmem⟩ := byLane_map (fun _ => .fault f g.pc) [x]
  have hnodup : l.Nodup := by
    refine List.Nodup.of_map (fun a => (a, Fate.fault f g.pc)) ?_
    rw [← hfates]
    exact byLane_nodup (List.nodup_singleton _)
  obtain ⟨⟨hrest, -, hwarp⟩, hthread⟩ := State.foldl_fault g.pc hcheck l s hnodup fun a ha => by
    rw [List.mem_singleton.mp ((hmem a).mp ha)]
    exact ⟨hmode, hvec⟩
  simp only [hmem, List.mem_singleton] at hthread
  obtain ⟨⟨hrest', -, hwarp'⟩, hsame⟩ := State.finish_ready (s := s) (g := g) (fs := [(x, .fault f g.pc)])
    (congrArg (List.foldl State.applyFate s) hfates) hset fun a ha => by
      rw [hacts] at ha
      obtain rfl := List.mem_singleton.mp ha
      exact ⟨hlane, by rw [hthread, if_pos rfl]; rfl⟩
  exact ⟨hrest'.trans hrest, fun k => (hwarp' k).1.trans (hwarp k), by rw [hsame, hthread, if_pos rfl]⟩

/-- The thread has entered its handler at the address of the fault, and neither memory nor a register has changed (R384). -/
def State.trapsAt (s t : State) (g : Grp) (x : Nat × Nat) (f : PFault) : Prop :=
  s.memKept t ∧ t.pend = s.pend ∧ s.elemsKept t [] ∧ (t.thread x.1 x.2).tcause = f.cause ∧ (t.thread x.1 x.2).taddr = f.addr
    ∧ (t.thread x.1 x.2).tepc = g.pc ∧ (t.thread x.1 x.2).tmode = true ∧ (t.thread x.1 x.2).pc = s.handler x.1

theorem memDone_fault {m : MemOp} {s : State} {c : Ctl} {g : Grp} {x : Nat × Nat} {f : PFault} (h : s.solo c 1 g x)
    (hplan : m.plan g s x = (.fault f, s)) (hcheck : f.cause ≠ 7) (hmode : (s.thread x.1 x.2).tmode = false) (hvec : s.handler x.1 ≠ 0) :
    s.trapsAt (memDone m g s) g x f := by
  obtain ⟨-, hset, -⟩ := State.group_some h.1.1
  have hrows := s.settleRows_warpsOnly g (m.els g s x)
  rw [memDone, memBody_fault h.2.1 h.2.2 hplan]
  generalize s.settleRows g (m.els g s x) = v at *
  have hthread : v.thread x.1 x.2 = s.thread x.1 x.2 := by rw [State.thread, Warp.thread_of_unplaced (hrows.2.2 x.1)]; rfl
  have hhandler := State.handler_of_unplaced hrows x.1
  obtain ⟨hrest, hwarp, hentered⟩ := State.finish_trap (s := v) (f := f) hset h.2.1 (h.1.2.2 x (by rw [h.2.1]; exact List.mem_singleton_self x)).1 hcheck
    (by rw [hthread]; exact hmode) (by rw [hhandler]; exact hvec)
  rw [hthread, hhandler] at hentered
  generalize v.finish g [(x, .fault f g.pc)] = t at *
  have hall := hrest.trans hrows.1
  have hunplaced (k : Nat) : (t.warp k).unplaced.still = (s.warp k).unplaced.still := by
    rw [← hrows.2.2 k]
    exact congrArg Warp.unplaced (hwarp k)
  refine ⟨⟨State.mem_of_rest hall, State.side_of_rest hall, State.badLines_of_rest hall, fun k => ?_⟩, ?_, fun k row lane _ _ => ?_, ?_⟩
  · have := congrArg Warp.nf (hunplaced k); exact this
  · have := congrArg State.pend hall; exact this
  · have := congrArg (fun w => Warp.elem w row lane) (hunplaced k); exact this
  · rw [hentered]
    exact ⟨rfl, rfl, rfl, rfl, rfl⟩

-- The checks that fail (R192, R196) ------------------------------------------------------------------------------------------

/-- An access that is not aligned to its width faults first (R117, R192). -/
theorem State.accessOf_misaligned {s : State} {x : Nat × Nat} {w : Nat} {va : DWord} (h : va.toNat % w ≠ 0) (v : DWord) (k : AccKind) :
    s.accessOf x w va v k = .fault (pf 4 va) := by
  rw [State.accessOf, State.access, if_pos h]
  rfl

/-- A store through a translation without the right to write faults (R196). -/
theorem State.accessOf_unwritable {s : State} {x : Nat × Nat} {w : Nat} {va : DWord} {tr : Trans} (haligned : va.toNat % w = 0)
    (hcanonical : Machine.canonical va = true) (hheld : s.heldTrans x.1 x.2 (s.ctxOf x.1) va = some tr) (hright : tr.leaf.getLsbD 6 = false) (v : DWord)
    {k : AccKind} (hwrite : k.wr = true) : s.accessOf x w va v k = .fault (pf 6 va) := by
  have htranslate : s.translate (.lane x.1 x.2) (s.ctxOf x.1) va = .ok tr := by
    rw [State.translate, hcanonical]
    simp only [hheld]
    rfl
  have hgrant : s.grant tr va k = .fault (pf 6 va) := by
    have hbit : tst tr.leaf.toNat 6 = false := by rw [tst_eq_testBit]; exact hright
    simp only [State.grant, hwrite, hbit, Bool.true_or, Bool.not_false, Bool.true_and, if_true]
  rw [State.accessOf, State.access, if_neg (not_not.mpr haligned), htranslate]
  simp only [Ck.bind, hgrant]

theorem State.open_dest {s : State} {g : Grp} {as ds : List Elem} (h : s.open g (as ++ ds) []) : s.open g as ds := by
  obtain ⟨hcalm, hripe, hheld⟩ := h
  rw [List.append_nil] at hcalm hheld
  exact ⟨hcalm, State.ripe_mono hripe fun _ hy => List.mem_append_left ds hy, hheld⟩

/-- Settles O22: the check of LDG or STG is the fault of its access, which the thread takes. -/
theorem accessTraps : Obligations.AccessTraps := by
  unfold Obligations.AccessTraps
  intro c w o strm d a s g x i hsolo hmode hvec hopen va traps
  have hload {f : PFault} (hcheck : f.cause ≠ 7) (hfault : s.accessOf x (widthBytes w) va 0 (loadKind w) = .fault f) :
      ∃ t, exec (.ldg c w o strm d a) s = .next t ∧ s.trapsAt t g x f := by
    have hto := State.open_dest hopen
    have hplan : (ldgOp w o d a).plan g s x = (.fault f, s) := by
      simp only [ldgOp, State.operandsTo_open hto, Bool.false_eq_true, if_false]
      rw [hfault]
    exact ⟨_, by rw [exec_ldg_eq, memOp_eq hsolo hto.1], memDone_fault hsolo hplan hcheck hmode hvec⟩
  have hstore {f : PFault} (hcheck : f.cause ≠ 7)
      (hfault : s.accessOf x (widthBytes w) va (s.elemsVal (s.dataElems x d.toNat w)) (storeKind w) = .fault f) :
      ∃ t, exec (.stg c w o strm d a) s = .next t ∧ s.trapsAt t g x f := by
    have hplan : (stgOp w o d a).plan g s x = (.fault f, s) := by
      simp only [stgOp, State.operands_open hopen, State.readElems_open hopen, softCk, Bool.false_eq_true, if_false]
      rw [hfault]
    exact ⟨_, by rw [exec_stg_eq, memOp_eq hsolo (State.calm_of_open hopen)], memDone_fault hsolo hplan hcheck hmode hvec⟩
  refine ⟨fun hi hmisaligned => ?_, fun hi haligned hcanonical tr hheld hright => ?_⟩
  · rcases hi with rfl | rfl
    · exact hload (f := pf 4 va) (show 4#8 ≠ 7#8 by decide) (State.accessOf_misaligned hmisaligned _ _)
    · exact hstore (f := pf 4 va) (show 4#8 ≠ 7#8 by decide) (State.accessOf_misaligned hmisaligned _ _)
  · subst hi
    exact hstore (f := pf 6 va) (show 6#8 ≠ 7#8 by decide) (State.accessOf_unwritable haligned hcanonical hheld hright _ rfl)

end Sys2Proof.Machine
end

section
/-! SUPPORT. LDT and STT of one thread through a valid shape record (R206 to R208): the place of an element, and the access to it. -/
namespace Sys2Proof.Machine

-- The place of an element (R206, R208) ---------------------------------------------------------------------------------------

/-- The coordinates lie in the record's dimensions. -/
def shpInside (r : LineBits) (coord : Nat → Int) : Bool :=
  (List.range (shpRank r)).all fun j => decide (0 ≤ coord j) && decide (coord j < shpDim r j)
/-- The address or offset of the element at some coordinates. -/
def shpPlace (r : LineBits) (coord : Nat → Int) : Int := shpBase r + ((List.range (shpRank r)).map fun j => coord j * shpStride r j).sum
/-- The coordinate that a thread's register holds. -/
def State.coord (s : State) (x : Nat × Nat) (a : VReg) (j : Nat) : Int :=
  ((s.warp x.1).elem (rowOf (s.thread x.1 x.2) (a.toNat + j)) x.2).toInt

theorem zipIdx_range_map (f : Nat → Int) (n : Nat) : ((List.range n).map f).zipIdx = (List.range n).map fun j => (f j, j) := by
  apply List.ext_getElem <;> simp

theorem widthBytes_storeWidth (w : Width) : widthBytes (storeWidth w) = widthBytes w := by cases w <;> rfl

/-- The checks of a shaped access, in terms of its coordinates (R117, R208). -/
theorem State.shapeCk_range (s : State) (x : Nat × Nat) (r : LineBits) (coord : Nat → Int) (v : DWord) (wr : Bool) :
    s.shapeCk x r ((List.range (shpRank r)).map coord) v wr =
      let n := widthBytes (shpWidth r)
      let at0 := shpPlace r coord
      if shpInside r coord = false then if shpClip r then .fault (pf 5 0) else .ok (.skip 0)
      else if at0 % n ≠ 0 then .fault (pf 4 (BitVec.ofInt 64 at0))
      else if shpSpace r then
        if at0 < 0 ∨ ((s.wgOf x.1).scr : Int) ≤ at0 ∨ (s.wgOf x.1).spanAt at0.toNat ≠ shpSwz r then .fault (pf 5 (BitVec.ofInt 64 at0))
        else s.spadCk x at0.toNat n v
      else if at0 < 0 ∨ (2 ^ 64 : Int) ≤ at0 then .fault (pf 5 (BitVec.ofInt 64 at0))
      else s.accessOf x n (BitVec.ofInt 64 at0) v (if wr then storeKind (storeWidth (shpWidth r)) else loadKind (shpWidth r)) := by
  have hout : (((List.range (shpRank r)).map coord).zipIdx.any fun c => decide (c.1 < 0) || decide ((shpDim r c.2 : Int) ≤ c.1)) = true
      ↔ shpInside r coord = false := by
    rw [zipIdx_range_map, List.any_map, shpInside, List.all_eq_false, List.any_eq_true]
    simp only [Function.comp_apply, Bool.or_eq_true, Bool.and_eq_true, decide_eq_true_eq, not_and_or, not_le, not_lt]
  have hsum : ((((List.range (shpRank r)).map coord).zipIdx.map fun c => c.1 * shpStride r c.2).foldl (· + ·) 0)
      = ((List.range (shpRank r)).map fun j => coord j * shpStride r j).sum := by
    rw [zipIdx_range_map, List.map_map, List.sum_eq_foldl]
    rfl
  cases wr <;> simp only [State.shapeCk, hout, hsum, Bool.false_eq_true, if_false, if_true, widthBytes_storeWidth] <;> rfl

-- The checks of a shaped access (R117, R207, R208) ---------------------------------------------------------------------------

theorem State.readWords_ripe {s : State} {g : Grp} {es : List Elem} (h : s.ripe g es) :
    s.readWords g es = (es.map fun e => (s.warp e.1).elem e.2.1 e.2.2, s) := by
  induction es with
  | nil => rfl
  | cons e es ih =>
    rw [State.readWords, State.readElem_ripe (h e List.mem_cons_self)]
    simp only [ih fun f hf => h f (List.mem_cons_of_mem _ hf), List.map_cons]

/-- The words of a thread's coordinate registers are its coordinates. -/
theorem State.map_coordElems (s : State) (x : Nat × Nat) (a : VReg) (n : Nat) :
    ((s.coordElems x a n).map fun e => (s.warp e.1).elem e.2.1 e.2.2).map BitVec.toInt = (List.range n).map (s.coord x a) := by
  simp only [State.coordElems, State.fieldElems, Bool.false_eq_true, if_false, List.map_flatMap, List.map_cons, List.map_nil]
  exact List.map_eq_flatMap.symm

/-- Rows that are open neither fault nor trap. -/
theorem State.not_elemTraps {s : State} {g : Grp} {es : List Elem} (h : s.ripe g es) : es.any (s.elemTraps g) = false :=
  List.any_eq_false.mpr fun e he => by rw [State.elemTraps, h e he, Bool.and_false]; exact Bool.false_ne_true

/-- A valid record in the slot, and registers that the instruction may name. -/
structure State.shapeNamed (s : State) (x : Nat × Nat) (slot : BitVec 3) (d a : VReg) (r : LineBits) : Prop where
  shape : (s.warp x.1).shapes.find slot.toNat = some r
  coords : a.toNat + shpRank r ≤ 128
  pair : shpWidth r = .z64 → d.toNat % 2 = 0

section
variable {s : State} {g : Grp} {x : Nat × Nat} {slot : BitVec 3} {d a : VReg} {r : LineBits} (h : s.shapeNamed x slot d a r)

include h

theorem State.slotShape_named : s.slotShape x.1 slot = some r := h.shape

theorem State.slotWidth_named : s.slotWidth x.1 slot = shpWidth r := by rw [State.slotWidth, State.slotShape_named h]

theorem State.shapeElems_named : s.shapeElems x slot d a = s.coordElems x a (shpRank r) ++ s.dataElems x d.toNat (shpWidth r) := by
  rw [State.shapeElems, State.slotShape_named h]

/-- The registers named are held (R98, R199). -/
theorem State.shapeRange_named {ce de : List Elem} (hheld : ∀ e ∈ ce ++ de, s.elemHeld e = true) :
    ((shpWidth r == .z64 && d.toNat % 2 == 1) || decide (128 < a.toNat + shpRank r) || !(ce ++ de).all s.elemHeld) = false := by
  have hodd : (shpWidth r == .z64 && d.toNat % 2 == 1) = false := by
    rw [Bool.and_eq_false_iff, beq_eq_false_iff_ne, beq_eq_false_iff_ne]
    by_cases hw : shpWidth r = .z64
    · exact .inr (by rw [h.pair hw]; decide)
    · exact .inl hw
  rw [hodd, decide_eq_false (Nat.not_lt.mpr h.coords), List.all_eq_true.mpr hheld]
  rfl

/-- A load through open registers goes by its coordinates. -/
theorem State.shapePlan_load (hopen : s.open g (s.coordElems x a (shpRank r)) (s.dataElems x d.toNat (shpWidth r))) :
    s.shapePlan g x slot d a false = (s.shapeCk x r ((List.range (shpRank r)).map (s.coord x a)) 0 false, s) := by
  obtain ⟨-, hripe, hheld⟩ := hopen
  simp only [State.shapePlan, State.slotShape_named h, State.shapeRange_named h hheld, State.not_elemTraps hripe, State.early_none hripe,
    State.readWords_ripe hripe, State.map_coordElems, softCk, Bool.false_eq_true, if_false, Bool.false_and]

/-- So does a store, with the data that its register holds. -/
theorem State.shapePlan_store (hopen : s.open g (s.coordElems x a (shpRank r) ++ s.dataElems x d.toNat (shpWidth r)) []) :
    s.shapePlan g x slot d a true
      = (s.shapeCk x r ((List.range (shpRank r)).map (s.coord x a)) (s.elemsVal (s.dataElems x d.toNat (shpWidth r))) true, s) := by
  have hcoords := (State.open_dest hopen).2.1
  have hdata := State.readElems_open hopen
  obtain ⟨-, hripe, hheld⟩ := hopen
  rw [List.append_nil] at hheld
  simp only [State.shapePlan, State.slotShape_named h, State.shapeRange_named h hheld, if_true, State.not_elemTraps hripe, State.early_none hcoords,
    State.readWords_ripe hcoords, State.map_coordElems, hdata, softCk, Bool.false_eq_true, if_false,
    Bool.not_true, Bool.and_false]

end

-- LDT and STT (R208) -------------------------------------------------------------------------------------------------------

/-- LDT as a memory instruction. -/
def ldtOp (slot : BitVec 3) (o : OrdSc) (d a : VReg) : MemOp where
  els := fun _ s t => s.shapeElems t slot d a
  plan := fun g s t => s.shapePlan g t slot d a false
  addr := fun s t => s.shapeAddr t slot a
  rel := fun _ _ => .plain
  acq := o != .plain
  wr := false
  send := fun s t m => s.loadSend t (s.slotWidth t.1 slot) (keyOf (s.dataElems t d.toNat (s.slotWidth t.1 slot))) m
  perform := fun s t m => match m with
    | .acc x _ => s.loadBytes t o (s.slotWidth t.1 slot) x
    | .spad at0 _ => (.val (s.spadLoad t.1 at0 (s.slotWidth t.1 slot)), s.observe t.1 true at0 (widthBytes (s.slotWidth t.1 slot)) o)
    | .skip v => (.val v, s)
    | .atom _ _ _ => (.done, s)
  dest := fun s t => s.dataElems t d.toNat (s.slotWidth t.1 slot)

theorem exec_ldt_eq (c : Ctl) (slot : BitVec 3) (o : OrdSc) (strm : Bool) (d a : VReg) (s : State) :
    exec (.ldt c slot o strm d a) s = shapeOp c slot s (ldtOp slot o d a) := rfl

/-- STT as a memory instruction. -/
def sttOp (slot : BitVec 3) (o : OrdSc) (d a : VReg) : MemOp where
  els := fun _ s t => s.shapeElems t slot d a
  plan := fun g s t => s.shapePlan g t slot d a true
  addr := fun s t => s.shapeAddr t slot a
  rel := fun s t => if s.slotSpad t.1 slot then o else s.storeRel o t
  ord := o
  send := fun s t m => s.storeSend t o (storeWidth (s.slotWidth t.1 slot)) m
  perform := fun s t m => match m with
    | .acc x v => s.storeBytes t o (storeWidth (s.slotWidth t.1 slot)) x v
    | .spad at0 v => (.done, (s.spadStore t.1 at0 (widthBytes (s.slotWidth t.1 slot)) v).publish t.1 true at0 (widthBytes (s.slotWidth t.1 slot)) o)
    | _ => (.done, s)
  dest := fun _ _ => []

theorem exec_stt_eq (c : Ctl) (slot : BitVec 3) (o : OrdSc) (strm : Bool) (d a : VReg) (s : State) :
    exec (.stt c slot o strm d a) s = shapeOp c slot s (sttOp slot o d a) := rfl

-- A thread alone at LDT or STT through a valid record
section
variable {c : Ctl} {slot : BitVec 3} {o : OrdSc} {strm : Bool} {d a : VReg} {s : State} {g : Grp} {x : Nat × Nat} {r : LineBits}
  (hsolo : s.solo c 1 g x) (h : s.shapeNamed x slot d a r) (hslot : s.pendShape x.1 slot.toNat = [])

include hsolo h hslot

/-- A load whose access reads and returns a value. -/
theorem exec_ldt {y : MAcc} {v : DWord} {u : State} (hopen : s.open g (s.coordElems x a (shpRank r)) (s.dataElems x d.toNat (shpWidth r)))
    (hcheck : s.shapeCk x r ((List.range (shpRank r)).map (s.coord x a)) 0 false = .ok y) (hsend : ∀ t, (ldtOp slot o d a).send t x y = none)
    (hdone : (ldtOp slot o d a).perform (s.holdTrans x y) x y = (.val v, u)) (hreads : s.reads u) :
    ∃ t, exec (.ldt c slot o strm d a) s = .next t ∧ s.access1 t ∧ s.memKept t ∧ (s.passed t g fun _ => g.next)
      ∧ s.owes t x (s.dataElems x d.toNat (shpWidth r)) v := by
  have hcalm : s.calm ((ldtOp slot o d a).els g s x) := by
    have := hopen.1
    rwa [← State.shapeElems_named h] at this
  have hwidth : u.slotWidth x.1 slot = shpWidth r := by
    rw [← State.slotWidth_named h, State.slotWidth, State.slotWidth, State.slotShape, State.slotShape, State.warp, State.warp, hreads.accessed.warps]
  have hdest : (ldtOp slot o d a).dest u x = u.fieldElems x d.toNat (shpWidth r == .z64) := by
    rw [← hwidth]
    rfl
  exact ⟨_, by rw [exec_ldt_eq, shapeOp_eq hsolo hslot hcalm],
    memDone_val hsolo (by rw [← hcheck]; exact State.shapePlan_load h hopen) hsend hdone hreads hdest⟩

/-- A store whose access leaves the threads as they were. -/
theorem exec_stt {y : MAcc} {u : State} (hopen : s.open g (s.coordElems x a (shpRank r) ++ s.dataElems x d.toNat (shpWidth r)) [])
    (hcheck : s.shapeCk x r ((List.range (shpRank r)).map (s.coord x a)) (s.elemsVal (s.dataElems x d.toNat (shpWidth r))) true = .ok y)
    (hsend : ∀ t, (sttOp slot o d a).send t x y = none) (hdone : (sttOp slot o d a).perform (s.holdTrans x y) x y = (.done, u))
    (hthreads : ∀ k l, u.thread k l = s.thread k l) :
    ∃ v t, exec (.stt c slot o strm d a) s = .next t ∧ u.warpsOnly Warp.unplaced v ∧ v.still t ∧ s.passed t g fun _ => g.next := by
  have hcalm : s.calm ((sttOp slot o d a).els g s x) := by
    have := State.calm_of_open hopen
    rwa [← State.shapeElems_named h] at this
  obtain ⟨v, hend⟩ := memDone_done hsolo (by rw [← hcheck]; exact State.shapePlan_store h hopen) hsend hdone hthreads
  exact ⟨v, _, by rw [exec_stt_eq, shapeOp_eq hsolo hslot hcalm], hend⟩

end

-- An element in memory of the package (R200, R208)

theorem toNat_mod_eq_zero_iff {z : Int} (h : 0 ≤ z) (n : Nat) : z.toNat % n = 0 ↔ z % (n : Int) = 0 := by
  rw [← Int.ofNat_inj, Int.natCast_mod, Int.toNat_of_nonneg h]
  rfl

/-- Its check is that of the access. -/
theorem State.shapeCk_memory {s : State} {x : Nat × Nat} {r : LineBits} {coord : Nat → Int} {e : Acc} (hin : shpInside r coord = true)
    (hspace : shpSpace r = false) (hlow : 0 ≤ shpPlace r coord) (hhigh : shpPlace r coord < 2 ^ 64) (v : DWord) (wr : Bool)
    (hgrant : s.access (.lane x.1 x.2) (s.ctxOf x.1) (widthBytes (shpWidth r)) (BitVec.ofInt 64 (shpPlace r coord))
      (if wr then storeKind (storeWidth (shpWidth r)) else loadKind (shpWidth r)) = .ok e) :
    s.shapeCk x r ((List.range (shpRank r)).map coord) v wr = .ok (.acc e v) := by
  have haligned : shpPlace r coord % (widthBytes (shpWidth r) : Int) = 0 := by
    have hmod : (BitVec.ofInt 64 (shpPlace r coord)).toNat % widthBytes (shpWidth r) = 0 := by
      by_contra hne
      rw [State.access, if_pos hne] at hgrant
      cases hgrant
    rw [BitVec.toNat_ofInt, Int.emod_eq_of_lt hlow (by exact_mod_cast hhigh)] at hmod
    exact (toNat_mod_eq_zero_iff hlow _).mp hmod
  rw [State.shapeCk_range]
  simp only [hin, hspace, Bool.true_eq_false, Bool.false_eq_true, if_false]
  rw [if_neg (not_not.mpr haligned), if_neg (by omega), State.accessOf, hgrant]
  rfl

/-- Its check is that of the scratchpad access (R204). -/
theorem State.shapeCk_pad {s : State} {x : Nat × Nat} {r : LineBits} {coord : Nat → Int} (hin : shpInside r coord = true) (hspace : shpSpace r = true)
    (hlow : 0 ≤ shpPlace r coord) (haligned : shpPlace r coord % (widthBytes (shpWidth r) : Int) = 0)
    (hregion : shpPlace r coord + widthBytes (shpWidth r) ≤ ((s.wgOf x.1).scr : Int)) (hspan : (s.wgOf x.1).spanAt (shpPlace r coord).toNat = shpSwz r)
    (v : DWord) (wr : Bool) :
    s.shapeCk x r ((List.range (shpRank r)).map coord) v wr = .ok (.spad (shpPlace r coord).toNat v) := by
  have hpositive : 0 < widthBytes (shpWidth r) := by cases shpWidth r <;> decide
  rw [State.shapeCk_range]
  simp only [hin, hspace, Bool.true_eq_false, if_true, if_false]
  rw [if_neg (not_not.mpr haligned), if_neg (by simp only [hspan]; omega), State.spadCk_inside ((toNat_mod_eq_zero_iff hlow _).mpr haligned) (by omega)]

/-- A record that does not clip leaves an element out of bounds alone (R208). -/
theorem State.shapeCk_outside {s : State} {x : Nat × Nat} {r : LineBits} {coord : Nat → Int} (hout : shpInside r coord = false)
    (hclip : shpClip r = false) (v : DWord) (wr : Bool) : s.shapeCk x r ((List.range (shpRank r)).map coord) v wr = .ok (.skip 0) := by
  rw [State.shapeCk_range]
  simp only [hout, hclip, if_true, Bool.false_eq_true, if_false]

-- The accesses themselves --------------------------------------------------------------------------------------------------

/-- Outside repeatable mode, or through an I/O page, a granted store into memory of the package stores its bytes (R188, R197, R200). -/
theorem State.storeBytes_stores {s : State} {x : Nat × Nat} {o : OrdSc} {w : Width} {e : Acc} {pa mt : Nat} (v : DWord) (hmem : e.t = .mem pa mt)
    (hplain : s.repeatableOf x.1 = false ∨ mt = 3) (hbad : s.mergeBad pa mt = none) (hwatch : s.unwatched pa (widthBytes w))
    (hkept : s.unkept pa (widthBytes w)) :
    ∃ u, (s.fill x.1 x.2 e.tr).storeBytes x o w e v = (.done, u) ∧ s.accessed u ∧ s.stored u pa (widthBytes w) v.toNat := by
  have hheld := s.fill_sameGround x.1 x.2 e.tr
  obtain ⟨haccessed, hstored⟩ := State.storeMem_stores x o v e.va ((State.mergeBad_sameBytes hheld.bytes pa mt).trans hbad)
    (State.unwatched_sameGround hheld hwatch) (State.unkept_sameGround hheld hkept)
  exact ⟨_, State.storeBytes_at_once (s := s.fill x.1 x.2 e.tr) v hmem hplain,
    State.accessed_trans (s.fill_accessed x.1 x.2 e.tr) haccessed, State.stored_of_sameBytes hheld.bytes hstored⟩

theorem State.accessed_thread {s t : State} (h : s.accessed t) (k l : Nat) : t.thread k l = s.thread k l := by
  rw [State.thread, State.thread, State.warp, State.warp, h.warps]

/-- What a store left in memory stands there after rows are noted and the group finishes. -/
theorem State.stored_settled {s u v t : State} {pa n val : Nat} (h : s.stored u pa n val) (i : u.warpsOnly Warp.unplaced v) (j : v.still t) :
    s.stored t pa n val := by
  have hrest := j.1.trans i.1
  exact State.stored_sameBytes h ⟨State.mem_of_rest hrest, State.side_of_rest hrest, State.badLines_of_rest hrest⟩

-- A thread alone at LDT or STT through a valid record, and what its coordinates name
section
variable {c : Ctl} {slot : BitVec 3} {o : OrdSc} {strm : Bool} {d a : VReg} {s : State} {g : Grp} {x : Nat × Nat} {r : LineBits}
  (hsolo : s.solo c 1 g x) (h : s.shapeNamed x slot d a r) (hslot : s.pendShape x.1 slot.toNat = [])

section
variable (hin : shpInside r (s.coord x a) = true) (hspace : shpSpace r = false) (hlow : 0 ≤ shpPlace r (s.coord x a))
  (hhigh : shpPlace r (s.coord x a) < 2 ^ 64) {e : Acc} {pa mt : Nat} (hmem : e.t = .mem pa mt)

include hsolo h hslot hin hspace hlow hhigh hmem

theorem exec_ldt_memory {l : Line} (hopen : s.open g (s.coordElems x a (shpRank r)) (s.dataElems x d.toNat (shpWidth r)))
    (hgrant : s.access (.lane x.1 x.2) (s.ctxOf x.1) (widthBytes (shpWidth r)) (BitVec.ofInt 64 (shpPlace r (s.coord x a))) (loadKind (shpWidth r)) = .ok e)
    (hsees : s.sees x.1 o pa mt l) :
    ∃ t, exec (.ldt c slot o strm d a) s = .next t ∧ s.access1 t ∧ s.memKept t ∧ (s.passed t g fun _ => g.next)
      ∧ s.owes t x (s.dataElems x d.toNat (shpWidth r))
        (extendTo (shpWidth r) (lineField (s.seenLine x.1 e.t l) (pa % 128) (widthBytes (shpWidth r)))) := by
  have hfill := s.fill_reads x.1 x.2 e.tr
  obtain ⟨u, hload, hreads⟩ := State.loadBytes_sees (w := shpWidth r) hmem (State.sees_fill hsees x.2 e.tr)
  rw [State.seenLine_accessed hfill.accessed] at hload
  refine exec_ldt hsolo h hslot hopen (State.shapeCk_memory hin hspace hlow hhigh 0 false hgrant) (fun t => State.loadSend_mem hmem t x _ _ 0) ?_
    (State.reads_trans hfill hreads)
  rw [← hload, ← State.slotWidth_named h]
  rfl

theorem exec_stt_memory (hopen : s.open g (s.coordElems x a (shpRank r) ++ s.dataElems x d.toNat (shpWidth r)) [])
    (hplain : s.repeatableOf x.1 = false ∨ mt = 3)
    (hgrant : s.access (.lane x.1 x.2) (s.ctxOf x.1) (widthBytes (shpWidth r)) (BitVec.ofInt 64 (shpPlace r (s.coord x a)))
      (storeKind (storeWidth (shpWidth r))) = .ok e)
    (hbad : s.mergeBad pa mt = none) (hwatch : s.unwatched pa (widthBytes (shpWidth r))) (hkept : s.unkept pa (widthBytes (shpWidth r))) :
    ∃ t, exec (.stt c slot o strm d a) s = .next t ∧ s.access1 t ∧ (s.passed t g fun _ => g.next) ∧ t.pend = s.pend
      ∧ s.stored t pa (widthBytes (shpWidth r)) (s.elemsVal (s.dataElems x d.toNat (shpWidth r))).toNat := by
  rw [← widthBytes_storeWidth] at hwatch hkept
  obtain ⟨u, hdone, haccessed, hstored⟩ := State.storeBytes_stores (o := o) (s.elemsVal (s.dataElems x d.toNat (shpWidth r))) hmem hplain hbad hwatch hkept
  rw [widthBytes_storeWidth] at hstored
  obtain ⟨v, t, hexec, hrows, hstill, hpassed⟩ := exec_stt (strm := strm) (o := o) (u := u) hsolo h hslot hopen
    (State.shapeCk_memory hin hspace hlow hhigh _ true hgrant) (fun t => stgOp_send (d := d) (a := a) hmem t _)
    (by rw [← hdone, ← State.slotWidth_named h]; rfl) (State.accessed_thread haccessed)
  obtain ⟨haccess, hpend⟩ := State.accessed_settled haccessed hrows hstill
  exact ⟨t, hexec, haccess, hpassed, hpend, State.stored_settled hstored hrows hstill⟩

end

section
variable (hin : shpInside r (s.coord x a) = true) (hspace : shpSpace r = true) (hlow : 0 ≤ shpPlace r (s.coord x a))
  (haligned : shpPlace r (s.coord x a) % (widthBytes (shpWidth r) : Int) = 0)
  (hregion : shpPlace r (s.coord x a) + widthBytes (shpWidth r) ≤ ((s.wgOf x.1).scr : Int))
  (hspan : (s.wgOf x.1).spanAt (shpPlace r (s.coord x a)).toNat = shpSwz r)

include hsolo h hslot hin hspace hlow haligned hregion hspan

theorem exec_ldt_pad (hopen : s.open g (s.coordElems x a (shpRank r)) (s.dataElems x d.toNat (shpWidth r))) :
    ∃ t, exec (.ldt c slot o strm d a) s = .next t ∧ s.access1 t ∧ s.memKept t ∧ (s.passed t g fun _ => g.next)
      ∧ s.owes t x (s.dataElems x d.toNat (shpWidth r)) (s.spadLoad x.1 (shpPlace r (s.coord x a)).toNat (shpWidth r)) := by
  refine exec_ldt hsolo h hslot hopen (State.shapeCk_pad hin hspace hlow haligned hregion hspan 0 false) (fun _ => rfl) ?_
    (s.observe_reads x.1 true (shpPlace r (s.coord x a)).toNat (widthBytes (shpWidth r)) o)
  rw [← State.slotWidth_named h]
  rfl

theorem exec_stt_pad (hopen : s.open g (s.coordElems x a (shpRank r) ++ s.dataElems x d.toNat (shpWidth r)) []) :
    ∃ u v t, exec (.stt c slot o strm d a) s = .next t
      ∧ s.padStored u x.1 (shpPlace r (s.coord x a)).toNat (widthBytes (shpWidth r)) (s.elemsVal (s.dataElems x d.toNat (shpWidth r))).toNat
      ∧ u.warpsOnly Warp.unplaced v ∧ v.still t ∧ s.passed t g fun _ => g.next := by
  have hstored := s.spadStore_padStored x.1 (shpPlace r (s.coord x a)).toNat (widthBytes (shpWidth r))
    (s.elemsVal (s.dataElems x d.toNat (shpWidth r))) o
  obtain ⟨v, t, hend⟩ := exec_stt (strm := strm) (o := o) hsolo h hslot hopen (State.shapeCk_pad hin hspace hlow haligned hregion hspan _ true)
    (fun _ => rfl) (by rw [← State.slotWidth_named h]; rfl) (State.padStored_thread hstored)
  obtain ⟨hexec, hrows, hstill, hpassed⟩ := hend
  exact ⟨_, v, t, hexec, hstored, hrows, hstill, hpassed⟩

end
end

/-- Settles O24: memory, the scratchpad, and an element out of bounds. -/
theorem shapedAccess : Obligations.ShapedAccess := by
  unfold Obligations.ShapedAccess
  intro c slot o strm d a s g x r hsolo hshape hslot hcoords hpair w n ce de coord inside at0 va
  have h : s.shapeNamed x slot d a r := ⟨hshape, hcoords, hpair⟩
  refine ⟨fun hin hspace hlow hhigh e pa mt l hmem => ⟨?ldtMemory, ?sttMemory⟩, fun hin hspace hlow haligned hregion hspan => ⟨?ldtPad, ?sttPad⟩,
    fun hout hclip => ⟨?ldtOut, ?sttOut⟩⟩
  case ldtMemory => exact fun hopen hgrant hsees => exec_ldt_memory hsolo h hslot hin hspace hlow hhigh hmem hopen hgrant hsees
  case sttMemory =>
    exact fun hopen hplain hgrant hbad hwatch hkept => exec_stt_memory hsolo h hslot hin hspace hlow hhigh hmem hopen hplain hgrant hbad hwatch hkept
  case ldtPad => exact fun hopen => exec_ldt_pad hsolo h hslot hin hspace hlow haligned hregion hspan hopen
  case sttPad =>
    intro hopen
    obtain ⟨u, v, t, hexec, hstored, hrows, hstill, hpassed⟩ :=
      exec_stt_pad (o := o) (strm := strm) hsolo h hslot hin hspace hlow haligned hregion hspan hopen
    obtain ⟨hmem, hpend, helems, -, -, -, hread, hother⟩ := State.padStored_settled hstored hrows hstill
    exact ⟨t, hexec, hmem, hpassed, helems, hpend, hread, hother⟩
  case ldtOut =>
    exact fun hopen => exec_ldt hsolo h hslot hopen (State.shapeCk_outside hout hclip 0 false) (fun _ => rfl) rfl s.reads_refl
  case sttOut =>
    intro hopen
    obtain ⟨v, t, hexec, hrows, hstill, hpassed⟩ := exec_stt (strm := strm) (o := o) (u := s) hsolo h hslot hopen
      (State.shapeCk_outside hout hclip _ true) (fun _ => rfl) rfl fun _ _ => rfl
    obtain ⟨haccess, hpend⟩ := State.accessed_settled s.accessed_refl hrows hstill
    exact ⟨t, hexec, haccess, State.memKept_settled ⟨rfl, rfl, rfl⟩ rfl hrows hstill, hpassed, hpend⟩

end Sys2Proof.Machine
end

section
/-! SUPPORT. PREF, CINV and CWB of one thread (R190, R209, R210): where the caches hold the line afterwards. -/
namespace Sys2Proof.Machine

-- Lines that caches hold (R190) ----------------------------------------------------------------------------------------------

theorem State.dropL1_l1 (s : State) (core j n : Nat) : (s.dropL1 core n).l1 j = if s.l1Home j = s.l1Home core then (s.l1 j).erase n else s.l1 j := by
  rw [State.l1, State.l1, State.dropL1, State.modL1, State.l1Home_modCore, State.core_modCore]
  split
  · next h => rw [h]
  · rfl

/-- A line dropped from the L1s of some cores is in none of them, and in no L1 that did not hold it. -/
theorem State.foldl_dropL1 (n : Nat) (cs : List Nat) (s : State) (j : Nat) (h : j ∈ cs ∨ (s.l1 j).find n = none) :
    ((cs.foldl (fun s k => s.dropL1 k n) s).l1 j).find n = none := by
  induction cs generalizing s with
  | nil => exact h.resolve_left List.not_mem_nil
  | cons c cs ih =>
    refine ih _ ?_
    rw [State.dropL1_l1]
    split
    · exact .inr (by rw [Table.find_erase, if_pos rfl])
    · next hhome =>
      refine h.imp_left fun hj => (List.mem_cons.mp hj).resolve_left ?_
      rintro rfl
      exact hhome rfl

theorem State.foldl_dropL1_reads (n : Nat) (cs : List Nat) (s : State) : s.reads (cs.foldl (fun s k => s.dropL1 k n) s) := by
  induction cs generalizing s with
  | nil => exact s.reads_refl
  | cons c cs ih => exact State.reads_trans (s.modL1_reads c _) (ih _)

theorem State.fillL1_l1 (s : State) (core n : Nat) (l : Line) : ((s.fillL1 core n l).l1 core).find n = some l := by
  have hput (t : L1) : (t.put n l).find n = some l := by rw [Table.find_put, if_pos rfl]
  unfold State.fillL1
  simp only
  split
  · rw [State.l1_modL1]
    exact hput _
  · have hhome (b : Bool) : (s.chose b).l1Home core = s.l1Home core := by unfold State.chose; split <;> rfl
    rw [State.l1, State.l1Home_modCore, hhome, State.core_modCore, if_pos rfl]
    exact hput _

theorem State.useMsc_holds (s : State) (n : Nat) (dirty : Bool) : (((s.useMsc n dirty).half (homeHalf (128 * n))).msc.find n).isSome = true := by
  have hput (t : Table Bool) (b : Bool) : ((t.put n b).find n).isSome = true := by rw [Table.find_put, if_pos rfl]; rfl
  unfold State.useMsc
  simp only
  split
  · rw [State.half_modHalf, if_pos rfl]
    exact hput _ _
  · rw [State.half_modHalf, if_pos rfl]
    exact hput _ _

/-- A line that passes through the memory-side cache changes no L2 slice. -/
theorem State.useMsc_l2 (s : State) (n : Nat) (dirty : Bool) (j : Nat) : ((s.useMsc n dirty).half j).l2 = (s.half j).l2 := by
  have hmod (t : State) {f : HalfDie → HalfDie} (hf : ∀ x, (f x).l2 = x.l2) : ((t.modHalf (homeHalf (128 * n)) f).half j).l2 = (t.half j).l2 := by
    rw [State.half_modHalf]
    split
    · next h => rw [hf, h]
    · rfl
  unfold State.useMsc
  simp only
  split
  · exact hmod s fun _ => rfl
  · refine (hmod (s.chose _) ?_).trans (congrArg HalfDie.l2 (State.chose_half ..))
    exact fun _ => rfl

theorem State.useL2_holds (s : State) (n : Nat) (dirty : Bool) (h : (s.half (homeHalf (128 * n))).cells.contains n = false) :
    (((s.useL2 n dirty).half (homeHalf (128 * n))).l2.find n).isSome = true := by
  have hput (t : Table Bool) (b : Bool) : ((t.put n b).find n).isSome = true := by rw [Table.find_put, if_pos rfl]; rfl
  unfold State.useL2
  simp only [h, Bool.false_eq_true, if_false]
  split
  · rw [State.half_modHalf, if_pos rfl]
    exact hput _ _
  · split
    · rw [State.useMsc_l2, State.half_modHalf, if_pos rfl]
      exact hput _ _
    · rw [State.half_modHalf, if_pos rfl]
      exact hput _ _

theorem State.useMsc_cachesOnly (s : State) (n : Nat) (dirty : Bool) : s.cachesOnly (s.useMsc n dirty) :=
  ⟨s.useMsc_eq n dirty, s.useMsc_half_rest n dirty⟩

/-- A table of lines in which line n is clean, if it is there. -/
def cleaned (n : Nat) (t : Table Bool) : Table Bool := if (t.find n).isSome then t.put n false else t

theorem find_cleaned (n : Nat) (t : Table Bool) : (cleaned n t).find n ≠ some true := by
  unfold cleaned
  split
  · rw [Table.find_put, if_pos rfl]
    simp
  · next h =>
    rw [Bool.not_eq_true, Option.isSome_eq_false_iff, Option.isNone_iff_eq_none] at h
    rw [h]
    simp

theorem State.cleanLine_eq (s : State) (n : Nat) :
    s.cleanLine n = s.modHalf (homeHalf (128 * n)) fun h => { h with l2 := cleaned n h.l2, msc := cleaned n h.msc } := rfl

/-- A line written back is dirty neither in its home L2 slice nor in the memory-side cache. -/
theorem State.cleanLine_clean (s : State) (n : Nat) :
    ((s.cleanLine n).half (homeHalf (128 * n))).l2.find n ≠ some true ∧ ((s.cleanLine n).half (homeHalf (128 * n))).msc.find n ≠ some true := by
  rw [State.cleanLine_eq, State.half_modHalf, if_pos rfl]
  exact ⟨find_cleaned n _, find_cleaned n _⟩

theorem State.cleanLine_reads (s : State) (n : Nat) : s.reads (s.cleanLine n) :=
  State.reads_of_cachesOnly (s.cachesOnly_modHalf _ (f := fun h => { h with l2 := cleaned n h.l2, msc := cleaned n h.msc }) fun _ => rfl)

-- A line brought into a level (R210) -----------------------------------------------------------------------------------------

theorem State.prefetch_fault {s : State} {n : Nat} (h : s.lineFault n ≠ none) (core : Nat) (l : CacheLevel) : s.prefetch core n l = s := by
  unfold State.prefetch
  rw [if_pos (Option.isSome_iff_ne_none.mpr h)]

theorem State.prefetch_l1 {s : State} {n : Nat} (h : s.lineFault n = none) (core : Nat) :
    s.reads (s.prefetch core n .l1) ∧ ((s.l1 core).find n = none → ((s.prefetch core n .l1).l1 core).find n = some (s.line n)) := by
  rw [State.prefetch, h]
  cases hfind : (s.l1 core).find n with
  | some x => exact ⟨by simp [State.loadLine, hfind, State.reads_refl], fun hnone => by cases hnone⟩
  | none =>
    have hload : s.loadLine core n = .ok (s.line n, (s.useL2 n false).fillL1 core n (s.line n)) := by rw [State.loadLine, hfind, h]
    simp only [Option.isSome_none, Bool.false_eq_true, if_false, hload]
    exact ⟨State.reads_trans (State.reads_of_cachesOnly (s.useL2_cachesOnly n false)) (State.fillL1_reads ..), fun _ => State.fillL1_l1 ..⟩

theorem State.prefetch_l2 {s : State} {n : Nat} (h : s.lineFault n = none) (core : Nat) : s.prefetch core n .l2 = s.useL2 n false := by
  rw [State.prefetch, h]; rfl
theorem State.prefetch_msc {s : State} {n : Nat} (h : s.lineFault n = none) (core : Nat) : s.prefetch core n .msc = s.useMsc n false := by
  rw [State.prefetch, h]; rfl

theorem State.cores_of_cachesOnly {s t : State} (h : s.cachesOnly t) : t.cores = s.cores := by rw [h.1]

-- The instructions (R210) ------------------------------------------------------------------------------------------------------

/-- PREF as a memory instruction. -/
def prefOp (l : CacheLevel) (a : VReg) : MemOp where
  els := fun _ s t => s.fieldElems t a.toNat true
  plan := fun g s t => s.operands g (s.fieldElems t a.toNat true) [] fun va early s =>
    (match early, s.accessOf t 1 va 0 prefKind with
      | false, .ok x => .ok x
      | _, _ => .ok (.skip 0), s)
  addr := fun s t => s.pairAddr t a
  rel := fun _ _ => .plain
  wr := false
  drain := false
  send := fun _ _ _ => none
  perform := fun s t m => match m with
    | .acc ⟨_, .mem pa _, _⟩ _ => (.done, s.prefetch (coreOf t.1) (pa / 128) l)
    | .acc ⟨va, .remote _ leaf, _⟩ _ => (.done, s.prefetchCopy t.1 va leaf l)
    | _ => (.done, s)
  dest := fun _ _ => []

theorem exec_pref_eq (c : Ctl) (l : CacheLevel) (a : VReg) (s : State) : exec (.pref c l a) s = memOp c s (prefOp l a) := rfl

/-- CINV as a memory instruction. -/
def cinvOp (sc : Scope) (a : VReg) : MemOp where
  els := fun _ s t => s.fieldElems t a.toNat true
  plan := fun g s t => s.operands g (s.fieldElems t a.toNat true) [] fun va early s => (softCk early (s.accessOf t 1 va 0 cmoKind), s)
  addr := fun s t => s.pairAddr t a
  rel := fun _ _ => .plain
  wr := false
  send := fun _ _ _ => none
  perform := fun s t m => match m with
    | .acc ⟨_, .mem pa mt, _⟩ _ => (.done, if mt = 0 ∨ mt = 2 then (s.coresIn (coreOf t.1) sc).foldl (fun s k => s.dropL1 k (pa / 128)) s else s)
    | .acc ⟨va, .remote _ leaf, _⟩ _ =>
      (.done, if sc = .fabric then s.dropLineCopies (coreOf t.1) va leaf else s.dropL1Copies (coreOf t.1) sc va leaf)
    | _ => (.done, s)
  dest := fun _ _ => []

theorem exec_cinv_eq (c : Ctl) (sc : Scope) (a : VReg) (s : State) : exec (.cinv c sc a) s = memOp c s (cinvOp sc a) := rfl

/-- CWB as a memory instruction. -/
def cwbOp (sc : Scope) (a : VReg) : MemOp where
  els := fun _ s t => s.fieldElems t a.toNat true
  plan := fun g s t => s.operands g (s.fieldElems t a.toNat true) [] fun va early s => (softCk early (s.accessOf t 1 va 0 cmoKind), s)
  addr := fun s t => s.pairAddr t a
  rel := fun _ _ => .plain
  wr := false
  send := fun s t m => match sc, m with
    | .fabric, .acc ⟨va, .remote _ leaf, _⟩ _ =>
      if leafMode leaf ≠ 1 || fld leaf.toNat 9 2 == 1 then none else some (leaf, s.requestFor t.1 (lineVa va) leaf 6 false, .nothing)
    | _, _ => none
  perform := fun s _ m => match m with
    | .acc ⟨_, .mem pa mt, _⟩ _ => (.done, if mt = 0 ∨ mt = 2 then s.cleanLine (pa / 128) else s)
    | _ => (.done, s)
  dest := fun _ _ => []

theorem exec_cwb_eq (c : Ctl) (sc : Scope) (a : VReg) (s : State) : exec (.cwb c sc a) s = memOp c s (cwbOp sc a) := rfl

/-- CWB of a line of the package sends no request (R411). -/
theorem cwbOp_send {e : Acc} {pa mt : Nat} (hmem : e.t = .mem pa mt) (sc : Scope) (a : VReg) (t : State) (x : Nat × Nat) :
    (cwbOp sc a).send t x (.acc e 0) = none := by
  obtain ⟨va, target, tr⟩ := e
  subst hmem
  cases sc <;> rfl

/-- What every cache instruction leaves as it was: the state of a memory instruction that reads and returns nothing, with the caches that
its access left. -/
structure State.cacheDone (s u t : State) (g : Grp) : Prop where
  access : s.access1 t
  memory : s.memKept t
  pend : t.pend = s.pend
  passed : s.passed t g fun _ => g.next
  cores : t.cores = u.cores
  halves : t.halves = u.halves
  clusters : t.clusters = u.clusters

theorem memDone_cache {m : MemOp} {s u : State} {c : Ctl} {g : Grp} {x : Nat × Nat} {y : MAcc} (h : s.solo c 1 g x) (hcalm : s.calm (m.els g s x))
    (hplan : m.plan g s x = (.ok y, s)) (hsend : ∀ t : State, m.send t x y = none) (hdone : m.perform (s.holdTrans x y) x y = (.done, u))
    (hreads : s.reads u) : ∃ t, memOp c s m = .next t ∧ s.cacheDone u t g := by
  obtain ⟨v, hrows, hstill, hpassed⟩ := memDone_done h hplan hsend hdone (State.accessed_thread hreads.accessed)
  obtain ⟨haccess, hpend⟩ := State.accessed_settled hreads.accessed hrows hstill
  have hrest := hstill.1.trans hrows.1
  refine ⟨_, memOp_eq h hcalm, haccess, State.memKept_settled hreads.bytes hreads.accessed.warps hrows hstill, hpend, hpassed, ?_, ?_, ?_⟩
  · have := congrArg State.cores hrest; exact this
  · have := congrArg State.halves hrest; exact this
  · have := congrArg State.clusters hrest; exact this

theorem State.l1_of_cores {s t : State} (hcores : t.cores = s.cores) (hclusters : t.clusters = s.clusters) (j : Nat) : t.l1 j = s.l1 j := by
  rw [State.l1, State.l1, State.l1Home, State.l1Home, State.cluster, State.cluster, hclusters, State.core, State.core, hcores]

-- A thread alone at a cache instruction, whose access to a line of the package is granted
section
variable {c : Ctl} {a : VReg} {s : State} {g : Grp} {x : Nat × Nat} {e : Acc} {pa mt : Nat} (hsolo : s.solo c 1 g x)
  (hopen : s.open g (s.fieldElems x a.toNat true) []) (hmem : e.t = .mem pa mt)

include hopen in
theorem prefOp_plan (l : CacheLevel)
    (hgrant : s.access (.lane x.1 x.2) (s.ctxOf x.1) 1 (s.elemsVal (s.fieldElems x a.toNat true)) prefKind = .ok e) :
    (prefOp l a).plan g s x = (.ok (.acc e 0), s) := by
  have hread := State.operands_open (ds := []) (by rwa [List.append_nil])
  simp only [prefOp, hread, State.accessOf, hgrant, Ck.bind]

include hopen in
theorem cinvOp_plan (sc : Scope)
    (hgrant : s.access (.lane x.1 x.2) (s.ctxOf x.1) 1 (s.elemsVal (s.fieldElems x a.toNat true)) cmoKind = .ok e) :
    (cinvOp sc a).plan g s x = (.ok (.acc e 0), s) := by
  have hread := State.operands_open (ds := []) (by rwa [List.append_nil])
  simp only [cinvOp, hread, State.accessOf, hgrant, Ck.bind, softCk, Bool.false_eq_true, if_false]

include hsolo hopen hmem in
theorem exec_pref (l : CacheLevel)
    (hgrant : s.access (.lane x.1 x.2) (s.ctxOf x.1) 1 (s.elemsVal (s.fieldElems x a.toNat true)) prefKind = .ok e)
    (hreads : (s.fill x.1 x.2 e.tr).reads ((s.fill x.1 x.2 e.tr).prefetch (coreOf x.1) (pa / 128) l)) :
    ∃ t, exec (.pref c l a) s = .next t ∧ s.cacheDone ((s.fill x.1 x.2 e.tr).prefetch (coreOf x.1) (pa / 128) l) t g := by
  refine memDone_cache (m := prefOp l a) hsolo (State.calm_of_open hopen) (prefOp_plan hopen l hgrant) (fun _ => rfl) ?_
    (State.reads_trans (s.fill_reads ..) hreads)
  obtain ⟨va, target, tr⟩ := e
  subst hmem
  rfl

include hsolo hopen hmem in
theorem exec_cinv (sc : Scope) (hgrant : s.access (.lane x.1 x.2) (s.ctxOf x.1) 1 (s.elemsVal (s.fieldElems x a.toNat true)) cmoKind = .ok e) :
    ∃ t, exec (.cinv c sc a) s = .next t ∧ s.cacheDone (if mt = 0 ∨ mt = 2
      then (s.coresIn (coreOf x.1) sc).foldl (fun s k => s.dropL1 k (pa / 128)) (s.fill x.1 x.2 e.tr) else s.fill x.1 x.2 e.tr) t g := by
  refine memDone_cache (m := cinvOp sc a) hsolo (State.calm_of_open hopen) (cinvOp_plan hopen sc hgrant) (fun _ => rfl) ?_ ?_
  · obtain ⟨va, target, tr⟩ := e
    subst hmem
    cases sc <;> rfl
  · refine State.reads_trans (s.fill_reads x.1 x.2 e.tr) ?_
    split
    · exact State.foldl_dropL1_reads ..
    · exact State.reads_refl _

include hsolo hopen hmem in
theorem exec_cwb (sc : Scope) (hgrant : s.access (.lane x.1 x.2) (s.ctxOf x.1) 1 (s.elemsVal (s.fieldElems x a.toNat true)) cmoKind = .ok e) :
    ∃ t, exec (.cwb c sc a) s = .next t
      ∧ s.cacheDone (if mt = 0 ∨ mt = 2 then (s.fill x.1 x.2 e.tr).cleanLine (pa / 128) else s.fill x.1 x.2 e.tr) t g := by
  refine memDone_cache (m := cwbOp sc a) hsolo (State.calm_of_open hopen) (cinvOp_plan hopen sc hgrant) (fun t => cwbOp_send hmem sc a t x) ?_ ?_
  · obtain ⟨va, target, tr⟩ := e
    subst hmem
    rfl
  · refine State.reads_trans (s.fill_reads x.1 x.2 e.tr) ?_
    split
    · exact State.cleanLine_reads ..
    · exact State.reads_refl _

end

/-- Settles O26: what each instruction's access leaves in the caches is there after the group. -/
theorem cacheInstructions : Obligations.CacheInstructions := by
  unfold Obligations.CacheInstructions
  intro c a s g x e pa mt hsolo hopen hmem go home gives
  have hfault := State.lineFault_sameBytes (s.fill_reads x.1 x.2 e.tr).bytes (pa / 128)
  have hline := State.line_sameBytes (s.fill_reads x.1 x.2 e.tr).bytes (pa / 128)
  have hhome {u t : State} (h : s.cacheDone u t g) : home t = home u :=
    congrArg (fun h : Table HalfDie => h.get (homeHalf (128 * (pa / 128)))) h.halves
  have hgives {i : Instr} {u : State} {p : State → Prop} (h : ∃ t, exec i s = .next t ∧ s.cacheDone u t g) (hp : ∀ t, s.cacheDone u t g → p t) :
      gives i p := by
    obtain ⟨t, hexec, hdone⟩ := h
    exact ⟨t, hexec, hdone.access, hdone.memory, hdone.pend, hdone.passed, hp t hdone⟩
  refine ⟨fun hgrant hgood => ⟨?l1, ?l2, ?msc⟩, fun hgrant hbad l => ?bad, fun hgrant hkind sc => ⟨?cinv, ?cwb⟩, fun hgrant hne0 hne2 sc i hi => ?other⟩
  case l1 =>
    obtain ⟨hreads, hfill⟩ := State.prefetch_l1 (s := s.fill x.1 x.2 e.tr) (hfault.trans hgood) (coreOf x.1)
    refine hgives (exec_pref hsolo hopen hmem .l1 hgrant hreads) fun t ht hnone => ?_
    rw [State.l1_of_cores ht.cores ht.clusters, hfill (by rw [State.l1_fill]; exact hnone), hline]
  case l2 =>
    have heq := State.prefetch_l2 (s := s.fill x.1 x.2 e.tr) (hfault.trans hgood) (coreOf x.1)
    have hcaches := (s.fill x.1 x.2 e.tr).useL2_cachesOnly (pa / 128) false
    refine hgives (exec_pref hsolo hopen hmem .l2 hgrant (by rw [heq]; exact State.reads_of_cachesOnly hcaches)) fun t ht => ?_
    rw [heq] at ht
    refine ⟨ht.cores.trans ((State.cores_of_cachesOnly hcaches).trans rfl), fun hcell => ?_⟩
    rw [hhome ht]
    exact State.useL2_holds _ _ _ hcell
  case msc =>
    have heq := State.prefetch_msc (s := s.fill x.1 x.2 e.tr) (hfault.trans hgood) (coreOf x.1)
    have hcaches := (s.fill x.1 x.2 e.tr).useMsc_cachesOnly (pa / 128) false
    refine hgives (exec_pref hsolo hopen hmem .msc hgrant (by rw [heq]; exact State.reads_of_cachesOnly hcaches)) fun t ht => ?_
    rw [heq] at ht
    refine ⟨ht.cores.trans ((State.cores_of_cachesOnly hcaches).trans rfl), ?_⟩
    rw [hhome ht]
    exact State.useMsc_holds ..
  case bad =>
    have heq := State.prefetch_fault (s := s.fill x.1 x.2 e.tr) (by rw [hfault]; exact hbad) (coreOf x.1) l
    refine hgives (exec_pref hsolo hopen hmem l hgrant (by rw [heq]; exact State.reads_refl _)) fun t ht => ?_
    rw [heq] at ht
    exact ⟨ht.cores, ht.halves⟩
  case cinv =>
    refine hgives (exec_cinv hsolo hopen hmem sc hgrant) fun t ht j hj => ?_
    rw [if_pos hkind] at ht
    rw [State.l1_of_cores ht.cores ht.clusters]
    exact State.foldl_dropL1 _ _ _ _ (.inl hj)
  case cwb =>
    refine hgives (exec_cwb hsolo hopen hmem sc hgrant) fun t ht => ?_
    rw [if_pos hkind] at ht
    rw [hhome ht]
    exact ⟨ht.cores, State.cleanLine_clean ..⟩
  case other =>
    have hkind : ¬ (mt = 0 ∨ mt = 2) := not_or.mpr ⟨hne0, hne2⟩
    rcases hi with rfl | rfl
    · refine hgives (exec_cinv hsolo hopen hmem sc hgrant) fun t ht => ?_
      rw [if_neg hkind] at ht
      exact ⟨ht.cores, ht.halves⟩
    · refine hgives (exec_cwb hsolo hopen hmem sc hgrant) fun t ht => ?_
      rw [if_neg hkind] at ht
      exact ⟨ht.cores, ht.halves⟩

end Sys2Proof.Machine
end

section
/-! SUPPORT. Ordering instructions (R175, R225, R226, R257): a group that an interlock cuts, what a FENCE or an OPRDY leaves of L1s and of what is known
of tile writes, and the back-off of a YIELD. -/
namespace Sys2Proof.Machine

-- Threads of a list, each changed once --------------------------------------------------------------------------------------

theorem State.foldl_modThread (T : Nat × Nat → Thread → Thread) (l : List (Nat × Nat)) (s : State) (hnodup : l.Nodup) :
    let u := l.foldl (fun s a => s.modThread a.1 a.2 (T a)) s
    s.warpsOnly Warp.still u ∧ ∀ k i, u.thread k i = if (k, i) ∈ l then T (k, i) (s.thread k i) else s.thread k i := by
  induction l generalizing s with
  | nil => exact ⟨s.warpsOnly_refl _, fun k i => by simp⟩
  | cons a l ih =>
    obtain ⟨hnew, hnodup⟩ := List.nodup_cons.mp hnodup
    obtain ⟨honly, hthread⟩ := ih (s.modThread a.1 a.2 (T a)) hnodup
    refine ⟨State.warpsOnly_trans (State.warpsOnly_modWarp s a.1 (φ := fun x => x.modThread a.2 _) fun _ => rfl) honly, fun k i => ?_⟩
    rw [List.foldl_cons, hthread, State.thread_modThread]
    by_cases h : (k, i) = a
    · subst h; simp [hnew]
    · have hne : ¬ (k = a.1 ∧ i = a.2) := fun e => h (Prod.ext e.1 e.2)
      simp [h, hne]

-- A group that an interlock cuts (R175) -------------------------------------------------------------------------------------

/-- The fate a cut gives a thread with this reason, or with none. -/
def cutFate : Option Why → Fate
  | some w => .lock w
  | none => .retry

theorem Grp.cut_eq (g : Grp) (why : Nat × Nat → Option Why) : g.cut why = g.acts.map fun a => (a, cutFate (why a)) := rfl

/-- What that makes of the thread. -/
def cutThread : Option Why → Thread → Thread
  | some w, x => { x with st := .interlocked, why := w }
  | none, x => { x with st := .ready, why := .nothing }

theorem cutThread_alive (w : Option Why) (x : Thread) : (cutThread w x).st.alive = true := by cases w <;> rfl

/-- Why threads wait for what is outstanding: not for an entry that is not present. -/
def Why.light : Why → Bool
  | .heavy _ _ => false
  | _ => true

theorem State.applyFate_cutFate {o : Option Why} (h : ∀ w, o = some w → w.light = true) (s : State) (a : Nat × Nat) :
    s.applyFate (a, cutFate o) = s.modThread a.1 a.2 (cutThread o) := by
  cases o with
  | none => rfl
  | some w => cases w with
    | heavy => cases h _ rfl
    | _ => rfl

/-- A group whose body cuts it: each thread with a reason becomes INTERLOCKED at its PC, and but for threads and its bundle nothing changes. -/
theorem issue_cut {c : Ctl} {n : Nat} {s : State} {g : Grp} {body : Grp → State → State × List ((Nat × Nat) × Fate)}
    {why : Nat × Nat → Option Why} (h : s.issues c n g) (hbody : body g s = (s, g.cut why)) (hlight : ∀ a w, why a = some w → w.light = true) :
    ∃ t, issue c n s body = .next t ∧ t.rest = s.rest
      ∧ ∀ a ∈ g.acts, (why a).isSome = true → (t.thread a.1 a.2).st = .interlocked ∧ (t.thread a.1 a.2).pc = (s.thread a.1 a.2).pc := by
  obtain ⟨-, hset, -⟩ := State.group_some h.1
  obtain ⟨r, hr, hmem⟩ := byLane_map (fun a => cutFate (why a)) g.acts
  have hnodup : r.Nodup := by
    refine List.Nodup.of_map (fun a => (a, cutFate (why a))) ?_
    rw [← hr]
    exact byLane_nodup ((List.Nodup.of_map _ h.2.1).map fun a b hab => congrArg Prod.fst hab)
  have hfates : (byLane (g.cut why)).foldl State.applyFate s = r.foldl (fun s a => s.modThread a.1 a.2 (cutThread (why a))) s := by
    rw [Grp.cut_eq, hr, List.foldl_map]
    exact congrArg (fun f => List.foldl f s r) (funext fun s => funext fun a => State.applyFate_cutFate (hlight a) s a)
  obtain ⟨⟨hrest, -, -⟩, hthread⟩ := State.foldl_modThread (fun a => cutThread (why a)) r s hnodup
  simp only [hmem] at hthread
  have halive : ∀ k ∈ g.warps, ∃ l < 32, ((r.foldl (fun s a => s.modThread a.1 a.2 (cutThread (why a))) s).thread k l).st.alive = true := by
    intro k hk
    obtain ⟨a, ha, rfl⟩ := List.mem_map.mp (List.mem_eraseDups.mp hk)
    have ha : a ∈ g.acts := hset ▸ ha
    exact ⟨a.2, (h.2.2 a ha).1, by rw [hthread, if_pos ha]; exact cutThread_alive _ _⟩
  obtain ⟨⟨hrest', -, -⟩, hclosed, -⟩ := State.finish_closes hfates halive
  refine ⟨_, (issue_eq h body).trans (by rw [hbody]), hrest'.trans hrest, fun a ha hw => ?_⟩
  obtain ⟨w, hw⟩ := Option.isSome_iff_exists.mp hw
  have hfinal := hclosed a.1 a.2
  rw [hthread, if_pos ha, hw] at hfinal
  rcases hfinal with heq | ⟨hst, -⟩
  · rw [heq]; exact ⟨rfl, rfl⟩
  · cases hst

/-- An instruction that cuts its period while a thread of the group waits for something, and else changes the machine and goes on. -/
def cutOr (wait : State → Nat × Nat → Bool) (w : Why) (done : Grp → State → State) (g : Grp) (s : State) : State × List ((Nat × Nat) × Fate) :=
  let why := fun a => if wait s a then some w else none
  if g.acts.any (fun a => (why a).isSome) then (s, g.cut why) else (done g s, g.each (fun _ => .done g.next))

theorem issue_cutOr_waits {c : Ctl} {s : State} {g : Grp} {wait : State → Nat × Nat → Bool} {w : Why} {done : Grp → State → State}
    (h : s.issues c 1 g) (hw : w.light = true) {x : Nat × Nat} (hx : x ∈ g.acts) (hwait : wait s x = true) :
    ∃ t, issue c 1 s (cutOr wait w done) = .next t ∧ t.rest = s.rest ∧ (t.thread x.1 x.2).st = .interlocked
      ∧ (t.thread x.1 x.2).pc = (s.thread x.1 x.2).pc := by
  have hany : (g.acts.any fun a => (if wait s a then some w else none).isSome) = true :=
    List.any_eq_true.mpr ⟨x, hx, by rw [if_pos hwait]; rfl⟩
  obtain ⟨t, hexec, hrest, hcut⟩ := issue_cut (body := cutOr wait w done) (why := fun a => if wait s a then some w else none) h
    (by rw [cutOr, if_pos hany]) fun a v hv => by
      split at hv
      · exact Option.some.inj hv ▸ hw
      · cases hv
  exact ⟨t, hexec, hrest, hcut x hx (by rw [if_pos hwait]; rfl)⟩

theorem issue_cutOr_passes {c : Ctl} {s : State} {g : Grp} {wait : State → Nat × Nat → Bool} {w : Why} {done : Grp → State → State}
    (h : s.issues c 1 g) (hwait : ∀ x ∈ g.acts, wait s x = false) (hwarps : (done g s).warps = s.warps) :
    ∃ t, issue c 1 s (cutOr wait w done) = .next t ∧ (done g s).still t ∧ s.passed t g fun _ => g.next := by
  obtain ⟨-, -, -, -, -, hissuing⟩ := State.group_some h.1
  have hnone : ¬ (g.acts.any fun a => (if wait s a then some w else none).isSome) = true := by
    rw [List.any_eq_true]
    rintro ⟨x, hx, hsome⟩
    rw [hwait x hx] at hsome
    cases hsome
  have hthread : ∀ k l, (done g s).thread k l = s.thread k l := fun k l => by rw [State.thread, State.thread, State.warp, State.warp, hwarps]
  obtain ⟨t, hexec, hstill, hpassed⟩ := issue_passes (body := cutOr wait w done) (fun _ => g.next) g.acts h (by rw [cutOr, if_neg hnone]; rfl)
    (fun _ => Iff.rfl) fun a ha => by rw [hthread]; exact hissuing a ha
  exact ⟨t, hexec, hstill, hpassed.1, fun k l hk => (hpassed.2 k l hk).trans (hthread k l)⟩

-- What a workgroup knows of its tile writes (R226) ---------------------------------------------------------------------------

/-- Of workgroups, nothing but the list of tile writes not yet ready changes. -/
def State.wgsKept (s t : State) : Prop := ∀ n, { (t.wgs.get n) with unready := [] } = { (s.wgs.get n) with unready := [] }

theorem State.wgsKept_modWg (s : State) (n : Nat) {f : Workgroup → Workgroup} (hf : ∀ x, { (f x) with unready := [] } = { x with unready := [] }) :
    s.wgsKept (s.modWg n f) := by
  intro m
  rw [State.modWg, Table.get_put]
  split
  · next h => rw [h, hf]
  · rfl

-- FENCE (R218, R222, R225) ---------------------------------------------------------------------------------------------------

/-- One warp passes a FENCE. -/
def State.fenceStep (sc : Scope) (s : State) (k : Nat) : State := (s.acquireAt (coreOf k) sc).fencePass k

theorem exec_fence_eq (c : Ctl) (sc : Scope) (s : State) :
    exec (.fence c sc) s = issue c 1 s (cutOr (fun s a => s.outstanding a.1 a.2) (.fence sc) fun g s => g.actWarps.foldl (State.fenceStep sc) s) := rfl

/-- What a FENCE leaves alone: all but lines of L1s, which it only discards, and what is known of tile writes that wait for an OPRDY. -/
def State.fenced (s t : State) : Prop :=
  { t with cores := [], wgs := [] } = { s with cores := [], wgs := [] } ∧ (s.allReady = true → t.wgs = s.wgs) ∧ s.wgsKept t
    ∧ (∀ j, { (t.core j) with l1 := [] } = { (s.core j) with l1 := [] }) ∧ ∀ j, s.l1 j = [] → t.l1 j = []

theorem State.fenced_refl (s : State) : s.fenced s := ⟨rfl, fun _ => rfl, fun _ => rfl, fun _ => rfl, fun _ => id⟩

theorem State.l1_of_fenced {s t : State} (h : s.fenced t) {j : Nat} (hj : s.l1 j = []) : t.l1 j = [] := by
  obtain ⟨-, -, -, -, hl1⟩ := h
  exact hl1 j hj

theorem State.fenced_trans {s t u : State} (h : s.fenced t) (i : t.fenced u) : s.fenced u := by
  obtain ⟨hrest, hready, hwgs, hcore, hl1⟩ := h
  obtain ⟨irest, iready, iwgs, icore, il1⟩ := i
  refine ⟨irest.trans hrest, fun ha => ?_, fun n => (iwgs n).trans (hwgs n), fun j => (icore j).trans (hcore j), fun j hj => il1 j (hl1 j hj)⟩
  have hsame := hready ha
  exact (iready (by rw [State.allReady, hsame]; exact ha)).trans hsame

theorem State.modL1_l1 (s : State) (core j : Nat) (f : L1 → L1) :
    (s.modL1 core f).l1 j = if s.l1Home j = s.l1Home core then f (s.l1 core) else s.l1 j := by
  rw [State.l1, State.modL1, State.l1Home_modCore, State.core_modCore]
  split <;> rfl

theorem State.acquireAt_fenced (s : State) (core : Nat) (sc : Scope) : s.fenced (s.acquireAt core sc) := by
  unfold State.acquireAt
  split
  · exact s.fenced_refl
  · refine ⟨rfl, fun _ => rfl, fun _ => rfl, fun j => ?_, fun j hj => ?_⟩
    · rw [State.modL1, State.core_modCore]
      split
      · next h => rw [h]
      · rfl
    · rw [State.modL1_l1]
      split
      · rfl
      · exact hj

theorem State.acquireAt_l1 (s : State) (core : Nat) {sc : Scope} (h : sc ≠ .core) : (s.acquireAt core sc).l1 core = [] := by
  rw [State.acquireAt, if_neg h, State.modL1_l1, if_pos rfl]

theorem State.fencePass_fenced (s : State) (slot : Nat) : s.fenced (s.fencePass slot) := by
  unfold State.fencePass
  split
  · exact s.fenced_refl
  · next h => exact ⟨rfl, fun ha => absurd ha h, s.wgsKept_modWg _ fun _ => rfl, fun _ => rfl, fun _ => id⟩

theorem State.fenceStep_fenced (sc : Scope) (s : State) (k : Nat) : s.fenced (s.fenceStep sc k) :=
  State.fenced_trans (s.acquireAt_fenced _ _) (State.fencePass_fenced ..)

theorem State.foldl_fenceStep (sc : Scope) (ks : List Nat) (s : State) :
    s.fenced (ks.foldl (State.fenceStep sc) s) ∧ (sc ≠ .core → ∀ k ∈ ks, (ks.foldl (State.fenceStep sc) s).l1 (coreOf k) = []) := by
  induction ks generalizing s with
  | nil => exact ⟨s.fenced_refl, fun _ _ hk => absurd hk List.not_mem_nil⟩
  | cons k ks ih =>
    obtain ⟨hrest, hempty⟩ := ih (s.fenceStep sc k)
    refine ⟨State.fenced_trans (s.fenceStep_fenced sc k) hrest, fun hsc j hj => ?_⟩
    rcases List.mem_cons.mp hj with rfl | hj
    · exact State.l1_of_fenced hrest (State.l1_of_fenced (State.fencePass_fenced ..) (s.acquireAt_l1 _ hsc))
    · exact hempty hsc j hj

-- OPRDY (R226) -----------------------------------------------------------------------------------------------------------------

/-- One warp passes an OPRDY. -/
def State.oprdyStep (s : State) (k : Nat) : State := s.modWg (s.warp k).wg (fun x => x.makeReady (s.warp k).wid)

theorem exec_oprdy_eq (c : Ctl) (s : State) :
    exec (.oprdy c) s = issue c 1 s (cutOr (fun s a => s.tilePending a.1) .oprdy fun g s => g.actWarps.foldl State.oprdyStep s) := rfl

/-- Each tile write of the workgroup that the warp of number wid knows of is ready for it. -/
def Workgroup.readyFor (x : Workgroup) (wid : Nat) : Prop := ∀ u ∈ x.unready, u.seen.contains wid = true → u.ready.contains wid = true

theorem Workgroup.mem_makeReady {x : Workgroup} {wid : Nat} {u : Unready} (h : u ∈ (x.makeReady wid).unready) :
    ∃ v ∈ x.unready, u.seen = v.seen ∧ (∀ i, v.ready.contains i = true → u.ready.contains i = true)
      ∧ (u.seen.contains wid = true → u.ready.contains wid = true) := by
  obtain ⟨v, hv, rfl⟩ := List.mem_map.mp (List.mem_filter.mp h).1
  refine ⟨v, hv, ?_⟩
  split
  · exact ⟨rfl, fun i hi => by simp_all, fun _ => by simp⟩
  · next hcond => exact ⟨rfl, fun _ => id, fun hseen => by simp_all⟩

theorem Workgroup.makeReady_readyFor (x : Workgroup) (wid : Nat) : (x.makeReady wid).readyFor wid := fun _ hu =>
  (Workgroup.mem_makeReady hu).elim fun _ h => h.2.2.2

theorem Workgroup.readyFor_makeReady {x : Workgroup} {i : Nat} (h : x.readyFor i) (wid : Nat) : (x.makeReady wid).readyFor i := by
  intro u hu hseen
  obtain ⟨v, hv, heq, hready, -⟩ := Workgroup.mem_makeReady hu
  exact hready i (h v hv (heq ▸ hseen))

/-- What OPRDY leaves alone: all but the list of tile writes not yet ready, of which none ceases to be ready for a warp. -/
def State.readied (s t : State) : Prop :=
  { t with wgs := [] } = { s with wgs := [] } ∧ s.wgsKept t ∧ ∀ n i, (s.wgs.get n).readyFor i → (t.wgs.get n).readyFor i

theorem State.readied_trans {s t u : State} (h : s.readied t) (i : t.readied u) : s.readied u :=
  ⟨i.1.trans h.1, fun n => (i.2.1 n).trans (h.2.1 n), fun n j hj => i.2.2 n j (h.2.2 n j hj)⟩

theorem State.oprdyStep_readied (s : State) (k : Nat) : s.readied (s.oprdyStep k) := by
  refine ⟨rfl, s.wgsKept_modWg _ fun _ => rfl, fun n i hi => ?_⟩
  rw [State.oprdyStep, State.modWg, Table.get_put]
  split
  · next h => exact Workgroup.readyFor_makeReady (h ▸ hi) _
  · exact hi

theorem State.oprdyStep_readyFor (s : State) (k : Nat) : ((s.oprdyStep k).wgs.get (s.warp k).wg).readyFor (s.warp k).wid := by
  rw [State.oprdyStep, State.modWg, Table.get_put, if_pos rfl]
  exact Workgroup.makeReady_readyFor _ _

theorem State.foldl_oprdyStep (ks : List Nat) (s : State) :
    s.readied (ks.foldl State.oprdyStep s) ∧ ∀ k ∈ ks, ((ks.foldl State.oprdyStep s).wgs.get (s.warp k).wg).readyFor (s.warp k).wid := by
  induction ks generalizing s with
  | nil => exact ⟨⟨rfl, fun _ => rfl, fun _ _ => id⟩, fun _ hk => absurd hk List.not_mem_nil⟩
  | cons k ks ih =>
    obtain ⟨hrest, hready⟩ := ih (s.oprdyStep k)
    refine ⟨State.readied_trans (s.oprdyStep_readied k) hrest, fun j hj => ?_⟩
    rcases List.mem_cons.mp hj with rfl | hj
    · exact hrest.2.2 _ _ (s.oprdyStep_readyFor j)
    · exact hready j hj

-- YIELD (R257) -----------------------------------------------------------------------------------------------------------------

/-- A warp's back-off after a YIELD: none where a thread's value is not the one it last yielded with. -/
def State.expAfter (s : State) (g : Grp) (v : Nat × Nat → Word) (k : Nat) : Nat :=
  if ∃ x ∈ g.acts, x.1 = k ∧ (s.thread x.1 x.2).ylast ≠ v x then 0 else min ((s.warp k).yexp + 1) 8

/-- Warps of a list have yielded; nothing else has changed. -/
def State.yielded (s : State) (g : Grp) (v : Nat × Nat → Word) (ks : List Nat) (u : State) : Prop :=
  u.rest = s.rest ∧ u.quads = s.quads
    ∧ (∀ k, (u.warp k).still = if k ∈ ks then { (s.warp k).still with yexp := s.expAfter g v k, yheld := true } else (s.warp k).still)
    ∧ ∀ k l, u.thread k l = if k ∈ ks ∧ (k, l) ∈ g.acts then { s.thread k l with ylast := v (k, l) } else s.thread k l

/-- One warp's part of a YIELD. -/
def State.yieldStep (g : Grp) (v : Nat × Nat → Word) (s : State) (k : Nat) : State :=
  s.backOff k ((g.acts.filter (·.1 == k)).map fun x => (x.2, v x))

theorem State.backOff_eq (g : Grp) (v : Nat × Nat → Word) (s : State) (k : Nat) : s.yieldStep g v k
    = ((g.acts.filter (·.1 == k)).foldl (fun s x => s.modThread x.1 x.2 fun t => { t with ylast := v x }) s).modWarp k fun w =>
      { w with yexp := if (g.acts.filter (·.1 == k)).any (fun x => (s.thread x.1 x.2).ylast != v x) then 0 else min (w.yexp + 1) 8, yheld := true } := by
  have hslot : ∀ x ∈ g.acts.filter (·.1 == k), x.1 = k := fun x hx => beq_iff_eq.mp (List.mem_filter.mp hx).2
  rw [State.yieldStep, State.backOff, List.foldl_map, List.any_map]
  dsimp only
  generalize g.acts.filter (·.1 == k) = l at hslot ⊢
  have hfold : l.foldl (fun s x => s.modThread k x.2 fun t => { t with ylast := v x }) s
      = l.foldl (fun s x => s.modThread x.1 x.2 fun t => { t with ylast := v x }) s :=
    List.foldl_ext _ _ _ fun u x hx => by rw [hslot x hx]
  have hany : l.any ((fun v => (s.thread k v.1).ylast != v.2) ∘ fun x => (x.2, v x)) = l.any fun x => (s.thread x.1 x.2).ylast != v x :=
    Bool.eq_iff_iff.mpr <| by
      simp only [List.any_eq_true]
      exact exists_congr fun x => and_congr_right fun hx => by rw [Function.comp, hslot x hx]
  rw [hfold, hany]

theorem State.thread_modWarp_threads (s : State) (k : Nat) {φ : Warp → Warp} (h : ∀ w, (φ w).threads = w.threads) (j l : Nat) :
    (s.modWarp k φ).thread j l = s.thread j l := by
  rw [State.thread, State.warp_modWarp, State.thread]
  split
  · next e => rw [Warp.thread, h, e]; rfl
  · rfl

theorem State.yielded_step {s u : State} {g : Grp} {v : Nat × Nat → Word} {ks : List Nat} {k : Nat} (hnodup : g.acts.Nodup) (hk : k ∉ ks)
    (h : s.yielded g v ks u) : s.yielded g v (ks ++ [k]) (u.yieldStep g v k) := by
  obtain ⟨hrest, hquads, hwarp, hthread⟩ := h
  rw [State.backOff_eq]
  obtain ⟨⟨frest, fquads, fwarp⟩, fthread⟩ :=
    State.foldl_modThread (fun x t => { t with ylast := v x }) (g.acts.filter (·.1 == k)) u (hnodup.filter _)
  generalize (g.acts.filter (·.1 == k)).foldl (fun s x => s.modThread x.1 x.2 fun t => { t with ylast := v x }) u = w at frest fquads fwarp fthread ⊢
  have hchanged : ((g.acts.filter (·.1 == k)).any (fun x => (u.thread x.1 x.2).ylast != v x) = true)
      ↔ ∃ x ∈ g.acts, x.1 = k ∧ (s.thread x.1 x.2).ylast ≠ v x := by
    simp only [List.any_eq_true, List.mem_filter, beq_iff_eq, bne_iff_ne, and_assoc]
    refine exists_congr fun x => and_congr_right fun _ => and_congr_right fun hx => ?_
    rw [hthread, if_neg fun e => hk (hx ▸ e.1)]
  refine ⟨frest.trans hrest, fquads.trans hquads, fun j => ?warp, fun j l => ?thread⟩
  case warp =>
    rw [State.warp_modWarp]
    by_cases hj : j = k
    · subst hj
      have hstill : (w.warp j).still = (s.warp j).still := (fwarp j).trans ((hwarp j).trans (if_neg hk))
      have hexp : (w.warp j).yexp = (s.warp j).yexp := (congrArg Warp.yexp hstill :)
      have hafter : (if (g.acts.filter (·.1 == j)).any (fun x => (u.thread x.1 x.2).ylast != v x) then 0 else min ((w.warp j).yexp + 1) 8)
          = s.expAfter g v j := by
        rw [State.expAfter, hexp]
        exact if_congr hchanged rfl rfl
      rw [if_pos rfl, if_pos (List.mem_append_right ks List.mem_cons_self), hafter]
      exact congrArg (fun x : Warp => { x with yexp := s.expAfter g v j, yheld := true }) hstill
    · rw [if_neg hj, fwarp, hwarp]
      simp [hj]
  case thread =>
    refine (State.thread_modWarp_threads w k ?keep j l).trans ?_
    case keep => exact fun _ => rfl
    rw [fthread, hthread]
    by_cases hj : j = k
    · subst hj; simp [hk]
    · simp [hj]

theorem State.foldl_yieldStep {s : State} {g : Grp} {v : Nat × Nat → Word} (hnodup : g.acts.Nodup) (js ks : List Nat) (hks : (ks ++ js).Nodup)
    {u : State} (h : s.yielded g v ks u) : s.yielded g v (ks ++ js) (js.foldl (State.yieldStep g v) u) := by
  induction js generalizing ks u with
  | nil => rwa [List.append_nil]
  | cons j js ih =>
    have hnew : j ∉ ks := fun hj => (List.nodup_append.mp hks).2.2 j hj j List.mem_cons_self rfl
    rw [List.append_cons] at hks ⊢
    exact ih _ hks (State.yielded_step hnodup hnew h)

/-- What a YIELD of a group does where no operand is awaited. -/
def yieldRun (d : VReg) (g : Grp) (s : State) : State × List ((Nat × Nat) × Fate) :=
  let (rs, s) := s.evalAll g [own d] none (fun _ vs => { val := vd vs 0 }) g.acts
  let ok := rs.filter (fun x => x.2.fault.isNone)
  let s := (ok.map (fun x => x.1.1)).eraseDups.foldl (fun s k =>
    s.backOff k ((ok.filter (fun x => x.1.1 == k)).map (fun x => (x.1.2, x.2.val.setWidth 32)))) s
  (s.settleRows g (g.acts.flatMap (fun a => s.rdElems g a (own d))), rs.map (fun x => (x.1, x.2.fate g)))

theorem exec_yield_eq (c : Ctl) (d : VReg) (s : State) :
    exec (.yield c d) s = issue c 1 s (interlocked (fun s a => s.rdElems g a (own d)) (yieldRun d)) := rfl

/-- What an open YIELD reads for a thread. -/
def State.yieldRead (s : State) (g : Grp) (d : VReg) (x : Nat × Nat) : (Nat × Nat) × Res := (x, { val := vd ([own d].map (s.source g x)) 0 })

theorem State.yieldRead_unfaulted (s : State) (g : Grp) (d : VReg) :
    (g.acts.map (s.yieldRead g d)).filter (fun x => x.2.fault.isNone) = g.acts.map (s.yieldRead g d) :=
  List.filter_eq_self.mpr fun y hy => by
    obtain ⟨x, -, rfl⟩ := List.mem_map.mp hy
    rfl

theorem State.yieldRead_ofWarp (s : State) (g : Grp) (d : VReg) (k : Nat) :
    ((g.acts.map (s.yieldRead g d)).filter (fun x => x.1.1 == k)).map (fun x => (x.1.2, x.2.val.setWidth 32))
      = (g.acts.filter (·.1 == k)).map fun x => (x.2, (s.source g x (own d)).setWidth 32) := by
  rw [List.filter_map, List.map_map]
  rfl

theorem yieldRun_open {s u : State} {g : Grp} {d : VReg} (ho : ∀ x ∈ g.acts, s.open g (s.rdElems g x (own d)) [])
    (hu : g.actWarps.foldl (State.yieldStep g fun x => (s.source g x (own d)).setWidth 32) s = u) :
    yieldRun d g s = (u.settleRows g (g.acts.flatMap fun a => u.rdElems g a (own d)), g.each fun _ => .done g.next) := by
  have hopen : ∀ x ∈ g.acts, s.open g ([own d].flatMap (s.rdElems g x)) (s.wrElems x none) := fun x hx => by
    rw [List.flatMap_singleton]
    exact ho x hx
  have hread : s.evalAll g [own d] none (fun _ vs => { val := vd vs 0 }) g.acts = (g.acts.map (s.yieldRead g d), s) := State.evalAll_open hopen
  subst hu
  rw [yieldRun, hread]
  simp only [State.yieldRead_unfaulted, State.yieldRead_ofWarp, List.map_map]
  rfl

/-- YIELD goes on, its warps held out. -/
theorem exec_yield {c : Ctl} {s : State} {g : Grp} (h : s.issues c 1 g) (d : VReg) (ho : ∀ x ∈ g.acts, s.open g (s.rdElems g x (own d)) []) :
    let v := fun x => (s.source g x (own d)).setWidth 32
    ∃ u es t, exec (.yield c d) s = .next t ∧ s.yielded g v g.actWarps u ∧ (u.settleRows g es).still t
      ∧ (u.settleRows g es).passed t g fun _ => g.next := by
  intro v
  obtain ⟨-, hset, -, -, -, hissuing⟩ := State.group_some h.1
  have hwait : s.interlocks g (fun t => s.rdElems g t (own d)) = none :=
    State.interlocks_calm fun x hx e he => (ho x hx).1 e (List.mem_append_left _ he)
  have hyielded := State.foldl_yieldStep (s := s) (v := v) (List.Nodup.of_map _ h.2.1) g.actWarps [] (nodup_eraseDups _)
    ⟨rfl, rfl, fun _ => by simp, fun _ _ => by simp⟩
  rw [List.nil_append] at hyielded
  generalize hu : g.actWarps.foldl (State.yieldStep g v) s = u at hyielded
  have hrun : interlocked (fun s a => s.rdElems g a (own d)) (yieldRun d) g s = yieldRun d g s := by rw [interlocked, hwait]
  obtain ⟨-, -, -, hthread⟩ := id hyielded
  have hstate : ∀ es k l, ((u.settleRows g es).thread k l).st = (s.thread k l).st := fun es k l => by
    have hsame : (u.settleRows g es).thread k l = u.thread k l := (congrArg (fun w => Warp.thread w l) ((State.settleRows_warpsOnly u g es).2.2 k) :)
    rw [hsame, hthread]
    split <;> rfl
  obtain ⟨t, hexec, hstill, hpassed⟩ := issue_passes (fun _ => g.next) g.acts h (hrun.trans (yieldRun_open ho hu)) (fun _ => Iff.rfl)
    fun x hx => (hstate _ _ _).trans (hissuing x hx)
  exact ⟨u, _, t, (exec_yield_eq c d s).trans hexec, hyielded, hstill, hpassed⟩

-- As the statement has them -------------------------------------------------------------------------------------------------

theorem exec_fence_passes {c : Ctl} {s : State} {g : Grp} (h : s.issues c 1 g) (sc : Scope) (hfree : ∀ x ∈ g.acts, s.outstanding x.1 x.2 = false) :
    ∃ u t, exec (.fence c sc) s = .next t ∧ u.still t ∧ s.passed t g (fun _ => g.next) ∧ s.fenced u
      ∧ (sc ≠ .core → ∀ k ∈ g.actWarps, u.l1 (coreOf k) = []) := by
  obtain ⟨hfenced, hempty⟩ := State.foldl_fenceStep sc g.actWarps s
  obtain ⟨t, hexec, hstill, hpassed⟩ := issue_cutOr_passes (wait := fun s a => s.outstanding a.1 a.2) (w := .fence sc)
    (done := fun g s => g.actWarps.foldl (State.fenceStep sc) s) h hfree (congrArg State.warps hfenced.1 :)
  exact ⟨_, t, (exec_fence_eq c sc s).trans hexec, hstill, hpassed, hfenced, hempty⟩

theorem exec_oprdy_passes {c : Ctl} {s : State} {g : Grp} (h : s.issues c 1 g) (hfree : ∀ x ∈ g.acts, s.tilePending x.1 = false) :
    ∃ u t, exec (.oprdy c) s = .next t ∧ u.still t ∧ s.passed t g (fun _ => g.next) ∧ s.readied u
      ∧ ∀ k ∈ g.actWarps, (u.wgs.get (s.warp k).wg).readyFor (s.warp k).wid := by
  obtain ⟨hreadied, hready⟩ := State.foldl_oprdyStep g.actWarps s
  obtain ⟨t, hexec, hstill, hpassed⟩ := issue_cutOr_passes (wait := fun s a => s.tilePending a.1) (w := .oprdy)
    (done := fun g s => g.actWarps.foldl State.oprdyStep s) h hfree (congrArg State.warps hreadied.1 :)
  exact ⟨_, t, (exec_oprdy_eq c s).trans hexec, hstill, hpassed, hreadied, hready⟩

/-- After the back-off the group notes its accesses and finishes, every active thread going on. -/
theorem State.yielded_finish {s u t : State} {g : Grp} {es : List Elem} {v : Nat × Nat → Word} {pc : Nat × Nat → DWord}
    (h : s.yielded g v g.actWarps u) (hstill : (u.settleRows g es).still t) (hpassed : (u.settleRows g es).passed t g pc) :
    s.passed t g pc
      ∧ State.keeps (fun w => { w.still with yexp := 0, yheld := false, xlast := [], xmoved := 0 }) (fun x => { x.still with ylast := 0 }) s t
      ∧ (∀ k l, (t.thread k l).ylast = if (k, l) ∈ g.acts then v (k, l) else (s.thread k l).ylast)
      ∧ ∀ k, ((t.warp k).yheld, (t.warp k).yexp) = if k ∈ g.actWarps then (true, s.expAfter g v k) else ((s.warp k).yheld, (s.warp k).yexp) := by
  obtain ⟨hrest, hquads, hwarp, hthread⟩ := h
  obtain ⟨mrest, mquads, mwarp⟩ := State.settleRows_warpsOnly u g es
  obtain ⟨trest, tquad, twarp⟩ := hstill
  have hblank : ∀ k, (t.warp k).still.unplaced = (u.warp k).still.unplaced := fun k =>
    (congrArg Warp.unplaced (twarp k).1).trans (congrArg Warp.still (mwarp k))
  have hsettled : ∀ k l, (u.settleRows g es).thread k l = u.thread k l := fun k l => (congrArg (fun w => Warp.thread w l) (mwarp k) :)
  have hactive : ∀ {k l}, (k, l) ∈ g.acts → k ∈ g.actWarps := fun hk => Grp.mem_actWarps.mpr (List.mem_map_of_mem hk)
  have hafter : ∀ k l, (t.thread k l).still = (u.thread k l).still := fun k l => ((twarp k).2 l).trans (congrArg Thread.still (hsettled k l))
  refine ⟨⟨hpassed.1, fun k l hk => ?others⟩, ⟨trest.trans (mrest.trans hrest), fun q => ?quads, fun k => ⟨?warp, fun l => ?thread⟩⟩,
    fun k l => ?ylast, fun k => ?held⟩
  case others => rw [hpassed.2 k l hk, hsettled, hthread, if_neg fun e => hk e.2]
  case quads => rw [tquad, State.quad, State.quad, mquads, hquads]
  case warp =>
    refine (congrArg (fun w : Warp => { w with yexp := 0, yheld := false }) (hblank k)).trans ?_
    rw [hwarp]
    split <;> rfl
  case thread =>
    refine (congrArg (fun x : Thread => { x with ylast := 0 }) (hafter k l)).trans ?_
    rw [hthread]
    split <;> rfl
  case ylast =>
    refine (congrArg Thread.ylast (hafter k l) :).trans ?_
    rw [hthread]
    by_cases hk : (k, l) ∈ g.acts
    · rw [if_pos hk, if_pos ⟨hactive hk, hk⟩]; rfl
    · rw [if_neg hk, if_neg fun e => hk e.2]; rfl
  case held =>
    refine (congrArg (fun w : Warp => (w.yheld, w.yexp)) (hblank k) :).trans ?_
    rw [hwarp]
    split <;> rfl

/-- Settles O18: each clause is the lemma above about its instruction. -/
theorem orderingInstructions : Obligations.OrderingInstructions := by
  unfold Obligations.OrderingInstructions
  intro c s g h warps
  refine ⟨fun sc hfree => ?fence, fun sc x hx hwait => ?fenceWaits, fun hfree => ?oprdy, fun x hx hwait => ?oprdyWaits, fun d ho => ?yield⟩
  case fence =>
    obtain ⟨u, t, hexec, ⟨hrest, -, hwarp⟩, hpassed, ⟨hkept, hready, hwgs, hcore, -⟩, hempty⟩ := exec_fence_passes h sc hfree
    have hcores : t.cores = u.cores := (congrArg State.cores hrest :)
    have htwgs : t.wgs = u.wgs := (congrArg State.wgs hrest :)
    refine ⟨t, hexec, hpassed, ?rest, fun ha => htwgs.trans (hready ha), fun j => ?wgs, fun j => ?core, fun j => ?warp, fun hsc k hk => ?empty⟩
    case rest =>
      exact (congrArg (fun x : State => { x with cores := [], wgs := [] }) hrest).trans (congrArg State.rest hkept)
    case wgs => rw [htwgs]; exact hwgs j
    case core => rw [State.core, hcores]; exact hcore j
    case warp => exact (hwarp j).1.trans (congrArg Warp.still (congrArg (fun x => State.warp x j) hkept :))
    case empty =>
      rw [State.l1_of_cores hcores (congrArg State.clusters hrest :)]
      exact hempty hsc k (Grp.mem_actWarps.mpr hk)
  case fenceWaits =>
    exact issue_cutOr_waits (wait := fun s a => s.outstanding a.1 a.2) (w := .fence sc)
      (done := fun g s => g.actWarps.foldl (State.fenceStep sc) s) h rfl hx hwait
  case oprdy =>
    obtain ⟨u, t, hexec, ⟨hrest, -, hwarp⟩, hpassed, ⟨hkept, hwgs, -⟩, hready⟩ := exec_oprdy_passes h hfree
    have htwgs : t.wgs = u.wgs := (congrArg State.wgs hrest :)
    refine ⟨t, hexec, hpassed, ?rest, fun j => ?warp, fun n => ⟨?wgs, fun w hw k hk hn hseen => ?ready⟩⟩
    case rest => exact (congrArg (fun x : State => { x with wgs := [] }) hrest).trans (congrArg State.rest hkept)
    case warp => exact (hwarp j).1.trans (congrArg Warp.still (congrArg (fun x => State.warp x j) hkept :))
    case wgs => rw [htwgs]; exact hwgs n
    case ready =>
      subst hn
      exact hready k (Grp.mem_actWarps.mpr hk) w (htwgs ▸ hw) hseen
  case oprdyWaits =>
    exact issue_cutOr_waits (wait := fun s a => s.tilePending a.1) (w := .oprdy) (done := fun g s => g.actWarps.foldl State.oprdyStep s) h rfl hx hwait
  case yield =>
    obtain ⟨u, es, t, hexec, hyielded, hstill, hpassed⟩ := exec_yield h d ho
    obtain ⟨hpassed, hkeeps, hylast, hheld⟩ := State.yielded_finish hyielded hstill hpassed
    exact ⟨t, hexec, hpassed, hkeeps, hylast, fun k => (hheld k).trans (if_congr Grp.mem_actWarps rfl rfl)⟩

end Sys2Proof.Machine
end

section
/-! SUPPORT. Why a sweep does not always leave its queue's head one further on: the completion word may lie in the header of a sealed page, which
the word spoils (R334, R340); in an arbitrary state that page may lie over the queue. -/
namespace Sys2Proof.Machine

-- A sealed page that is spoilt holds free values (R340) ---------------------------------------------------------------------

theorem State.putLine_mem (s : State) (n : Nat) (l : Line) : (s.putLine n l).mem = s.mem.write (128 * n) 128 l.data.toNat := by
  rw [State.putLine_eq]
  exact (State.sameBytes_trans (State.useL2_sameBytes ..) (State.notify_sameBytes ..)).1

/-- Line i of a spoilt page of frame f takes its part of the free value v. -/
def State.spoilLine (v f : Nat) (s : State) (i : Nat) : State :=
  if populated (128 * (512 * f + i)) then s.putLine (512 * f + i)
    { data := BitVec.ofNat 1024 (fld v (1024 * (i + 1)) 1024), tag := BitVec.ofNat 4 (1 + fld v 544 1)
      scales := BitVec.ofNat 64 (fld v (1024 * 600 + 64 * i) 64) } else s

/-- The first word of that line. -/
def spoiltWord (v i : Nat) : Nat := (BitVec.ofNat 1024 (fld v (1024 * (i + 1)) 1024)).toNat % 256 ^ 4

theorem State.foldl_spoilLine_read {v f i : Nat} (hpopulated : populated (128 * (512 * f + i)) = true) (l : List Nat) (hi : i ∈ l) (s : State) :
    (l.foldl (State.spoilLine v f) s).mem.read (128 * (512 * f + i)) 4 = spoiltWord v i := by
  induction l using List.reverseRecOn with
  | nil => exact absurd hi List.not_mem_nil
  | append_singleton l j ih =>
    rw [List.foldl_concat, State.spoilLine]
    by_cases hj : j = i
    · subst hj
      rw [if_pos hpopulated, State.putLine_mem]
      exact (Memory.read_write_inside (i := 0) _ _ (by omega)).trans (by rw [Nat.pow_zero, Nat.div_one]; rfl)
    · have hbefore := ih ((List.mem_append.mp hi).resolve_right fun h => hj (List.mem_singleton.mp h).symm)
      split
      · rw [State.putLine_mem, Memory.read_write_apart _ _ (by omega)]
        exact hbefore
      · exact hbefore

theorem State.spoilKv_eq (s : State) (e : Nat × Nat) : ∃ u, s.spoilKv e = (List.range 512).foldl (State.spoilLine (Config.freeValue s.fresh) e.2) u :=
  ⟨_, by unfold State.spoilKv; rfl⟩

theorem State.spoilKv_read (s : State) (e : Nat × Nat) {i : Nat} (hi : i < 512) (hpopulated : populated (128 * (512 * e.2 + i)) = true) :
    (s.spoilKv e).mem.read (128 * (512 * e.2 + i)) 4 = spoiltWord (Config.freeValue s.fresh) i := by
  obtain ⟨u, heq⟩ := s.spoilKv_eq e
  rw [heq]
  exact State.foldl_spoilLine_read hpopulated _ (List.mem_range.mpr hi) u

-- The sweep of an item, and its completion word (R333, R334) ------------------------------------------------------------------

/-- A sweep whose item and request pass their checks. -/
theorem exec_sweep {s u : State} {hd : Nat} {it : DWord} (hhd : hd < 8) (hup : s.processorUp hd = true) (hitem : s.headItem (serviceQueue hd) = some it)
    (hpop : (s.popItem (serviceQueue hd)).2 = u) (hkind : itemKind it = 1) (hfine : u.itemOk (u.half hd).part it = true)
    (hgood : u.lineBad (itemAddr it / 128) = none) (hok : u.sweepOk (u.half hd).part (u.line (itemAddr it / 128)).data = true) :
    exec (.sweep hd) s = .next (u.sweepLine (u.line (itemAddr it / 128)).data) := by
  have hfree : ¬ (2 ≤ itemKind it ∧ itemKind it ≤ 4) := by omega
  have hkept : ¬ (itemKind it ≠ 1 ∨ (!u.itemOk (u.half hd).part it) = true) := by simp [hkind, hfine]
  have hexec : exec (.sweep hd) s = execSweep hd s := rfl
  rw [hexec, execSweep]
  generalize serviceQueue hd = d at hitem hpop ⊢
  rw [if_neg (Nat.not_le.mpr hhd), if_neg (by rw [hup]; decide)]
  split
  · next hnone => rw [hitem] at hnone; cases hnone
  · next x hx =>
    obtain rfl : it = x := Option.some.inj (hitem.symm.trans hx)
    rw [if_neg hfree, hpop]
    refine (if_neg hkept).trans ?_
    split
    · next hbad => rw [hgood] at hbad; cases hbad
    · exact if_pos hok

/-- A word the memory processor writes into the header of a sealed page spoils the page. -/
theorem State.serviceWrite_spoils {s t : State} {ctx pa w v : Nat} {e : Nat × Nat} (hpoke : s.poke pa w v = some t)
    (hsealed : (((t.kvWrote s pa (pa + w)).tearFrames pa (pa + w)).sealedKv.filter
      fun e => decide (128 * e.1 < pa + w) && decide (pa < 128 * e.1 + 128)) = [e]) :
    s.serviceWrite ctx pa w v = ((t.kvWrote s pa (pa + w)).tearFrames pa (pa + w)).spoilKv e := by
  rw [State.serviceWrite, hpoke]
  simp only [State.loosen, State.spoilKept, hsealed, List.foldl_cons, List.foldl_nil]

-- The counterexample ----------------------------------------------------------------------------------------------------------

/-- A request line: sweep context 1's first page, and write 7 at 0x200200. -/
def sweepOfFirst : LineBits := [(0, 16, 1), (32, 32, 1), (128, 48, 0x200200), (192, 32, 7)].foldl (fun l f => setFld l f.1 f.2.1 f.2.2) 0

/-- Half-die 0 is partition 0, to which context 1 is bound. Its service queue holds up to the second item, from the head on; each item is that
request. The line of its completion word is the header of a sealed page, whose frame is the one the queue lies in. -/
def sealedQueue (head : Nat) : State :=
  let s := { State.reset with
    halves := [(0, { (default : HalfDie) with member := true })]
    ctxs := [(1, { (default : Context) with st := .bound })]
    sealedKv := [(0x200200 / 128, serviceQueue 0 / 2 ^ 16)] }
  ((s.putLine (serviceQueue 0 / 128) { data := BitVec.ofNat 1024 (head + 2 * 2 ^ 32 + 176 * 2 ^ 96), tag := 0, scales := 0 }).putLine
    (serviceQueue 0 / 128 + 1) { data := 0x200001 + 0x200001 * 2 ^ 64, tag := 0, scales := 0 }).putLine
    (0x200000 / 128) { data := sweepOfFirst, tag := 0, scales := 0 }

/-- The statement's hypotheses hold of it. -/
theorem sealedQueue_serves {head : Nat} (h : head = 0 ∨ head = 1) : let s := sealedQueue head
    (s.half 0).member = true ∧ (s.half 0).part < 8 ∧ (s.part (s.half 0).part).resetting = false
    ∧ s.headItem (serviceQueue 0) = some 0x200001 ∧ s.unkept (serviceQueue 0) 128 ∧ s.itemOk (s.half 0).part 0x200001 = true
    ∧ s.lineBad (itemAddr 0x200001 / 128) = none ∧ s.sweepOk (s.half 0).part (s.line (itemAddr 0x200001 / 128)).data = true
    ∧ bf (s.line (itemAddr 0x200001 / 128)).data 128 48 / 128 ≠ serviceQueue 0 / 128 := by
  simp only [State.unkept, State.untabled]
  rcases h with rfl | rfl <;> decide +kernel

/-- It as the sweep has removed translations and is to write its completion word. -/
def queueSwept (head : Nat) : State := (((sealedQueue head).popItem (serviceQueue 0)).2).sweepRange 1 0 0x10000

/-- And as the word is written, before the page it spoils is. -/
def queueTorn (head : Nat) : State :=
  ((((queueSwept head).poke 0x200200 4 7).getD (queueSwept head)).kvWrote (queueSwept head) 0x200200 (0x200200 + 4)).tearFrames
    0x200200 (0x200200 + 4)

theorem sealedQueue_popped {head : Nat} (h : head = 0 ∨ head = 1) : let s := sealedQueue head
    let u := (s.popItem (serviceQueue 0)).2
    s.processorUp 0 = true ∧ s.mem.read (serviceQueue 0) 4 = head ∧ itemKind 0x200001 = 1 ∧ u.itemOk (u.half 0).part 0x200001 = true
    ∧ u.lineBad (itemAddr 0x200001 / 128) = none ∧ (u.line (itemAddr 0x200001 / 128)).data = sweepOfFirst
    ∧ u.sweepOk (u.half 0).part sweepOfFirst = true := by
  rcases h with rfl | rfl <;> decide +kernel

/-- No free value has been used, and the page over the queue is the one to spoil. -/
theorem queueTorn_seals {head : Nat} (h : head = 0 ∨ head = 1) :
    (queueSwept head).lineBad (0x200200 / 128) = none ∧ (queueTorn head).fresh = 0
    ∧ ((queueTorn head).sealedKv.filter fun e => decide (128 * e.1 < 0x200200 + 4) && decide (0x200200 < 128 * e.1 + 128))
      = [(0x200200 / 128, serviceQueue 0 / 2 ^ 16)] := by
  rcases h with rfl | rfl <;> decide +kernel

theorem sweepOfFirst_fields : bf sweepOfFirst 0 16 = 1 ∧ bf sweepOfFirst 64 64 = 0 ∧ bf sweepOfFirst 32 32 = 1 ∧ bf sweepOfFirst 128 48 = 0x200200
    ∧ bf sweepOfFirst 192 32 = 7 := by decide +kernel

theorem State.sweepLine_sweepOfFirst (u : State) : u.sweepLine sweepOfFirst = (u.sweepRange 1 0 0x10000).serviceWrite 1 0x200200 4 7 := by
  obtain ⟨hctx, hlo, hn, hpa, hword⟩ := sweepOfFirst_fields
  rw [State.sweepLine, hctx, hlo, hn, hpa, hword]
  rfl

theorem queueSwept_serviceWrite {head : Nat} (h : head = 0 ∨ head = 1) :
    (queueSwept head).serviceWrite 1 0x200200 4 7 = (queueTorn head).spoilKv (0x200200 / 128, serviceQueue 0 / 2 ^ 16) := by
  obtain ⟨hwhole, -, hsealed⟩ := queueTorn_seals h
  have hpoke := State.poke_eq (pa := 0x200200) hwhole 4 7
  rw [queueTorn, hpoke, Option.getD_some] at hsealed ⊢
  exact State.serviceWrite_spoils hpoke hsealed

/-- The sweep leaves a head that does not depend on what it was. -/
theorem exec_sweep_sealedQueue {head : Nat} (h : head = 0 ∨ head = 1) :
    ∃ t, exec (.sweep 0) (sealedQueue head) = .next t ∧ t.mem.read (serviceQueue 0) 4 = spoiltWord (Config.freeValue 0) 32 := by
  obtain ⟨-, -, -, hitem, -⟩ := sealedQueue_serves h
  obtain ⟨hup, -, hkind, hfine, hgood, hline, hok⟩ := sealedQueue_popped h
  obtain ⟨-, hfresh, -⟩ := queueTorn_seals h
  have hexec := exec_sweep (by decide) hup hitem rfl hkind hfine hgood (by rw [hline]; exact hok)
  rw [hline, State.sweepLine_sweepOfFirst] at hexec
  refine ⟨_, hexec.trans (congrArg Host.Outcome.next (queueSwept_serviceWrite h)), ?_⟩
  have hread := (queueTorn head).spoilKv_read (0x200200 / 128, serviceQueue 0 / 2 ^ 16) (i := 32) (by decide) (by decide)
  rwa [hfresh] at hread

/-- Refutes O50: in `sealedQueue head`, the completion word of a sweep lies in the header of a sealed page, which it spoils, and the page lies over the
queue. The head afterwards is the same for 0 and for 1, so it is not one more than it was in both. It turns on a sealed page in the frame of
the queue; the statement excludes a header in the queue's line, not a page over it. -/
theorem not_pageItems : ¬ Obligations.PageItems := by
  unfold Obligations.PageItems
  intro h
  have hnext : ∀ head, head = 0 ∨ head = 1 → (head + 1) % 2 ^ 32 = spoiltWord (Config.freeValue 0) 32 := by
    intro head hhead
    obtain ⟨hmember, hpart, hreset, hitem, hunkept, hfine, hgood, hok, hapart⟩ := sealedQueue_serves hhead
    obtain ⟨-, hhead0, hkind, -⟩ := sealedQueue_popped hhead
    obtain ⟨hservice, -⟩ := h (sealedQueue head) 0 (by decide) hmember hpart hreset
    obtain ⟨hsweep, -⟩ := hservice 0x200001 hitem hunkept
    obtain ⟨t, hexec, hpopped, -⟩ := hsweep hkind hfine (by decide) hgood hok hapart
    obtain ⟨u, hexec', hspoilt⟩ := exec_sweep_sealedQueue hhead
    obtain rfl : t = u := Host.Outcome.next.inj (hexec.symm.trans hexec')
    rw [hspoilt, hhead0] at hpopped
    exact hpopped.symm
  exact absurd ((hnext 0 (.inl rfl)).trans (hnext 1 (.inr rfl)).symm) (by decide)

end Sys2Proof.Machine
end
